-- ==== Sys2Proof/Word.lean ====
section
/-! DEFINITION. The word types of the machine: what the spec treats as bits of a fixed width (spec 00, R2, R3). -/

namespace Sys2Proof

/-- 8 bits: the unit of memory (R3). -/
abbrev Byte := BitVec 8
/-- 16 bits. -/
abbrev Half := BitVec 16
/-- 32 bits: an instruction word, a group register of one lane (R70, R75). -/
abbrev Word := BitVec 32
/-- 64 bits: a steward register, an address (R75, R150). -/
abbrev Quad := BitVec 64

end Sys2Proof
end

