-- ==== Sys2Proof/Config.lean ====
section
/-! DEFINITION. What the spec leaves to the implementation or leaves open. Each constant is opaque: it has no body, so a
statement holds whatever its value is. -/

namespace Sys2Proof.Config

/-- The result the hardware picks for `FRSQ.F32` of a positive finite operand (R136: within 1 ulp of the exact value). -/
opaque frsq : Word → Word
/-- The result the hardware picks for `FEX2.F32` (R136: within 2 ulp). -/
opaque fex2 : Word → Word
/-- The result the hardware picks for `FLG2.F32` (R136: within 2 ulp, or 2^-22). -/
opaque flg2 : Word → Word
/-- SHA-384 of a string of bytes, as a number of 384 bits (R27, R326); the spec names the function and gives no values. -/
opaque sha384 : List Byte → BitVec 384
/-- Whether the RSA-3072 signature over a firmware image verifies (R25). -/
opaque rsaVerify : List Byte → Bool
/-- Whether the SLH-DSA-SHA2-192s signature over a firmware image verifies (R25). -/
opaque slhVerify : List Byte → Bool
/-- Byte i of the RSA-3072 signature of the package over a report (R27, R334). -/
opaque rsaSign : List Byte → Nat → Byte
/-- Byte i of the SLH-DSA-SHA2-192s signature of the package over a report (R27, R334). -/
opaque slhSign : List Byte → Nat → Byte
/-- The ROM of the control complex, measured during boot (R27). -/
opaque rom : List Byte
/-- The syndrome the hardware records for an uncorrectable or corrected error in a 32-byte granule (R352). -/
opaque syndrome : Nat → Word
/-- The bytes that a bank command counts whose MODE is refused, from its ROWS and ELEMS (R345 gives the count by mode). -/
opaque bankCount : Nat → Nat → Nat
/-- A number the hardware picks where the spec leaves it the choice among free ones (a `TASKID`, a handle, an address), by a counter. -/
opaque pick : Nat → Nat
/-- The partition at a peer package that a peer-mapped page of a partition belongs to, modulo 32: by own partition, package and frame. -/
opaque peerPart : Nat → Nat → Nat → Nat
/-- The key rights, laid out as `PKR`, under which the receiver checks a peer's access (R20): by its partition, sending package and
sending partition. -/
opaque peerRights : Nat → Nat → Nat → Quad
/-- What the sensor for the power of a domain reads (R13, R22), by domain and a counter. -/
opaque domainPower : Nat → Nat → Word

/-- The bytes behind the values of a compressed slot, up to the next multiple of 64, as a transfer leaves them (R274 gives no value): by command
and address. -/
opaque slotPad : Nat → Nat → Byte

end Sys2Proof.Config
end

