-- ==== Sys2Proof/Syntax.lean ====
section
/-! DEFINITION. The steps of the machine as syntax: one constructor per row of spec/opcode_table.json. The first
256 constructors are the instruction words, with the fields of their encodings (spec 05, R70 to R91) that the
table leaves free; the last 156 are the device's other steps (spec 95).

Lean's compiled code holds at most 244 constructors with arguments, so two kinds of constructors have none although
their rows have operands. The five words whose only operand is a bare number (`IMX`, `BKPT`, `TRAP`, `PKEY`, `FENCE`) keep it in
`Hdr.imm`, next to the switch, distance, wait and chain bits. The device steps find theirs in an `EvArg`: an agenda entry
of the state is a device step with its `EvArg`, and the state shows the one being taken. -/

namespace Sys2Proof

/-- What a word says beside its term: C chained, Y switch marker, D distance code, W wait-table entry (R70), and `imm`, the
number that an `IMX` (R78), `BKPT`, `TRAP` (R211), `PKEY` (R216) or `FENCE` (R167) carries; 0 for every other word. -/
structure Hdr where
  c : Bool
  y : Bool
  d : BitVec 2
  w : BitVec 3
  imm : BitVec 19
  deriving DecidableEq, Repr

/-- A stream of a crew (R100): `crew` is the model's number of the crew, `sid` 0 is its steward and
`sid` g + 1 its group g. -/
structure Ref where
  crew : Nat
  sid : Nat
  deriving DecidableEq, Repr

/-- Where a write waits (R154): in the write buffer of a stream, or in the release set of a sync object. -/
inductive WriteSrc where
  /-- The write buffer of a stream. -/
  | wb (r : Ref)
  /-- The release set RS(O) of sync object `sync` of partition `part`. -/
  | rs (part sync : Nat)
  deriving DecidableEq, Repr

/-- A datagram of the Horoux transport: its header fields (R19) and its payload. -/
structure Datagram where
  ver : Byte
  typ : Byte
  flags : Byte
  cls : Byte
  srcPkg : Half
  dstPkg : Half
  srcPart : Byte
  dstPart : Byte
  seq : Word
  ack : Word
  msgId : Word
  offset : Word
  crc : Word
  payload : List Byte
  deriving DecidableEq, Repr

/-- The datagram with every field 0. -/
def Datagram.zero : Datagram := ⟨0, 0, 0, 0, 0, 0, 0, 0, 0, 0, 0, 0, 0, []⟩

/-- The operands of a device step. Which fields a step uses, and for what, its constructor of `Instr` says. -/
structure EvArg where
  r : Ref := ⟨0, 0⟩
  src : WriteSrc := .wb ⟨0, 0⟩
  a : Nat := 0
  b : Nat := 0
  c : Nat := 0
  d : Nat := 0
  q : Quad := 0
  q2 : Quad := 0
  bytes : List Byte := []
  dg : Datagram := Datagram.zero
  deriving DecidableEq, Repr

/-- One step of the machine, one constructor per row of the opcode table. -/
inductive Instr where
  /-- `BRA` (R186): Branches the head's lanes by cond to the target with the target block's priority. -/
  | bra (p : BitVec 4) (c : BitVec 3) (o : BitVec 12)
  /-- `CALL` (R187): Branches like BRA and writes a return pointer to the link register. -/
  | call (p : BitVec 4) (c : BitVec 3) (o : BitVec 12)
  /-- `BRX` (R188): Branches each lane through the code pointer in its register, at priority N. -/
  | brx (p : BitVec 4) (c : BitVec 3) (a : BitVec 6)
  /-- `RET` (R187): Returns each lane to the pointer in its link register, with the saved priority. -/
  | ret (c : BitVec 3)
  /-- `EXIT` (R189): Removes lanes from the frontier and the expected mask after draining their writes, or ends the steward. -/
  | exit (c : BitVec 3)
  /-- `IADD` (R190): Three-address integer add at the natural width. -/
  | iadd (d : BitVec 6) (a : BitVec 6) (b : BitVec 6) (g : BitVec 1)
  /-- `ISUB` (R190): Three-address integer subtract at the natural width. -/
  | isub (d : BitVec 6) (a : BitVec 6) (b : BitVec 6) (g : BitVec 1)
  /-- `IMUL` (R190): Low half of the integer product at the natural width. -/
  | imul (d : BitVec 6) (a : BitVec 6) (b : BitVec 6) (g : BitVec 1)
  /-- `IMAD` (R190): Integer multiply-add into d at the natural width. -/
  | imad (d : BitVec 6) (a : BitVec 6) (b : BitVec 6) (g : BitVec 1)
  /-- `AND` (R190): Three-address bitwise and. -/
  | and (d : BitVec 6) (a : BitVec 6) (b : BitVec 6) (g : BitVec 1)
  /-- `OR` (R190): Three-address bitwise or. -/
  | or (d : BitVec 6) (a : BitVec 6) (b : BitVec 6) (g : BitVec 1)
  /-- `XOR` (R190): Three-address bitwise exclusive or. -/
  | xor (d : BitVec 6) (a : BitVec 6) (b : BitVec 6) (g : BitVec 1)
  /-- `CSEL` (R194): Selects a or b in each head lane by that lane's p0. -/
  | csel (d : BitVec 6) (a : BitVec 6) (b : BitVec 6)
  /-- `MOV` (R190): Copies register a to d at the natural width. -/
  | mov (d : BitVec 6) (a : BitVec 6) (g : BitVec 1)
  /-- `NOT` (R190): Bitwise complement at the natural width. -/
  | not (d : BitVec 6) (a : BitVec 6) (g : BitVec 1)
  /-- `IABS` (R190): Signed absolute value at the natural width. -/
  | iabs (d : BitVec 6) (a : BitVec 6) (g : BitVec 1)
  /-- `POPC` (R190): Population count at the natural width. -/
  | popc (d : BitVec 6) (a : BitVec 6) (g : BitVec 1)
  /-- `CLZ` (R190): Count of leading zeros at the natural width. -/
  | clz (d : BitVec 6) (a : BitVec 6) (g : BitVec 1)
  /-- `BREV` (R190): Bit reversal at the natural width. -/
  | brev (d : BitVec 6) (a : BitVec 6) (g : BitVec 1)
  /-- `SHL` (R191): Two-address left shift by a register count. -/
  | shl (d : BitVec 6) (a : BitVec 6) (g : BitVec 1)
  /-- `SHR` (R191): Two-address logical right shift by a register count. -/
  | shr (d : BitVec 6) (a : BitVec 6) (g : BitVec 1)
  /-- `SAR` (R191): Two-address arithmetic right shift by a register count. -/
  | sar (d : BitVec 6) (a : BitVec 6) (g : BitVec 1)
  /-- `IMIN` (R190): Two-address signed minimum. -/
  | iminI (d : BitVec 6) (a : BitVec 6) (g : BitVec 1)
  /-- `IMIN` (R190): Two-address unsigned minimum. -/
  | iminN (d : BitVec 6) (a : BitVec 6) (g : BitVec 1)
  /-- `IMAX` (R190): Two-address signed maximum. -/
  | imaxI (d : BitVec 6) (a : BitVec 6) (g : BitVec 1)
  /-- `IMAX` (R190): Two-address unsigned maximum. -/
  | imaxN (d : BitVec 6) (a : BitVec 6) (g : BitVec 1)
  /-- `IMULH` (R190): High half of the signed product, two-address. -/
  | imulhI (d : BitVec 6) (a : BitVec 6) (g : BitVec 1)
  /-- `IMULH` (R190): High half of the unsigned product, two-address. -/
  | imulhN (d : BitVec 6) (a : BitVec 6) (g : BitVec 1)
  /-- `MOV` (R190): MOV at the other width. -/
  | movOw (d : BitVec 6) (a : BitVec 6) (g : BitVec 1)
  /-- `NOT` (R190): NOT at the other width. -/
  | notOw (d : BitVec 6) (a : BitVec 6) (g : BitVec 1)
  /-- `IABS` (R190): IABS at the other width. -/
  | iabsOw (d : BitVec 6) (a : BitVec 6) (g : BitVec 1)
  /-- `POPC` (R190): POPC at the other width. -/
  | popcOw (d : BitVec 6) (a : BitVec 6) (g : BitVec 1)
  /-- `CLZ` (R190): CLZ at the other width. -/
  | clzOw (d : BitVec 6) (a : BitVec 6) (g : BitVec 1)
  /-- `BREV` (R190): BREV at the other width. -/
  | brevOw (d : BitVec 6) (a : BitVec 6) (g : BitVec 1)
  /-- `SHL` (R191): SHL at the other width, with the count in a single register. -/
  | shlOw (d : BitVec 6) (a : BitVec 6) (g : BitVec 1)
  /-- `SHR` (R191): SHR at the other width. -/
  | shrOw (d : BitVec 6) (a : BitVec 6) (g : BitVec 1)
  /-- `SAR` (R191): SAR at the other width. -/
  | sarOw (d : BitVec 6) (a : BitVec 6) (g : BitVec 1)
  /-- `IMIN` (R190): Signed IMIN at the other width. -/
  | iminIOw (d : BitVec 6) (a : BitVec 6) (g : BitVec 1)
  /-- `IMIN` (R190): Unsigned IMIN at the other width. -/
  | iminNOw (d : BitVec 6) (a : BitVec 6) (g : BitVec 1)
  /-- `IMAX` (R190): Signed IMAX at the other width. -/
  | imaxIOw (d : BitVec 6) (a : BitVec 6) (g : BitVec 1)
  /-- `IMAX` (R190): Unsigned IMAX at the other width. -/
  | imaxNOw (d : BitVec 6) (a : BitVec 6) (g : BitVec 1)
  /-- `IMULH` (R190): Signed IMULH at the other width. -/
  | imulhIOw (d : BitVec 6) (a : BitVec 6) (g : BitVec 1)
  /-- `IMULH` (R190): Unsigned IMULH at the other width. -/
  | imulhNOw (d : BitVec 6) (a : BitVec 6) (g : BitVec 1)
  /-- `IADD` (R190): Two-address IADD at the other width. -/
  | iaddOw (d : BitVec 6) (a : BitVec 6) (g : BitVec 1)
  /-- `ISUB` (R190): Two-address ISUB at the other width. -/
  | isubOw (d : BitVec 6) (a : BitVec 6) (g : BitVec 1)
  /-- `IMUL` (R190): Two-address IMUL at the other width. -/
  | imulOw (d : BitVec 6) (a : BitVec 6) (g : BitVec 1)
  /-- `AND` (R190): Two-address AND at the other width. -/
  | andOw (d : BitVec 6) (a : BitVec 6) (g : BitVec 1)
  /-- `OR` (R190): Two-address OR at the other width. -/
  | orOw (d : BitVec 6) (a : BitVec 6) (g : BitVec 1)
  /-- `XOR` (R190): Two-address XOR at the other width. -/
  | xorOw (d : BitVec 6) (a : BitVec 6) (g : BitVec 1)
  /-- `MOVI` (R192): Writes the combined immediate to d at the natural width. -/
  | movi (d : BitVec 6) (i : BitVec 6) (g : BitVec 1)
  /-- `IADD` (R190): Adds an immediate to d. -/
  | iaddImm (d : BitVec 6) (i : BitVec 6) (g : BitVec 1)
  /-- `IMUL` (R190): Multiplies d by an immediate, keeping the low half. -/
  | imulImm (d : BitVec 6) (i : BitVec 6) (g : BitVec 1)
  /-- `AND` (R190): ANDs an immediate into d. -/
  | andImm (d : BitVec 6) (i : BitVec 6) (g : BitVec 1)
  /-- `OR` (R190): ORs an immediate into d. -/
  | orImm (d : BitVec 6) (i : BitVec 6) (g : BitVec 1)
  /-- `XOR` (R190): XORs an immediate into d. -/
  | xorImm (d : BitVec 6) (i : BitVec 6) (g : BitVec 1)
  /-- `SHL` (R191): Shifts d left by an immediate count. -/
  | shlImm (d : BitVec 6) (i : BitVec 6) (g : BitVec 1)
  /-- `SHR` (R191): Shifts d right logically by an immediate count. -/
  | shrImm (d : BitVec 6) (i : BitVec 6) (g : BitVec 1)
  /-- `SAR` (R191): Shifts d right arithmetically by an immediate count. -/
  | sarImm (d : BitVec 6) (i : BitVec 6) (g : BitVec 1)
  /-- `IMIN` (R190): Signed minimum of d and an immediate. -/
  | iminIImm (d : BitVec 6) (i : BitVec 6) (g : BitVec 1)
  /-- `IMAX` (R190): Signed maximum of d and an immediate. -/
  | imaxIImm (d : BitVec 6) (i : BitVec 6) (g : BitVec 1)
  /-- `IMIN` (R190): Unsigned minimum of d and an immediate. -/
  | iminNImm (d : BitVec 6) (i : BitVec 6) (g : BitVec 1)
  /-- `IMAX` (R190): Unsigned maximum of d and an immediate. -/
  | imaxNImm (d : BitVec 6) (i : BitVec 6) (g : BitVec 1)
  /-- `MOVI` (R192): MOVI at the other width. -/
  | moviOw (d : BitVec 6) (i : BitVec 6) (g : BitVec 1)
  /-- `IADD` (R190): Immediate IADD at the other width. -/
  | iaddImmOw (d : BitVec 6) (i : BitVec 6) (g : BitVec 1)
  /-- `IMUL` (R190): Immediate IMUL at the other width. -/
  | imulImmOw (d : BitVec 6) (i : BitVec 6) (g : BitVec 1)
  /-- `AND` (R190): Immediate AND at the other width. -/
  | andImmOw (d : BitVec 6) (i : BitVec 6) (g : BitVec 1)
  /-- `OR` (R190): Immediate OR at the other width. -/
  | orImmOw (d : BitVec 6) (i : BitVec 6) (g : BitVec 1)
  /-- `XOR` (R190): Immediate XOR at the other width. -/
  | xorImmOw (d : BitVec 6) (i : BitVec 6) (g : BitVec 1)
  /-- `SHL` (R191): Immediate SHL at the other width. -/
  | shlImmOw (d : BitVec 6) (i : BitVec 6) (g : BitVec 1)
  /-- `SHR` (R191): Immediate SHR at the other width. -/
  | shrImmOw (d : BitVec 6) (i : BitVec 6) (g : BitVec 1)
  /-- `SAR` (R191): Immediate SAR at the other width. -/
  | sarImmOw (d : BitVec 6) (i : BitVec 6) (g : BitVec 1)
  /-- `IMIN` (R190): Immediate signed IMIN at the other width. -/
  | iminIImmOw (d : BitVec 6) (i : BitVec 6) (g : BitVec 1)
  /-- `IMAX` (R190): Immediate signed IMAX at the other width. -/
  | imaxIImmOw (d : BitVec 6) (i : BitVec 6) (g : BitVec 1)
  /-- `IMIN` (R190): Immediate unsigned IMIN at the other width. -/
  | iminNImmOw (d : BitVec 6) (i : BitVec 6) (g : BitVec 1)
  /-- `IMAX` (R190): Immediate unsigned IMAX at the other width. -/
  | imaxNImmOw (d : BitVec 6) (i : BitVec 6) (g : BitVec 1)
  /-- `BFE` (R193): Extracts a bit field described by control word b. -/
  | bfe (d : BitVec 6) (a : BitVec 6) (b : BitVec 6) (g : BitVec 1)
  /-- `BFI` (R193): Inserts a bit field into d as control word b describes. -/
  | bfi (d : BitVec 6) (a : BitVec 6) (b : BitVec 6) (g : BitVec 1)
  /-- `FADD.F32` (R196): F32 add, RNE. -/
  | faddF32 (d : BitVec 6) (a : BitVec 6) (b : BitVec 6) (g : BitVec 1)
  /-- `FMUL.F32` (R196): F32 multiply, RNE. -/
  | fmulF32 (d : BitVec 6) (a : BitVec 6) (b : BitVec 6) (g : BitVec 1)
  /-- `FMA.F32` (R196): F32 fused multiply-add into d with one rounding. -/
  | fmaF32 (d : BitVec 6) (a : BitVec 6) (b : BitVec 6) (g : BitVec 1)
  /-- `FADD.F32` (R196): F32 add of an immediate, RNE. -/
  | faddF32Imm (d : BitVec 6) (a : BitVec 6) (i : BitVec 6) (g : BitVec 1)
  /-- `FMUL.F32` (R196): F32 multiply by an immediate, RNE. -/
  | fmulF32Imm (d : BitVec 6) (a : BitVec 6) (i : BitVec 6) (g : BitVec 1)
  /-- `FMA.F16` (R197): Packed F16 fused multiply-add, per half. -/
  | fmaF16 (d : BitVec 6) (a : BitVec 6) (b : BitVec 6) (g : BitVec 1)
  /-- `FMA.BF16` (R197): Packed BF16 fused multiply-add, per half. -/
  | fmaBf16 (d : BitVec 6) (a : BitVec 6) (b : BitVec 6) (g : BitVec 1)
  /-- `FADD.F16` (R197): Packed F16 add, per half. -/
  | faddF16 (d : BitVec 6) (a : BitVec 6) (b : BitVec 6) (g : BitVec 1)
  /-- `FCMP` (R199): F32 compare into a predicate under cc. -/
  | fcmp (p : BitVec 3) (c : BitVec 3) (a : BitVec 6) (b : BitVec 6) (g : BitVec 1)
  /-- `FMIN.F32` (R198): Two-address F32 minimumNumber. -/
  | fminF32 (d : BitVec 6) (a : BitVec 6) (g : BitVec 1)
  /-- `FMAX.F32` (R198): Two-address F32 maximumNumber. -/
  | fmaxF32 (d : BitVec 6) (a : BitVec 6) (g : BitVec 1)
  /-- `FRCP.F32` (R198): F32 reciprocal, correctly rounded. -/
  | frcp (d : BitVec 6) (a : BitVec 6) (g : BitVec 1)
  /-- `FRSQ.F32` (R198): F32 reciprocal square root. -/
  | frsq (d : BitVec 6) (a : BitVec 6) (g : BitVec 1)
  /-- `FSQRT.F32` (R198): F32 square root, correctly rounded. -/
  | fsqrt (d : BitVec 6) (a : BitVec 6) (g : BitVec 1)
  /-- `FEX2.F32` (R198): F32 power of two. -/
  | fex2 (d : BitVec 6) (a : BitVec 6) (g : BitVec 1)
  /-- `FLG2.F32` (R198): F32 base-2 logarithm. -/
  | flg2 (d : BitVec 6) (a : BitVec 6) (g : BitVec 1)
  /-- `FADD.BF16` (R198): Packed two-address BF16 add. -/
  | faddBf16 (d : BitVec 6) (a : BitVec 6) (g : BitVec 1)
  /-- `FMUL.BF16` (R198): Packed two-address BF16 multiply. -/
  | fmulBf16 (d : BitVec 6) (a : BitVec 6) (g : BitVec 1)
  /-- `FMUL.F16` (R198): Packed two-address F16 multiply. -/
  | fmulF16 (d : BitVec 6) (a : BitVec 6) (g : BitVec 1)
  /-- `FMIN.F16` (R198): Packed F16 minimum. -/
  | fminF16 (d : BitVec 6) (a : BitVec 6) (g : BitVec 1)
  /-- `FMAX.F16` (R198): Packed F16 maximum. -/
  | fmaxF16 (d : BitVec 6) (a : BitVec 6) (g : BitVec 1)
  /-- `FMIN.BF16` (R198): Packed BF16 minimum. -/
  | fminBf16 (d : BitVec 6) (a : BitVec 6) (g : BitVec 1)
  /-- `FMAX.BF16` (R198): Packed BF16 maximum. -/
  | fmaxBf16 (d : BitVec 6) (a : BitVec 6) (g : BitVec 1)
  /-- `FADD.F32.RZ` (R198): Two-address F32 add rounded toward zero. -/
  | faddF32Rz (d : BitVec 6) (a : BitVec 6) (g : BitVec 1)
  /-- `FADD.F32.RU` (R198): Two-address F32 add rounded up. -/
  | faddF32Ru (d : BitVec 6) (a : BitVec 6) (g : BitVec 1)
  /-- `FADD.F32.RD` (R198): Two-address F32 add rounded down. -/
  | faddF32Rd (d : BitVec 6) (a : BitVec 6) (g : BitVec 1)
  /-- `FMUL.F32.RZ` (R198): Two-address F32 multiply rounded toward zero. -/
  | fmulF32Rz (d : BitVec 6) (a : BitVec 6) (g : BitVec 1)
  /-- `FMUL.F32.RU` (R198): Two-address F32 multiply rounded up. -/
  | fmulF32Ru (d : BitVec 6) (a : BitVec 6) (g : BitVec 1)
  /-- `FMUL.F32.RD` (R198): Two-address F32 multiply rounded down. -/
  | fmulF32Rd (d : BitVec 6) (a : BitVec 6) (g : BitVec 1)
  /-- `CVT` (R200): Converts an F32 source to the coded destination format with the encoded rounding mode. -/
  | cvtFromF32 (d : BitVec 6) (a : BitVec 6) (m : BitVec 2) (c : BitVec 4) (g : BitVec 1)
  /-- `CVT` (R200): Converts a source in the coded format to F32. -/
  | cvtToF32 (d : BitVec 6) (a : BitVec 6) (m : BitVec 2) (c : BitVec 4) (g : BitVec 1)
  /-- `ICMP` (R195): Signed integer compare into a predicate under cc. -/
  | icmp (p : BitVec 3) (c : BitVec 3) (a : BitVec 6) (b : BitVec 6) (g : BitVec 1)
  /-- `ICMP` (R195): Unsigned integer compare into a predicate under cc. -/
  | icmpN (p : BitVec 3) (c : BitVec 3) (a : BitVec 6) (b : BitVec 6) (g : BitVec 1)
  /-- `PAND` (R201): Predicate and, with optional negation of each source. -/
  | pand (p : BitVec 3) (a : BitVec 3) (n : BitVec 1) (b : BitVec 3) (m : BitVec 1) (g : BitVec 1)
  /-- `POR` (R201): Predicate or. -/
  | por (p : BitVec 3) (a : BitVec 3) (n : BitVec 1) (b : BitVec 3) (m : BitVec 1) (g : BitVec 1)
  /-- `PXOR` (R201): Predicate exclusive or. -/
  | pxor (p : BitVec 3) (a : BitVec 3) (n : BitVec 1) (b : BitVec 3) (m : BitVec 1) (g : BitVec 1)
  /-- `PNOT` (R201): Predicate not. -/
  | pnot (p : BitVec 3) (a : BitVec 3) (n : BitVec 1) (g : BitVec 1)
  /-- `PMOV` (R201): Predicate move. -/
  | pmov (p : BitVec 3) (a : BitVec 3) (n : BitVec 1) (g : BitVec 1)
  /-- `VOTE.ALL` (R202): Sets pd in every participant when the predicate holds in all participants. -/
  | voteAll (p : BitVec 3) (a : BitVec 3) (n : BitVec 1) (g : BitVec 1)
  /-- `VOTE.ANY` (R202): Sets pd when the predicate holds in any participant. -/
  | voteAny (p : BitVec 3) (a : BitVec 3) (n : BitVec 1) (g : BitVec 1)
  /-- `VOTE.EQ` (R202): Sets pd when the predicate is equal in all participants. -/
  | voteEq (p : BitVec 3) (a : BitVec 3) (n : BitVec 1) (g : BitVec 1)
  /-- `BALLOT` (R202): Writes the participants' predicate mask to d. -/
  | ballot (d : BitVec 6) (a : BitVec 3) (n : BitVec 1) (g : BitVec 1)
  /-- `MATCH` (R202): Writes to each participant the mask of participants with an equal value. -/
  | matchLanes (d : BitVec 6) (a : BitVec 6) (g : BitVec 1)
  /-- `SHFL` (R203): Exchanges values between head lanes by IDX, UP, DOWN or XOR. -/
  | shfl (d : BitVec 6) (a : BitVec 6) (m : BitVec 2) (n : BitVec 5)
  /-- `CLOCK` (R207): Reads the CLOCK count into d. -/
  | clock (d : BitVec 6)
  /-- `SRD` (R209): Reads a system register into d. -/
  | srd (d : BitVec 6) (x : BitVec 8)
  /-- `SWR` (R209): Writes d to a system register. -/
  | swr (d : BitVec 6) (x : BitVec 8)
  /-- `GRESUME` (R215): Resumes the parked lanes of the selected group at their PCs. -/
  | gresume (a : BitVec 6)
  /-- `GKILL` (R215): Makes the parked lanes of the selected group exit. -/
  | gkill (a : BitVec 6)
  /-- `GRD` (R214): Reads a group object that the selector names into k(d). -/
  | grd (d : BitVec 6) (a : BitVec 6)
  /-- `GWR` (R214): Writes k(a) into the group object that k(d) selects. -/
  | gwr (d : BitVec 6) (a : BitVec 6)
  /-- `LD.G` (R225): 8-bit generic load, zero-extended. -/
  | ldG8 (d : BitVec 6) (a : BitVec 6) (f : BitVec 4) (g : BitVec 1)
  /-- `LD.G` (R225): 16-bit generic load, zero-extended. -/
  | ldG16 (d : BitVec 6) (a : BitVec 6) (f : BitVec 4) (g : BitVec 1)
  /-- `LD.G` (R225): 32-bit generic load. -/
  | ldG32 (d : BitVec 6) (a : BitVec 6) (f : BitVec 4) (g : BitVec 1)
  /-- `LD.G` (R225): 64-bit generic load. -/
  | ldG64 (d : BitVec 6) (a : BitVec 6) (f : BitVec 4) (g : BitVec 1)
  /-- `LD.G` (R225): 4-bit generic load, zero-extended. -/
  | ldG4 (d : BitVec 6) (a : BitVec 6) (f : BitVec 4) (g : BitVec 1)
  /-- `LD.G` (R225): 128-bit generic load. -/
  | ldG128 (d : BitVec 6) (a : BitVec 6) (f : BitVec 4) (g : BitVec 1)
  /-- `LD.S` (R225): 4-bit scratchpad load, zero-extended. -/
  | ldS4 (d : BitVec 6) (a : BitVec 6) (f : BitVec 4) (g : BitVec 1)
  /-- `LD.S` (R225): 128-bit scratchpad load. -/
  | ldS128 (d : BitVec 6) (a : BitVec 6) (f : BitVec 4) (g : BitVec 1)
  /-- `LD.S` (R225): 8-bit scratchpad load, zero-extended. -/
  | ldS8 (d : BitVec 6) (a : BitVec 6) (f : BitVec 4) (g : BitVec 1)
  /-- `LD.S` (R225): 16-bit scratchpad load, zero-extended. -/
  | ldS16 (d : BitVec 6) (a : BitVec 6) (f : BitVec 4) (g : BitVec 1)
  /-- `LD.S` (R225): 32-bit scratchpad load. -/
  | ldS32 (d : BitVec 6) (a : BitVec 6) (f : BitVec 4) (g : BitVec 1)
  /-- `LD.S` (R225): 64-bit scratchpad load. -/
  | ldS64 (d : BitVec 6) (a : BitVec 6) (f : BitVec 4) (g : BitVec 1)
  /-- `LDPF` (R227): Fills a 512-byte scratchpad slot from a global line. -/
  | ldpf (d : BitVec 6) (a : BitVec 6) (f : BitVec 4) (g : BitVec 1)
  /-- `LD.G` (R224): 4-bit generic load, sign-extended. -/
  | ldG4Signed (d : BitVec 6) (a : BitVec 6) (f : BitVec 4) (g : BitVec 1)
  /-- `LD.S` (R224): 4-bit scratchpad load, sign-extended. -/
  | ldS4Signed (d : BitVec 6) (a : BitVec 6) (f : BitVec 4) (g : BitVec 1)
  /-- `LD.G` (R224): Steward 32-bit generic load, sign-extended. -/
  | ldG32Signed (d : BitVec 6) (a : BitVec 6) (f : BitVec 4) (g : BitVec 1)
  /-- `ST.G` (R226): 8-bit generic store. -/
  | stG8 (d : BitVec 6) (a : BitVec 6) (f : BitVec 4) (g : BitVec 1)
  /-- `ST.G` (R226): 16-bit generic store. -/
  | stG16 (d : BitVec 6) (a : BitVec 6) (f : BitVec 4) (g : BitVec 1)
  /-- `ST.G` (R226): 32-bit generic store, buffered in the lane's write buffer. -/
  | stG32 (d : BitVec 6) (a : BitVec 6) (f : BitVec 4) (g : BitVec 1)
  /-- `ST.G` (R226): 64-bit generic store. -/
  | stG64 (d : BitVec 6) (a : BitVec 6) (f : BitVec 4) (g : BitVec 1)
  /-- `ST.G` (R226): 4-bit generic store under a nibble mask. -/
  | stG4 (d : BitVec 6) (a : BitVec 6) (f : BitVec 4) (g : BitVec 1)
  /-- `ST.G` (R226): 128-bit generic store. -/
  | stG128 (d : BitVec 6) (a : BitVec 6) (f : BitVec 4) (g : BitVec 1)
  /-- `ST.S` (R226): 4-bit scratchpad store. -/
  | stS4 (d : BitVec 6) (a : BitVec 6) (f : BitVec 4) (g : BitVec 1)
  /-- `ST.S` (R226): 128-bit scratchpad store. -/
  | stS128 (d : BitVec 6) (a : BitVec 6) (f : BitVec 4) (g : BitVec 1)
  /-- `ST.S` (R226): 8-bit scratchpad store. -/
  | stS8 (d : BitVec 6) (a : BitVec 6) (f : BitVec 4) (g : BitVec 1)
  /-- `ST.S` (R226): 16-bit scratchpad store. -/
  | stS16 (d : BitVec 6) (a : BitVec 6) (f : BitVec 4) (g : BitVec 1)
  /-- `ST.S` (R226): 32-bit scratchpad store. -/
  | stS32 (d : BitVec 6) (a : BitVec 6) (f : BitVec 4) (g : BitVec 1)
  /-- `ST.S` (R226): 64-bit scratchpad store. -/
  | stS64 (d : BitVec 6) (a : BitVec 6) (f : BitVec 4) (g : BitVec 1)
  /-- `TLOOK` (R228): Looks up the tag table for a global line and returns its slot or a miss. -/
  | tlook (d : BitVec 6) (a : BitVec 6) (f : BitVec 4) (g : BitVec 1)
  /-- `TINS` (R228): Enters a line in a tag-table slot after the slot's writes have drained. -/
  | tins (d : BitVec 6) (a : BitVec 6) (f : BitVec 4) (g : BitVec 1)
  /-- `TEVICT` (R228): Empties a tag-table slot and returns its line. -/
  | tevict (d : BitVec 6) (f : BitVec 4) (g : BitVec 1)
  /-- `TINV` (R228): Empties the tag-table entry that holds a line. -/
  | tinv (d : BitVec 6) (a : BitVec 6) (f : BitVec 4) (g : BitVec 1)
  /-- `ATOM.ADD` (R233): Atomic add returning the old value. -/
  | atomAdd (d : BitVec 6) (a : BitVec 6) (f : BitVec 4) (g : BitVec 1)
  /-- `ATOM.MIN` (R233): Atomic signed minimum returning the old value. -/
  | atomMin (d : BitVec 6) (a : BitVec 6) (f : BitVec 4) (g : BitVec 1)
  /-- `ATOM.MAX` (R233): Atomic signed maximum returning the old value. -/
  | atomMax (d : BitVec 6) (a : BitVec 6) (f : BitVec 4) (g : BitVec 1)
  /-- `ATOM.EXCH` (R233): Atomic exchange. -/
  | atomExch (d : BitVec 6) (a : BitVec 6) (f : BitVec 4) (g : BitVec 1)
  /-- `ATOM.AND` (R233): Atomic and. -/
  | atomAnd (d : BitVec 6) (a : BitVec 6) (f : BitVec 4) (g : BitVec 1)
  /-- `ATOM.OR` (R233): Atomic or. -/
  | atomOr (d : BitVec 6) (a : BitVec 6) (f : BitVec 4) (g : BitVec 1)
  /-- `ATOM.XOR` (R233): Atomic exclusive or. -/
  | atomXor (d : BitVec 6) (a : BitVec 6) (f : BitVec 4) (g : BitVec 1)
  /-- `CAS` (R233): Compare-and-swap with the compare value in d and the new value in d + 1. -/
  | cas (d : BitVec 6) (a : BitVec 6) (f : BitVec 4) (g : BitVec 1)
  /-- `RED.ADD` (R233): Reduction add with no result. -/
  | redAdd (d : BitVec 6) (a : BitVec 6) (f : BitVec 4) (g : BitVec 1)
  /-- `RED.MIN` (R233): Signed minimum reduction. -/
  | redMin (d : BitVec 6) (a : BitVec 6) (f : BitVec 4) (g : BitVec 1)
  /-- `RED.MAX` (R233): Signed maximum reduction. -/
  | redMax (d : BitVec 6) (a : BitVec 6) (f : BitVec 4) (g : BitVec 1)
  /-- `RED.ADD.F32` (R233): F32 reduction add at the slice, group only. -/
  | redAddF32 (d : BitVec 6) (a : BitVec 6) (f : BitVec 4) (g : BitVec 1)
  /-- `TKGET` (R234): Draws a ticket by incrementing NEXT. -/
  | tkget (d : BitVec 6) (a : BitVec 6) (f : BitVec 4) (g : BitVec 1)
  /-- `TKWAIT` (R234): Waits until every active lane's ticket is served. -/
  | tkwait (d : BitVec 6) (a : BitVec 6) (g : BitVec 1)
  /-- `TKNEXT` (R175): Advances SERVING after the issuer's writes have drained. -/
  | tknext (d : BitVec 6) (a : BitVec 6) (f : BitVec 4) (g : BitVec 1)
  /-- `LD.S` (R224): Steward 32-bit scratchpad load, sign-extended. -/
  | ldS32Signed (d : BitVec 6) (a : BitVec 6) (f : BitVec 4) (g : BitVec 1)
  /-- `GATH` (R229): 32-bit per-lane gather through the Eddy. -/
  | gath32 (d : BitVec 6) (a : BitVec 6) (f : BitVec 4) (g : BitVec 1)
  /-- `GATH` (R229): 64-bit per-lane gather through the Eddy. -/
  | gath64 (d : BitVec 6) (a : BitVec 6) (f : BitVec 4) (g : BitVec 1)
  /-- `SCAT` (R229): 32-bit per-lane scatter through the Eddy. -/
  | scat32 (d : BitVec 6) (a : BitVec 6) (f : BitVec 4) (g : BitVec 1)
  /-- `SCAT` (R229): 64-bit per-lane scatter through the Eddy. -/
  | scat64 (d : BitVec 6) (a : BitVec 6) (f : BitVec 4) (g : BitVec 1)
  /-- `LD.G` (R224): 8-bit generic load, sign-extended. -/
  | ldG8Signed (d : BitVec 6) (a : BitVec 6) (f : BitVec 4) (g : BitVec 1)
  /-- `LD.G` (R224): 16-bit generic load, sign-extended. -/
  | ldG16Signed (d : BitVec 6) (a : BitVec 6) (f : BitVec 4) (g : BitVec 1)
  /-- `LD.S` (R224): 8-bit scratchpad load, sign-extended. -/
  | ldS8Signed (d : BitVec 6) (a : BitVec 6) (f : BitVec 4) (g : BitVec 1)
  /-- `LD.S` (R224): 16-bit scratchpad load, sign-extended. -/
  | ldS16Signed (d : BitVec 6) (a : BitVec 6) (f : BitVec 4) (g : BitVec 1)
  /-- `BINIT` (R237): Sets a barrier's expected arrivals and bytes and clears its counts and error. -/
  | binit (x : BitVec 6) (y : BitVec 6)
  /-- `BEXPECT` (R237): Adds to the barrier's expected bytes for the current phase. -/
  | bexpect (x : BitVec 6) (y : BitVec 6)
  /-- `BARRIVE` (R238): Arrives at a barrier once the arriver's scratchpad writes have drained. -/
  | barrive (x : BitVec 6)
  /-- `BWAIT` (R239): Waits for the barrier's next flip, toggles parity and writes the error bit. -/
  | bwait (x : BitVec 6) (z : BitVec 3)
  /-- `BTEST` (R239): Tests whether the barrier has flipped, without waiting. -/
  | btest (x : BitVec 6) (z : BitVec 3)
  /-- `QPUSH` (R242): Waits for allowance, then pushes a tile handle onto a scratchpad queue. -/
  | qpush (x : BitVec 6) (y : BitVec 6)
  /-- `QPOP` (R242): Waits for a handle and pops the oldest one, returning allowance. -/
  | qpop (x : BitVec 6) (y : BitVec 6)
  /-- `QTRY.PUSH` (R242): Pushes if allowance exists, setting a success predicate. -/
  | qtryPush (x : BitVec 6) (y : BitVec 6) (z : BitVec 3)
  /-- `QTRY.POP` (R242): Pops if a handle exists, setting a success predicate. -/
  | qtryPop (x : BitVec 6) (y : BitVec 6) (z : BitVec 3)
  /-- `LQSEND` (R204): Appends a 64-bit value to a lane-uniform queue channel. -/
  | lqsend (x : BitVec 6) (y : BitVec 6)
  /-- `LQRECV` (R204): Takes the next entry of a lane-uniform queue channel. -/
  | lqrecv (x : BitVec 6) (y : BitVec 6)
  /-- `XFSET` (R205): Sets a crew flag. -/
  | xfset (x : BitVec 6)
  /-- `XFWAIT` (R205): Waits for a crew flag and clears it. -/
  | xfwait (x : BitVec 6)
  /-- `BIND` (R244): Adds a global region to a sync object's binding set. -/
  | bind (x : BitVec 6) (y : BitVec 6)
  /-- `UNBIND` (R244): Removes the binding of exactly the named region. -/
  | unbind (y : BitVec 6)
  /-- `ACQ` (R245): Acquires a sync object, exclusive or shared, once it is admissible and its release set is empty. -/
  | acq (x : BitVec 6) (z : BitVec 3)
  /-- `REL` (R246): Releases a sync object, capturing the releaser's bound writes. -/
  | rel (x : BitVec 6)
  /-- `LAUNCH` (R249): Launches a kernel from a 192-byte scratchpad descriptor. -/
  | launch (x : BitVec 6)
  /-- `TIDSET` (R263): Writes a tensor ID entry from a scratchpad descriptor, or refuses it. -/
  | tidset (x : BitVec 6) (y : BitVec 6)
  /-- `TIDGET` (R264): Reads one 64-bit word of a tensor ID entry. -/
  | tidget (x : BitVec 6) (y : BitVec 6) (z : BitVec 3)
  /-- `TLSET` (R267): Sets a tile entry from a tile word, making it ready or empty. -/
  | tlset (x : BitVec 6) (y : BitVec 6)
  /-- `TLSTATE` (R268): Reads a tile word. -/
  | tlstate (x : BitVec 6) (y : BitVec 6)
  /-- `COPY` (R270): Issues a copy command from a 64-byte descriptor, counting into a barrier. -/
  | copy (x : BitVec 6) (y : BitVec 6)
  /-- `XFORM` (R270): Issues a transforming copy command. -/
  | xform (x : BitVec 6) (y : BitVec 6)
  /-- `WLPUSH` (R253): Pushes one item per active lane to a work list. -/
  | wlpush (x : BitVec 6) (y : BitVec 6)
  /-- `WLPOP` (R254): Waits for items or quiescence and gives each lane an item, NONE or QUIET. -/
  | wlpop (x : BitVec 6) (y : BitVec 6) (z : BitVec 4)
  /-- `MMA` (R290): Checks and enqueues a matrix step into the accumulators and joins the open batch. -/
  | mma (e : BitVec 4) (s : BitVec 5) (t : BitVec 4) (r : BitVec 6)
  /-- `LDSTAT` (R287): Checks and enqueues a load of stationary weights into the shadow plane. -/
  | ldstat (x : BitVec 6) (z : BitVec 4)
  /-- `ACLR` (R300): Enqueues clearing of an accumulator tile. -/
  | aclr (x : BitVec 6)
  /-- `COMMIT` (R294): Closes the open batch and returns its number. -/
  | commit (x : BitVec 6)
  /-- `MWAIT` (R295): Waits for a batch and all earlier batches to finish and covers them. -/
  | mwait (x : BitVec 6)
  /-- `DRAIN.PLAIN` (R298): Enqueues a plain F32 drain of an accumulator into a tile. -/
  | drainPlain (x : BitVec 6) (y : BitVec 6) (z : BitVec 4)
  /-- `DRAIN.CONVERT` (R298): Enqueues a converting drain. -/
  | drainConvert (x : BitVec 6) (y : BitVec 6) (z : BitVec 4)
  /-- `DRAIN.QUANTISE` (R298): Enqueues a quantising drain with block scales. -/
  | drainQuantise (x : BitVec 6) (y : BitVec 6) (z : BitVec 4)
  /-- `DRAIN.PACK` (R298): Enqueues a drain that packs rows into KIND 0 slots. -/
  | drainPack (x : BitVec 6) (y : BitVec 6) (z : BitVec 4)
  /-- `DRAIN.ELIDE` (R298): Enqueues a drain that writes rows as KIND 1 or KIND 2 slots. -/
  | drainElide (x : BitVec 6) (y : BitVec 6) (z : BitVec 4)
  /-- `RANK.0` (R368): Counts zeros below a position. -/
  | rank0 (x : BitVec 6) (y : BitVec 6) (z : BitVec 4)
  /-- `RANK.1` (R368): Counts ones below a position. -/
  | rank1 (x : BitVec 6) (y : BitVec 6) (z : BitVec 4)
  /-- `SELB.0` (R368): Finds the position of the j-th zero. -/
  | selb0 (x : BitVec 6) (y : BitVec 6) (z : BitVec 4)
  /-- `SELB.1` (R368): Finds the position of the j-th one. -/
  | selb1 (x : BitVec 6) (y : BitVec 6) (z : BitVec 4)
  /-- `EXC` (R368): Returns the excess at a position. -/
  | exc (x : BitVec 6) (y : BitVec 6) (z : BitVec 4)
  /-- `FCLOSE` (R368): Finds the matching close bracket. -/
  | fclose (x : BitVec 6) (y : BitVec 6) (z : BitVec 4)
  /-- `FOPEN` (R368): Finds the matching open bracket. -/
  | fopen (x : BitVec 6) (y : BitVec 6) (z : BitVec 4)
  /-- `ENCL` (R368): Finds the enclosing open bracket. -/
  | encl (x : BitVec 6) (y : BitVec 6) (z : BitVec 4)
  /-- `SREG` (R364): Asks the directory keeper to register a succinct region. -/
  | sreg (x : BitVec 6) (y : BitVec 6)
  /-- `SUNREG` (R365): Asks for a succinct region to be unregistered. -/
  | sunreg (x : BitVec 6)
  /-- `SREPACK` (R379): Asks for a region to be re-laid with a new slack. -/
  | srepack (x : BitVec 6) (y : BitVec 6)
  /-- `BINS` (R376): Inserts 1 to 64 bits in place at a position. -/
  | bins (x : BitVec 6) (y : BitVec 6) (z : BitVec 4)
  /-- `BDEL` (R376): Deletes 1 to 64 bits in place at a position. -/
  | bdel (x : BitVec 6) (y : BitVec 6) (z : BitVec 4)
  /-- `SADDR` (R369): Returns the bit address or the record address of a position. -/
  | saddr (x : BitVec 6) (y : BitVec 6) (z : BitVec 4)
  /-- `BKCMD` (R339): Checks and sends a bank-dot command from a 32-byte descriptor. -/
  | bkcmd (x : BitVec 6)
  /-- `BKSTAT` (R355): Returns a bank-command slot's state. -/
  | bkstat (x : BitVec 6) (y : BitVec 6) (z : BitVec 4)
  /-- `BKCANCEL` (R356): Cancels a queued or running bank command. -/
  | bkcancel (y : BitVec 6)
  /-- `WTREE` (R383): Asks a walker to bind or unbind a key-cluster tree. -/
  | wtree (x : BitVec 6) (y : BitVec 6)
  /-- `WQUERY` (R385): Issues a walker query from a 32-byte descriptor. -/
  | wquery (x : BitVec 6) (y : BitVec 6)
  /-- `WAPPEND` (R391): Appends a token to a tree. -/
  | wappend (x : BitVec 6) (y : BitVec 6)
  /-- `WSTAT` (R395): Returns a sample of a tree's state. -/
  | wstat (x : BitVec 6) (y : BitVec 6) (z : BitVec 4)
  /-- `DREG` (R401): Asks for a derived tensor to be registered from a descriptor. -/
  | dreg (x : BitVec 6) (y : BitVec 6)
  /-- `DUNREG` (R404): Asks for a derived tensor to be unregistered. -/
  | dunreg (x : BitVec 6)
  /-- `DQUERY` (R412): Returns a derived registration's state, optionally recomputing a tile. -/
  | dquery (x : BitVec 6) (y : BitVec 6) (z : BitVec 4)
  /-- `IMX` (R78): Extends the immediate or offset of the next word of its chain. The operand l is `Hdr.imm`. -/
  | imx
  /-- `JOIN` (R109): Makes the head's expected lanes join-waiting at this PC until every expected lane arrives. -/
  | join
  /-- `NOP` (R206): No effect. -/
  | nop
  /-- `BKPT` (R211): Raises BREAKPOINT with code x. The operand x is `Hdr.imm`. -/
  | bkpt
  /-- `YIELD` (R206): Drops promotion and makes the stream ineligible for 16 cycles. -/
  | yield
  /-- `TRAP` (R211): Raises SOFTWARE with code x. The operand x is `Hdr.imm`. -/
  | trap
  /-- `ERET` (R212): Leaves handler mode and continues the steward at its saved PC. -/
  | eret
  /-- `PKEY` (R216): Writes the rights of one protection key into the stream's PKR. The operand q is `Hdr.imm`. -/
  | pkey
  /-- `FENCE` (R247): Waits until the issuer's writes of the scope have drained. The operand z is `Hdr.imm`. -/
  | fence
  /-- `TRIG` (R248): Marks the issuing lanes or steward as triggered for early-start dependants. -/
  | trig
  /-- `PHASE` (R251): Arrives at the span's phase and waits for the schedule selector. -/
  | phase
  /-- `SWAP` (R288): Enqueues an exchange of the active and shadow planes. -/
  | swap
  /-- POWER_ON (R24): At power-on the control complex boots from on-package ROM and starts fetching the firmware image over IPv6 by HTTPS. -/
  | powerOn
  /-- DEVICE_RESET (R24): A device reset halts everything, applies the configuration store and reboots from ROM; a store whose CRC fails is handled as empty. -/
  | deviceReset
  /-- IMAGE_FETCH_DONE (R25): A fetched firmware image is checked against both signatures and is either started or discarded. Operands: bytes = image. -/
  | imageFetchDone
  /-- BOOT_SERVER_FAILURE (R26): A connection failure, certificate failure or rejected image moves the boot to the next server in the list. -/
  | bootServerFailure
  /-- BOOT_RETRY_WAIT (R26): 30 s after every server has failed, the boot starts again from the first server. -/
  | bootRetryWait
  /-- REDUCED_SERVICE_ENTRY (R28): Once stacks 0 and 6 have trained, the device enters reduced service and LEVEL becomes 1. -/
  | reducedServiceEntry
  /-- FULL_SERVICE_ENTRY (R31): By 150 s the device pre-empts every crew, raises the clocks, adds the other stacks and cores, restores the crews and sets LEVEL 2; a stack not yet trained is handled as failed. Operands: bytes = trained. -/
  | fullServiceEntry
  /-- TEMP_SAMPLE (R36): Every 1 ms the hottest junction temperature is written into SVCSTAT.TEMPC. Operands: a = t. -/
  | tempSample
  /-- GOVERNOR_WINDOW (R14): A new 1 µs near-bank power window opens, and bank commands held at a row boundary may continue. -/
  | governorWindow
  /-- CORE_FAILURE (R32): A failed core resets its owning partition, is retired and is replaced by a spare that takes its cluster and rank. Operands: a = core. -/
  | coreFailure
  /-- DRAM_ROW_FAILURE (R32): A failed DRAM row is replaced from a spare row of the same bank, invisibly to programs. Operands: a = slice, b = bank, c = row. -/
  | dramRowFailure
  /-- CHANNEL_FAILURE (R34): A failed channel leaves service; its pages are reported lost and the device enters degraded service. Operands: a = slice. -/
  | channelFailure
  /-- WALKER_FAILURE (R34): A failed walker unbinds every tree bound to it, and the device enters degraded service. Operands: a = w. -/
  | walkerFailure
  /-- COPY_ENGINE_FAILURE (R33): A failed copy engine leaves service, and the device publishes reduced figures and enters degraded service. Operands: a = e. -/
  | copyEngineFailure
  /-- BANK_SPARE_EXHAUSTED (R33): A bank that has run out of spare rows puts the device into degraded service with reduced figures. Operands: a = slice, b = bank. -/
  | bankSpareExhausted
  /-- HOST_LINK_TRAIN (R16): The PCIe link trains, possibly at lower width or speed, and reports the result in the link status registers. Operands: a = width, b = speed. -/
  | hostLinkTrain
  /-- FUNCTION_LEVEL_RESET (R16): A Function Level Reset of a virtual function performs that partition's reset. Operands: a = part. -/
  | functionLevelReset
  /-- PLDM_SENSOR_READ (R22): A PLDM request reads a sensor for the SVCSTAT fields, for TEMPC or for domain power. Operands: a = sensor. -/
  | pldmSensorRead
  /-- CONFIG_STORE_WRITE (R23): A management write updates the non-volatile configuration store; it takes effect at the next device reset. Operands: a = off, bytes = bytes. -/
  | configStoreWrite
  /-- CONFIG_STORE_READ (R23): A management request reads the configuration store. Operands: a = off, b = len. -/
  | configStoreRead
  /-- ATTESTATION_REQUEST (R27): A management attestation request returns the nonce, the measurements and SVCSTAT, signed with both identity keys. Operands: bytes = nonce. -/
  | attestationRequest
  /-- DEVICE_RESET_REQUEST (R22): A management request asks for a device reset. -/
  | deviceResetRequest
  /-- UNSUPPORTED_COMMAND (R22): An unrecognised management request gets the unsupported-command error completion and changes nothing. Operands: a = code. -/
  | unsupportedCommand
  /-- WRITE (R20): A received WRITE datagram is checked like an engine write and stores its data at the target virtual address. Operands: a = port of arrival, dg = g. -/
  | write
  /-- READ (R20): A received READ is checked and answered with DATA datagrams. Operands: a = port of arrival, dg = g. -/
  | read
  /-- DATA (R20): A received DATA datagram delivers read data for its MSGID at OFFSET. Operands: a = port of arrival, dg = g. -/
  | data
  /-- ATOMIC (R20): A received ATOMIC performs its operation at the target and is answered with OLD. Operands: a = port of arrival, dg = g. -/
  | atomic
  /-- OLD (R20): A received OLD returns the old value of the ATOMIC that MSGID names. Operands: a = port of arrival, dg = g. -/
  | old
  /-- REDUCE (R20): A received REDUCE applies its operands at the target; at a leased row it is queued as a deferred reduction, or refused with RETRY when that queue is full. Operands: a = port of arrival, dg = g. -/
  | reduce
  /-- ARRIVE (R20): A received ARRIVE counts arrivals and bytes at the named barrier, or at its image. Operands: a = port of arrival, dg = g. -/
  | arrive
  /-- PERMIT (R20): A received PERMIT returns send permits to the connection. Operands: a = port of arrival, dg = g. -/
  | permit
  /-- ACK (R21): A received acknowledgement frees the acknowledged datagrams and returns their permits. Operands: a = port of arrival, dg = g. -/
  | ack
  /-- RETRY (R21): A received RETRY makes the sender schedule a resend of the refused REDUCE. Operands: a = port of arrival, dg = g. -/
  | retry
  /-- FAULT (R21): A received FAULT ends its message at once, and the sending command fails with TIMEOUT. Operands: a = port of arrival, dg = g. -/
  | fault
  /-- DIGEST (R326): A received lockstep digest is compared with the local one, and the matching egress piece is released. Operands: a = port of arrival, dg = g. -/
  | digest
  /-- ORDER (R325): The follower receives the leader's order records and applies its atomics, tickets, admissions and work-list items in that order. Operands: a = port of arrival, dg = g. -/
  | order
  /-- DATAGRAM_DROP (R19): A datagram with a bad CRC, version, destination package or type is dropped unacknowledged and counted. Operands: a = port, dg = g. -/
  | datagramDrop
  /-- RETRANSMIT_TIMER (R21): An unacknowledged datagram is resent 20 µs after sending, with the wait doubling up to 160 µs. Operands: a = conn. -/
  | retransmitTimer
  /-- ACK_TIMER (R21): Within 2 µs of receipt the receiver must acknowledge each datagram, with an ACK if no reverse traffic carries it. Operands: a = conn. -/
  | ackTimer
  /-- PEER_TIMEOUT (R21): When the peer timeout passes without acknowledgement, the command that sent the message fails with TIMEOUT. Operands: a = conn. -/
  | peerTimeout
  /-- RETRY_BACKOFF_TIMER (R21): A REDUCE refused by RETRY is resent after 1 µs, with the wait doubling up to 16 µs. Operands: a = conn, b = msg. -/
  | retryBackoffTimer
  /-- LOCKSTEP_PIECE_CLOSE (R326): An incomplete 4 KiB egress piece is closed and digested 2 µs after its last byte. Operands: a = part, b = piece. -/
  | lockstepPieceClose
  /-- LOCKSTEP_LINK_LOSS (R326): Loss of the pair link for more than 100 µs halts the partition on both packages. Operands: a = part. -/
  | lockstepLinkLoss
  /-- BAR0_UNSUPPORTED (R329): A BAR0 request that is not an aligned 4- or 8-byte access completes with Unsupported Request and changes nothing. Operands: a = fn, b = off, c = len. -/
  | bar0Unsupported
  /-- REGISTER_WRITE (R7): A write to a register with no behaviour of its own updates its RW and W1C fields, and ignores RO fields and unlisted offsets. Operands: a = fn, b = off, c = len, q = val. -/
  | registerWrite
  /-- XLINV_PAGE (R319): A write to XLINV with ALL 0 starts invalidating the cached translations of one page of the given size. Operands: a = fn, q = val. -/
  | xlinvPage
  /-- XLINV_ALL (R319): A write to XLINV with ALL 1 starts invalidating every cached entry of the partition. Operands: a = fn, q = val. -/
  | xlinvAll
  /-- XLINV_DONE (R319): A TLB invalidation completes within 2 µs, and BUSY returns to 0. Operands: a = part. -/
  | xlinvDone
  /-- QTAIL_DOORBELL (R330): A write to QTAIL rings a command queue's doorbell; a bad value is ignored and sets ERR with CAUSE 1. Operands: a = part, b = q, q = val. -/
  | qtailDoorbell
  /-- QCTL_WRITE (R330): A write to QCTL enables or disables a queue; re-enabling it restarts the queue with QHEAD := QTAIL. Operands: a = part, b = q, q = val. -/
  | qctlWrite
  /-- CQ_NOP (R331): The launch unit takes a NOP entry and advances QHEAD. Operands: a = part, b = q. -/
  | cqNop
  /-- CQ_LAUNCH (R331): The launch unit takes a LAUNCH entry, reads the kernel image and launches it, or refuses it. Operands: a = part, b = q. -/
  | cqLaunch
  /-- CQ_SIGNAL (R331): The launch unit takes a SIGNAL entry without holding the queue. Operands: a = part, b = q. -/
  | cqSignal
  /-- SIGNAL_APPLY (R331): Once every earlier LAUNCH of the queue has ended, the event is raised to VALUE and STATUS 1 is reported. Operands: a = part, b = q, c = i. -/
  | signalApply
  /-- CQ_WAIT (R331): The launch unit takes a WAIT entry and holds the queue. Operands: a = part, b = q. -/
  | cqWait
  /-- WAIT_RELEASE (R331): When the event reaches VALUE, the WAIT releases the queue and reports STATUS 1. Operands: a = part, b = q. -/
  | waitRelease
  /-- CQ_ENTRY_REFUSED (R331): An entry with OP 4–255, a reserved byte set or a field out of range is skipped, and ERR is set with CAUSE 3. Operands: a = part, b = q. -/
  | cqEntryRefused
  /-- EVENT_COUNTER_WRITE (R332): A write sets an event counter and releases every WAIT it satisfies. Operands: a = part, b = e, q = val. -/
  | eventCounterWrite
  /-- CONFIG (R334): The mailbox CONFIG command sets a partition's configuration, which takes effect at its next reset. Operands: a = fn. -/
  | config
  /-- READCFG (R334): The mailbox READCFG command returns a partition's configuration record. Operands: a = fn. -/
  | readcfg
  /-- SUSPEND (R323): The mailbox SUSPEND command pre-empts every span of the partition and redirects its interrupts to the log. Operands: a = fn. -/
  | suspend
  /-- RESUME (R323): The mailbox RESUME command restores the partition's spans. Operands: a = fn. -/
  | resume
  /-- INTERRUPT_LOG_DELIVERY (R323): After a resume, the interrupts logged during the suspension are sent in order within 10 µs. Operands: a = part. -/
  | interruptLogDelivery
  /-- RESET (R324): The mailbox RESET command starts a partition reset. Operands: a = fn. -/
  | reset
  /-- PARTITION_RESET_DONE (R324): A partition reset completes within 50 µs: crews discarded, tasks reported aborted, vector 0 raised. Operands: a = part. -/
  | partitionResetDone
  /-- SETWIN (R347): The mailbox SETWIN command sets the device's bank arbitration window. Operands: a = fn. -/
  | setwin
  /-- ATTEST (R334): The mailbox ATTEST command writes a signed attestation report into the given buffer. Operands: a = fn. -/
  | attest
  /-- TENSOR (R334): The mailbox TENSOR command writes a tensor ID entry, or refuses it under R262. Operands: a = fn. -/
  | tensor
  /-- TIDREAD (R334): The mailbox TIDREAD command returns a tensor ID entry. Operands: a = fn. -/
  | tidread
  /-- SYNCNEW (R334): The mailbox SYNCNEW command allocates a new sync ID, or returns 0xFFFF when 4,096 exist. Operands: a = fn. -/
  | syncnew
  /-- SYNCFREE (R334): The mailbox SYNCFREE command frees a sync object, refusing one that has a binding or a holder. Operands: a = fn. -/
  | syncfree
  /-- MB_UNKNOWN_COMMAND (R334): An unknown MBCMD, or one the function may not use, gives RESULT 2 or 3 and changes nothing. Operands: a = fn, b = cmd. -/
  | mbUnknownCommand
  /-- MAILBOX_DONE (R334): The control complex finishes a mailbox command, writes any result into the buffer and then writes MBSTAT. Operands: a = fn. -/
  | mailboxDone
  /-- IFPTR_WRITE (R335): A driver write to IFPTR advances RD past the slots it has read, lowering UNREAD, or clears OVF. Operands: a = part, q = val. -/
  | ifptrWrite
  /-- BERR_CLEAR (R352): Writing 1 to UEV of a BERR register through the physical function clears UEV and UECNT. Operands: a = slice, b = bank, q = val. -/
  | berrClear
  /-- PREEMPT_REQUEST (R312): The control complex stops every crew of a span at its next issue slot and waits for issued results. Operands: a = task, b = span. -/
  | preemptRequest
  /-- PREEMPT_RESULT_TIMEOUT (R312): After 1.5 µs, results still outstanding are recorded as pending writebacks, and the save proceeds. Operands: a = crew. -/
  | preemptResultTimeout
  /-- PREEMPT_SAVE_DONE (R312): The write buffers have drained and the crew images are written; the core resources are freed and redirection begins. Operands: a = task, b = span. -/
  | preemptSaveDone
  /-- RESTORE (R314): Every crew of a saved span is placed and loaded from its image in one step, and its streams resume. Operands: a = task, b = span, c = cluster. -/
  | restore
  /-- SQDB_STOP (R328): The debugger stops a group or steward, which becomes ineligible while its issued results still write back. Operands: r = r. -/
  | sqdbStop
  /-- SQDB_READ (R328): The debugger reads a whole register or state value. Operands: r = r, q = sel. -/
  | sqdbRead
  /-- SQDB_WRITE (R328): The debugger writes a register once it has no pending writeback; the write is refused in lockstep. Operands: r = r, q = sel, q2 = val, a = forced. -/
  | sqdbWrite
  /-- SPAN_PLACE (R95): The launch unit places a span whole on one cluster and sets up each crew's initial state, or reports it unplaceable. Operands: a = task. -/
  | spanPlace
  /-- PLACEMENT_WAIT_TIMER (R96): Once a span has waited 10 µs, no span of another task is placed in the partition until it is placed. Operands: a = task. -/
  | placementWaitTimer
  /-- DEPENDANT_START (R178): An early-start dependant begins once every thread and steward of its producer has triggered or exited. Operands: a = task. -/
  | dependantStart
  /-- GROUP_RETIRE (R127): A group whose lanes have all exited and whose results are all back retires and frees its scheduler slot. Operands: r = r. -/
  | groupRetire
  /-- CREW_RETIRE (R128): A crew retires when its streams have retired and its engine commands have completed; its scratchpad and tiles are freed. Operands: a = crew. -/
  | crewRetire
  /-- TASK_COMPLETE (R180): A task completes after its writes, release sets and transfers have drained or counted, and its completion is reported. Operands: a = task. -/
  | taskComplete
  /-- PROMOTION (R120): A group that has stayed eligible for 64 cycles without issuing is promoted. Operands: r = r. -/
  | promotion
  /-- YIELD_EXPIRY (R206): 16 cycles after a YIELD, the stream becomes eligible again. Operands: r = r. -/
  | yieldExpiry
  /-- JOIN_RELEASE (R109): When every expected lane is join-waiting at one JOIN, the waiting entry becomes ready at the next word in the next cycle. Operands: r = r. -/
  | joinRelease
  /-- CONVERGENCE_PARK (R110): With only join-waiting entries left at several PCs, the lanes at every JOIN but the lowest are parked with ILLEGAL_CONVERGENCE. Operands: r = r. -/
  | convergencePark
  /-- FRONTIER_REFILL_START (R108): With fewer than 8 entries on chip, the highest spilled frontier entry starts to refill. Operands: r = r. -/
  | frontierRefillStart
  /-- FRONTIER_REFILL_DONE (R108): A refill ends after 40 cycles, and a head held by it becomes eligible. Operands: r = r. -/
  | frontierRefillDone
  /-- DEAD_PARTY_ESCALATION (R103): A stream waiting on a party that can no longer answer escalates, and the task is aborted with cause QUEUE. Operands: r = r. -/
  | deadPartyEscalation
  /-- PHASE_RELEASE (R126): When every steward of the span has arrived at PHASE, the schedule selector runs and all of them resume. Operands: a = task, b = span. -/
  | phaseRelease
  /-- ASYNC_TRAP_PARK (R307): An asynchronous trap parks the group's whole head entry in place of its next issue and makes a record. Operands: r = r. -/
  | asyncTrapPark
  /-- TRAP_RECORD_ENQUEUE (R308): A record waiting for a full record queue enters it when an entry frees. Operands: a = crew. -/
  | trapRecordEnqueue
  /-- HANDLER_ENTRY (R309): The steward enters its handler: the record is loaded into the trap registers and the continuation PC is saved. Operands: a = crew. -/
  | handlerEntry
  /-- TRAP_ESCALATION (R310): A record that cannot be handled is escalated to the control complex. Operands: a = crew. -/
  | trapEscalation
  /-- RESULT_WRITEBACK (R115): A result writes back into its register or predicate, and its completion-flag use ends. Operands: r = r, a = id. -/
  | resultWriteback
  /-- WRITE_DRAIN (R154): A buffered or captured write with no older overlapping write is written at its home, together with the home's side effects. Operands: src = src, a = i. -/
  | writeDrain
  /-- READ_PERFORM (R158): A read is performed at its home and returns the latest value in coherence order, or the agent's own pending write. Operands: r = r, a = id, b = addr. -/
  | readPerform
  /-- ATOMIC_PERFORM (R233): The aggregator applies one address's atomic, reduction or TKGET lanes in ascending order in one step at the home. Operands: r = r, a = id, b = addr. -/
  | atomicPerform
  /-- TKNEXT_PERFORM (R175): After the issuer's writes have drained, TKNEXT advances SERVING in one home step and wakes the watched lanes. Operands: r = r, a = id, b = addr. -/
  | tknextPerform
  /-- TKWAIT_POLL (R235): A ticket waiter beyond the 256 watched polls the ticket word at doubling intervals. Operands: r = r. -/
  | tkwaitPoll
  /-- PAGE_WALK_DONE (R221): A page walk or L2 fill completes, and a global access held by a TLB miss may issue. Operands: a = core, b = part, c = vpn. -/
  | pageWalkDone
  /-- EDDY_WINDOW_EXPIRY (R230): When the earliest merged request's window ends, the Eddy sends one read or one write for the line. Operands: a = core, b = line, c = wr. -/
  | eddyWindowExpiry
  /-- BARRIVE_COUNT (R169): After the arriver's earlier scratchpad writes have drained, one arrival is counted at the barrier. Operands: r = r, a = b, b = upto. -/
  | barriveCount
  /-- QPUSH_PLACE (R171): After the pusher's writes within the tile's extent have drained, the handle enters the queue. Operands: r = r, a = q, b = h, c = upto. -/
  | qpushPlace
  /-- TRIGGER_RECORD (R248): Once the issuer's writes have drained, the TRIG is recorded for the issuing lanes or steward. Operands: r = r, q = mask, a = upto. -/
  | triggerRecord
  /-- WLPUSH_ENTER (R253): After its lane's earlier writes have drained, a pushed item enters its work list. Operands: r = r, a = l, b = lane, q = item, c = upto. -/
  | wlpushEnter
  /-- SLACKWATER_REPORT (R255): Within 2 µs of the quiescence conditions holding, the Slackwater reports and every waiting WLPOP gets QUIET. Operands: a = task. -/
  | slackwaterReport
  /-- BEAGLE_AUDIT (R256): Every 2^20 cycles, permit counts are checked and repaired, and LOST_PERMIT is reported. -/
  | beagleAudit
  /-- FENCE_COMPLETE (R167): A fence completes once the issuer's writes of its scope have drained, and the issuer may issue again. Operands: r = r. -/
  | fenceComplete
  /-- MWAIT_COMPLETE (R295): MWAIT completes within 4 cycles of the last batch up to b finishing, and marks those batches covered. Operands: r = r. -/
  | mwaitComplete
  /-- COPY_ACCEPT (R272): A copy command is accepted and checked in order, or refused with its cause. Operands: a = id. -/
  | copyAccept
  /-- COPY_START (R272): After its tile waits, an accepted copy drains the steward's source writes and starts, making its destination tile filling. Operands: a = id. -/
  | copyStart
  /-- COPY_RUN (R174): A copy moves one byte-run from its source homes to its destination homes, applying its transform. Operands: a = id. -/
  | copyRun
  /-- PAGE_MIGRATION_DONE (R318): The migration service installs a valid leaf or reports the page lost. Operands: a = part, b = va, q = leaf. -/
  | pageMigrationDone
  /-- COPY_RESUME (R277): A parked copy resumes from the run it stopped at. Operands: a = id. -/
  | copyResume
  /-- COPY_FAIL (R278): A copy fails on a bad slot, lost page, peer timeout or reset; it counts its declared bytes with the error bit set and leaves its tiles as R279 states. Operands: a = id, b = cause. -/
  | copyFail
  /-- COPY_COUNT (R170): After its last run, a copy counts its declared bytes into its barrier and writes STATUS. Operands: a = id. -/
  | copyCount
  /-- SEQ_LDSTAT (R287): The sequencer reads the weight tile into the shadow plane and records its shape; bad metadata leaves the plane empty and sends FORMAT. Operands: a = crew. -/
  | seqLdstat
  /-- SEQ_SWAP (R288): The sequencer exchanges the active and shadow planes. Operands: a = crew. -/
  | seqSwap
  /-- SEQ_MMA_STEP (R291): The sequencer runs one MMA step: it fetches and checks the tile, then accumulates block sums in passes of 16 rows. Operands: a = crew. -/
  | seqMmaStep
  /-- SEQ_DRAIN (R298): The sequencer waits for the destination tile, then writes the accumulator into it in the drain's mode. Operands: a = crew. -/
  | seqDrain
  /-- SEQ_ACLR (R300): The sequencer sets the accumulator tile to +0. Operands: a = crew. -/
  | seqAclr
  /-- SEQ_ENTRY_END (R303): A sequencer entry ends, its flag use or batch share finishes, and the next entry starts. Operands: a = crew. -/
  | seqEntryEnd
  /-- BANK_ACCEPT (R341): The slice accepts a bank command, writes its running status, checks it, drains the steward's writes and reads the broadcast vector. Operands: a = id. -/
  | bankAccept
  /-- BANK_STEP (R342): One bank-command step reads one row per bank with its dot units and writes row-dot results. Operands: a = id. -/
  | bankStep
  /-- BANK_RESUME (R347): After the requests are served, 16 are served or 400 ns pass, the bank command resumes at its next step. Operands: a = id. -/
  | bankResume
  /-- BANK_COUNT (R345): A bank command ends: status and CLOCK are written, bytes are counted into the barrier, and any DATA_POISON record is sent. Operands: a = id. -/
  | bankCount
  /-- SREG_DONE (R364): The keeper finishes a registration: it builds the directory, writes STATUS and the handle, and sets kp7. Operands: r = r, a = id, q = addr, b = y. -/
  | sregDone
  /-- SUNREG_DONE (R365): After folding pending records, the keeper unregisters the region in one step and sets kp7. Operands: r = r, a = id, q = kx. -/
  | sunregDone
  /-- SREPACK_ACCEPT (R379): A repack is accepted and the region's accesses start to wait at the slice, or it is refused. Operands: r = r, q = kx, a = b, b = part. -/
  | srepackAccept
  /-- SREPACK_DONE (R379): The relay ends: STATUS is written, 64 bytes are counted into the barrier, and the waiting accesses proceed. Operands: r = r, q = kx, a = b, b = part. -/
  | srepackDone
  /-- SUCCINCT_QUERY_PERFORM (R368): A succinct query is answered at the home in one step, with pending deltas folded in and stale blocks scanned. Operands: r = r, a = id, b = lane. -/
  | succinctQueryPerform
  /-- SADDR_PERFORM (R369): SADDR resolves a position to its bit address or its record address at the home. Operands: r = r, a = id, b = lane. -/
  | saddrPerform
  /-- BINS_PERFORM (R377): An insertion moves bits, lengths, entries and records in one home step and appends delta records. Operands: r = r, a = id, b = lane. -/
  | binsPerform
  /-- BDEL_PERFORM (R377): A deletion removes bits within their blocks in one home step and returns them. Operands: r = r, a = id, b = lane. -/
  | bdelPerform
  /-- DELTA_FOLD (R372): The keeper folds the oldest delta record of a sector log into the cumulative entries, and held writes may proceed. Operands: a = part, b = region, c = sector. -/
  | deltaFold
  /-- DKSTAT_SAMPLE (R375): Every 1 µs the keeper samples the partition's state into DKSTAT. Operands: a = part. -/
  | dkstatSample
  /-- WTREE_BIND_DONE (R384): The walker checks and binds a tree and writes its handle and kp7, or refuses it with a cause. Operands: r = r, a = id, q = kx, b = y. -/
  | wtreeBindDone
  /-- WTREE_UNBIND_DONE (R384): After the tree's accepted commands have ended, the walker frees the handle. Operands: r = r, a = id, q = kx, b = y. -/
  | wtreeUnbindDone
  /-- WQUERY_ACCEPT (R386): A query takes a walker place, reads its registers, is checked and reads its query tile, or is refused with a summary and count. Operands: a = id. -/
  | wqueryAccept
  /-- WALKER_VISIT (R387): The walker visits one node in one home step, applies the opening test and may emit an entry and push its address. Operands: a = id. -/
  | walkerVisit
  /-- WQUERY_SUMMARY (R390): A query ends: its summary is written, 32 bytes are counted and its place is freed. Operands: a = id. -/
  | wquerySummary
  /-- WAPPEND_STEP (R391): After the steward's writes have drained, an append updates the path's records in one home step and writes its status. Operands: r = r, a = id, q = kx, b = y. -/
  | wappendStep
  /-- DREG_DONE (R402): A derived registration is checked and then entered, bound and marked stale, or refused; a cycle also raises DERIVE_CYCLE. Operands: r = r, a = id, bytes = desc, b = y. -/
  | dregDone
  /-- DUNREG_DONE (R404): A derived registration is cleared in one step, and its pages are unmapped and returned to the pool. Operands: r = r, a = id, q = kx. -/
  | dunregDone
  /-- DERIVED_RECOMPUTE (R407): The derivation unit recomputes a stale derived tile from its bases in one step before the waiting read. Operands: a = part, b = t, c = tile. -/
  | derivedRecompute
  /-- SQDB_RESUME (R328): The debugger releases a stopped group or steward, which becomes eligible to issue again. Operands: r = r. -/
  | sqdbResume
  /-- LOCKSTEP_MATE_RESET (R324): When one partition of a lockstep pair is reset, its mate on the other package is reset as well. Operands: a = part. -/
  | lockstepMateReset
  /-- HOST_MEMORY_WRITE (R177): A host write to device memory completes, so that a later doorbell's launch sees it. Operands: a = part, b = va, bytes = bytes. -/
  | hostMemoryWrite
  /-- PRIORITY_FLOW_CONTROL (R17): A received IEEE 802.1Qbb priority flow-control frame pauses or resumes transmission on the data or the arrival-and-permit priority of a fabric port. Operands: a = port, b = prio, c = pause. -/
  | priorityFlowControl
  deriving DecidableEq, Repr

end Sys2Proof
end

