-- ==== Sys2Proof/WellFormed.lean ====
section
/-! DEFINITION. Which terms of `Instr` are instructions the encoding admits: the field values that R71, R73, R81 to
R90 leave assigned. A word whose fields break this is refused by the decoder, and the device raises `ILLEGAL_OP` for it
(R91). What also depends on the stream (pairs, stream-only words, rights) is checked when the word issues. -/

namespace Sys2Proof

/-- The completion-flag field names a flag or none (R71): 0xC to 0xE are unassigned. -/
def f4Ok (f : BitVec 4) : Bool := f.toNat < 12 || f == 15#4

/-- The fields of a term are values the encoding assigns. Every event is well formed: no word encodes one. -/
def Instr.wf : Instr → Bool
  | .bra _ c _ => decide (c.toNat < 5)
  | .call _ c _ => decide (c.toNat < 5)
  | .brx _ c _ => decide (c.toNat < 3)
  | .ret c => decide (c.toNat < 3)
  | .exit c => decide (c.toNat < 3)
  | .iadd _ _ _ _ => true
  | .isub _ _ _ _ => true
  | .imul _ _ _ _ => true
  | .imad _ _ _ _ => true
  | .and _ _ _ _ => true
  | .or _ _ _ _ => true
  | .xor _ _ _ _ => true
  | .csel _ _ _ => true
  | .mov _ _ _ => true
  | .not _ _ _ => true
  | .iabs _ _ _ => true
  | .popc _ _ _ => true
  | .clz _ _ _ => true
  | .brev _ _ _ => true
  | .shl _ _ _ => true
  | .shr _ _ _ => true
  | .sar _ _ _ => true
  | .iminI _ _ _ => true
  | .iminN _ _ _ => true
  | .imaxI _ _ _ => true
  | .imaxN _ _ _ => true
  | .imulhI _ _ _ => true
  | .imulhN _ _ _ => true
  | .movOw _ _ _ => true
  | .notOw _ _ _ => true
  | .iabsOw _ _ _ => true
  | .popcOw _ _ _ => true
  | .clzOw _ _ _ => true
  | .brevOw _ _ _ => true
  | .shlOw _ _ _ => true
  | .shrOw _ _ _ => true
  | .sarOw _ _ _ => true
  | .iminIOw _ _ _ => true
  | .iminNOw _ _ _ => true
  | .imaxIOw _ _ _ => true
  | .imaxNOw _ _ _ => true
  | .imulhIOw _ _ _ => true
  | .imulhNOw _ _ _ => true
  | .iaddOw _ _ _ => true
  | .isubOw _ _ _ => true
  | .imulOw _ _ _ => true
  | .andOw _ _ _ => true
  | .orOw _ _ _ => true
  | .xorOw _ _ _ => true
  | .movi _ _ _ => true
  | .iaddImm _ _ _ => true
  | .imulImm _ _ _ => true
  | .andImm _ _ _ => true
  | .orImm _ _ _ => true
  | .xorImm _ _ _ => true
  | .shlImm _ _ _ => true
  | .shrImm _ _ _ => true
  | .sarImm _ _ _ => true
  | .iminIImm _ _ _ => true
  | .imaxIImm _ _ _ => true
  | .iminNImm _ _ _ => true
  | .imaxNImm _ _ _ => true
  | .moviOw _ _ _ => true
  | .iaddImmOw _ _ _ => true
  | .imulImmOw _ _ _ => true
  | .andImmOw _ _ _ => true
  | .orImmOw _ _ _ => true
  | .xorImmOw _ _ _ => true
  | .shlImmOw _ _ _ => true
  | .shrImmOw _ _ _ => true
  | .sarImmOw _ _ _ => true
  | .iminIImmOw _ _ _ => true
  | .imaxIImmOw _ _ _ => true
  | .iminNImmOw _ _ _ => true
  | .imaxNImmOw _ _ _ => true
  | .bfe _ _ _ _ => true
  | .bfi _ _ _ _ => true
  | .faddF32 _ _ _ _ => true
  | .fmulF32 _ _ _ _ => true
  | .fmaF32 _ _ _ _ => true
  | .faddF32Imm _ _ _ _ => true
  | .fmulF32Imm _ _ _ _ => true
  | .fmaF16 _ _ _ _ => true
  | .fmaBf16 _ _ _ _ => true
  | .faddF16 _ _ _ _ => true
  | .fcmp _ _ _ _ _ => true
  | .fminF32 _ _ _ => true
  | .fmaxF32 _ _ _ => true
  | .frcp _ _ _ => true
  | .frsq _ _ _ => true
  | .fsqrt _ _ _ => true
  | .fex2 _ _ _ => true
  | .flg2 _ _ _ => true
  | .faddBf16 _ _ _ => true
  | .fmulBf16 _ _ _ => true
  | .fmulF16 _ _ _ => true
  | .fminF16 _ _ _ => true
  | .fmaxF16 _ _ _ => true
  | .fminBf16 _ _ _ => true
  | .fmaxBf16 _ _ _ => true
  | .faddF32Rz _ _ _ => true
  | .faddF32Ru _ _ _ => true
  | .faddF32Rd _ _ _ => true
  | .fmulF32Rz _ _ _ => true
  | .fmulF32Ru _ _ _ => true
  | .fmulF32Rd _ _ _ => true
  | .cvtFromF32 _ _ _ _ _ => true
  | .cvtToF32 _ _ _ c _ => decide (c.toNat < 15)
  | .icmp _ c _ _ _ => decide (c.toNat < 6)
  | .icmpN _ c _ _ _ => decide (c.toNat < 6)
  | .pand _ _ _ _ _ _ => true
  | .por _ _ _ _ _ _ => true
  | .pxor _ _ _ _ _ _ => true
  | .pnot _ _ _ _ => true
  | .pmov _ _ _ _ => true
  | .voteAll _ _ _ _ => true
  | .voteAny _ _ _ _ => true
  | .voteEq _ _ _ _ => true
  | .ballot _ _ _ _ => true
  | .matchLanes _ _ _ => true
  | .shfl _ _ _ _ => true
  | .clock _ => true
  | .srd _ _ => true
  | .swr _ _ => true
  | .gresume _ => true
  | .gkill _ => true
  | .grd _ _ => true
  | .gwr _ _ => true
  | .ldG8 _ _ f _ => f4Ok f
  | .ldG16 _ _ f _ => f4Ok f
  | .ldG32 _ _ f _ => f4Ok f
  | .ldG64 _ _ f _ => f4Ok f
  | .ldG4 _ _ f _ => f4Ok f
  | .ldG128 _ _ f _ => f4Ok f
  | .ldS4 _ _ f _ => f4Ok f
  | .ldS128 _ _ f _ => f4Ok f
  | .ldS8 _ _ f _ => f4Ok f
  | .ldS16 _ _ f _ => f4Ok f
  | .ldS32 _ _ f _ => f4Ok f
  | .ldS64 _ _ f _ => f4Ok f
  | .ldpf _ _ f _ => f4Ok f
  | .ldG4Signed _ _ f _ => f4Ok f
  | .ldS4Signed _ _ f _ => f4Ok f
  | .ldG32Signed _ _ f _ => f4Ok f
  | .stG8 _ _ f _ => f4Ok f
  | .stG16 _ _ f _ => f4Ok f
  | .stG32 _ _ f _ => f4Ok f
  | .stG64 _ _ f _ => f4Ok f
  | .stG4 _ _ f _ => f4Ok f
  | .stG128 _ _ f _ => f4Ok f
  | .stS4 _ _ f _ => f4Ok f
  | .stS128 _ _ f _ => f4Ok f
  | .stS8 _ _ f _ => f4Ok f
  | .stS16 _ _ f _ => f4Ok f
  | .stS32 _ _ f _ => f4Ok f
  | .stS64 _ _ f _ => f4Ok f
  | .tlook _ _ f _ => f4Ok f
  | .tins _ _ f _ => f4Ok f
  | .tevict _ f _ => f4Ok f
  | .tinv _ _ f _ => f4Ok f
  | .atomAdd _ _ f _ => f4Ok f
  | .atomMin _ _ f _ => f4Ok f
  | .atomMax _ _ f _ => f4Ok f
  | .atomExch _ _ f _ => f4Ok f
  | .atomAnd _ _ f _ => f4Ok f
  | .atomOr _ _ f _ => f4Ok f
  | .atomXor _ _ f _ => f4Ok f
  | .cas _ _ f _ => f4Ok f
  | .redAdd _ _ f _ => f4Ok f
  | .redMin _ _ f _ => f4Ok f
  | .redMax _ _ f _ => f4Ok f
  | .redAddF32 _ _ f _ => f4Ok f
  | .tkget _ _ f _ => f4Ok f
  | .tkwait _ _ _ => true
  | .tknext _ _ f _ => f4Ok f
  | .ldS32Signed _ _ f _ => f4Ok f
  | .gath32 _ _ f _ => f4Ok f
  | .gath64 _ _ f _ => f4Ok f
  | .scat32 _ _ f _ => f4Ok f
  | .scat64 _ _ f _ => f4Ok f
  | .ldG8Signed _ _ f _ => f4Ok f
  | .ldG16Signed _ _ f _ => f4Ok f
  | .ldS8Signed _ _ f _ => f4Ok f
  | .ldS16Signed _ _ f _ => f4Ok f
  | .binit _ _ => true
  | .bexpect _ _ => true
  | .barrive _ => true
  | .bwait _ _ => true
  | .btest _ _ => true
  | .qpush x _ => decide (x.toNat < 16)
  | .qpop x _ => decide (x.toNat < 16)
  | .qtryPush x _ _ => decide (x.toNat < 16)
  | .qtryPop x _ _ => decide (x.toNat < 16)
  | .lqsend x _ => decide (x.toNat < 4)
  | .lqrecv x _ => decide (x.toNat < 4)
  | .xfset x => decide (x.toNat < 16)
  | .xfwait x => decide (x.toNat < 16)
  | .bind _ _ => true
  | .unbind _ => true
  | .acq _ z => decide (z.toNat < 2)
  | .rel _ => true
  | .launch _ => true
  | .tidset _ _ => true
  | .tidget _ _ _ => true
  | .tlset _ _ => true
  | .tlstate _ _ => true
  | .copy _ _ => true
  | .xform _ _ => true
  | .wlpush x _ => decide (x.toNat < 16)
  | .wlpop x _ z => f4Ok z && decide (x.toNat < 16)
  | .mma _ _ t _ => decide (t.toNat < 12)
  | .ldstat _ z => f4Ok z
  | .aclr x => decide (x.toNat < 16)
  | .commit _ => true
  | .mwait _ => true
  | .drainPlain x _ z => f4Ok z && decide (x.toNat < 16)
  | .drainConvert x _ z => f4Ok z && decide (x.toNat < 16)
  | .drainQuantise x _ z => f4Ok z && decide (x.toNat < 16)
  | .drainPack x _ z => f4Ok z && decide (x.toNat < 16)
  | .drainElide x _ z => f4Ok z && decide (x.toNat < 16)
  | .rank0 _ _ z => f4Ok z
  | .rank1 _ _ z => f4Ok z
  | .selb0 _ _ z => f4Ok z
  | .selb1 _ _ z => f4Ok z
  | .exc _ _ z => f4Ok z
  | .fclose _ _ z => f4Ok z
  | .fopen _ _ z => f4Ok z
  | .encl _ _ z => f4Ok z
  | .sreg _ _ => true
  | .sunreg _ => true
  | .srepack _ _ => true
  | .bins _ _ z => f4Ok z
  | .bdel _ _ z => f4Ok z
  | .saddr _ _ z => f4Ok z
  | .bkcmd _ => true
  | .bkstat _ _ z => f4Ok z
  | .bkcancel _ => true
  | .wtree _ _ => true
  | .wquery _ _ => true
  | .wappend _ _ => true
  | .wstat _ _ z => f4Ok z
  | .dreg _ _ => true
  | .dunreg _ => true
  | .dquery _ _ z => f4Ok z
  | .imx => true
  | .join => true
  | .nop => true
  | .bkpt => true
  | .yield => true
  | .trap => true
  | .eret => true
  | .pkey => true
  | .fence => true
  | .trig => true
  | .phase => true
  | .swap => true
  | .powerOn => true
  | .deviceReset => true
  | .imageFetchDone => true
  | .bootServerFailure => true
  | .bootRetryWait => true
  | .reducedServiceEntry => true
  | .fullServiceEntry => true
  | .tempSample => true
  | .governorWindow => true
  | .coreFailure => true
  | .dramRowFailure => true
  | .channelFailure => true
  | .walkerFailure => true
  | .copyEngineFailure => true
  | .bankSpareExhausted => true
  | .hostLinkTrain => true
  | .functionLevelReset => true
  | .pldmSensorRead => true
  | .configStoreWrite => true
  | .configStoreRead => true
  | .attestationRequest => true
  | .deviceResetRequest => true
  | .unsupportedCommand => true
  | .write => true
  | .read => true
  | .data => true
  | .atomic => true
  | .old => true
  | .reduce => true
  | .arrive => true
  | .permit => true
  | .ack => true
  | .retry => true
  | .fault => true
  | .digest => true
  | .order => true
  | .datagramDrop => true
  | .retransmitTimer => true
  | .ackTimer => true
  | .peerTimeout => true
  | .retryBackoffTimer => true
  | .lockstepPieceClose => true
  | .lockstepLinkLoss => true
  | .bar0Unsupported => true
  | .registerWrite => true
  | .xlinvPage => true
  | .xlinvAll => true
  | .xlinvDone => true
  | .qtailDoorbell => true
  | .qctlWrite => true
  | .cqNop => true
  | .cqLaunch => true
  | .cqSignal => true
  | .signalApply => true
  | .cqWait => true
  | .waitRelease => true
  | .cqEntryRefused => true
  | .eventCounterWrite => true
  | .config => true
  | .readcfg => true
  | .suspend => true
  | .resume => true
  | .interruptLogDelivery => true
  | .reset => true
  | .partitionResetDone => true
  | .setwin => true
  | .attest => true
  | .tensor => true
  | .tidread => true
  | .syncnew => true
  | .syncfree => true
  | .mbUnknownCommand => true
  | .mailboxDone => true
  | .ifptrWrite => true
  | .berrClear => true
  | .preemptRequest => true
  | .preemptResultTimeout => true
  | .preemptSaveDone => true
  | .restore => true
  | .sqdbStop => true
  | .sqdbRead => true
  | .sqdbWrite => true
  | .spanPlace => true
  | .placementWaitTimer => true
  | .dependantStart => true
  | .groupRetire => true
  | .crewRetire => true
  | .taskComplete => true
  | .promotion => true
  | .yieldExpiry => true
  | .joinRelease => true
  | .convergencePark => true
  | .frontierRefillStart => true
  | .frontierRefillDone => true
  | .deadPartyEscalation => true
  | .phaseRelease => true
  | .asyncTrapPark => true
  | .trapRecordEnqueue => true
  | .handlerEntry => true
  | .trapEscalation => true
  | .resultWriteback => true
  | .writeDrain => true
  | .readPerform => true
  | .atomicPerform => true
  | .tknextPerform => true
  | .tkwaitPoll => true
  | .pageWalkDone => true
  | .eddyWindowExpiry => true
  | .barriveCount => true
  | .qpushPlace => true
  | .triggerRecord => true
  | .wlpushEnter => true
  | .slackwaterReport => true
  | .beagleAudit => true
  | .fenceComplete => true
  | .mwaitComplete => true
  | .copyAccept => true
  | .copyStart => true
  | .copyRun => true
  | .pageMigrationDone => true
  | .copyResume => true
  | .copyFail => true
  | .copyCount => true
  | .seqLdstat => true
  | .seqSwap => true
  | .seqMmaStep => true
  | .seqDrain => true
  | .seqAclr => true
  | .seqEntryEnd => true
  | .bankAccept => true
  | .bankStep => true
  | .bankResume => true
  | .bankCount => true
  | .sregDone => true
  | .sunregDone => true
  | .srepackAccept => true
  | .srepackDone => true
  | .succinctQueryPerform => true
  | .saddrPerform => true
  | .binsPerform => true
  | .bdelPerform => true
  | .deltaFold => true
  | .dkstatSample => true
  | .wtreeBindDone => true
  | .wtreeUnbindDone => true
  | .wqueryAccept => true
  | .walkerVisit => true
  | .wquerySummary => true
  | .wappendStep => true
  | .dregDone => true
  | .dunregDone => true
  | .derivedRecompute => true
  | .sqdbResume => true
  | .lockstepMateReset => true
  | .hostMemoryWrite => true
  | .priorityFlowControl => true

/-- The words that an encoding of R81 to R90 names: every constructor but the device's own steps. -/
def Instr.isWord : Instr → Bool
  | .bra _ _ _ => true
  | .call _ _ _ => true
  | .brx _ _ _ => true
  | .ret _ => true
  | .exit _ => true
  | .iadd _ _ _ _ => true
  | .isub _ _ _ _ => true
  | .imul _ _ _ _ => true
  | .imad _ _ _ _ => true
  | .and _ _ _ _ => true
  | .or _ _ _ _ => true
  | .xor _ _ _ _ => true
  | .csel _ _ _ => true
  | .mov _ _ _ => true
  | .not _ _ _ => true
  | .iabs _ _ _ => true
  | .popc _ _ _ => true
  | .clz _ _ _ => true
  | .brev _ _ _ => true
  | .shl _ _ _ => true
  | .shr _ _ _ => true
  | .sar _ _ _ => true
  | .iminI _ _ _ => true
  | .iminN _ _ _ => true
  | .imaxI _ _ _ => true
  | .imaxN _ _ _ => true
  | .imulhI _ _ _ => true
  | .imulhN _ _ _ => true
  | .movOw _ _ _ => true
  | .notOw _ _ _ => true
  | .iabsOw _ _ _ => true
  | .popcOw _ _ _ => true
  | .clzOw _ _ _ => true
  | .brevOw _ _ _ => true
  | .shlOw _ _ _ => true
  | .shrOw _ _ _ => true
  | .sarOw _ _ _ => true
  | .iminIOw _ _ _ => true
  | .iminNOw _ _ _ => true
  | .imaxIOw _ _ _ => true
  | .imaxNOw _ _ _ => true
  | .imulhIOw _ _ _ => true
  | .imulhNOw _ _ _ => true
  | .iaddOw _ _ _ => true
  | .isubOw _ _ _ => true
  | .imulOw _ _ _ => true
  | .andOw _ _ _ => true
  | .orOw _ _ _ => true
  | .xorOw _ _ _ => true
  | .movi _ _ _ => true
  | .iaddImm _ _ _ => true
  | .imulImm _ _ _ => true
  | .andImm _ _ _ => true
  | .orImm _ _ _ => true
  | .xorImm _ _ _ => true
  | .shlImm _ _ _ => true
  | .shrImm _ _ _ => true
  | .sarImm _ _ _ => true
  | .iminIImm _ _ _ => true
  | .imaxIImm _ _ _ => true
  | .iminNImm _ _ _ => true
  | .imaxNImm _ _ _ => true
  | .moviOw _ _ _ => true
  | .iaddImmOw _ _ _ => true
  | .imulImmOw _ _ _ => true
  | .andImmOw _ _ _ => true
  | .orImmOw _ _ _ => true
  | .xorImmOw _ _ _ => true
  | .shlImmOw _ _ _ => true
  | .shrImmOw _ _ _ => true
  | .sarImmOw _ _ _ => true
  | .iminIImmOw _ _ _ => true
  | .imaxIImmOw _ _ _ => true
  | .iminNImmOw _ _ _ => true
  | .imaxNImmOw _ _ _ => true
  | .bfe _ _ _ _ => true
  | .bfi _ _ _ _ => true
  | .faddF32 _ _ _ _ => true
  | .fmulF32 _ _ _ _ => true
  | .fmaF32 _ _ _ _ => true
  | .faddF32Imm _ _ _ _ => true
  | .fmulF32Imm _ _ _ _ => true
  | .fmaF16 _ _ _ _ => true
  | .fmaBf16 _ _ _ _ => true
  | .faddF16 _ _ _ _ => true
  | .fcmp _ _ _ _ _ => true
  | .fminF32 _ _ _ => true
  | .fmaxF32 _ _ _ => true
  | .frcp _ _ _ => true
  | .frsq _ _ _ => true
  | .fsqrt _ _ _ => true
  | .fex2 _ _ _ => true
  | .flg2 _ _ _ => true
  | .faddBf16 _ _ _ => true
  | .fmulBf16 _ _ _ => true
  | .fmulF16 _ _ _ => true
  | .fminF16 _ _ _ => true
  | .fmaxF16 _ _ _ => true
  | .fminBf16 _ _ _ => true
  | .fmaxBf16 _ _ _ => true
  | .faddF32Rz _ _ _ => true
  | .faddF32Ru _ _ _ => true
  | .faddF32Rd _ _ _ => true
  | .fmulF32Rz _ _ _ => true
  | .fmulF32Ru _ _ _ => true
  | .fmulF32Rd _ _ _ => true
  | .cvtFromF32 _ _ _ _ _ => true
  | .cvtToF32 _ _ _ _ _ => true
  | .icmp _ _ _ _ _ => true
  | .icmpN _ _ _ _ _ => true
  | .pand _ _ _ _ _ _ => true
  | .por _ _ _ _ _ _ => true
  | .pxor _ _ _ _ _ _ => true
  | .pnot _ _ _ _ => true
  | .pmov _ _ _ _ => true
  | .voteAll _ _ _ _ => true
  | .voteAny _ _ _ _ => true
  | .voteEq _ _ _ _ => true
  | .ballot _ _ _ _ => true
  | .matchLanes _ _ _ => true
  | .shfl _ _ _ _ => true
  | .clock _ => true
  | .srd _ _ => true
  | .swr _ _ => true
  | .gresume _ => true
  | .gkill _ => true
  | .grd _ _ => true
  | .gwr _ _ => true
  | .ldG8 _ _ _ _ => true
  | .ldG16 _ _ _ _ => true
  | .ldG32 _ _ _ _ => true
  | .ldG64 _ _ _ _ => true
  | .ldG4 _ _ _ _ => true
  | .ldG128 _ _ _ _ => true
  | .ldS4 _ _ _ _ => true
  | .ldS128 _ _ _ _ => true
  | .ldS8 _ _ _ _ => true
  | .ldS16 _ _ _ _ => true
  | .ldS32 _ _ _ _ => true
  | .ldS64 _ _ _ _ => true
  | .ldpf _ _ _ _ => true
  | .ldG4Signed _ _ _ _ => true
  | .ldS4Signed _ _ _ _ => true
  | .ldG32Signed _ _ _ _ => true
  | .stG8 _ _ _ _ => true
  | .stG16 _ _ _ _ => true
  | .stG32 _ _ _ _ => true
  | .stG64 _ _ _ _ => true
  | .stG4 _ _ _ _ => true
  | .stG128 _ _ _ _ => true
  | .stS4 _ _ _ _ => true
  | .stS128 _ _ _ _ => true
  | .stS8 _ _ _ _ => true
  | .stS16 _ _ _ _ => true
  | .stS32 _ _ _ _ => true
  | .stS64 _ _ _ _ => true
  | .tlook _ _ _ _ => true
  | .tins _ _ _ _ => true
  | .tevict _ _ _ => true
  | .tinv _ _ _ _ => true
  | .atomAdd _ _ _ _ => true
  | .atomMin _ _ _ _ => true
  | .atomMax _ _ _ _ => true
  | .atomExch _ _ _ _ => true
  | .atomAnd _ _ _ _ => true
  | .atomOr _ _ _ _ => true
  | .atomXor _ _ _ _ => true
  | .cas _ _ _ _ => true
  | .redAdd _ _ _ _ => true
  | .redMin _ _ _ _ => true
  | .redMax _ _ _ _ => true
  | .redAddF32 _ _ _ _ => true
  | .tkget _ _ _ _ => true
  | .tkwait _ _ _ => true
  | .tknext _ _ _ _ => true
  | .ldS32Signed _ _ _ _ => true
  | .gath32 _ _ _ _ => true
  | .gath64 _ _ _ _ => true
  | .scat32 _ _ _ _ => true
  | .scat64 _ _ _ _ => true
  | .ldG8Signed _ _ _ _ => true
  | .ldG16Signed _ _ _ _ => true
  | .ldS8Signed _ _ _ _ => true
  | .ldS16Signed _ _ _ _ => true
  | .binit _ _ => true
  | .bexpect _ _ => true
  | .barrive _ => true
  | .bwait _ _ => true
  | .btest _ _ => true
  | .qpush _ _ => true
  | .qpop _ _ => true
  | .qtryPush _ _ _ => true
  | .qtryPop _ _ _ => true
  | .lqsend _ _ => true
  | .lqrecv _ _ => true
  | .xfset _ => true
  | .xfwait _ => true
  | .bind _ _ => true
  | .unbind _ => true
  | .acq _ _ => true
  | .rel _ => true
  | .launch _ => true
  | .tidset _ _ => true
  | .tidget _ _ _ => true
  | .tlset _ _ => true
  | .tlstate _ _ => true
  | .copy _ _ => true
  | .xform _ _ => true
  | .wlpush _ _ => true
  | .wlpop _ _ _ => true
  | .mma _ _ _ _ => true
  | .ldstat _ _ => true
  | .aclr _ => true
  | .commit _ => true
  | .mwait _ => true
  | .drainPlain _ _ _ => true
  | .drainConvert _ _ _ => true
  | .drainQuantise _ _ _ => true
  | .drainPack _ _ _ => true
  | .drainElide _ _ _ => true
  | .rank0 _ _ _ => true
  | .rank1 _ _ _ => true
  | .selb0 _ _ _ => true
  | .selb1 _ _ _ => true
  | .exc _ _ _ => true
  | .fclose _ _ _ => true
  | .fopen _ _ _ => true
  | .encl _ _ _ => true
  | .sreg _ _ => true
  | .sunreg _ => true
  | .srepack _ _ => true
  | .bins _ _ _ => true
  | .bdel _ _ _ => true
  | .saddr _ _ _ => true
  | .bkcmd _ => true
  | .bkstat _ _ _ => true
  | .bkcancel _ => true
  | .wtree _ _ => true
  | .wquery _ _ => true
  | .wappend _ _ => true
  | .wstat _ _ _ => true
  | .dreg _ _ => true
  | .dunreg _ => true
  | .dquery _ _ _ => true
  | .imx => true
  | .join => true
  | .nop => true
  | .bkpt => true
  | .yield => true
  | .trap => true
  | .eret => true
  | .pkey => true
  | .fence => true
  | .trig => true
  | .phase => true
  | .swap => true
  | .powerOn => false
  | .deviceReset => false
  | .imageFetchDone => false
  | .bootServerFailure => false
  | .bootRetryWait => false
  | .reducedServiceEntry => false
  | .fullServiceEntry => false
  | .tempSample => false
  | .governorWindow => false
  | .coreFailure => false
  | .dramRowFailure => false
  | .channelFailure => false
  | .walkerFailure => false
  | .copyEngineFailure => false
  | .bankSpareExhausted => false
  | .hostLinkTrain => false
  | .functionLevelReset => false
  | .pldmSensorRead => false
  | .configStoreWrite => false
  | .configStoreRead => false
  | .attestationRequest => false
  | .deviceResetRequest => false
  | .unsupportedCommand => false
  | .write => false
  | .read => false
  | .data => false
  | .atomic => false
  | .old => false
  | .reduce => false
  | .arrive => false
  | .permit => false
  | .ack => false
  | .retry => false
  | .fault => false
  | .digest => false
  | .order => false
  | .datagramDrop => false
  | .retransmitTimer => false
  | .ackTimer => false
  | .peerTimeout => false
  | .retryBackoffTimer => false
  | .lockstepPieceClose => false
  | .lockstepLinkLoss => false
  | .bar0Unsupported => false
  | .registerWrite => false
  | .xlinvPage => false
  | .xlinvAll => false
  | .xlinvDone => false
  | .qtailDoorbell => false
  | .qctlWrite => false
  | .cqNop => false
  | .cqLaunch => false
  | .cqSignal => false
  | .signalApply => false
  | .cqWait => false
  | .waitRelease => false
  | .cqEntryRefused => false
  | .eventCounterWrite => false
  | .config => false
  | .readcfg => false
  | .suspend => false
  | .resume => false
  | .interruptLogDelivery => false
  | .reset => false
  | .partitionResetDone => false
  | .setwin => false
  | .attest => false
  | .tensor => false
  | .tidread => false
  | .syncnew => false
  | .syncfree => false
  | .mbUnknownCommand => false
  | .mailboxDone => false
  | .ifptrWrite => false
  | .berrClear => false
  | .preemptRequest => false
  | .preemptResultTimeout => false
  | .preemptSaveDone => false
  | .restore => false
  | .sqdbStop => false
  | .sqdbRead => false
  | .sqdbWrite => false
  | .spanPlace => false
  | .placementWaitTimer => false
  | .dependantStart => false
  | .groupRetire => false
  | .crewRetire => false
  | .taskComplete => false
  | .promotion => false
  | .yieldExpiry => false
  | .joinRelease => false
  | .convergencePark => false
  | .frontierRefillStart => false
  | .frontierRefillDone => false
  | .deadPartyEscalation => false
  | .phaseRelease => false
  | .asyncTrapPark => false
  | .trapRecordEnqueue => false
  | .handlerEntry => false
  | .trapEscalation => false
  | .resultWriteback => false
  | .writeDrain => false
  | .readPerform => false
  | .atomicPerform => false
  | .tknextPerform => false
  | .tkwaitPoll => false
  | .pageWalkDone => false
  | .eddyWindowExpiry => false
  | .barriveCount => false
  | .qpushPlace => false
  | .triggerRecord => false
  | .wlpushEnter => false
  | .slackwaterReport => false
  | .beagleAudit => false
  | .fenceComplete => false
  | .mwaitComplete => false
  | .copyAccept => false
  | .copyStart => false
  | .copyRun => false
  | .pageMigrationDone => false
  | .copyResume => false
  | .copyFail => false
  | .copyCount => false
  | .seqLdstat => false
  | .seqSwap => false
  | .seqMmaStep => false
  | .seqDrain => false
  | .seqAclr => false
  | .seqEntryEnd => false
  | .bankAccept => false
  | .bankStep => false
  | .bankResume => false
  | .bankCount => false
  | .sregDone => false
  | .sunregDone => false
  | .srepackAccept => false
  | .srepackDone => false
  | .succinctQueryPerform => false
  | .saddrPerform => false
  | .binsPerform => false
  | .bdelPerform => false
  | .deltaFold => false
  | .dkstatSample => false
  | .wtreeBindDone => false
  | .wtreeUnbindDone => false
  | .wqueryAccept => false
  | .walkerVisit => false
  | .wquerySummary => false
  | .wappendStep => false
  | .dregDone => false
  | .dunregDone => false
  | .derivedRecompute => false
  | .sqdbResume => false
  | .lockstepMateReset => false
  | .hostMemoryWrite => false
  | .priorityFlowControl => false

end Sys2Proof
end

