-- ==== Sys2Proof/Decode.lean ====
section
/-! DEFINITION. Reading an instruction word (spec 05, R70 to R91) and writing one. The decoder takes the 32 bits of a
word and answers its header and its term, or refuses it; the device raises `ILLEGAL_OP` for a refused word (R91). -/

namespace Sys2Proof

/-- The header of a word: C at bit 31, Y at 30, D at 29 and 28, W at 27 to 25 (R70). -/
def hdrOf (w : Word) (imm : BitVec 19) : Hdr where
  c := w.getLsbD 31
  y := w.getLsbD 30
  d := w.extractLsb' 28 2
  w := w.extractLsb' 25 3
  imm := imm

/-- The number a word carries beside its term (R78, R82): the payload of `IMX`, the x field of `BKPT`, `TRAP` and
`PKEY`, the scope z of `FENCE`; 0 for the other words. -/
def immOf (i : Instr) (p : BitVec 19) : BitVec 19 :=
  match i with
  | .imx => p
  | .bkpt => (p.extractLsb' 0 8).setWidth 19
  | .trap => (p.extractLsb' 0 8).setWidth 19
  | .pkey => (p.extractLsb' 0 7).setWidth 19
  | .fence => (p.extractLsb' 3 3).setWidth 19
  | _ => 0#19

/-- The major opcode of a word (R70). -/
def opOf (w : Word) : BitVec 6 := w.extractLsb' 19 6

/-- The payload of a word (R70). -/
def payloadOf (w : Word) : BitVec 19 := w.extractLsb' 0 19

/-- A word from its header, opcode and payload (R70). -/
def packWord (h : Hdr) (op : BitVec 6) (p : BitVec 19) : Word :=
  BitVec.ofBool h.c ++ BitVec.ofBool h.y ++ h.d ++ h.w ++ op ++ p

/-- Opcode 0x00. -/
def decodeOp00 (p : BitVec 19) : Option Instr :=
  if p.extractLsb' 14 5 = 3#5 ∧ p.extractLsb' 0 8 = 0#8 then some (.clock (p.extractLsb' 8 6)) else
  if p.extractLsb' 14 5 = 4#5 then some (.srd (p.extractLsb' 8 6) (p.extractLsb' 0 8)) else
  if p.extractLsb' 14 5 = 5#5 then some (.swr (p.extractLsb' 8 6) (p.extractLsb' 0 8)) else
  if p.extractLsb' 8 11 = 512#11 ∧ p.extractLsb' 0 2 = 0#2 then some (.gresume (p.extractLsb' 2 6)) else
  if p.extractLsb' 8 11 = 576#11 ∧ p.extractLsb' 0 2 = 0#2 then some (.gkill (p.extractLsb' 2 6)) else
  if p.extractLsb' 14 5 = 10#5 ∧ p.extractLsb' 0 2 = 0#2 then some (.grd (p.extractLsb' 8 6) (p.extractLsb' 2 6)) else
  if p.extractLsb' 14 5 = 11#5 ∧ p.extractLsb' 0 2 = 0#2 then some (.gwr (p.extractLsb' 8 6) (p.extractLsb' 2 6)) else
  if p.extractLsb' 0 19 = 0#19 then some (.nop) else
  if p.extractLsb' 8 11 = 64#11 then some (.bkpt) else
  if p.extractLsb' 0 19 = 32768#19 then some (.yield) else
  if p.extractLsb' 8 11 = 384#11 then some (.trap) else
  if p.extractLsb' 0 19 = 114688#19 then some (.eret) else
  if p.extractLsb' 7 12 = 1536#12 then some (.pkey) else
  none

/-- Opcode 0x01. -/
def decodeOp01 (_p : BitVec 19) : Option Instr :=
  some (.imx)

/-- Opcode 0x02. -/
def decodeOp02 (p : BitVec 19) : Option Instr :=
  some (.bra (p.extractLsb' 15 4) (p.extractLsb' 12 3) (p.extractLsb' 0 12))

/-- Opcode 0x03. -/
def decodeOp03 (p : BitVec 19) : Option Instr :=
  some (.call (p.extractLsb' 15 4) (p.extractLsb' 12 3) (p.extractLsb' 0 12))

/-- Opcode 0x04. -/
def decodeOp04 (p : BitVec 19) : Option Instr :=
  if p.extractLsb' 0 6 = 0#6 then some (.brx (p.extractLsb' 15 4) (p.extractLsb' 12 3) (p.extractLsb' 6 6)) else
  none

/-- Opcode 0x05. -/
def decodeOp05 (p : BitVec 19) : Option Instr :=
  if p.extractLsb' 15 4 = 0#4 ∧ p.extractLsb' 0 12 = 0#12 then some (.ret (p.extractLsb' 12 3)) else
  none

/-- Opcode 0x06. -/
def decodeOp06 (p : BitVec 19) : Option Instr :=
  if p.extractLsb' 0 19 = 0#19 then some (.join) else
  none

/-- Opcode 0x07. -/
def decodeOp07 (p : BitVec 19) : Option Instr :=
  if p.extractLsb' 15 4 = 0#4 ∧ p.extractLsb' 0 12 = 0#12 then some (.exit (p.extractLsb' 12 3)) else
  none

/-- Opcode 0x08. -/
def decodeOp08 (p : BitVec 19) : Option Instr :=
  some (.iadd (p.extractLsb' 13 6) (p.extractLsb' 7 6) (p.extractLsb' 1 6) (p.extractLsb' 0 1))

/-- Opcode 0x09. -/
def decodeOp09 (p : BitVec 19) : Option Instr :=
  some (.isub (p.extractLsb' 13 6) (p.extractLsb' 7 6) (p.extractLsb' 1 6) (p.extractLsb' 0 1))

/-- Opcode 0x0A. -/
def decodeOp0A (p : BitVec 19) : Option Instr :=
  some (.imul (p.extractLsb' 13 6) (p.extractLsb' 7 6) (p.extractLsb' 1 6) (p.extractLsb' 0 1))

/-- Opcode 0x0B. -/
def decodeOp0B (p : BitVec 19) : Option Instr :=
  some (.imad (p.extractLsb' 13 6) (p.extractLsb' 7 6) (p.extractLsb' 1 6) (p.extractLsb' 0 1))

/-- Opcode 0x0C. -/
def decodeOp0C (p : BitVec 19) : Option Instr :=
  some (.and (p.extractLsb' 13 6) (p.extractLsb' 7 6) (p.extractLsb' 1 6) (p.extractLsb' 0 1))

/-- Opcode 0x0D. -/
def decodeOp0D (p : BitVec 19) : Option Instr :=
  some (.or (p.extractLsb' 13 6) (p.extractLsb' 7 6) (p.extractLsb' 1 6) (p.extractLsb' 0 1))

/-- Opcode 0x0E. -/
def decodeOp0E (p : BitVec 19) : Option Instr :=
  some (.xor (p.extractLsb' 13 6) (p.extractLsb' 7 6) (p.extractLsb' 1 6) (p.extractLsb' 0 1))

/-- Opcode 0x0F. -/
def decodeOp0F (p : BitVec 19) : Option Instr :=
  if p.extractLsb' 0 1 = 0#1 then some (.csel (p.extractLsb' 13 6) (p.extractLsb' 7 6) (p.extractLsb' 1 6)) else
  none

/-- Opcode 0x10. -/
def decodeOp10 (p : BitVec 19) : Option Instr :=
  if p.extractLsb' 1 6 = 0#6 then some (.mov (p.extractLsb' 13 6) (p.extractLsb' 7 6) (p.extractLsb' 0 1)) else
  if p.extractLsb' 1 6 = 1#6 then some (.not (p.extractLsb' 13 6) (p.extractLsb' 7 6) (p.extractLsb' 0 1)) else
  if p.extractLsb' 1 6 = 2#6 then some (.iabs (p.extractLsb' 13 6) (p.extractLsb' 7 6) (p.extractLsb' 0 1)) else
  if p.extractLsb' 1 6 = 3#6 then some (.popc (p.extractLsb' 13 6) (p.extractLsb' 7 6) (p.extractLsb' 0 1)) else
  if p.extractLsb' 1 6 = 4#6 then some (.clz (p.extractLsb' 13 6) (p.extractLsb' 7 6) (p.extractLsb' 0 1)) else
  if p.extractLsb' 1 6 = 5#6 then some (.brev (p.extractLsb' 13 6) (p.extractLsb' 7 6) (p.extractLsb' 0 1)) else
  if p.extractLsb' 1 6 = 6#6 then some (.shl (p.extractLsb' 13 6) (p.extractLsb' 7 6) (p.extractLsb' 0 1)) else
  if p.extractLsb' 1 6 = 7#6 then some (.shr (p.extractLsb' 13 6) (p.extractLsb' 7 6) (p.extractLsb' 0 1)) else
  if p.extractLsb' 1 6 = 8#6 then some (.sar (p.extractLsb' 13 6) (p.extractLsb' 7 6) (p.extractLsb' 0 1)) else
  if p.extractLsb' 1 6 = 9#6 then some (.iminI (p.extractLsb' 13 6) (p.extractLsb' 7 6) (p.extractLsb' 0 1)) else
  if p.extractLsb' 1 6 = 10#6 then some (.iminN (p.extractLsb' 13 6) (p.extractLsb' 7 6) (p.extractLsb' 0 1)) else
  if p.extractLsb' 1 6 = 11#6 then some (.imaxI (p.extractLsb' 13 6) (p.extractLsb' 7 6) (p.extractLsb' 0 1)) else
  if p.extractLsb' 1 6 = 12#6 then some (.imaxN (p.extractLsb' 13 6) (p.extractLsb' 7 6) (p.extractLsb' 0 1)) else
  if p.extractLsb' 1 6 = 13#6 then some (.imulhI (p.extractLsb' 13 6) (p.extractLsb' 7 6) (p.extractLsb' 0 1)) else
  if p.extractLsb' 1 6 = 14#6 then some (.imulhN (p.extractLsb' 13 6) (p.extractLsb' 7 6) (p.extractLsb' 0 1)) else
  if p.extractLsb' 1 6 = 32#6 then some (.movOw (p.extractLsb' 13 6) (p.extractLsb' 7 6) (p.extractLsb' 0 1)) else
  if p.extractLsb' 1 6 = 33#6 then some (.notOw (p.extractLsb' 13 6) (p.extractLsb' 7 6) (p.extractLsb' 0 1)) else
  if p.extractLsb' 1 6 = 34#6 then some (.iabsOw (p.extractLsb' 13 6) (p.extractLsb' 7 6) (p.extractLsb' 0 1)) else
  if p.extractLsb' 1 6 = 35#6 then some (.popcOw (p.extractLsb' 13 6) (p.extractLsb' 7 6) (p.extractLsb' 0 1)) else
  if p.extractLsb' 1 6 = 36#6 then some (.clzOw (p.extractLsb' 13 6) (p.extractLsb' 7 6) (p.extractLsb' 0 1)) else
  if p.extractLsb' 1 6 = 37#6 then some (.brevOw (p.extractLsb' 13 6) (p.extractLsb' 7 6) (p.extractLsb' 0 1)) else
  if p.extractLsb' 1 6 = 38#6 then some (.shlOw (p.extractLsb' 13 6) (p.extractLsb' 7 6) (p.extractLsb' 0 1)) else
  if p.extractLsb' 1 6 = 39#6 then some (.shrOw (p.extractLsb' 13 6) (p.extractLsb' 7 6) (p.extractLsb' 0 1)) else
  if p.extractLsb' 1 6 = 40#6 then some (.sarOw (p.extractLsb' 13 6) (p.extractLsb' 7 6) (p.extractLsb' 0 1)) else
  if p.extractLsb' 1 6 = 41#6 then some (.iminIOw (p.extractLsb' 13 6) (p.extractLsb' 7 6) (p.extractLsb' 0 1)) else
  if p.extractLsb' 1 6 = 42#6 then some (.iminNOw (p.extractLsb' 13 6) (p.extractLsb' 7 6) (p.extractLsb' 0 1)) else
  if p.extractLsb' 1 6 = 43#6 then some (.imaxIOw (p.extractLsb' 13 6) (p.extractLsb' 7 6) (p.extractLsb' 0 1)) else
  if p.extractLsb' 1 6 = 44#6 then some (.imaxNOw (p.extractLsb' 13 6) (p.extractLsb' 7 6) (p.extractLsb' 0 1)) else
  if p.extractLsb' 1 6 = 45#6 then some (.imulhIOw (p.extractLsb' 13 6) (p.extractLsb' 7 6) (p.extractLsb' 0 1)) else
  if p.extractLsb' 1 6 = 46#6 then some (.imulhNOw (p.extractLsb' 13 6) (p.extractLsb' 7 6) (p.extractLsb' 0 1)) else
  if p.extractLsb' 1 6 = 48#6 then some (.iaddOw (p.extractLsb' 13 6) (p.extractLsb' 7 6) (p.extractLsb' 0 1)) else
  if p.extractLsb' 1 6 = 49#6 then some (.isubOw (p.extractLsb' 13 6) (p.extractLsb' 7 6) (p.extractLsb' 0 1)) else
  if p.extractLsb' 1 6 = 50#6 then some (.imulOw (p.extractLsb' 13 6) (p.extractLsb' 7 6) (p.extractLsb' 0 1)) else
  if p.extractLsb' 1 6 = 52#6 then some (.andOw (p.extractLsb' 13 6) (p.extractLsb' 7 6) (p.extractLsb' 0 1)) else
  if p.extractLsb' 1 6 = 53#6 then some (.orOw (p.extractLsb' 13 6) (p.extractLsb' 7 6) (p.extractLsb' 0 1)) else
  if p.extractLsb' 1 6 = 54#6 then some (.xorOw (p.extractLsb' 13 6) (p.extractLsb' 7 6) (p.extractLsb' 0 1)) else
  none

/-- Opcode 0x11. -/
def decodeOp11 (p : BitVec 19) : Option Instr :=
  if p.extractLsb' 7 6 = 0#6 then some (.movi (p.extractLsb' 13 6) (p.extractLsb' 1 6) (p.extractLsb' 0 1)) else
  if p.extractLsb' 7 6 = 1#6 then some (.iaddImm (p.extractLsb' 13 6) (p.extractLsb' 1 6) (p.extractLsb' 0 1)) else
  if p.extractLsb' 7 6 = 2#6 then some (.imulImm (p.extractLsb' 13 6) (p.extractLsb' 1 6) (p.extractLsb' 0 1)) else
  if p.extractLsb' 7 6 = 3#6 then some (.andImm (p.extractLsb' 13 6) (p.extractLsb' 1 6) (p.extractLsb' 0 1)) else
  if p.extractLsb' 7 6 = 4#6 then some (.orImm (p.extractLsb' 13 6) (p.extractLsb' 1 6) (p.extractLsb' 0 1)) else
  if p.extractLsb' 7 6 = 5#6 then some (.xorImm (p.extractLsb' 13 6) (p.extractLsb' 1 6) (p.extractLsb' 0 1)) else
  if p.extractLsb' 7 6 = 6#6 then some (.shlImm (p.extractLsb' 13 6) (p.extractLsb' 1 6) (p.extractLsb' 0 1)) else
  if p.extractLsb' 7 6 = 7#6 then some (.shrImm (p.extractLsb' 13 6) (p.extractLsb' 1 6) (p.extractLsb' 0 1)) else
  if p.extractLsb' 7 6 = 8#6 then some (.sarImm (p.extractLsb' 13 6) (p.extractLsb' 1 6) (p.extractLsb' 0 1)) else
  if p.extractLsb' 7 6 = 9#6 then some (.iminIImm (p.extractLsb' 13 6) (p.extractLsb' 1 6) (p.extractLsb' 0 1)) else
  if p.extractLsb' 7 6 = 10#6 then some (.imaxIImm (p.extractLsb' 13 6) (p.extractLsb' 1 6) (p.extractLsb' 0 1)) else
  if p.extractLsb' 7 6 = 11#6 then some (.iminNImm (p.extractLsb' 13 6) (p.extractLsb' 1 6) (p.extractLsb' 0 1)) else
  if p.extractLsb' 7 6 = 12#6 then some (.imaxNImm (p.extractLsb' 13 6) (p.extractLsb' 1 6) (p.extractLsb' 0 1)) else
  if p.extractLsb' 7 6 = 32#6 then some (.moviOw (p.extractLsb' 13 6) (p.extractLsb' 1 6) (p.extractLsb' 0 1)) else
  if p.extractLsb' 7 6 = 33#6 then some (.iaddImmOw (p.extractLsb' 13 6) (p.extractLsb' 1 6) (p.extractLsb' 0 1)) else
  if p.extractLsb' 7 6 = 34#6 then some (.imulImmOw (p.extractLsb' 13 6) (p.extractLsb' 1 6) (p.extractLsb' 0 1)) else
  if p.extractLsb' 7 6 = 35#6 then some (.andImmOw (p.extractLsb' 13 6) (p.extractLsb' 1 6) (p.extractLsb' 0 1)) else
  if p.extractLsb' 7 6 = 36#6 then some (.orImmOw (p.extractLsb' 13 6) (p.extractLsb' 1 6) (p.extractLsb' 0 1)) else
  if p.extractLsb' 7 6 = 37#6 then some (.xorImmOw (p.extractLsb' 13 6) (p.extractLsb' 1 6) (p.extractLsb' 0 1)) else
  if p.extractLsb' 7 6 = 38#6 then some (.shlImmOw (p.extractLsb' 13 6) (p.extractLsb' 1 6) (p.extractLsb' 0 1)) else
  if p.extractLsb' 7 6 = 39#6 then some (.shrImmOw (p.extractLsb' 13 6) (p.extractLsb' 1 6) (p.extractLsb' 0 1)) else
  if p.extractLsb' 7 6 = 40#6 then some (.sarImmOw (p.extractLsb' 13 6) (p.extractLsb' 1 6) (p.extractLsb' 0 1)) else
  if p.extractLsb' 7 6 = 41#6 then some (.iminIImmOw (p.extractLsb' 13 6) (p.extractLsb' 1 6) (p.extractLsb' 0 1)) else
  if p.extractLsb' 7 6 = 42#6 then some (.imaxIImmOw (p.extractLsb' 13 6) (p.extractLsb' 1 6) (p.extractLsb' 0 1)) else
  if p.extractLsb' 7 6 = 43#6 then some (.iminNImmOw (p.extractLsb' 13 6) (p.extractLsb' 1 6) (p.extractLsb' 0 1)) else
  if p.extractLsb' 7 6 = 44#6 then some (.imaxNImmOw (p.extractLsb' 13 6) (p.extractLsb' 1 6) (p.extractLsb' 0 1)) else
  none

/-- Opcode 0x12. -/
def decodeOp12 (p : BitVec 19) : Option Instr :=
  some (.bfe (p.extractLsb' 13 6) (p.extractLsb' 7 6) (p.extractLsb' 1 6) (p.extractLsb' 0 1))

/-- Opcode 0x13. -/
def decodeOp13 (p : BitVec 19) : Option Instr :=
  some (.bfi (p.extractLsb' 13 6) (p.extractLsb' 7 6) (p.extractLsb' 1 6) (p.extractLsb' 0 1))

/-- Opcode 0x14. -/
def decodeOp14 (p : BitVec 19) : Option Instr :=
  some (.faddF32 (p.extractLsb' 13 6) (p.extractLsb' 7 6) (p.extractLsb' 1 6) (p.extractLsb' 0 1))

/-- Opcode 0x15. -/
def decodeOp15 (p : BitVec 19) : Option Instr :=
  some (.fmulF32 (p.extractLsb' 13 6) (p.extractLsb' 7 6) (p.extractLsb' 1 6) (p.extractLsb' 0 1))

/-- Opcode 0x16. -/
def decodeOp16 (p : BitVec 19) : Option Instr :=
  some (.fmaF32 (p.extractLsb' 13 6) (p.extractLsb' 7 6) (p.extractLsb' 1 6) (p.extractLsb' 0 1))

/-- Opcode 0x17. -/
def decodeOp17 (p : BitVec 19) : Option Instr :=
  some (.faddF32Imm (p.extractLsb' 13 6) (p.extractLsb' 7 6) (p.extractLsb' 1 6) (p.extractLsb' 0 1))

/-- Opcode 0x18. -/
def decodeOp18 (p : BitVec 19) : Option Instr :=
  some (.fmulF32Imm (p.extractLsb' 13 6) (p.extractLsb' 7 6) (p.extractLsb' 1 6) (p.extractLsb' 0 1))

/-- Opcode 0x19. -/
def decodeOp19 (p : BitVec 19) : Option Instr :=
  some (.fmaF16 (p.extractLsb' 13 6) (p.extractLsb' 7 6) (p.extractLsb' 1 6) (p.extractLsb' 0 1))

/-- Opcode 0x1A. -/
def decodeOp1A (p : BitVec 19) : Option Instr :=
  some (.fmaBf16 (p.extractLsb' 13 6) (p.extractLsb' 7 6) (p.extractLsb' 1 6) (p.extractLsb' 0 1))

/-- Opcode 0x1B. -/
def decodeOp1B (p : BitVec 19) : Option Instr :=
  some (.faddF16 (p.extractLsb' 13 6) (p.extractLsb' 7 6) (p.extractLsb' 1 6) (p.extractLsb' 0 1))

/-- Opcode 0x1C. -/
def decodeOp1C (p : BitVec 19) : Option Instr :=
  some (.fcmp (p.extractLsb' 16 3) (p.extractLsb' 13 3) (p.extractLsb' 7 6) (p.extractLsb' 1 6) (p.extractLsb' 0 1))

/-- Opcode 0x1D. -/
def decodeOp1D (p : BitVec 19) : Option Instr :=
  if p.extractLsb' 1 6 = 0#6 then some (.fminF32 (p.extractLsb' 13 6) (p.extractLsb' 7 6) (p.extractLsb' 0 1)) else
  if p.extractLsb' 1 6 = 1#6 then some (.fmaxF32 (p.extractLsb' 13 6) (p.extractLsb' 7 6) (p.extractLsb' 0 1)) else
  if p.extractLsb' 1 6 = 2#6 then some (.frcp (p.extractLsb' 13 6) (p.extractLsb' 7 6) (p.extractLsb' 0 1)) else
  if p.extractLsb' 1 6 = 3#6 then some (.frsq (p.extractLsb' 13 6) (p.extractLsb' 7 6) (p.extractLsb' 0 1)) else
  if p.extractLsb' 1 6 = 4#6 then some (.fsqrt (p.extractLsb' 13 6) (p.extractLsb' 7 6) (p.extractLsb' 0 1)) else
  if p.extractLsb' 1 6 = 5#6 then some (.fex2 (p.extractLsb' 13 6) (p.extractLsb' 7 6) (p.extractLsb' 0 1)) else
  if p.extractLsb' 1 6 = 6#6 then some (.flg2 (p.extractLsb' 13 6) (p.extractLsb' 7 6) (p.extractLsb' 0 1)) else
  if p.extractLsb' 1 6 = 8#6 then some (.faddBf16 (p.extractLsb' 13 6) (p.extractLsb' 7 6) (p.extractLsb' 0 1)) else
  if p.extractLsb' 1 6 = 9#6 then some (.fmulBf16 (p.extractLsb' 13 6) (p.extractLsb' 7 6) (p.extractLsb' 0 1)) else
  if p.extractLsb' 1 6 = 10#6 then some (.fmulF16 (p.extractLsb' 13 6) (p.extractLsb' 7 6) (p.extractLsb' 0 1)) else
  if p.extractLsb' 1 6 = 11#6 then some (.fminF16 (p.extractLsb' 13 6) (p.extractLsb' 7 6) (p.extractLsb' 0 1)) else
  if p.extractLsb' 1 6 = 12#6 then some (.fmaxF16 (p.extractLsb' 13 6) (p.extractLsb' 7 6) (p.extractLsb' 0 1)) else
  if p.extractLsb' 1 6 = 13#6 then some (.fminBf16 (p.extractLsb' 13 6) (p.extractLsb' 7 6) (p.extractLsb' 0 1)) else
  if p.extractLsb' 1 6 = 14#6 then some (.fmaxBf16 (p.extractLsb' 13 6) (p.extractLsb' 7 6) (p.extractLsb' 0 1)) else
  if p.extractLsb' 1 6 = 16#6 then some (.faddF32Rz (p.extractLsb' 13 6) (p.extractLsb' 7 6) (p.extractLsb' 0 1)) else
  if p.extractLsb' 1 6 = 17#6 then some (.faddF32Ru (p.extractLsb' 13 6) (p.extractLsb' 7 6) (p.extractLsb' 0 1)) else
  if p.extractLsb' 1 6 = 18#6 then some (.faddF32Rd (p.extractLsb' 13 6) (p.extractLsb' 7 6) (p.extractLsb' 0 1)) else
  if p.extractLsb' 1 6 = 19#6 then some (.fmulF32Rz (p.extractLsb' 13 6) (p.extractLsb' 7 6) (p.extractLsb' 0 1)) else
  if p.extractLsb' 1 6 = 20#6 then some (.fmulF32Ru (p.extractLsb' 13 6) (p.extractLsb' 7 6) (p.extractLsb' 0 1)) else
  if p.extractLsb' 1 6 = 21#6 then some (.fmulF32Rd (p.extractLsb' 13 6) (p.extractLsb' 7 6) (p.extractLsb' 0 1)) else
  none

/-- Opcode 0x1E. -/
def decodeOp1E (p : BitVec 19) : Option Instr :=
  some (.cvtFromF32 (p.extractLsb' 13 6) (p.extractLsb' 7 6) (p.extractLsb' 5 2) (p.extractLsb' 1 4) (p.extractLsb' 0 1))

/-- Opcode 0x1F. -/
def decodeOp1F (p : BitVec 19) : Option Instr :=
  some (.cvtToF32 (p.extractLsb' 13 6) (p.extractLsb' 7 6) (p.extractLsb' 5 2) (p.extractLsb' 1 4) (p.extractLsb' 0 1))

/-- Opcode 0x20. -/
def decodeOp20 (p : BitVec 19) : Option Instr :=
  some (.icmp (p.extractLsb' 16 3) (p.extractLsb' 13 3) (p.extractLsb' 7 6) (p.extractLsb' 1 6) (p.extractLsb' 0 1))

/-- Opcode 0x21. -/
def decodeOp21 (p : BitVec 19) : Option Instr :=
  some (.icmpN (p.extractLsb' 16 3) (p.extractLsb' 13 3) (p.extractLsb' 7 6) (p.extractLsb' 1 6) (p.extractLsb' 0 1))

/-- Opcode 0x22. -/
def decodeOp22 (p : BitVec 19) : Option Instr :=
  if p.extractLsb' 15 4 = 0#4 ∧ p.extractLsb' 1 3 = 0#3 then some (.pand (p.extractLsb' 12 3) (p.extractLsb' 9 3) (p.extractLsb' 8 1) (p.extractLsb' 5 3) (p.extractLsb' 4 1) (p.extractLsb' 0 1)) else
  if p.extractLsb' 15 4 = 1#4 ∧ p.extractLsb' 1 3 = 0#3 then some (.por (p.extractLsb' 12 3) (p.extractLsb' 9 3) (p.extractLsb' 8 1) (p.extractLsb' 5 3) (p.extractLsb' 4 1) (p.extractLsb' 0 1)) else
  if p.extractLsb' 15 4 = 2#4 ∧ p.extractLsb' 1 3 = 0#3 then some (.pxor (p.extractLsb' 12 3) (p.extractLsb' 9 3) (p.extractLsb' 8 1) (p.extractLsb' 5 3) (p.extractLsb' 4 1) (p.extractLsb' 0 1)) else
  if p.extractLsb' 15 4 = 3#4 ∧ p.extractLsb' 1 7 = 0#7 then some (.pnot (p.extractLsb' 12 3) (p.extractLsb' 9 3) (p.extractLsb' 8 1) (p.extractLsb' 0 1)) else
  if p.extractLsb' 15 4 = 4#4 ∧ p.extractLsb' 1 7 = 0#7 then some (.pmov (p.extractLsb' 12 3) (p.extractLsb' 9 3) (p.extractLsb' 8 1) (p.extractLsb' 0 1)) else
  if p.extractLsb' 15 4 = 5#4 ∧ p.extractLsb' 1 7 = 0#7 then some (.voteAll (p.extractLsb' 12 3) (p.extractLsb' 9 3) (p.extractLsb' 8 1) (p.extractLsb' 0 1)) else
  if p.extractLsb' 15 4 = 6#4 ∧ p.extractLsb' 1 7 = 0#7 then some (.voteAny (p.extractLsb' 12 3) (p.extractLsb' 9 3) (p.extractLsb' 8 1) (p.extractLsb' 0 1)) else
  if p.extractLsb' 15 4 = 7#4 ∧ p.extractLsb' 1 7 = 0#7 then some (.voteEq (p.extractLsb' 12 3) (p.extractLsb' 9 3) (p.extractLsb' 8 1) (p.extractLsb' 0 1)) else
  if p.extractLsb' 15 4 = 8#4 ∧ p.extractLsb' 1 4 = 0#4 then some (.ballot (p.extractLsb' 9 6) (p.extractLsb' 6 3) (p.extractLsb' 5 1) (p.extractLsb' 0 1)) else
  if p.extractLsb' 15 4 = 9#4 ∧ p.extractLsb' 1 2 = 0#2 then some (.matchLanes (p.extractLsb' 9 6) (p.extractLsb' 3 6) (p.extractLsb' 0 1)) else
  none

/-- Opcode 0x23. -/
def decodeOp23 (p : BitVec 19) : Option Instr :=
  some (.shfl (p.extractLsb' 13 6) (p.extractLsb' 7 6) (p.extractLsb' 5 2) (p.extractLsb' 0 5))

/-- Opcode 0x24. -/
def decodeOp24 (p : BitVec 19) : Option Instr :=
  if p.extractLsb' 1 2 = 0#2 then some (.ldG8 (p.extractLsb' 13 6) (p.extractLsb' 7 6) (p.extractLsb' 3 4) (p.extractLsb' 0 1)) else
  if p.extractLsb' 1 2 = 1#2 then some (.ldG16 (p.extractLsb' 13 6) (p.extractLsb' 7 6) (p.extractLsb' 3 4) (p.extractLsb' 0 1)) else
  if p.extractLsb' 1 2 = 2#2 then some (.ldG32 (p.extractLsb' 13 6) (p.extractLsb' 7 6) (p.extractLsb' 3 4) (p.extractLsb' 0 1)) else
  if p.extractLsb' 1 2 = 3#2 then some (.ldG64 (p.extractLsb' 13 6) (p.extractLsb' 7 6) (p.extractLsb' 3 4) (p.extractLsb' 0 1)) else
  none

/-- Opcode 0x25. -/
def decodeOp25 (p : BitVec 19) : Option Instr :=
  if p.extractLsb' 1 2 = 0#2 then some (.ldG4 (p.extractLsb' 13 6) (p.extractLsb' 7 6) (p.extractLsb' 3 4) (p.extractLsb' 0 1)) else
  if p.extractLsb' 1 2 = 1#2 then some (.ldG128 (p.extractLsb' 13 6) (p.extractLsb' 7 6) (p.extractLsb' 3 4) (p.extractLsb' 0 1)) else
  if p.extractLsb' 1 2 = 2#2 then some (.ldS4 (p.extractLsb' 13 6) (p.extractLsb' 7 6) (p.extractLsb' 3 4) (p.extractLsb' 0 1)) else
  if p.extractLsb' 1 2 = 3#2 then some (.ldS128 (p.extractLsb' 13 6) (p.extractLsb' 7 6) (p.extractLsb' 3 4) (p.extractLsb' 0 1)) else
  none

/-- Opcode 0x26. -/
def decodeOp26 (p : BitVec 19) : Option Instr :=
  if p.extractLsb' 1 2 = 0#2 then some (.ldS8 (p.extractLsb' 13 6) (p.extractLsb' 7 6) (p.extractLsb' 3 4) (p.extractLsb' 0 1)) else
  if p.extractLsb' 1 2 = 1#2 then some (.ldS16 (p.extractLsb' 13 6) (p.extractLsb' 7 6) (p.extractLsb' 3 4) (p.extractLsb' 0 1)) else
  if p.extractLsb' 1 2 = 2#2 then some (.ldS32 (p.extractLsb' 13 6) (p.extractLsb' 7 6) (p.extractLsb' 3 4) (p.extractLsb' 0 1)) else
  if p.extractLsb' 1 2 = 3#2 then some (.ldS64 (p.extractLsb' 13 6) (p.extractLsb' 7 6) (p.extractLsb' 3 4) (p.extractLsb' 0 1)) else
  none

/-- Opcode 0x27. -/
def decodeOp27 (p : BitVec 19) : Option Instr :=
  if p.extractLsb' 1 2 = 0#2 then some (.ldpf (p.extractLsb' 13 6) (p.extractLsb' 7 6) (p.extractLsb' 3 4) (p.extractLsb' 0 1)) else
  if p.extractLsb' 1 2 = 1#2 then some (.ldG4Signed (p.extractLsb' 13 6) (p.extractLsb' 7 6) (p.extractLsb' 3 4) (p.extractLsb' 0 1)) else
  if p.extractLsb' 1 2 = 2#2 then some (.ldS4Signed (p.extractLsb' 13 6) (p.extractLsb' 7 6) (p.extractLsb' 3 4) (p.extractLsb' 0 1)) else
  if p.extractLsb' 1 2 = 3#2 then some (.ldG32Signed (p.extractLsb' 13 6) (p.extractLsb' 7 6) (p.extractLsb' 3 4) (p.extractLsb' 0 1)) else
  none

/-- Opcode 0x28. -/
def decodeOp28 (p : BitVec 19) : Option Instr :=
  if p.extractLsb' 1 2 = 0#2 then some (.stG8 (p.extractLsb' 13 6) (p.extractLsb' 7 6) (p.extractLsb' 3 4) (p.extractLsb' 0 1)) else
  if p.extractLsb' 1 2 = 1#2 then some (.stG16 (p.extractLsb' 13 6) (p.extractLsb' 7 6) (p.extractLsb' 3 4) (p.extractLsb' 0 1)) else
  if p.extractLsb' 1 2 = 2#2 then some (.stG32 (p.extractLsb' 13 6) (p.extractLsb' 7 6) (p.extractLsb' 3 4) (p.extractLsb' 0 1)) else
  if p.extractLsb' 1 2 = 3#2 then some (.stG64 (p.extractLsb' 13 6) (p.extractLsb' 7 6) (p.extractLsb' 3 4) (p.extractLsb' 0 1)) else
  none

/-- Opcode 0x29. -/
def decodeOp29 (p : BitVec 19) : Option Instr :=
  if p.extractLsb' 1 2 = 0#2 then some (.stG4 (p.extractLsb' 13 6) (p.extractLsb' 7 6) (p.extractLsb' 3 4) (p.extractLsb' 0 1)) else
  if p.extractLsb' 1 2 = 1#2 then some (.stG128 (p.extractLsb' 13 6) (p.extractLsb' 7 6) (p.extractLsb' 3 4) (p.extractLsb' 0 1)) else
  if p.extractLsb' 1 2 = 2#2 then some (.stS4 (p.extractLsb' 13 6) (p.extractLsb' 7 6) (p.extractLsb' 3 4) (p.extractLsb' 0 1)) else
  if p.extractLsb' 1 2 = 3#2 then some (.stS128 (p.extractLsb' 13 6) (p.extractLsb' 7 6) (p.extractLsb' 3 4) (p.extractLsb' 0 1)) else
  none

/-- Opcode 0x2A. -/
def decodeOp2A (p : BitVec 19) : Option Instr :=
  if p.extractLsb' 1 2 = 0#2 then some (.stS8 (p.extractLsb' 13 6) (p.extractLsb' 7 6) (p.extractLsb' 3 4) (p.extractLsb' 0 1)) else
  if p.extractLsb' 1 2 = 1#2 then some (.stS16 (p.extractLsb' 13 6) (p.extractLsb' 7 6) (p.extractLsb' 3 4) (p.extractLsb' 0 1)) else
  if p.extractLsb' 1 2 = 2#2 then some (.stS32 (p.extractLsb' 13 6) (p.extractLsb' 7 6) (p.extractLsb' 3 4) (p.extractLsb' 0 1)) else
  if p.extractLsb' 1 2 = 3#2 then some (.stS64 (p.extractLsb' 13 6) (p.extractLsb' 7 6) (p.extractLsb' 3 4) (p.extractLsb' 0 1)) else
  none

/-- Opcode 0x2B. -/
def decodeOp2B (p : BitVec 19) : Option Instr :=
  if p.extractLsb' 1 2 = 0#2 then some (.tlook (p.extractLsb' 13 6) (p.extractLsb' 7 6) (p.extractLsb' 3 4) (p.extractLsb' 0 1)) else
  if p.extractLsb' 1 2 = 1#2 then some (.tins (p.extractLsb' 13 6) (p.extractLsb' 7 6) (p.extractLsb' 3 4) (p.extractLsb' 0 1)) else
  if p.extractLsb' 7 6 = 0#6 ∧ p.extractLsb' 1 2 = 2#2 then some (.tevict (p.extractLsb' 13 6) (p.extractLsb' 3 4) (p.extractLsb' 0 1)) else
  if p.extractLsb' 1 2 = 3#2 then some (.tinv (p.extractLsb' 13 6) (p.extractLsb' 7 6) (p.extractLsb' 3 4) (p.extractLsb' 0 1)) else
  none

/-- Opcode 0x2C. -/
def decodeOp2C (p : BitVec 19) : Option Instr :=
  if p.extractLsb' 1 2 = 0#2 then some (.atomAdd (p.extractLsb' 13 6) (p.extractLsb' 7 6) (p.extractLsb' 3 4) (p.extractLsb' 0 1)) else
  if p.extractLsb' 1 2 = 1#2 then some (.atomMin (p.extractLsb' 13 6) (p.extractLsb' 7 6) (p.extractLsb' 3 4) (p.extractLsb' 0 1)) else
  if p.extractLsb' 1 2 = 2#2 then some (.atomMax (p.extractLsb' 13 6) (p.extractLsb' 7 6) (p.extractLsb' 3 4) (p.extractLsb' 0 1)) else
  if p.extractLsb' 1 2 = 3#2 then some (.atomExch (p.extractLsb' 13 6) (p.extractLsb' 7 6) (p.extractLsb' 3 4) (p.extractLsb' 0 1)) else
  none

/-- Opcode 0x2D. -/
def decodeOp2D (p : BitVec 19) : Option Instr :=
  if p.extractLsb' 1 2 = 0#2 then some (.atomAnd (p.extractLsb' 13 6) (p.extractLsb' 7 6) (p.extractLsb' 3 4) (p.extractLsb' 0 1)) else
  if p.extractLsb' 1 2 = 1#2 then some (.atomOr (p.extractLsb' 13 6) (p.extractLsb' 7 6) (p.extractLsb' 3 4) (p.extractLsb' 0 1)) else
  if p.extractLsb' 1 2 = 2#2 then some (.atomXor (p.extractLsb' 13 6) (p.extractLsb' 7 6) (p.extractLsb' 3 4) (p.extractLsb' 0 1)) else
  if p.extractLsb' 1 2 = 3#2 then some (.cas (p.extractLsb' 13 6) (p.extractLsb' 7 6) (p.extractLsb' 3 4) (p.extractLsb' 0 1)) else
  none

/-- Opcode 0x2E. -/
def decodeOp2E (p : BitVec 19) : Option Instr :=
  if p.extractLsb' 1 2 = 0#2 then some (.redAdd (p.extractLsb' 13 6) (p.extractLsb' 7 6) (p.extractLsb' 3 4) (p.extractLsb' 0 1)) else
  if p.extractLsb' 1 2 = 1#2 then some (.redMin (p.extractLsb' 13 6) (p.extractLsb' 7 6) (p.extractLsb' 3 4) (p.extractLsb' 0 1)) else
  if p.extractLsb' 1 2 = 2#2 then some (.redMax (p.extractLsb' 13 6) (p.extractLsb' 7 6) (p.extractLsb' 3 4) (p.extractLsb' 0 1)) else
  if p.extractLsb' 1 2 = 3#2 then some (.redAddF32 (p.extractLsb' 13 6) (p.extractLsb' 7 6) (p.extractLsb' 3 4) (p.extractLsb' 0 1)) else
  none

/-- Opcode 0x2F. -/
def decodeOp2F (p : BitVec 19) : Option Instr :=
  if p.extractLsb' 1 2 = 0#2 then some (.tkget (p.extractLsb' 13 6) (p.extractLsb' 7 6) (p.extractLsb' 3 4) (p.extractLsb' 0 1)) else
  if p.extractLsb' 1 6 = 61#6 then some (.tkwait (p.extractLsb' 13 6) (p.extractLsb' 7 6) (p.extractLsb' 0 1)) else
  if p.extractLsb' 1 2 = 2#2 then some (.tknext (p.extractLsb' 13 6) (p.extractLsb' 7 6) (p.extractLsb' 3 4) (p.extractLsb' 0 1)) else
  if p.extractLsb' 1 2 = 3#2 then some (.ldS32Signed (p.extractLsb' 13 6) (p.extractLsb' 7 6) (p.extractLsb' 3 4) (p.extractLsb' 0 1)) else
  none

/-- Opcode 0x30. -/
def decodeOp30 (p : BitVec 19) : Option Instr :=
  if p.extractLsb' 0 7 = 0#7 then some (.binit (p.extractLsb' 13 6) (p.extractLsb' 7 6)) else
  if p.extractLsb' 0 7 = 1#7 then some (.bexpect (p.extractLsb' 13 6) (p.extractLsb' 7 6)) else
  if p.extractLsb' 0 13 = 2#13 then some (.barrive (p.extractLsb' 13 6)) else
  if p.extractLsb' 6 7 = 0#7 ∧ p.extractLsb' 0 3 = 3#3 then some (.bwait (p.extractLsb' 13 6) (p.extractLsb' 3 3)) else
  if p.extractLsb' 6 7 = 0#7 ∧ p.extractLsb' 0 3 = 4#3 then some (.btest (p.extractLsb' 13 6) (p.extractLsb' 3 3)) else
  none

/-- Opcode 0x31. -/
def decodeOp31 (p : BitVec 19) : Option Instr :=
  if p.extractLsb' 0 7 = 0#7 then some (.qpush (p.extractLsb' 13 6) (p.extractLsb' 7 6)) else
  if p.extractLsb' 0 7 = 1#7 then some (.qpop (p.extractLsb' 13 6) (p.extractLsb' 7 6)) else
  if p.extractLsb' 6 1 = 0#1 ∧ p.extractLsb' 0 3 = 2#3 then some (.qtryPush (p.extractLsb' 13 6) (p.extractLsb' 7 6) (p.extractLsb' 3 3)) else
  if p.extractLsb' 6 1 = 0#1 ∧ p.extractLsb' 0 3 = 3#3 then some (.qtryPop (p.extractLsb' 13 6) (p.extractLsb' 7 6) (p.extractLsb' 3 3)) else
  if p.extractLsb' 0 7 = 4#7 then some (.lqsend (p.extractLsb' 13 6) (p.extractLsb' 7 6)) else
  if p.extractLsb' 0 7 = 5#7 then some (.lqrecv (p.extractLsb' 13 6) (p.extractLsb' 7 6)) else
  if p.extractLsb' 0 13 = 6#13 then some (.xfset (p.extractLsb' 13 6)) else
  if p.extractLsb' 0 13 = 7#13 then some (.xfwait (p.extractLsb' 13 6)) else
  none

/-- Opcode 0x32. -/
def decodeOp32 (p : BitVec 19) : Option Instr :=
  if p.extractLsb' 0 7 = 0#7 then some (.bind (p.extractLsb' 13 6) (p.extractLsb' 7 6)) else
  if p.extractLsb' 13 6 = 0#6 ∧ p.extractLsb' 0 7 = 1#7 then some (.unbind (p.extractLsb' 7 6)) else
  if p.extractLsb' 6 7 = 0#7 ∧ p.extractLsb' 0 3 = 2#3 then some (.acq (p.extractLsb' 13 6) (p.extractLsb' 3 3)) else
  if p.extractLsb' 0 13 = 3#13 then some (.rel (p.extractLsb' 13 6)) else
  if p.extractLsb' 6 13 = 0#13 ∧ p.extractLsb' 0 3 = 4#3 ∧ (p.extractLsb' 3 3).toNat < 5 then some (.fence) else
  if p.extractLsb' 0 19 = 5#19 then some (.trig) else
  none

/-- Opcode 0x33. -/
def decodeOp33 (p : BitVec 19) : Option Instr :=
  if p.extractLsb' 0 13 = 0#13 then some (.launch (p.extractLsb' 13 6)) else
  if p.extractLsb' 0 19 = 1#19 then some (.phase) else
  none

/-- Opcode 0x34. -/
def decodeOp34 (p : BitVec 19) : Option Instr :=
  if p.extractLsb' 0 7 = 0#7 then some (.tidset (p.extractLsb' 13 6) (p.extractLsb' 7 6)) else
  if p.extractLsb' 6 1 = 0#1 ∧ p.extractLsb' 0 3 = 1#3 then some (.tidget (p.extractLsb' 13 6) (p.extractLsb' 7 6) (p.extractLsb' 3 3)) else
  if p.extractLsb' 0 7 = 2#7 then some (.tlset (p.extractLsb' 13 6) (p.extractLsb' 7 6)) else
  if p.extractLsb' 0 7 = 3#7 then some (.tlstate (p.extractLsb' 13 6) (p.extractLsb' 7 6)) else
  none

/-- Opcode 0x35. -/
def decodeOp35 (p : BitVec 19) : Option Instr :=
  if p.extractLsb' 0 7 = 0#7 then some (.copy (p.extractLsb' 13 6) (p.extractLsb' 7 6)) else
  if p.extractLsb' 0 7 = 1#7 then some (.xform (p.extractLsb' 13 6) (p.extractLsb' 7 6)) else
  none

/-- Opcode 0x36. -/
def decodeOp36 (p : BitVec 19) : Option Instr :=
  if p.extractLsb' 1 2 = 0#2 then some (.gath32 (p.extractLsb' 13 6) (p.extractLsb' 7 6) (p.extractLsb' 3 4) (p.extractLsb' 0 1)) else
  if p.extractLsb' 1 2 = 1#2 then some (.gath64 (p.extractLsb' 13 6) (p.extractLsb' 7 6) (p.extractLsb' 3 4) (p.extractLsb' 0 1)) else
  if p.extractLsb' 1 2 = 2#2 then some (.scat32 (p.extractLsb' 13 6) (p.extractLsb' 7 6) (p.extractLsb' 3 4) (p.extractLsb' 0 1)) else
  if p.extractLsb' 1 2 = 3#2 then some (.scat64 (p.extractLsb' 13 6) (p.extractLsb' 7 6) (p.extractLsb' 3 4) (p.extractLsb' 0 1)) else
  none

/-- Opcode 0x37. -/
def decodeOp37 (p : BitVec 19) : Option Instr :=
  if p.extractLsb' 0 7 = 0#7 then some (.wlpush (p.extractLsb' 13 6) (p.extractLsb' 7 6)) else
  if p.extractLsb' 0 3 = 1#3 then some (.wlpop (p.extractLsb' 13 6) (p.extractLsb' 7 6) (p.extractLsb' 3 4)) else
  none

/-- Opcode 0x38. -/
def decodeOp38 (p : BitVec 19) : Option Instr :=
  some (.mma (p.extractLsb' 15 4) (p.extractLsb' 10 5) (p.extractLsb' 6 4) (p.extractLsb' 0 6))

/-- Opcode 0x39. -/
def decodeOp39 (p : BitVec 19) : Option Instr :=
  if p.extractLsb' 7 6 = 0#6 ∧ p.extractLsb' 0 3 = 0#3 then some (.ldstat (p.extractLsb' 13 6) (p.extractLsb' 3 4)) else
  if p.extractLsb' 0 13 = 2#13 then some (.aclr (p.extractLsb' 13 6)) else
  if p.extractLsb' 0 13 = 3#13 then some (.commit (p.extractLsb' 13 6)) else
  if p.extractLsb' 0 13 = 4#13 then some (.mwait (p.extractLsb' 13 6)) else
  if p.extractLsb' 0 19 = 1#19 then some (.swap) else
  none

/-- Opcode 0x3A. -/
def decodeOp3A (p : BitVec 19) : Option Instr :=
  if p.extractLsb' 0 3 = 0#3 then some (.drainPlain (p.extractLsb' 13 6) (p.extractLsb' 7 6) (p.extractLsb' 3 4)) else
  if p.extractLsb' 0 3 = 1#3 then some (.drainConvert (p.extractLsb' 13 6) (p.extractLsb' 7 6) (p.extractLsb' 3 4)) else
  if p.extractLsb' 0 3 = 2#3 then some (.drainQuantise (p.extractLsb' 13 6) (p.extractLsb' 7 6) (p.extractLsb' 3 4)) else
  if p.extractLsb' 0 3 = 3#3 then some (.drainPack (p.extractLsb' 13 6) (p.extractLsb' 7 6) (p.extractLsb' 3 4)) else
  if p.extractLsb' 0 3 = 4#3 then some (.drainElide (p.extractLsb' 13 6) (p.extractLsb' 7 6) (p.extractLsb' 3 4)) else
  none

/-- Opcode 0x3B. -/
def decodeOp3B (p : BitVec 19) : Option Instr :=
  if p.extractLsb' 1 2 = 0#2 then some (.ldG8Signed (p.extractLsb' 13 6) (p.extractLsb' 7 6) (p.extractLsb' 3 4) (p.extractLsb' 0 1)) else
  if p.extractLsb' 1 2 = 1#2 then some (.ldG16Signed (p.extractLsb' 13 6) (p.extractLsb' 7 6) (p.extractLsb' 3 4) (p.extractLsb' 0 1)) else
  if p.extractLsb' 1 2 = 2#2 then some (.ldS8Signed (p.extractLsb' 13 6) (p.extractLsb' 7 6) (p.extractLsb' 3 4) (p.extractLsb' 0 1)) else
  if p.extractLsb' 1 2 = 3#2 then some (.ldS16Signed (p.extractLsb' 13 6) (p.extractLsb' 7 6) (p.extractLsb' 3 4) (p.extractLsb' 0 1)) else
  none

/-- Opcode 0x3C. -/
def decodeOp3C (p : BitVec 19) : Option Instr :=
  if p.extractLsb' 0 3 = 0#3 then some (.rank0 (p.extractLsb' 13 6) (p.extractLsb' 7 6) (p.extractLsb' 3 4)) else
  if p.extractLsb' 0 3 = 1#3 then some (.rank1 (p.extractLsb' 13 6) (p.extractLsb' 7 6) (p.extractLsb' 3 4)) else
  if p.extractLsb' 0 3 = 2#3 then some (.selb0 (p.extractLsb' 13 6) (p.extractLsb' 7 6) (p.extractLsb' 3 4)) else
  if p.extractLsb' 0 3 = 3#3 then some (.selb1 (p.extractLsb' 13 6) (p.extractLsb' 7 6) (p.extractLsb' 3 4)) else
  if p.extractLsb' 0 3 = 4#3 then some (.exc (p.extractLsb' 13 6) (p.extractLsb' 7 6) (p.extractLsb' 3 4)) else
  if p.extractLsb' 0 3 = 5#3 then some (.fclose (p.extractLsb' 13 6) (p.extractLsb' 7 6) (p.extractLsb' 3 4)) else
  if p.extractLsb' 0 3 = 6#3 then some (.fopen (p.extractLsb' 13 6) (p.extractLsb' 7 6) (p.extractLsb' 3 4)) else
  if p.extractLsb' 0 3 = 7#3 then some (.encl (p.extractLsb' 13 6) (p.extractLsb' 7 6) (p.extractLsb' 3 4)) else
  none

/-- Opcode 0x3D. -/
def decodeOp3D (p : BitVec 19) : Option Instr :=
  if p.extractLsb' 0 7 = 0#7 then some (.sreg (p.extractLsb' 13 6) (p.extractLsb' 7 6)) else
  if p.extractLsb' 0 13 = 1#13 then some (.sunreg (p.extractLsb' 13 6)) else
  if p.extractLsb' 0 7 = 2#7 then some (.srepack (p.extractLsb' 13 6) (p.extractLsb' 7 6)) else
  if p.extractLsb' 0 3 = 3#3 then some (.bins (p.extractLsb' 13 6) (p.extractLsb' 7 6) (p.extractLsb' 3 4)) else
  if p.extractLsb' 0 3 = 4#3 then some (.bdel (p.extractLsb' 13 6) (p.extractLsb' 7 6) (p.extractLsb' 3 4)) else
  if p.extractLsb' 0 3 = 5#3 then some (.saddr (p.extractLsb' 13 6) (p.extractLsb' 7 6) (p.extractLsb' 3 4)) else
  none

/-- Opcode 0x3E. -/
def decodeOp3E (p : BitVec 19) : Option Instr :=
  if p.extractLsb' 0 13 = 0#13 then some (.bkcmd (p.extractLsb' 13 6)) else
  if p.extractLsb' 0 3 = 1#3 then some (.bkstat (p.extractLsb' 13 6) (p.extractLsb' 7 6) (p.extractLsb' 3 4)) else
  if p.extractLsb' 13 6 = 0#6 ∧ p.extractLsb' 0 7 = 2#7 then some (.bkcancel (p.extractLsb' 7 6)) else
  if p.extractLsb' 0 7 = 3#7 then some (.wtree (p.extractLsb' 13 6) (p.extractLsb' 7 6)) else
  if p.extractLsb' 0 7 = 4#7 then some (.wquery (p.extractLsb' 13 6) (p.extractLsb' 7 6)) else
  if p.extractLsb' 0 7 = 5#7 then some (.wappend (p.extractLsb' 13 6) (p.extractLsb' 7 6)) else
  if p.extractLsb' 0 3 = 6#3 then some (.wstat (p.extractLsb' 13 6) (p.extractLsb' 7 6) (p.extractLsb' 3 4)) else
  none

/-- Opcode 0x3F. -/
def decodeOp3F (p : BitVec 19) : Option Instr :=
  if p.extractLsb' 0 7 = 0#7 then some (.dreg (p.extractLsb' 13 6) (p.extractLsb' 7 6)) else
  if p.extractLsb' 0 13 = 1#13 then some (.dunreg (p.extractLsb' 13 6)) else
  if p.extractLsb' 0 3 = 2#3 then some (.dquery (p.extractLsb' 13 6) (p.extractLsb' 7 6) (p.extractLsb' 3 4)) else
  none

/-- The term of a payload under its major opcode (R81); opcodes that no row of R81 names are refused. -/
def decodePayload (op : BitVec 6) (p : BitVec 19) : Option Instr :=
  match op.toNat with
  | 0 => decodeOp00 p
  | 1 => decodeOp01 p
  | 2 => decodeOp02 p
  | 3 => decodeOp03 p
  | 4 => decodeOp04 p
  | 5 => decodeOp05 p
  | 6 => decodeOp06 p
  | 7 => decodeOp07 p
  | 8 => decodeOp08 p
  | 9 => decodeOp09 p
  | 10 => decodeOp0A p
  | 11 => decodeOp0B p
  | 12 => decodeOp0C p
  | 13 => decodeOp0D p
  | 14 => decodeOp0E p
  | 15 => decodeOp0F p
  | 16 => decodeOp10 p
  | 17 => decodeOp11 p
  | 18 => decodeOp12 p
  | 19 => decodeOp13 p
  | 20 => decodeOp14 p
  | 21 => decodeOp15 p
  | 22 => decodeOp16 p
  | 23 => decodeOp17 p
  | 24 => decodeOp18 p
  | 25 => decodeOp19 p
  | 26 => decodeOp1A p
  | 27 => decodeOp1B p
  | 28 => decodeOp1C p
  | 29 => decodeOp1D p
  | 30 => decodeOp1E p
  | 31 => decodeOp1F p
  | 32 => decodeOp20 p
  | 33 => decodeOp21 p
  | 34 => decodeOp22 p
  | 35 => decodeOp23 p
  | 36 => decodeOp24 p
  | 37 => decodeOp25 p
  | 38 => decodeOp26 p
  | 39 => decodeOp27 p
  | 40 => decodeOp28 p
  | 41 => decodeOp29 p
  | 42 => decodeOp2A p
  | 43 => decodeOp2B p
  | 44 => decodeOp2C p
  | 45 => decodeOp2D p
  | 46 => decodeOp2E p
  | 47 => decodeOp2F p
  | 48 => decodeOp30 p
  | 49 => decodeOp31 p
  | 50 => decodeOp32 p
  | 51 => decodeOp33 p
  | 52 => decodeOp34 p
  | 53 => decodeOp35 p
  | 54 => decodeOp36 p
  | 55 => decodeOp37 p
  | 56 => decodeOp38 p
  | 57 => decodeOp39 p
  | 58 => decodeOp3A p
  | 59 => decodeOp3B p
  | 60 => decodeOp3C p
  | 61 => decodeOp3D p
  | 62 => decodeOp3E p
  | 63 => decodeOp3F p
  | _ => none

/-- The header and the term of a word; a word that the encoding does not assign is refused (R91). -/
def decodeWord (w : Word) : Option (Hdr × Instr) :=
  match decodePayload (opOf w) (payloadOf w) with
  | some i => if i.wf then some (hdrOf w (immOf i (payloadOf w)), i) else none
  | none => none

/-- The word of an instruction under a header (R70, R72, R81 to R90). A device step has no word: 0 stands there. -/
def encode (h : Hdr) : Instr → Word
  | .clock d => packWord h 0#6 (3#5 ++ d ++ 0#8)
  | .srd d x => packWord h 0#6 (4#5 ++ d ++ x)
  | .swr d x => packWord h 0#6 (5#5 ++ d ++ x)
  | .gresume a => packWord h 0#6 (512#11 ++ a ++ 0#2)
  | .gkill a => packWord h 0#6 (576#11 ++ a ++ 0#2)
  | .grd d a => packWord h 0#6 (10#5 ++ d ++ a ++ 0#2)
  | .gwr d a => packWord h 0#6 (11#5 ++ d ++ a ++ 0#2)
  | .nop => packWord h 0#6 (0#19)
  | .bkpt => packWord h 0#6 (64#11 ++ h.imm.extractLsb' 0 8)
  | .yield => packWord h 0#6 (32768#19)
  | .trap => packWord h 0#6 (384#11 ++ h.imm.extractLsb' 0 8)
  | .eret => packWord h 0#6 (114688#19)
  | .pkey => packWord h 0#6 (1536#12 ++ h.imm.extractLsb' 0 7)
  | .imx => packWord h 1#6 (h.imm.extractLsb' 0 19)
  | .bra p c o => packWord h 2#6 (p ++ c ++ o)
  | .call p c o => packWord h 3#6 (p ++ c ++ o)
  | .brx p c a => packWord h 4#6 (p ++ c ++ a ++ 0#6)
  | .ret c => packWord h 5#6 (0#4 ++ c ++ 0#12)
  | .join => packWord h 6#6 (0#19)
  | .exit c => packWord h 7#6 (0#4 ++ c ++ 0#12)
  | .iadd d a b g => packWord h 8#6 (d ++ a ++ b ++ g)
  | .isub d a b g => packWord h 9#6 (d ++ a ++ b ++ g)
  | .imul d a b g => packWord h 10#6 (d ++ a ++ b ++ g)
  | .imad d a b g => packWord h 11#6 (d ++ a ++ b ++ g)
  | .and d a b g => packWord h 12#6 (d ++ a ++ b ++ g)
  | .or d a b g => packWord h 13#6 (d ++ a ++ b ++ g)
  | .xor d a b g => packWord h 14#6 (d ++ a ++ b ++ g)
  | .csel d a b => packWord h 15#6 (d ++ a ++ b ++ 0#1)
  | .mov d a g => packWord h 16#6 (d ++ a ++ 0#6 ++ g)
  | .not d a g => packWord h 16#6 (d ++ a ++ 1#6 ++ g)
  | .iabs d a g => packWord h 16#6 (d ++ a ++ 2#6 ++ g)
  | .popc d a g => packWord h 16#6 (d ++ a ++ 3#6 ++ g)
  | .clz d a g => packWord h 16#6 (d ++ a ++ 4#6 ++ g)
  | .brev d a g => packWord h 16#6 (d ++ a ++ 5#6 ++ g)
  | .shl d a g => packWord h 16#6 (d ++ a ++ 6#6 ++ g)
  | .shr d a g => packWord h 16#6 (d ++ a ++ 7#6 ++ g)
  | .sar d a g => packWord h 16#6 (d ++ a ++ 8#6 ++ g)
  | .iminI d a g => packWord h 16#6 (d ++ a ++ 9#6 ++ g)
  | .iminN d a g => packWord h 16#6 (d ++ a ++ 10#6 ++ g)
  | .imaxI d a g => packWord h 16#6 (d ++ a ++ 11#6 ++ g)
  | .imaxN d a g => packWord h 16#6 (d ++ a ++ 12#6 ++ g)
  | .imulhI d a g => packWord h 16#6 (d ++ a ++ 13#6 ++ g)
  | .imulhN d a g => packWord h 16#6 (d ++ a ++ 14#6 ++ g)
  | .movOw d a g => packWord h 16#6 (d ++ a ++ 32#6 ++ g)
  | .notOw d a g => packWord h 16#6 (d ++ a ++ 33#6 ++ g)
  | .iabsOw d a g => packWord h 16#6 (d ++ a ++ 34#6 ++ g)
  | .popcOw d a g => packWord h 16#6 (d ++ a ++ 35#6 ++ g)
  | .clzOw d a g => packWord h 16#6 (d ++ a ++ 36#6 ++ g)
  | .brevOw d a g => packWord h 16#6 (d ++ a ++ 37#6 ++ g)
  | .shlOw d a g => packWord h 16#6 (d ++ a ++ 38#6 ++ g)
  | .shrOw d a g => packWord h 16#6 (d ++ a ++ 39#6 ++ g)
  | .sarOw d a g => packWord h 16#6 (d ++ a ++ 40#6 ++ g)
  | .iminIOw d a g => packWord h 16#6 (d ++ a ++ 41#6 ++ g)
  | .iminNOw d a g => packWord h 16#6 (d ++ a ++ 42#6 ++ g)
  | .imaxIOw d a g => packWord h 16#6 (d ++ a ++ 43#6 ++ g)
  | .imaxNOw d a g => packWord h 16#6 (d ++ a ++ 44#6 ++ g)
  | .imulhIOw d a g => packWord h 16#6 (d ++ a ++ 45#6 ++ g)
  | .imulhNOw d a g => packWord h 16#6 (d ++ a ++ 46#6 ++ g)
  | .iaddOw d a g => packWord h 16#6 (d ++ a ++ 48#6 ++ g)
  | .isubOw d a g => packWord h 16#6 (d ++ a ++ 49#6 ++ g)
  | .imulOw d a g => packWord h 16#6 (d ++ a ++ 50#6 ++ g)
  | .andOw d a g => packWord h 16#6 (d ++ a ++ 52#6 ++ g)
  | .orOw d a g => packWord h 16#6 (d ++ a ++ 53#6 ++ g)
  | .xorOw d a g => packWord h 16#6 (d ++ a ++ 54#6 ++ g)
  | .movi d i g => packWord h 17#6 (d ++ 0#6 ++ i ++ g)
  | .iaddImm d i g => packWord h 17#6 (d ++ 1#6 ++ i ++ g)
  | .imulImm d i g => packWord h 17#6 (d ++ 2#6 ++ i ++ g)
  | .andImm d i g => packWord h 17#6 (d ++ 3#6 ++ i ++ g)
  | .orImm d i g => packWord h 17#6 (d ++ 4#6 ++ i ++ g)
  | .xorImm d i g => packWord h 17#6 (d ++ 5#6 ++ i ++ g)
  | .shlImm d i g => packWord h 17#6 (d ++ 6#6 ++ i ++ g)
  | .shrImm d i g => packWord h 17#6 (d ++ 7#6 ++ i ++ g)
  | .sarImm d i g => packWord h 17#6 (d ++ 8#6 ++ i ++ g)
  | .iminIImm d i g => packWord h 17#6 (d ++ 9#6 ++ i ++ g)
  | .imaxIImm d i g => packWord h 17#6 (d ++ 10#6 ++ i ++ g)
  | .iminNImm d i g => packWord h 17#6 (d ++ 11#6 ++ i ++ g)
  | .imaxNImm d i g => packWord h 17#6 (d ++ 12#6 ++ i ++ g)
  | .moviOw d i g => packWord h 17#6 (d ++ 32#6 ++ i ++ g)
  | .iaddImmOw d i g => packWord h 17#6 (d ++ 33#6 ++ i ++ g)
  | .imulImmOw d i g => packWord h 17#6 (d ++ 34#6 ++ i ++ g)
  | .andImmOw d i g => packWord h 17#6 (d ++ 35#6 ++ i ++ g)
  | .orImmOw d i g => packWord h 17#6 (d ++ 36#6 ++ i ++ g)
  | .xorImmOw d i g => packWord h 17#6 (d ++ 37#6 ++ i ++ g)
  | .shlImmOw d i g => packWord h 17#6 (d ++ 38#6 ++ i ++ g)
  | .shrImmOw d i g => packWord h 17#6 (d ++ 39#6 ++ i ++ g)
  | .sarImmOw d i g => packWord h 17#6 (d ++ 40#6 ++ i ++ g)
  | .iminIImmOw d i g => packWord h 17#6 (d ++ 41#6 ++ i ++ g)
  | .imaxIImmOw d i g => packWord h 17#6 (d ++ 42#6 ++ i ++ g)
  | .iminNImmOw d i g => packWord h 17#6 (d ++ 43#6 ++ i ++ g)
  | .imaxNImmOw d i g => packWord h 17#6 (d ++ 44#6 ++ i ++ g)
  | .bfe d a b g => packWord h 18#6 (d ++ a ++ b ++ g)
  | .bfi d a b g => packWord h 19#6 (d ++ a ++ b ++ g)
  | .faddF32 d a b g => packWord h 20#6 (d ++ a ++ b ++ g)
  | .fmulF32 d a b g => packWord h 21#6 (d ++ a ++ b ++ g)
  | .fmaF32 d a b g => packWord h 22#6 (d ++ a ++ b ++ g)
  | .faddF32Imm d a i g => packWord h 23#6 (d ++ a ++ i ++ g)
  | .fmulF32Imm d a i g => packWord h 24#6 (d ++ a ++ i ++ g)
  | .fmaF16 d a b g => packWord h 25#6 (d ++ a ++ b ++ g)
  | .fmaBf16 d a b g => packWord h 26#6 (d ++ a ++ b ++ g)
  | .faddF16 d a b g => packWord h 27#6 (d ++ a ++ b ++ g)
  | .fcmp p c a b g => packWord h 28#6 (p ++ c ++ a ++ b ++ g)
  | .fminF32 d a g => packWord h 29#6 (d ++ a ++ 0#6 ++ g)
  | .fmaxF32 d a g => packWord h 29#6 (d ++ a ++ 1#6 ++ g)
  | .frcp d a g => packWord h 29#6 (d ++ a ++ 2#6 ++ g)
  | .frsq d a g => packWord h 29#6 (d ++ a ++ 3#6 ++ g)
  | .fsqrt d a g => packWord h 29#6 (d ++ a ++ 4#6 ++ g)
  | .fex2 d a g => packWord h 29#6 (d ++ a ++ 5#6 ++ g)
  | .flg2 d a g => packWord h 29#6 (d ++ a ++ 6#6 ++ g)
  | .faddBf16 d a g => packWord h 29#6 (d ++ a ++ 8#6 ++ g)
  | .fmulBf16 d a g => packWord h 29#6 (d ++ a ++ 9#6 ++ g)
  | .fmulF16 d a g => packWord h 29#6 (d ++ a ++ 10#6 ++ g)
  | .fminF16 d a g => packWord h 29#6 (d ++ a ++ 11#6 ++ g)
  | .fmaxF16 d a g => packWord h 29#6 (d ++ a ++ 12#6 ++ g)
  | .fminBf16 d a g => packWord h 29#6 (d ++ a ++ 13#6 ++ g)
  | .fmaxBf16 d a g => packWord h 29#6 (d ++ a ++ 14#6 ++ g)
  | .faddF32Rz d a g => packWord h 29#6 (d ++ a ++ 16#6 ++ g)
  | .faddF32Ru d a g => packWord h 29#6 (d ++ a ++ 17#6 ++ g)
  | .faddF32Rd d a g => packWord h 29#6 (d ++ a ++ 18#6 ++ g)
  | .fmulF32Rz d a g => packWord h 29#6 (d ++ a ++ 19#6 ++ g)
  | .fmulF32Ru d a g => packWord h 29#6 (d ++ a ++ 20#6 ++ g)
  | .fmulF32Rd d a g => packWord h 29#6 (d ++ a ++ 21#6 ++ g)
  | .cvtFromF32 d a m c g => packWord h 30#6 (d ++ a ++ m ++ c ++ g)
  | .cvtToF32 d a m c g => packWord h 31#6 (d ++ a ++ m ++ c ++ g)
  | .icmp p c a b g => packWord h 32#6 (p ++ c ++ a ++ b ++ g)
  | .icmpN p c a b g => packWord h 33#6 (p ++ c ++ a ++ b ++ g)
  | .pand p a n b m g => packWord h 34#6 (0#4 ++ p ++ a ++ n ++ b ++ m ++ 0#3 ++ g)
  | .por p a n b m g => packWord h 34#6 (1#4 ++ p ++ a ++ n ++ b ++ m ++ 0#3 ++ g)
  | .pxor p a n b m g => packWord h 34#6 (2#4 ++ p ++ a ++ n ++ b ++ m ++ 0#3 ++ g)
  | .pnot p a n g => packWord h 34#6 (3#4 ++ p ++ a ++ n ++ 0#7 ++ g)
  | .pmov p a n g => packWord h 34#6 (4#4 ++ p ++ a ++ n ++ 0#7 ++ g)
  | .voteAll p a n g => packWord h 34#6 (5#4 ++ p ++ a ++ n ++ 0#7 ++ g)
  | .voteAny p a n g => packWord h 34#6 (6#4 ++ p ++ a ++ n ++ 0#7 ++ g)
  | .voteEq p a n g => packWord h 34#6 (7#4 ++ p ++ a ++ n ++ 0#7 ++ g)
  | .ballot d a n g => packWord h 34#6 (8#4 ++ d ++ a ++ n ++ 0#4 ++ g)
  | .matchLanes d a g => packWord h 34#6 (9#4 ++ d ++ a ++ 0#2 ++ g)
  | .shfl d a m n => packWord h 35#6 (d ++ a ++ m ++ n)
  | .ldG8 d a f g => packWord h 36#6 (d ++ a ++ f ++ 0#2 ++ g)
  | .ldG16 d a f g => packWord h 36#6 (d ++ a ++ f ++ 1#2 ++ g)
  | .ldG32 d a f g => packWord h 36#6 (d ++ a ++ f ++ 2#2 ++ g)
  | .ldG64 d a f g => packWord h 36#6 (d ++ a ++ f ++ 3#2 ++ g)
  | .ldG4 d a f g => packWord h 37#6 (d ++ a ++ f ++ 0#2 ++ g)
  | .ldG128 d a f g => packWord h 37#6 (d ++ a ++ f ++ 1#2 ++ g)
  | .ldS4 d a f g => packWord h 37#6 (d ++ a ++ f ++ 2#2 ++ g)
  | .ldS128 d a f g => packWord h 37#6 (d ++ a ++ f ++ 3#2 ++ g)
  | .ldS8 d a f g => packWord h 38#6 (d ++ a ++ f ++ 0#2 ++ g)
  | .ldS16 d a f g => packWord h 38#6 (d ++ a ++ f ++ 1#2 ++ g)
  | .ldS32 d a f g => packWord h 38#6 (d ++ a ++ f ++ 2#2 ++ g)
  | .ldS64 d a f g => packWord h 38#6 (d ++ a ++ f ++ 3#2 ++ g)
  | .ldpf d a f g => packWord h 39#6 (d ++ a ++ f ++ 0#2 ++ g)
  | .ldG4Signed d a f g => packWord h 39#6 (d ++ a ++ f ++ 1#2 ++ g)
  | .ldS4Signed d a f g => packWord h 39#6 (d ++ a ++ f ++ 2#2 ++ g)
  | .ldG32Signed d a f g => packWord h 39#6 (d ++ a ++ f ++ 3#2 ++ g)
  | .stG8 d a f g => packWord h 40#6 (d ++ a ++ f ++ 0#2 ++ g)
  | .stG16 d a f g => packWord h 40#6 (d ++ a ++ f ++ 1#2 ++ g)
  | .stG32 d a f g => packWord h 40#6 (d ++ a ++ f ++ 2#2 ++ g)
  | .stG64 d a f g => packWord h 40#6 (d ++ a ++ f ++ 3#2 ++ g)
  | .stG4 d a f g => packWord h 41#6 (d ++ a ++ f ++ 0#2 ++ g)
  | .stG128 d a f g => packWord h 41#6 (d ++ a ++ f ++ 1#2 ++ g)
  | .stS4 d a f g => packWord h 41#6 (d ++ a ++ f ++ 2#2 ++ g)
  | .stS128 d a f g => packWord h 41#6 (d ++ a ++ f ++ 3#2 ++ g)
  | .stS8 d a f g => packWord h 42#6 (d ++ a ++ f ++ 0#2 ++ g)
  | .stS16 d a f g => packWord h 42#6 (d ++ a ++ f ++ 1#2 ++ g)
  | .stS32 d a f g => packWord h 42#6 (d ++ a ++ f ++ 2#2 ++ g)
  | .stS64 d a f g => packWord h 42#6 (d ++ a ++ f ++ 3#2 ++ g)
  | .tlook d a f g => packWord h 43#6 (d ++ a ++ f ++ 0#2 ++ g)
  | .tins d a f g => packWord h 43#6 (d ++ a ++ f ++ 1#2 ++ g)
  | .tevict d f g => packWord h 43#6 (d ++ 0#6 ++ f ++ 2#2 ++ g)
  | .tinv d a f g => packWord h 43#6 (d ++ a ++ f ++ 3#2 ++ g)
  | .atomAdd d a f g => packWord h 44#6 (d ++ a ++ f ++ 0#2 ++ g)
  | .atomMin d a f g => packWord h 44#6 (d ++ a ++ f ++ 1#2 ++ g)
  | .atomMax d a f g => packWord h 44#6 (d ++ a ++ f ++ 2#2 ++ g)
  | .atomExch d a f g => packWord h 44#6 (d ++ a ++ f ++ 3#2 ++ g)
  | .atomAnd d a f g => packWord h 45#6 (d ++ a ++ f ++ 0#2 ++ g)
  | .atomOr d a f g => packWord h 45#6 (d ++ a ++ f ++ 1#2 ++ g)
  | .atomXor d a f g => packWord h 45#6 (d ++ a ++ f ++ 2#2 ++ g)
  | .cas d a f g => packWord h 45#6 (d ++ a ++ f ++ 3#2 ++ g)
  | .redAdd d a f g => packWord h 46#6 (d ++ a ++ f ++ 0#2 ++ g)
  | .redMin d a f g => packWord h 46#6 (d ++ a ++ f ++ 1#2 ++ g)
  | .redMax d a f g => packWord h 46#6 (d ++ a ++ f ++ 2#2 ++ g)
  | .redAddF32 d a f g => packWord h 46#6 (d ++ a ++ f ++ 3#2 ++ g)
  | .tkget d a f g => packWord h 47#6 (d ++ a ++ f ++ 0#2 ++ g)
  | .tkwait d a g => packWord h 47#6 (d ++ a ++ 61#6 ++ g)
  | .tknext d a f g => packWord h 47#6 (d ++ a ++ f ++ 2#2 ++ g)
  | .ldS32Signed d a f g => packWord h 47#6 (d ++ a ++ f ++ 3#2 ++ g)
  | .binit x y => packWord h 48#6 (x ++ y ++ 0#7)
  | .bexpect x y => packWord h 48#6 (x ++ y ++ 1#7)
  | .barrive x => packWord h 48#6 (x ++ 2#13)
  | .bwait x z => packWord h 48#6 (x ++ 0#7 ++ z ++ 3#3)
  | .btest x z => packWord h 48#6 (x ++ 0#7 ++ z ++ 4#3)
  | .qpush x y => packWord h 49#6 (x ++ y ++ 0#7)
  | .qpop x y => packWord h 49#6 (x ++ y ++ 1#7)
  | .qtryPush x y z => packWord h 49#6 (x ++ y ++ 0#1 ++ z ++ 2#3)
  | .qtryPop x y z => packWord h 49#6 (x ++ y ++ 0#1 ++ z ++ 3#3)
  | .lqsend x y => packWord h 49#6 (x ++ y ++ 4#7)
  | .lqrecv x y => packWord h 49#6 (x ++ y ++ 5#7)
  | .xfset x => packWord h 49#6 (x ++ 6#13)
  | .xfwait x => packWord h 49#6 (x ++ 7#13)
  | .bind x y => packWord h 50#6 (x ++ y ++ 0#7)
  | .unbind y => packWord h 50#6 (0#6 ++ y ++ 1#7)
  | .acq x z => packWord h 50#6 (x ++ 0#7 ++ z ++ 2#3)
  | .rel x => packWord h 50#6 (x ++ 3#13)
  | .fence => packWord h 50#6 (0#13 ++ h.imm.extractLsb' 0 3 ++ 4#3)
  | .trig => packWord h 50#6 (5#19)
  | .launch x => packWord h 51#6 (x ++ 0#13)
  | .phase => packWord h 51#6 (1#19)
  | .tidset x y => packWord h 52#6 (x ++ y ++ 0#7)
  | .tidget x y z => packWord h 52#6 (x ++ y ++ 0#1 ++ z ++ 1#3)
  | .tlset x y => packWord h 52#6 (x ++ y ++ 2#7)
  | .tlstate x y => packWord h 52#6 (x ++ y ++ 3#7)
  | .copy x y => packWord h 53#6 (x ++ y ++ 0#7)
  | .xform x y => packWord h 53#6 (x ++ y ++ 1#7)
  | .gath32 d a f g => packWord h 54#6 (d ++ a ++ f ++ 0#2 ++ g)
  | .gath64 d a f g => packWord h 54#6 (d ++ a ++ f ++ 1#2 ++ g)
  | .scat32 d a f g => packWord h 54#6 (d ++ a ++ f ++ 2#2 ++ g)
  | .scat64 d a f g => packWord h 54#6 (d ++ a ++ f ++ 3#2 ++ g)
  | .wlpush x y => packWord h 55#6 (x ++ y ++ 0#7)
  | .wlpop x y z => packWord h 55#6 (x ++ y ++ z ++ 1#3)
  | .mma e s t r => packWord h 56#6 (e ++ s ++ t ++ r)
  | .ldstat x z => packWord h 57#6 (x ++ 0#6 ++ z ++ 0#3)
  | .aclr x => packWord h 57#6 (x ++ 2#13)
  | .commit x => packWord h 57#6 (x ++ 3#13)
  | .mwait x => packWord h 57#6 (x ++ 4#13)
  | .swap => packWord h 57#6 (1#19)
  | .drainPlain x y z => packWord h 58#6 (x ++ y ++ z ++ 0#3)
  | .drainConvert x y z => packWord h 58#6 (x ++ y ++ z ++ 1#3)
  | .drainQuantise x y z => packWord h 58#6 (x ++ y ++ z ++ 2#3)
  | .drainPack x y z => packWord h 58#6 (x ++ y ++ z ++ 3#3)
  | .drainElide x y z => packWord h 58#6 (x ++ y ++ z ++ 4#3)
  | .ldG8Signed d a f g => packWord h 59#6 (d ++ a ++ f ++ 0#2 ++ g)
  | .ldG16Signed d a f g => packWord h 59#6 (d ++ a ++ f ++ 1#2 ++ g)
  | .ldS8Signed d a f g => packWord h 59#6 (d ++ a ++ f ++ 2#2 ++ g)
  | .ldS16Signed d a f g => packWord h 59#6 (d ++ a ++ f ++ 3#2 ++ g)
  | .rank0 x y z => packWord h 60#6 (x ++ y ++ z ++ 0#3)
  | .rank1 x y z => packWord h 60#6 (x ++ y ++ z ++ 1#3)
  | .selb0 x y z => packWord h 60#6 (x ++ y ++ z ++ 2#3)
  | .selb1 x y z => packWord h 60#6 (x ++ y ++ z ++ 3#3)
  | .exc x y z => packWord h 60#6 (x ++ y ++ z ++ 4#3)
  | .fclose x y z => packWord h 60#6 (x ++ y ++ z ++ 5#3)
  | .fopen x y z => packWord h 60#6 (x ++ y ++ z ++ 6#3)
  | .encl x y z => packWord h 60#6 (x ++ y ++ z ++ 7#3)
  | .sreg x y => packWord h 61#6 (x ++ y ++ 0#7)
  | .sunreg x => packWord h 61#6 (x ++ 1#13)
  | .srepack x y => packWord h 61#6 (x ++ y ++ 2#7)
  | .bins x y z => packWord h 61#6 (x ++ y ++ z ++ 3#3)
  | .bdel x y z => packWord h 61#6 (x ++ y ++ z ++ 4#3)
  | .saddr x y z => packWord h 61#6 (x ++ y ++ z ++ 5#3)
  | .bkcmd x => packWord h 62#6 (x ++ 0#13)
  | .bkstat x y z => packWord h 62#6 (x ++ y ++ z ++ 1#3)
  | .bkcancel y => packWord h 62#6 (0#6 ++ y ++ 2#7)
  | .wtree x y => packWord h 62#6 (x ++ y ++ 3#7)
  | .wquery x y => packWord h 62#6 (x ++ y ++ 4#7)
  | .wappend x y => packWord h 62#6 (x ++ y ++ 5#7)
  | .wstat x y z => packWord h 62#6 (x ++ y ++ z ++ 6#3)
  | .dreg x y => packWord h 63#6 (x ++ y ++ 0#7)
  | .dunreg x => packWord h 63#6 (x ++ 1#13)
  | .dquery x y z => packWord h 63#6 (x ++ y ++ z ++ 2#3)
  | .powerOn => 0#32
  | .deviceReset => 0#32
  | .imageFetchDone => 0#32
  | .bootServerFailure => 0#32
  | .bootRetryWait => 0#32
  | .reducedServiceEntry => 0#32
  | .fullServiceEntry => 0#32
  | .tempSample => 0#32
  | .governorWindow => 0#32
  | .coreFailure => 0#32
  | .dramRowFailure => 0#32
  | .channelFailure => 0#32
  | .walkerFailure => 0#32
  | .copyEngineFailure => 0#32
  | .bankSpareExhausted => 0#32
  | .hostLinkTrain => 0#32
  | .functionLevelReset => 0#32
  | .pldmSensorRead => 0#32
  | .configStoreWrite => 0#32
  | .configStoreRead => 0#32
  | .attestationRequest => 0#32
  | .deviceResetRequest => 0#32
  | .unsupportedCommand => 0#32
  | .write => 0#32
  | .read => 0#32
  | .data => 0#32
  | .atomic => 0#32
  | .old => 0#32
  | .reduce => 0#32
  | .arrive => 0#32
  | .permit => 0#32
  | .ack => 0#32
  | .retry => 0#32
  | .fault => 0#32
  | .digest => 0#32
  | .order => 0#32
  | .datagramDrop => 0#32
  | .retransmitTimer => 0#32
  | .ackTimer => 0#32
  | .peerTimeout => 0#32
  | .retryBackoffTimer => 0#32
  | .lockstepPieceClose => 0#32
  | .lockstepLinkLoss => 0#32
  | .bar0Unsupported => 0#32
  | .registerWrite => 0#32
  | .xlinvPage => 0#32
  | .xlinvAll => 0#32
  | .xlinvDone => 0#32
  | .qtailDoorbell => 0#32
  | .qctlWrite => 0#32
  | .cqNop => 0#32
  | .cqLaunch => 0#32
  | .cqSignal => 0#32
  | .signalApply => 0#32
  | .cqWait => 0#32
  | .waitRelease => 0#32
  | .cqEntryRefused => 0#32
  | .eventCounterWrite => 0#32
  | .config => 0#32
  | .readcfg => 0#32
  | .suspend => 0#32
  | .resume => 0#32
  | .interruptLogDelivery => 0#32
  | .reset => 0#32
  | .partitionResetDone => 0#32
  | .setwin => 0#32
  | .attest => 0#32
  | .tensor => 0#32
  | .tidread => 0#32
  | .syncnew => 0#32
  | .syncfree => 0#32
  | .mbUnknownCommand => 0#32
  | .mailboxDone => 0#32
  | .ifptrWrite => 0#32
  | .berrClear => 0#32
  | .preemptRequest => 0#32
  | .preemptResultTimeout => 0#32
  | .preemptSaveDone => 0#32
  | .restore => 0#32
  | .sqdbStop => 0#32
  | .sqdbRead => 0#32
  | .sqdbWrite => 0#32
  | .spanPlace => 0#32
  | .placementWaitTimer => 0#32
  | .dependantStart => 0#32
  | .groupRetire => 0#32
  | .crewRetire => 0#32
  | .taskComplete => 0#32
  | .promotion => 0#32
  | .yieldExpiry => 0#32
  | .joinRelease => 0#32
  | .convergencePark => 0#32
  | .frontierRefillStart => 0#32
  | .frontierRefillDone => 0#32
  | .deadPartyEscalation => 0#32
  | .phaseRelease => 0#32
  | .asyncTrapPark => 0#32
  | .trapRecordEnqueue => 0#32
  | .handlerEntry => 0#32
  | .trapEscalation => 0#32
  | .resultWriteback => 0#32
  | .writeDrain => 0#32
  | .readPerform => 0#32
  | .atomicPerform => 0#32
  | .tknextPerform => 0#32
  | .tkwaitPoll => 0#32
  | .pageWalkDone => 0#32
  | .eddyWindowExpiry => 0#32
  | .barriveCount => 0#32
  | .qpushPlace => 0#32
  | .triggerRecord => 0#32
  | .wlpushEnter => 0#32
  | .slackwaterReport => 0#32
  | .beagleAudit => 0#32
  | .fenceComplete => 0#32
  | .mwaitComplete => 0#32
  | .copyAccept => 0#32
  | .copyStart => 0#32
  | .copyRun => 0#32
  | .pageMigrationDone => 0#32
  | .copyResume => 0#32
  | .copyFail => 0#32
  | .copyCount => 0#32
  | .seqLdstat => 0#32
  | .seqSwap => 0#32
  | .seqMmaStep => 0#32
  | .seqDrain => 0#32
  | .seqAclr => 0#32
  | .seqEntryEnd => 0#32
  | .bankAccept => 0#32
  | .bankStep => 0#32
  | .bankResume => 0#32
  | .bankCount => 0#32
  | .sregDone => 0#32
  | .sunregDone => 0#32
  | .srepackAccept => 0#32
  | .srepackDone => 0#32
  | .succinctQueryPerform => 0#32
  | .saddrPerform => 0#32
  | .binsPerform => 0#32
  | .bdelPerform => 0#32
  | .deltaFold => 0#32
  | .dkstatSample => 0#32
  | .wtreeBindDone => 0#32
  | .wtreeUnbindDone => 0#32
  | .wqueryAccept => 0#32
  | .walkerVisit => 0#32
  | .wquerySummary => 0#32
  | .wappendStep => 0#32
  | .dregDone => 0#32
  | .dunregDone => 0#32
  | .derivedRecompute => 0#32
  | .sqdbResume => 0#32
  | .lockstepMateReset => 0#32
  | .hostMemoryWrite => 0#32
  | .priorityFlowControl => 0#32

/-- The header with every field 0: no chain, no switch marker, distance 1, no wait. -/
def Hdr.zero : Hdr := ⟨false, false, 0#2, 0#3, 0#19⟩

/-- The word of four bytes at rising addresses (R3, R69). -/
def wordOfBytes (b0 b1 b2 b3 : Byte) : Word := b3 ++ b2 ++ b1 ++ b0

/-- The instruction the decoder reads from a table row's bits: every row of the opcode table with an encoding is one
32-bit word, stored little-endian (R69); the bytes are laid out and read back as the fetch does. -/
def decodeTableWord (nbits w : Nat) : Option Instr :=
  if nbits ≤ 32 then
    let x : Word := BitVec.ofNat 32 (w % 2 ^ nbits)
    (decodeWord (wordOfBytes (x.extractLsb' 0 8) (x.extractLsb' 8 8) (x.extractLsb' 16 8) (x.extractLsb' 24 8))).map Prod.snd
  else none

end Sys2Proof
end

