-- ==== Sys2Proof/Machine/Bits.lean ====
section
/-! DEFINITION. Bytes, words and bit fields: little-endian assembly (R3), fields, population counts, lists of lanes. -/

namespace Sys2Proof.Machine

/-- The number whose little-endian bytes are given (R3). -/
def leNat : List Byte → Nat
  | [] => 0
  | b :: bs => b.toNat + 256 * leNat bs

/-- The `n` little-endian bytes of a number (R3). -/
def leBytes : Nat → Nat → List Byte
  | 0, _ => []
  | n + 1, x => BitVec.ofNat 8 x :: leBytes n (x / 256)

/-- Bits `hi` down to `lo` of a 64-bit value, as a number. -/
def bits (x : Quad) (hi lo : Nat) : Nat := x.toNat / 2 ^ lo % 2 ^ (hi + 1 - lo)

/-- Bits `hi` down to `lo` of a 32-bit value, as a number. -/
def wbits (x : Word) (hi lo : Nat) : Nat := x.toNat / 2 ^ lo % 2 ^ (hi + 1 - lo)

/-- Bit `i` of a 64-bit value. -/
def qbit (x : Quad) (i : Nat) : Bool := x.getLsbD i

/-- The field at byte offset `off`, `n` bytes long, of a descriptor. -/
def field (d : List Byte) (off n : Nat) : Nat := leNat ((d.drop off).take n)

/-- Every byte of `d` from `off`, `n` of them, is 0. -/
def zeroAt (d : List Byte) (off n : Nat) : Bool := ((d.drop off).take n).all (· == 0#8)

/-- Numbers 0 to n - 1. -/
def upto (n : Nat) : List Nat := List.range n

/-- The lanes of a mask, rising. -/
def lanesOf (m : Word) : List Nat := (List.range 32).filter (fun i => m.getLsbD i)

/-- The mask of a list of lanes. -/
def maskOf (l : List Nat) : Word := l.foldl (fun m i => m ||| (1#32 <<< i)) 0#32

/-- The 1 bits of the low `n` bits of a number. -/
def popcount : Nat → Nat → Nat
  | 0, _ => 0
  | n + 1, x => x % 2 + popcount n (x / 2)

/-- The low half of a 64-bit value. -/
def lo32 (x : Quad) : Word := x.setWidth 32

/-- The high half of a 64-bit value. -/
def hi32 (x : Quad) : Word := x.extractLsb' 32 32

/-- The 64-bit value of a pair: the low half first (R184). -/
def pairOf (lo hi : Word) : Quad := hi ++ lo

/-- A word as 64 bits, zero-extended. -/
def zext (x : Word) : Quad := x.setWidth 64

/-- Replaces element `i` of a list. -/
def setNth {α : Type} (l : List α) (i : Nat) (x : α) : List α :=
  match l, i with
  | [], _ => []
  | _ :: t, 0 => x :: t
  | y :: t, i + 1 => y :: setNth t i x

/-- Replaces the elements that a test picks. -/
def updIf {α : Type} (p : α → Bool) (f : α → α) (l : List α) : List α := l.map (fun x => if p x then f x else x)

/-- The least of a list by a measure, the earliest on ties. -/
def leastBy {α : Type} (f : α → Nat) : List α → Option α
  | [] => none
  | x :: t =>
    match leastBy f t with
    | none => some x
    | some y => if f x ≤ f y then some x else some y

/-- Inserts into a list sorted by a comparison, after its equals. -/
def insertBy {α : Type} (lt : α → α → Bool) (x : α) : List α → List α
  | [] => [x]
  | y :: t => if lt x y then x :: y :: t else y :: insertBy lt x t

/-- Sorts by a comparison, keeping the order of equals. -/
def sortBy {α : Type} (lt : α → α → Bool) (l : List α) : List α := l.foldl (fun acc x => insertBy lt x acc) []

/-- Rounds up to a multiple. -/
def roundUp (x m : Nat) : Nat := (x + m - 1) / m * m

/-- Divides and rounds up. -/
def divUp (x m : Nat) : Nat := (x + m - 1) / m

/-- The magnitude of a difference of numbers. -/
def absDiff (x y : Nat) : Nat := if x ≤ y then y - x else x - y

end Sys2Proof.Machine
end

