-- ==== Sys2Proof/Machine/State.lean ====
section
/-! DEFINITION. The state of the machine, as plain data, and the state after reset. Every field names the rule of spec/ that
gives it; the fields marked MODEL are the model's own (log entry 3). -/

namespace Sys2Proof.Machine

/-- Sparse data by number: pairs with rising keys, none of them at the table's default value. -/
abbrev Table (α : Type) := List (Nat × α)

/-- Memory: one byte per home address (R153), as pairs with rising addresses; an unlisted byte reads as 0 (log entry 1).
The homes: package DRAM below 2^48 by frame address, the result windows and register pages of the slices, the scratchpads,
the stack windows and host memory (Machine/Ops.lean says where each lies). -/
abbrev Memory := List Host.Cell

/-- A program counter: packet and slot (R69). -/
structure Pc where
  packet : Nat
  slot : Nat
  deriving DecidableEq, Repr

/-- The state of a frontier entry (R104); a parked entry carries its trap cause. `resuming` is a ready entry whose lanes take their
issue turn from the next cycle (R109, R215). -/
inductive EntrySt where
  | ready
  | resuming
  | joinWait
  | parked (cause : Nat)
  deriving DecidableEq, Repr

/-- A frontier entry (R104); `spilled` tells whether it lies in the spill area (R108). -/
structure Entry where
  pc : Pc
  prio : Nat
  mask : Word
  st : EntrySt
  spilled : Bool
  deriving DecidableEq, Repr

/-- One register or predicate write of a result (R115). Keys of `v` and `p` are 32·number + lane. -/
inductive RegWrite where
  | v (key : Nat) (x : Word)
  | k (reg : Nat) (x : Quad)
  | p (key : Nat) (b : Bool)
  deriving DecidableEq, Repr

/-- A use that has been issued and has not ended (R115, R117): the result's number, the cycle of a fixed-latency
writeback or none for a result that arrives, whether it has arrived, its writes, the flag it counts, the code pointer
of its word (R307), whether it writes registers or predicates (a store does not; R119 waits for those that do), the lanes, each
with its POS, that take `BRACKET` after its writeback (R367), and the cycle of its issue, which with the slot of `pc` is its place in
program order (R77, R115). -/
structure Pend where
  id : Nat
  due : Option Nat
  arrived : Bool
  writes : List RegWrite
  flag : Option Nat
  pc : Word
  reg : Bool
  bracket : List (Nat × Quad)
  iss : Nat
  deriving DecidableEq, Repr

/-- A write that has reached a register: its cycle, the issue cycle and slot of its word, and the write. It bars the writebacks of words
earlier in program order in the same cycle (R115), and those of lower slots of its own chain (R77). -/
structure Wrote where
  cyc : Nat
  issue : Nat
  slot : Nat
  w : RegWrite
  deriving DecidableEq, Repr

/-- The operations of atomics and reductions (R232, R233). -/
inductive AtomOp where
  | add | min | max | exch | and | or | xor | cas | addF32
  deriving DecidableEq, Repr

/-- What a memory request does at its home. -/
inductive ReqKind where
  /-- A load of `bytes` bytes; `nib` for the 4-bit forms, `sx` for the sign-extending encodings (R224). -/
  | load (bytes : Nat) (nib sx : Bool)
  /-- One 64-byte run of an `LDPF` (R227). -/
  | ldpf
  /-- An atomic of `bytes` bytes; `ret` when it returns the old value (R232). -/
  | atomic (op : AtomOp) (bytes : Nat) (ret : Bool)
  | tkget
  | tknext
  /-- A succinct query: fn of OP 0x3C (R366). -/
  | succinct (fn : Nat)
  | saddr
  | bins
  | bdel
  /-- An engine result that one step of the device brings (`SREG`, `WTREE`, ...). -/
  | engine
  deriving DecidableEq, Repr

/-- One lane of a memory request: home address, high-nibble select, operands, the scratchpad home an `LDPF` run fills, the
generic address as the program formed it, and whether it has been performed. -/
structure LaneReq where
  lane : Nat
  home : Nat
  hi : Bool
  x : Quad
  y : Quad
  dst : Option Nat
  ea : Quad
  done : Bool
  deriving DecidableEq, Repr

/-- A memory request that has been issued and not fully performed (R154): its number is that of its result; the uncorrectable granules it has
met, and the lowest lane that read one with its address (R353). -/
structure Req where
  id : Nat
  kind : ReqKind
  d : Nat
  lanes : List LaneReq
  ues : List Nat
  poison : Option (Nat × Quad)
  deriving DecidableEq, Repr

/-- Which memory an access reaches (R150); `host` is a page mapped with LOC 1 (R413). -/
inductive Space where
  | global | scratch | stack | host
  deriving DecidableEq, Repr

/-- A buffered or captured write (R154): its number (program order), the number of its word's result, its agent, its home,
its bytes with the mask of the bits it writes (R159), the page address for R162, and the end of its Eddy window (R230). -/
structure PWrite where
  id : Nat
  rid : Nat
  agent : Ref
  lane : Nat
  home : Nat
  data : List (Byte × Byte)
  va : Nat
  space : Space
  part : Nat
  eddy : Option Nat
  deriving DecidableEq, Repr

/-- An asynchronous trap that waits for its group's next issue (R307); `pc` none: the word in place of which it parks; `lanes`: those
that a `BRACKET` parks, each with its POS (R367), none for a trap of the whole head. -/
structure AsyncTrap where
  cause : Nat
  code : Nat
  addr : Quad
  pc : Option Word
  lanes : List (Nat × Quad)
  deriving DecidableEq, Repr

/-- A trap record (R308); `own` marks the record of a steward's own trapping word, after which it stands parked until its
handler entry (R309), and `esc` a record that R310 escalates whatever the handler (raised in handler mode). -/
structure TrapRec where
  src : Bool
  group : Nat
  code : Nat
  cause : Nat
  pc : Word
  mask : Word
  addr : Quad
  own : Bool
  esc : Bool
  deriving DecidableEq, Repr

/-- Why a stream issues nothing after its last word (R113): a `FENCE` of a scope over the writes before a number in
some lanes (R167), or an `MWAIT` for a batch (R295). -/
inductive Block where
  | fence (scope upto : Nat) (lanes : Word)
  | mwait (batch : Word)
  deriving DecidableEq, Repr

/-- A stream of a crew: the steward (sid 0) or group sid - 1 (R100). `newLevel` is a level that takes effect in the next cycle (R120),
`blockAt` the place and lanes of the word that `blocked` waits for (R309, R312). `direct` are its writes under way that take no buffer
entry: the runs of an `LDPF` (R227) and the rows of a `DRAIN`, whose bytes are not at hand yet (R299). `arrived` is the head entry that has entered its arrival at the
waiting word it stands at (R125, R235, R245, R255). -/
structure Stream where
  sid : Nat
  v : Table Word
  k : Table Quad
  p : Table Bool
  cf : Table Nat
  frontier : List Entry
  expected : Word
  exited : Word
  level : Nat
  newLevel : Option Nat
  promoted : Option Nat
  eligFor : Nat
  parity : Quad
  pkr : Quad
  lqPos : Table Nat
  lastIssue : Option Nat
  yieldUntil : Nat
  ymark : Bool
  blocked : Option Block
  blockAt : Option Entry
  issued : Nat
  pend : List Pend
  wrote : List Wrote
  reqs : List Req
  wb : List PWrite
  direct : List PWrite
  asyncs : List AsyncTrap
  trig : Word
  tkServed : Bool
  arrived : Option Entry
  stopped : Bool
  participant : Bool
  retired : Bool
  refill : Option Nat
  stage : Nat
  tvec : Word
  handler : Option Entry
  trapcause : Word
  trappc : Word
  trapmask : Word
  trapaddr : Quad
  deriving DecidableEq, Repr

/-- A stream with nothing in it: every register 0, no entry. -/
def Stream.blank (sid : Nat) : Stream where
  sid := sid
  v := []
  k := []
  p := []
  cf := []
  frontier := []
  expected := 0xFFFFFFFF#32
  exited := 0#32
  level := 0
  newLevel := none
  promoted := none
  eligFor := 0
  parity := 0#64
  pkr := 0#64
  lqPos := []
  lastIssue := none
  yieldUntil := 0
  ymark := false
  blocked := none
  blockAt := none
  issued := 0
  pend := []
  wrote := []
  reqs := []
  wb := []
  direct := []
  asyncs := []
  trig := 0#32
  tkServed := false
  arrived := none
  stopped := false
  participant := false
  retired := false
  refill := none
  stage := 0
  tvec := 0#32
  handler := none
  trapcause := 0#32
  trappc := 0#32
  trapmask := 0#32
  trapaddr := 0#64

/-- A barrier object (R153, R168). -/
structure Barrier where
  expArr : Nat
  arr : Nat
  expBytes : Nat
  bytes : Nat
  reload : Nat
  phase : Bool
  err : Bool
  deriving DecidableEq, Repr

/-- A barrier with no declaration (R240). -/
def Barrier.blank : Barrier := ⟨0, 0, 0, 0, 0, false, false⟩

/-- A scratchpad queue (R56, R124, R241); `inflight` counts pushes whose handle has not been placed (R171). -/
structure TileQueue where
  decl : Bool
  prod : Nat
  cons : Nat
  cap : Nat
  allow : Nat
  handles : List Nat
  inflight : Nat
  deriving DecidableEq, Repr

/-- A queue that was never declared: allowance 32 (R124). -/
def TileQueue.blank : TileQueue := ⟨false, 0, 0, 32, 32, [], 0⟩

/-- A lane-uniform queue (R101): entries with the cycle of their append (R204), up entries with their group too; `base` is the
position of the oldest down entry. -/
structure Lq where
  down : List (Quad × Nat)
  base : Nat
  up : List (Quad × Nat × Nat)
  deriving DecidableEq, Repr

/-- A tile-table entry (R265); `readers` counts the transfers that are reading it while it is draining. -/
structure Tile where
  tid : Nat
  tv : Bool
  st : Nat
  pin : Bool
  pitch : Nat
  bytes : Nat
  offset : Nat
  readers : Nat
  deriving DecidableEq, Repr

/-- A tag-table entry (R228): its line address, and the inserter's agent with the number below which its writes to the slot
must have drained before the entry is visible (R172). -/
structure TagEnt where
  line : Nat
  owner : Ref
  lane : Nat
  upto : Nat
  deriving DecidableEq, Repr

/-- A delayed effect of a word that takes effect some cycles after its issue (R214, R215, R240). -/
inductive LateOp where
  | grd | gwr | gresume | gkill | binit | bexpect
  deriving DecidableEq, Repr

/-- A delayed effect: its cycle, the stream that issued it, its operands and its result number. -/
structure Late where
  due : Nat
  sid : Nat
  op : LateOp
  x : Quad
  y : Quad
  d : Nat
  id : Nat
  deriving DecidableEq, Repr

/-- The shape a plane records (R287): weight type, sparsity, stored depth, effective depth, columns. -/
structure PlaneShape where
  typ : Nat
  spar : Nat
  ks : Nat
  keff : Nat
  n : Nat
  deriving DecidableEq, Repr

/-- A loaded weight plane (R283, R286): its shape, whether scales are given, the midpoint flag of its tensor (R141), the column
pitch and the bytes read. -/
structure Plane where
  shape : PlaneShape
  sc : Bool
  mid : Bool
  pitch : Nat
  data : List Byte
  deriving DecidableEq, Repr

/-- What a sequencer entry does (R301). -/
inductive SeqKind where
  | ldstat
  | swap
  | mma (typ spar shape acc : Nat)
  | drain (mode acc : Nat)
  | aclr (acc : Nat)
  deriving DecidableEq, Repr

/-- A sequencer entry (R301 to R303): its number, kind, issuing group, code pointer, operand; the serial of its batch and its step index
of an `MMA` (for a quantising `DRAIN` one more than its lowest bad row), its next pass, whether it was rejected, whether its effect
is complete, the cycle at which the pass in progress or the entry ends, and the scales and slot headers fetched (R293). -/
structure SeqEntry where
  id : Nat
  kind : SeqKind
  group : Nat
  pc : Word
  x : Quad
  batch : Nat
  index : Nat
  pass : Nat
  bad : Bool
  done : Bool
  endAt : Nat
  held : List Byte
  deriving DecidableEq, Repr

/-- A batch of matrix steps that is not covered (R294, R295): its serial number, whether it is committed, its steps and those that have
not ended, the accumulators they write, and whether it has finished. -/
structure Batch where
  serial : Nat
  committed : Bool
  steps : Nat
  left : Nat
  accs : List Nat
  finished : Bool
  deriving DecidableEq, Repr

/-- A pin of a tile (R293): the sequencer entry that made it, the batch of an activation pin, and whether its last row
has been fetched. -/
structure Pin where
  tile : Nat
  id : Nat
  batch : Option Nat
  fetched : Bool
  deriving DecidableEq, Repr

/-- The matrix engine state of the crew that holds the grant (R281). Accumulator keys are 4096·acc + 64·row + column.
`predA`, `predS` are the shapes the planes will have after the queued entries (R290); `serial` is the batch counter as a
count of commits, of which R294's number is a function. -/
structure Matrix where
  active : Option Plane
  shadow : Option Plane
  predA : Option PlaneShape
  predS : Option PlaneShape
  acc : Table Word
  serial : Nat
  batches : List Batch
  queue : List SeqEntry
  pins : List Pin
  deriving DecidableEq, Repr

/-- The engine at the grant (R281): planes empty, accumulators +0, batch counter 1 (serial 0), an empty open batch. -/
def Matrix.grant : Matrix :=
  ⟨none, none, none, none, [], 0, [⟨0, false, 0, 0, [], false⟩], [], []⟩

/-- A command slot of a crew (R339, R355): steps, cause, code and state. -/
structure BankSlot where
  step : Nat
  cause : Nat
  code : Nat
  st : Nat
  deriving DecidableEq, Repr

/-- A crew, placed or saved (R92 to R97, R313). While a stream of it is the issuing stream, that stream stands in
`State.me` and is absent from `streams`. A crew flag that is set holds the cycle from which it counts and that of its last
`XFSET` (R102, R205); `phaseGo` tells the steward that its phase was released (R126); `stopAt` is the cycle of a pre-emption
request (R312), and a crew that has retired stays listed until its span has (R126, R128). -/
structure Crew where
  id : Nat
  task : Nat
  taskId : Nat
  part : Nat
  span : Nat
  rank : Nat
  ngroup : Nat
  ncrew : Nat
  nspan : Nat
  core : Nat
  slot : Nat
  saved : Bool
  retired : Bool
  stopAt : Option Nat
  placedAt : Nat
  streams : List Stream
  largs : List Quad
  schedsel : Nat
  wtheta : Word
  wtau : Word
  wseed : Word
  shareHome : Nat
  shareSize : Nat
  tiles : List Tile
  tags : Table (Option TagEnt)
  barriers : Table Barrier
  queues : Table TileQueue
  lqs : Table Lq
  flags : Table (Option (Nat × Nat))
  records : List TrapRec
  recWait : List TrapRec
  bankSlots : Table BankSlot
  phaseStart : Nat
  phaseBusy : Option Nat
  phaseGo : Bool
  matrix : Option Matrix
  late : List Late
  deriving DecidableEq, Repr

/-- A crew with nothing in it: what stands in `State.crew` when no crew is placed. -/
def Crew.blank : Crew where
  id := 0
  task := 0
  taskId := 0
  part := 0
  span := 0
  rank := 0
  ngroup := 0
  ncrew := 0
  nspan := 0
  core := 0
  slot := 0
  saved := false
  retired := false
  stopAt := none
  placedAt := 0
  streams := []
  largs := []
  schedsel := 0
  wtheta := 0#32
  wtau := 0#32
  wseed := 0xFF800000#32
  shareHome := 0
  shareSize := 0
  tiles := []
  tags := []
  barriers := []
  queues := []
  lqs := []
  flags := []
  records := []
  recWait := []
  bankSlots := []
  phaseStart := 0
  phaseBusy := none
  phaseGo := false
  matrix := none
  late := []

/-- What the launch unit reads from a kernel image (R333). `ntile` is NTILE; `tiles` holds the tile words where there are at most 256. -/
structure Kernel where
  spkts : Nat
  gpkts : Nat
  scode : Nat
  gcode : Nat
  sentry : Word
  stages : List Word
  swait : List Nat
  gwait : List Nat
  sched : List (List Nat)
  ntile : Nat
  tiles : List Quad
  queues : List Word
  bdecl : Quad
  bars : List Quad
  ktab : Quad
  hasLaunch : Bool
  lgeom : List Byte
  largs : List Quad
  deriving DecidableEq, Repr

/-- A kernel with nothing in it. -/
def Kernel.blank : Kernel := ⟨0, 0, 0, 0, 0, [], [], [], [], 0, [], [], 0, [], 0, false, [], []⟩

/-- A task (R92 to R99, R177 to R180, R249 to R255). `id` is the model's number; `taskId` the `TASKID`. `restoring` are its spans whose
restore waits for room (R314). `launch` holds a steward's `LAUNCH` until it performs (R177): the steward, the number below which its writes are earlier, the descriptor. -/
structure Task where
  id : Nat
  taskId : Nat
  part : Nat
  kernel : Kernel
  spans : Nat
  crews : Nat
  groups : Nat
  scratch : Nat
  stages : List Nat
  args : List Quad
  report : Quad
  barrier : Option (Nat × Nat)
  queue : Option Nat
  irq : Bool
  waitsFor : Option Nat
  placed : Nat
  retired : Nat
  waitSince : Option Nat
  blocking : Bool
  restoring : List Nat
  lists : Table (List Quad)
  room : Nat
  pushed : Nat
  popped : Nat
  inflight : Nat
  quiet : Bool
  launch : Option (Ref × Nat × List Byte)
  deriving DecidableEq, Repr

/-- A configuration record of a partition (R320, R334). -/
structure Conf where
  det : Bool
  debug : Bool
  mate : Option (Nat × Nat)
  frozen : Option Nat
  eddyW : Nat
  weight : Nat
  pool : Nat
  clusters : Word
  peerTo : Nat
  ptroot : Quad
  saveBase : Quad
  saveSize : Quad
  cpe0 : Nat
  cpe1 : Nat
  fabric : List Nat
  deriving DecidableEq, Repr

/-- The defaults of R320; a partition without clusters. -/
def Conf.default : Conf :=
  ⟨false, false, none, none, 16, 31, 16, 0, 100, 0, 0, 0, 0, 0, List.replicate 18 0⟩

/-- A sync object (R153, R164, R245): holders, waiting acquirers oldest first with their mode, and release set. -/
structure SyncObj where
  id : Nat
  excl : Option Ref
  shared : List Ref
  waiters : List (Ref × Bool)
  rs : List PWrite
  deriving DecidableEq, Repr

/-- A binding (R161): sync object, first page address and pages; `derived` names the registration that made it (R402). -/
structure Binding where
  sync : Nat
  page : Nat
  pages : Nat
  derived : Option Nat
  deriving DecidableEq, Repr

/-- A signal that waits for earlier launches of its queue (R331). -/
structure Signal where
  id : Nat
  event : Nat
  value : Quad
  report : Quad
  irq : Bool
  tasks : List Nat
  deriving DecidableEq, Repr

/-- A host command queue (R330, R331); `wait` is the WAIT entry that holds it. -/
structure CmdQueue where
  qbase : Quad
  en : Bool
  log2n : Nat
  head : Word
  tail : Word
  err : Bool
  cause : Nat
  halted : Bool
  wait : Option (Nat × Quad × Quad × Bool)
  signals : List Signal
  last : Option Nat
  deriving DecidableEq, Repr

/-- A command queue after reset (R330). -/
def CmdQueue.blank : CmdQueue := ⟨0, false, 0, 0, 0, false, 0, false, none, [], none⟩

/-- A mailbox (R334). -/
structure Mailbox where
  busy : Bool
  cmd : Nat
  result : Nat
  buf : List Byte
  deriving DecidableEq, Repr

/-- A mailbox after reset (R334). -/
def Mailbox.blank : Mailbox := ⟨false, 0, 0, List.replicate 256 0⟩

/-- A delta record (R372): superblock, block, ones delta, length delta. -/
structure Delta where
  sb : Nat
  blk : Nat
  d1 : Int
  dlen : Int
  deriving DecidableEq, Repr

/-- A waiting or running `SREPACK` (R379): its issuer, barrier, query word and whether it has been accepted. -/
structure Repack where
  id : Nat
  crew : Nat
  barrier : Nat
  x : Quad
  deriving DecidableEq, Repr

/-- A registered succinct region (R358 to R364): descriptor fields, the pages it pins with their homes, key, delta logs by
sector, the sector table of R362, the repacks accepted on it, oldest running, and whether a partition reset waits for its logs to fold
(R324). -/
structure Region where
  handle : Nat
  desc : Nat
  nblk : Nat
  recsz : Nat
  trap : Bool
  blk : Nat
  bdir : Nat
  sdir : Nat
  gdir : Nat
  recs : Nat
  pages : List (Nat × Nat)
  slice : Nat
  key : Nat
  logs : Table (List Delta)
  sect : List (Int × Int × Int)
  repacks : List Repack
  dying : Bool
  deriving DecidableEq, Repr

/-- A bound walker tree (R383, R384): region, key and value tensor IDs, d, walker, EPOCH. One whose walker has failed is not bound any
more (R34). -/
structure Tree where
  handle : Nat
  region : Nat
  ktid : Nat
  vtid : Nat
  d : Nat
  walker : Nat
  epoch : Nat
  deriving DecidableEq, Repr

/-- A derived registration (R399 to R403): ID, rule, rounding mode and SAT, bases, depth, sync object, BASE, address of the
block scales, tile extents of base A, key, stale tiles, and the homes of its pages from BASE upward (log entry 6). -/
structure Derived where
  id : Nat
  rule : Nat
  rm : Nat
  sat : Bool
  a : Nat
  b : Nat
  depth : Nat
  sync : Nat
  base : Nat
  scales : Nat
  tr : Nat
  tc : Nat
  key : Nat
  stale : List Nat
  homes : List Nat
  deriving DecidableEq, Repr

/-- Something that leaves the package for a partition (R326): a host write, a datagram of a connection, an interrupt vector. -/
inductive Egress where
  | host (addr : Nat) (bytes : List Byte)
  | net (conn : Nat) (dg : Datagram)
  | irq (vec : Nat)
  deriving DecidableEq, Repr

/-- One piece of held egress of a lockstep partition (R326): its number and destination class, its bytes, and what it releases. -/
structure Piece where
  num : Nat
  cls : Nat
  bytes : List Byte
  acts : List Egress
  closed : Bool
  mine : Option (BitVec 384)
  theirs : Option (BitVec 384)
  since : Nat
  deriving DecidableEq, Repr

/-- A partition (R320 to R335). `order` holds lockstep order records (R20, R325): address, source stream, position. -/
structure Part where
  conf : Conf
  pending : Option Conf
  configured : Bool
  suspended : Bool
  halted : Bool
  resetting : Bool
  session : Bool
  tensors : Table (List Quad)
  syncs : List SyncObj
  bindings : List Binding
  events : Table Quad
  queues : Table CmdQueue
  ilog : Table (List Byte)
  ilogHead : Nat
  ilogCount : Nat
  ilogOvf : Bool
  iflog : Table (List Byte)
  ifWr : Nat
  ifRd : Nat
  ifUnread : Nat
  ifOvf : Bool
  regions : List Region
  dkHeld : Nat
  dkDirwr : Nat
  dkstat : Quad
  trees : List Tree
  deriveds : List Derived
  xlBusy : Bool
  xlPend : Option Quad
  pieces : List Piece
  order : List (Nat × Nat × Nat)
  deriving DecidableEq, Repr

/-- A partition that no configuration has set up. -/
def Part.blank : Part where
  conf := Conf.default
  pending := none
  configured := false
  suspended := false
  halted := false
  resetting := false
  session := false
  tensors := []
  syncs := []
  bindings := []
  events := []
  queues := []
  ilog := []
  ilogHead := 0
  ilogCount := 0
  ilogOvf := false
  iflog := []
  ifWr := 0
  ifRd := 0
  ifUnread := 0
  ifOvf := false
  regions := []
  dkHeld := 0
  dkDirwr := 0
  dkstat := 0
  trees := []
  deriveds := []
  xlBusy := false
  xlPend := none
  pieces := []
  order := []

/-- Where a copy command stands (R272, R277 to R279). -/
inductive CmdSt where
  | issued | waiting | running | parked | failing | ending
  deriving DecidableEq, Repr

/-- What the runs of a copy do: they read its scales (R142, R273); they read its source and write what is complete; or, after a plain copy
whose ranges overlap has read every run, they write (R174, R276). -/
inductive CopyPhase where
  | scales | runs | writes
  deriving DecidableEq, Repr

/-- A copy command (R270 to R279): its number, partition, crew, descriptor bytes and their offset in the share, barrier, whether it is
an `XFORM`, the steward's `PKR` and the number below which its writes are earlier (R174); then the tensor entries it uses, the phase of its
runs, the number below which every aligned 64-byte piece of the phase has moved (log entry 19), whether the next run's bytes have come from
a peer (R327), and whether the last run has moved, after which its tiles are no more its own (R173). -/
structure CopyCmd where
  id : Nat
  part : Nat
  crew : Nat
  desc : List Byte
  off : Nat
  barrier : Nat
  xform : Bool
  pkr : Quad
  upto : Nat
  st : CmdSt
  srcEnt : List Quad
  dstEnt : List Quad
  phase : CopyPhase
  run : Nat
  fetched : Bool
  moved : Bool
  deriving DecidableEq, Repr

/-- A bank command (R339 to R357): its number, partition, crew, slot, descriptor, the steward's `PKR` and the number below which its
writes are earlier, the code pointer of its `BKCMD`, its slice and tensor entry; whether it has been accepted, its broadcast tile is being
sent (R341), it waits for the channel, runs, is suspended, is cancelled, has ended; its next step, the end of the lease of the step in
progress, the end of the handover of its suspension and the requests served in it (R347), the broadcast bytes, the bytes read of each row,
the poisoned bytes of rows (row, byte), its code and cause, first and number of poisoned results. -/
structure BankCmd where
  id : Nat
  part : Nat
  crew : Nat
  slot : Nat
  desc : List Byte
  pkr : Quad
  upto : Nat
  pc : Word
  slice : Nat
  ent : List Quad
  accepted : Bool
  sending : Bool
  ready : Bool
  running : Bool
  suspended : Bool
  cancelled : Bool
  ended : Bool
  step : Nat
  lease : Option Nat
  handover : Nat
  served : Nat
  x : List Byte
  read : Table (List Byte)
  bad : List (Nat × Nat)
  code : Nat
  cause : Nat
  first : Nat
  npois : Nat
  deriving DecidableEq, Repr

/-- A walker query (R385 to R390); `sending` while the bytes of its tile are read (R173, R386). The walk stands at `root` (nothing visited), or under the entered nodes `path`, innermost first, after
child `last` of the innermost; none before its first child. -/
structure WQuery where
  id : Nat
  part : Nat
  crew : Nat
  task : Nat
  qid : Word
  desc : List Byte
  pkr : Quad
  theta : Word
  tau : Word
  seed : Word
  upto : Nat
  accepted : Bool
  sending : Bool
  tree : Nat
  walker : Option Nat
  q : List Word
  qn : Word
  m : Word
  count : Nat
  vis : Nat
  root : Bool
  path : List Nat
  last : Option Nat
  code : Nat
  cause : Nat
  deriving DecidableEq, Repr

/-- A fabric connection this package sends and receives on (R19, R21); `queue` holds datagrams that wait for a send permit or for
a paused port, `unacked` those sent, with the cycle of their last sending and the wait of their retransmission. -/
structure Conn where
  id : Nat
  peerPkg : Nat
  myPart : Nat
  peerPart : Nat
  cls : Nat
  nextSeq : Word
  recvSeq : Word
  permits : Nat
  held : Nat
  queue : List Datagram
  unacked : List (Datagram × Nat × Nat)
  ackDue : Bool
  deriving DecidableEq, Repr

/-- A message this package has sent and that has not been answered (R20, R21): the copy command it serves, and the home a
read's data goes to. -/
structure Msg where
  id : Nat
  conn : Nat
  cmd : Option Nat
  dst : Option Nat
  len : Nat
  sentAt : Nat
  dg : Datagram
  backoff : Nat
  retry : Bool
  deriving DecidableEq, Repr

/-- A cached translation (R316, R319): the core or cluster that caches it, partition, page base, page size, leaf. -/
structure TlbEnt where
  holder : Nat
  part : Nat
  base : Nat
  size : Nat
  leaf : Quad
  deriving DecidableEq, Repr

/-- A line that gathers or scatters wait on in the Eddy of a core (R230): the requests by stream, number and lane. -/
structure EddyLine where
  core : Nat
  part : Nat
  line : Nat
  wr : Bool
  closes : Nat
  reqs : List (Ref × Nat × Nat)
  deriving DecidableEq, Repr

/-- `BERR` of a bank (R352). -/
structure Berr where
  uev : Bool
  cecnt : Nat
  uecnt : Nat
  row : Nat
  col : Nat
  half : Bool
  synd : Nat
  deriving DecidableEq, Repr

/-- A `BERR` after reset (R352). -/
def Berr.blank : Berr := ⟨false, 0, 0, 0, 0, false, 0⟩

/-- A boot server of the configuration store (R23, R26): IPv6 address, TCP port, and the host name and image path as stored bytes. -/
structure BootServer where
  addr : List Byte
  tcp : Nat
  name : List Byte
  path : List Byte
  deriving DecidableEq, Repr

/-- The connection a boot fetches its image through (R23, R24): the boot port, the IPv6 method (a static address with its prefix length and
gateway, or none for SLAAC), and the server. -/
structure BootConn where
  port : Nat
  own : Option (List Byte × Nat × List Byte)
  server : BootServer
  deriving DecidableEq, Repr

/-- The package outside its cores (R10 to R37, R336, R347). `reduced` is reduced service (R28); `bootConn` the connection of the boot in
progress; `store` the configuration store, whose bytes past the list read 0; `ce` and `ue` the granules of 32 bytes with an error that ECC
corrects, and with one that it cannot (R351); `walkFree` the free places of each walker's queue (R256); `netOut` what has left: port, UDP
destination port and datagram. -/
structure Dev where
  serviceReq : Bool
  level : Nat
  reduced : Bool
  bootst : Nat
  chan : Nat
  walk : Nat
  cpe : Nat
  cores : Nat
  spare0 : Nat
  spare1 : Nat
  stacked : Nat
  tempc : Nat
  server : Nat
  bootWait : Bool
  fetching : Bool
  bootConn : Option BootConn
  store : List Byte
  storeLive : List Byte
  measRom : BitVec 384
  measImage : BitVec 384
  measConf : BitVec 384
  linkWidth : Nat
  linkSpeed : Nat
  pause : Table Bool
  portErr : Table Nat
  trained : List Nat
  failedStacks : List Nat
  failedChans : List Nat
  failedWalkers : List Nat
  failedCpe : List Nat
  halfSize : Table Nat
  arbW : Nat
  govCols : Nat
  walkFree : Table Nat
  ce : List Nat
  ue : List Nat
  berr : Table Berr
  deferred : Table (List Datagram)
  bankTurn : Table Nat
  mboxes : Table Mailbox
  xlpart : Nat
  irqs : List (Nat × Nat)
  hostWrites : List (Nat × List Byte)
  replies : List (List Byte)
  netOut : List (Nat × Nat × Datagram)
  conns : List Conn
  msgs : List Msg
  deriving DecidableEq, Repr

/-- The package after a device reset (R36; the other values in log entry 2). -/
def Dev.reset : Dev where
  serviceReq := false
  level := 0
  reduced := false
  bootst := 0
  chan := 0
  walk := 0
  cpe := 0
  cores := 0
  spare0 := 8
  spare1 := 8
  stacked := 0
  tempc := 0
  server := 0
  bootWait := false
  fetching := false
  bootConn := none
  store := []
  storeLive := []
  measRom := 0
  measImage := 0
  measConf := 0
  linkWidth := 16
  linkSpeed := 128
  pause := []
  portErr := []
  trained := []
  failedStacks := []
  failedChans := []
  failedWalkers := []
  failedCpe := []
  halfSize := []
  arbW := 96
  govCols := 0
  walkFree := []
  ce := []
  ue := []
  berr := []
  deferred := []
  bankTurn := []
  mboxes := []
  xlpart := 0
  irqs := []
  hostWrites := []
  replies := []
  netOut := []
  conns := []
  msgs := []

/-- MODEL. What a device step on the agenda is waiting for, where that counts: the channel of a slice (R346, R347), or room in a delta log
(R371, R375). -/
inductive Waiting where
  | no
  | slice (n : Nat)
  | log
  deriving DecidableEq, Repr

/-- MODEL. What the step in progress is about: the operands of a device step, what it has waited for and from which cycle, and for a word
the slot of the word within its chain, the chain's length, the number the word carries (`Hdr.imm`), the `IMX` literal before it (R78) and the
head lanes that the chain leaves out because they trap (R306). -/
structure Ctx where
  ev : EvArg
  wait : Waiting
  since : Nat
  slot : Nat
  len : Nat
  imm : BitVec 19
  lit : Option (BitVec 19)
  skip : Word
  deriving DecidableEq, Repr

/-- MODEL. The context of a single unchained word with no number. -/
def Ctx.blank : Ctx := ⟨⟨⟨0, 0⟩, .wb ⟨0, 0⟩, 0, 0, 0, 0, 0, 0, [], Datagram.zero⟩, .no, 0, 0, 1, 0, none, 0⟩

/-- MODEL. A device step that waits to be taken: one of the device steps of `Instr`, its operands, the cycle from which it is taken
where `picks` does not say otherwise (log entry 3), and what it has been found to wait for; for a channel `due` is the cycle of its
arrival there. -/
structure Event where
  op : Instr
  arg : EvArg
  due : Nat := 0
  wait : Waiting := .no
  deriving DecidableEq, Repr

/-- The state of the package. `me` is the stream whose word is being executed or was executed last, taken out of its crew
`crew`, which is taken out of `crews`. -/
structure State where
  clock : Nat
  mem : Memory
  me : Stream
  crew : Crew
  crews : List Crew
  tasks : List Task
  parts : Table Part
  dev : Dev
  copies : List CopyCmd
  banks : List BankCmd
  queries : List WQuery
  tlb1 : List TlbEnt
  tlb2 : List TlbEnt
  eddy : List EddyLine
  watch : List (Nat × Ref × Nat)
  lastIssued : Table (Nat × Nat)
  pipeFree : Table Nat
  -- MODEL from here on
  port : Nat
  ctx : Ctx
  agenda : List Event
  picks : List Nat
  tries : Nat
  nextId : Nat
  deriving DecidableEq, Repr

/-- The machine right after device reset: no crew, no partition, nothing in memory, the package as R36 gives it. -/
def State.reset : State where
  clock := 0
  mem := []
  me := Stream.blank 0
  crew := Crew.blank
  crews := []
  tasks := []
  parts := []
  dev := Dev.reset
  copies := []
  banks := []
  queries := []
  tlb1 := []
  tlb2 := []
  eddy := []
  watch := []
  lastIssued := []
  pipeFree := []
  port := 0
  ctx := Ctx.blank
  agenda := []
  picks := []
  tries := 0
  nextId := 1

/-- Why a step cannot go on. -/
inductive Fault where
  /-- Raised by `step` when the page that holds the next code packet is not mapped to package memory, or its word lies in
  no task: the loader's images never do that (R333), and the spec gives the fetch no effect. Safe: the model stops. -/
  | codeUnmapped (packet : Nat)
  deriving DecidableEq, Repr

/-- Why an instruction has no meaning. -/
inductive Refusal where
  /-- Raised by `exec` for an instruction whose meaning has not been written. Safe: the model stops. -/
  | notModelled (mnemonic : String)
  deriving DecidableEq, Repr

end Sys2Proof.Machine
end

