-- ==== Sys2Proof/Machine/Table.lean ====
section
/-! DEFINITION. Sparse tables in canonical form: reading, writing, and the form itself. Memory and every register file of
the state are such tables. -/

namespace Sys2Proof.Machine

/-- The value at key `k`; `d` where no pair lists it. -/
def tget {α : Type} (d : α) : List (Nat × α) → Nat → α
  | [], _ => d
  | (k', x) :: t, k => if k' = k then x else tget d t k

/-- The table without key `k`. -/
def tdel {α : Type} : List (Nat × α) → Nat → List (Nat × α)
  | [], _ => []
  | (k', x) :: t, k => if k' = k then tdel t k else (k', x) :: tdel t k

/-- The table with a pair put before the first greater key. -/
def tput {α : Type} : List (Nat × α) → Nat → α → List (Nat × α)
  | [], k, x => [(k, x)]
  | (k', y) :: t, k, x => if k < k' then (k, x) :: (k', y) :: t else (k', y) :: tput t k x

/-- The table with value `x` at key `k`; the default value removes the pair. -/
def tset {α : Type} [DecidableEq α] (d : α) (t : List (Nat × α)) (k : Nat) (x : α) : List (Nat × α) :=
  if x = d then tdel t k else tput (tdel t k) k x

/-- Keys rising from at least `n`, no pair at the default value. -/
def twfFrom {α : Type} [DecidableEq α] (d : α) : Nat → List (Nat × α) → Bool
  | _, [] => true
  | n, (k, x) :: t => decide (n ≤ k) && decide (x ≠ d) && twfFrom d (k + 1) t

/-- The canonical form: keys strictly rising, no pair at the default value. -/
def twf {α : Type} [DecidableEq α] (d : α) (t : List (Nat × α)) : Bool := twfFrom d 0 t

/-- What a byte of memory that nothing has written reads as (log entry 1). -/
def memDefault : Byte := 0#8

/-- The byte at a home address (R153). -/
def Memory.get (m : Memory) (a : Nat) : Byte := tget memDefault m a

/-- Memory with byte `b` at home address `a`. -/
def Memory.set (m : Memory) (a : Nat) (b : Byte) : Memory := tset memDefault m a b

/-- The canonical form of memory: addresses strictly rising, no entry equal to what an unlisted address reads as. -/
def Memory.wf (m : Memory) : Bool := twf memDefault m

/-- `n` bytes from a home address, lowest first. -/
def Memory.bytes (m : Memory) (a : Nat) : Nat → List Byte
  | 0 => []
  | n + 1 => m.get a :: m.bytes (a + 1) n

/-- Memory with bytes written from a home address upward. -/
def Memory.put (m : Memory) (a : Nat) : List Byte → Memory
  | [] => m
  | b :: bs => (m.set a b).put (a + 1) bs

/-- Memory with bytes written under masks from a home address upward (R159): bits outside a byte's mask keep their value. -/
def Memory.putMasked (m : Memory) (a : Nat) : List (Byte × Byte) → Memory
  | [] => m
  | (b, k) :: bs =>
    ((if k = 0#8 then m else m.set a ((b &&& k) ||| (m.get a &&& ~~~k)))).putMasked (a + 1) bs

/-- Memory without the bytes of a range of home addresses. -/
def Memory.clear (m : Memory) (lo hi : Nat) : Memory := m.filter (fun c => !(lo ≤ c.1 && c.1 < hi))

end Sys2Proof.Machine
end

