-- ==== Sys2Proof/Machine/Ops.lean ====
section
/-! DEFINITION. The named operations over the state: where things have their home, finding and updating streams, crews and
partitions, registers and results, the frontier, the agenda, and taking a trap and returning from one. -/

namespace Sys2Proof.Machine

/-! ### Homes (R153, log entry 4) -/

/-- The scratchpad of a core (R150). -/
def scratchHome (core : Nat) : Nat := 2 ^ 56 + core * 2 ^ 20
/-- The stack windows of a crew slot are one run of this many bytes. -/
def stackRun : Nat := 17 * 32 * 2 ^ 16
/-- Where the stack windows of a saved crew lie (log entry 13). -/
def savedStack (crew : Nat) : Nat := 2 ^ 57 + 2 ^ 56 + crew * 2 ^ 26
/-- Where the scratchpad share of a saved crew lies in its image (R313, R315). -/
def savedHome (crew : Nat) : Nat := 2 ^ 56 + (4096 + crew) * 2 ^ 20
/-- The stack window of a thread or steward (R150, R152): by partition, core, crew slot, stream and lane. -/
def stackHome (part core slot sid lane : Nat) : Nat :=
  2 ^ 57 + ((((part * 256 + core) * 4 + slot) * 17 + sid) * 32 + lane) * 2 ^ 16
/-- Host memory at an address of a host-mapped page (R413). -/
def hostHome (a : Nat) : Nat := 2 ^ 58 + a
/-- Where a copy command holds the bytes it has read, by their address; its scale arrays lie `scaleHold` behind (log entry 4). -/
def fetchHome (id a : Nat) : Nat := 2 ^ 60 * (id + 1) + a
/-- The distance at which a copy command holds its scale arrays. -/
def scaleHold : Nat := 2 ^ 59
/-- The result window of a slice (R336, R338). -/
def windowHome (slice : Nat) : Nat := 2 ^ 46 + slice * 2 ^ 20
/-- The register page of a slice (R338). -/
def regPageHome (slice : Nat) : Nat := 2 ^ 46 + 2 ^ 44 + slice * 2 ^ 16
/-- Page `k` of a partition's derived pool in a slice (R400, log entry 6). -/
def poolHome (part slice k : Nat) : Nat := 2 ^ 46 + 2 ^ 45 + ((slice * 64 + part) * 4096 + k) * 2 ^ 16
/-- Bytes of package DRAM: 384 channels of 2 GiB (R11). -/
def dramSize : Nat := 384 * 2 ^ 31
/-- The slice that serves a home in package memory, its windows or its register pages. -/
def sliceOf (a : Nat) : Nat :=
  if a < 2 ^ 46 then a / 2 ^ 31
  else if a < 2 ^ 46 + 2 ^ 44 then (a - 2 ^ 46) / 2 ^ 20
  else if a < 2 ^ 46 + 2 ^ 45 then (a - (2 ^ 46 + 2 ^ 44)) / 2 ^ 16
  else (a - (2 ^ 46 + 2 ^ 45)) / 2 ^ 34
/-- The stack of a slice: 32 channels each (R11). -/
def stackOfSlice (slice : Nat) : Nat := slice / 32

/-! ### Streams, crews, tasks, partitions -/

/-- The reference of the issuing stream. -/
def State.self (s : State) : Ref := ⟨s.crew.id, s.me.sid⟩

/-- Whether the issuing stream is a steward. -/
def State.isSteward (s : State) : Bool := s.me.sid == 0

/-- Every crew, the issuing stream's among them. -/
def State.allCrews (s : State) : List Crew := if s.crew.id = 0 then s.crews else s.crew :: s.crews

/-- The crew of a number. -/
def State.crewOf (s : State) (id : Nat) : Option Crew := s.allCrews.find? (fun c => c.id == id)

/-- Every stream of a crew. -/
def State.streamsOf (s : State) (c : Crew) : List Stream :=
  if c.id = s.crew.id then s.me :: c.streams else c.streams

/-- The stream of a reference. -/
def State.streamOf (s : State) (r : Ref) : Option Stream :=
  if r.crew = s.crew.id && r.sid = s.me.sid then some s.me
  else (s.crewOf r.crew).bind (fun c => c.streams.find? (fun t => t.sid == r.sid))

/-- Updates a crew. -/
def State.updCrew (s : State) (id : Nat) (f : Crew → Crew) : State :=
  if id = s.crew.id then { s with crew := f s.crew }
  else { s with crews := updIf (fun c => c.id == id) f s.crews }

/-- Updates a stream. -/
def State.updStream (s : State) (r : Ref) (f : Stream → Stream) : State :=
  if r.crew = s.crew.id && r.sid = s.me.sid then { s with me := f s.me }
  else s.updCrew r.crew (fun c => { c with streams := updIf (fun t => t.sid == r.sid) f c.streams })

/-- Updates every stream of a crew. -/
def State.updStreams (s : State) (id : Nat) (f : Stream → Stream) : State :=
  let s1 := s.updCrew id (fun c => { c with streams := c.streams.map f })
  if id = s1.crew.id then { s1 with me := f s1.me } else s1

/-- Puts the issuing stream back into its crew, and the crew back among the crews. -/
def State.unfocus (s : State) : State :=
  if s.crew.id = 0 then s
  else { s with
    crews := { s.crew with streams := insertBy (fun a b => a.sid < b.sid) s.me s.crew.streams } :: s.crews
    me := Stream.blank 0
    crew := Crew.blank }

/-- Takes a stream out of its crew as the issuing stream; nothing when there is none. -/
def State.focus (s : State) (r : Ref) : State :=
  if r.crew = s.crew.id && r.sid = s.me.sid then s
  else
    let s1 := s.unfocus
    match s1.crews.find? (fun c => c.id == r.crew) with
    | none => s
    | some c => match c.streams.find? (fun t => t.sid == r.sid) with
      | none => s
      | some t => { s1 with
          me := t
          crew := { c with streams := c.streams.filter (fun x => x.sid != r.sid) }
          crews := s1.crews.filter (fun x => x.id != r.crew) }

/-- The task of a model number. -/
def State.taskOf (s : State) (id : Nat) : Option Task := s.tasks.find? (fun t => t.id == id)

/-- Updates a task. -/
def State.updTask (s : State) (id : Nat) (f : Task → Task) : State :=
  { s with tasks := updIf (fun t => t.id == id) f s.tasks }

/-- A partition. -/
def State.part (s : State) (p : Nat) : Part := tget Part.blank s.parts p

/-- Updates a partition. -/
def State.updPart (s : State) (p : Nat) (f : Part → Part) : State :=
  { s with parts := tset Part.blank s.parts p (f (s.part p)) }

/-- The partition of the issuing stream. -/
def State.myPart (s : State) : Part := s.part s.crew.part

/-- Updates the device. -/
def State.updDev (s : State) (f : Dev → Dev) : State := { s with dev := f s.dev }

/-- The lowest number from `lo` that a list lacks. -/
def lowestFree (lo : Nat) (l : List Nat) : Nat := (((List.range (l.length + 1)).map (· + lo)).find? (fun n => !l.contains n)).getD lo

/-- A number the hardware picks: the one `Config.pick` gives where it is allowed, else a default one (log entry 15). -/
def State.choose (s : State) (ok : Nat → Bool) (dflt : Nat) : Nat := let n := Config.pick s.nextId; if ok n then n else dflt

/-- A number from `lo` to `hi` - 1 that a list lacks, as the hardware picks it. -/
def State.freeNumber (s : State) (lo hi : Nat) (l : List Nat) : Nat :=
  s.choose (fun n => lo ≤ n && n < hi && !l.contains n) (lowestFree lo l)

/-- A fresh number and the state that has used it. -/
def State.fresh (s : State) : State := { s with nextId := s.nextId + 1 }

/-- The typical time of R223 between an issue and the home step it asks for; other device steps may be taken at once (log entry 3). -/
def typical (op : Instr) (a : EvArg) : Nat :=
  match op with
  | .readPerform => if 2 ^ 56 ≤ a.b then 16 else 356
  | .atomicPerform => if 2 ^ 56 ≤ a.b then 28 else 428
  | .tknextPerform => 428
  | .writeDrain => 16
  | .succinctQueryPerform => 392
  | _ => 0

/-- Puts a device step on the agenda. -/
def State.push (s : State) (op : Instr) (arg : EvArg) : State := { s with agenda := s.agenda ++ [{ op := op, arg := arg, due := s.clock }] }

/-- Puts several device steps of one name on the agenda. -/
def State.pushAll (s : State) (op : Instr) (args : List EvArg) : State :=
  { s with agenda := s.agenda ++ args.map (fun a => { op := op, arg := a, due := s.clock + typical op a }) }

/-- Puts the step in progress back on the agenda: its condition does not hold yet (R154). -/
def State.defer (s : State) (op : Instr) : State := s.push op s.ctx.ev

/-- The step in progress waits for the channel of a slice, from the cycle in which it first found it taken (R346, R347). -/
def State.deferAt (s : State) (op : Instr) (n : Nat) : State :=
  { s with agenda := s.agenda ++
      [{ op := op, arg := s.ctx.ev, due := if s.ctx.wait = .slice n then s.ctx.since else s.clock, wait := .slice n }] }

/-- The step in progress holds a write at a full delta log of partition `p`, which counts the write once (R371, R375). -/
def State.deferLog (s : State) (op : Instr) (p : Nat) : State :=
  let s1 := if s.ctx.wait = .log then s else s.updPart p (fun q => { q with dkHeld := min 65535 (q.dkHeld + 1) })
  { s1 with agenda := s1.agenda ++ [{ op := op, arg := s.ctx.ev, due := s.clock, wait := .log }] }

/-! ### Registers, predicates, results (R73, R115, R184) -/

/-- Register v`r` of a lane. -/
def Stream.rdV (t : Stream) (r lane : Nat) : Word := tget 0#32 t.v (32 * r + lane)
/-- The pair v`r`:v`r`+1 of a lane. -/
def Stream.rdPair (t : Stream) (r lane : Nat) : Quad := pairOf (t.rdV r lane) (t.rdV (r + 1) lane)
/-- Register k`r`. -/
def Stream.rdK (t : Stream) (r : Nat) : Quad := tget 0#64 t.k r
/-- Predicate p`r` of a lane; a steward's kp`r` is that of lane 0. -/
def Stream.rdP (t : Stream) (r lane : Nat) : Bool := tget false t.p (32 * r + lane)

/-- Performs one register or predicate write. -/
def Stream.write (t : Stream) : RegWrite → Stream
  | .v key x => { t with v := tset 0#32 t.v key x }
  | .k r x => { t with k := tset 0#64 t.k r x }
  | .p key b => { t with p := tset false t.p key b }

/-- Two writes name one register or predicate. -/
def RegWrite.same (a b : RegWrite) : Bool :=
  match a, b with
  | .v x _, .v y _ => x == y
  | .k x _, .k y _ => x == y
  | .p x _, .p y _ => x == y
  | _, _ => false

/-- A write of the word issued in cycle `issue` at `slot` comes too late in cycle `now`: a word later in program order has written the
register in this cycle (R115), or a word in a higher slot of the same chain has written it (R77). -/
def Stream.overtaken (t : Stream) (now issue slot : Nat) (w : RegWrite) : Bool :=
  t.wrote.any (fun e => e.w.same w && ((e.cyc == now && (issue < e.issue || (issue == e.issue && slot < e.slot))) ||
    (e.issue == issue && slot < e.slot)))

/-- Performs writes in order. -/
def Stream.writes (t : Stream) (ws : List RegWrite) : Stream := ws.foldl Stream.write t

/-- The writes of one word reach their registers in cycle `now` (R77, R115). -/
def Stream.land (t : Stream) (now issue slot : Nat) (ws : List RegWrite) : Stream :=
  let ws1 := ws.filter (fun w => !t.overtaken now issue slot w)
  { t.writes ws1 with wrote := t.wrote ++ ws1.map (⟨now, issue, slot, ·⟩) }

/-- The counter of completion flag `f` (R117). -/
def Stream.cfGet (t : Stream) (f : Nat) : Nat := tget 0 t.cf f

/-- Counts a use of a flag (R117). -/
def Stream.cfAdd (t : Stream) (f : Option Nat) : Stream :=
  match f with
  | none => t
  | some i => { t with cf := tset 0 t.cf i (t.cfGet i + 1) }

/-- Ends a use of a flag (R117). -/
def Stream.cfSub (t : Stream) (f : Option Nat) : Stream :=
  match f with
  | none => t
  | some i => { t with cf := tset 0 t.cf i (t.cfGet i - 1) }

/-- The flag an F4 field names (R71). -/
def flagOf (f : BitVec 4) : Option Nat := if f.toNat < 12 then some f.toNat else none

/-- A register operand of width `w` as 64 bits: in a group v`r` or the pair, in a steward k`r` or its low half (R184). -/
def Stream.rd (t : Stream) (w r lane : Nat) : Quad :=
  if t.sid = 0 then (if w = 64 then t.rdK r else zext (lo32 (t.rdK r)))
  else (if w = 64 then t.rdPair r lane else zext (t.rdV r lane))

/-- The writes that put a value of width `w` into a register (R184). -/
def Stream.wr (t : Stream) (w r lane : Nat) (x : Quad) : List RegWrite :=
  if t.sid = 0 then [.k r (if w = 64 then x else zext (lo32 x))]
  else if w = 64 then [.v (32 * r + lane) (lo32 x), .v (32 * (r + 1) + lane) (hi32 x)]
  else [.v (32 * r + lane) (lo32 x)]

/-! ### Code pointers and the frontier (R104 to R110, R185) -/

/-- The word after a word (R107). -/
def Pc.succ (c : Pc) : Pc := if c.slot < 2 then ⟨c.packet, c.slot + 1⟩ else ⟨c.packet + 1, 0⟩

/-- `n` words further. -/
def Pc.add (c : Pc) : Nat → Pc
  | 0 => c
  | n + 1 => c.succ.add n

/-- Position order of program counters (R105). -/
def Pc.lt (a b : Pc) : Bool := a.packet < b.packet || (a.packet == b.packet && a.slot < b.slot)

/-- The code pointer of a word and a priority (R185). -/
def ptrOf (c : Pc) (prio : Nat) : Word :=
  BitVec.ofNat 32 (prio % 16 * 2 ^ 28 + c.slot % 4 * 2 ^ 26 + c.packet % 2 ^ 26)

/-- PACKET and SLOT of a code pointer (R185). -/
def ptrPc (p : Word) : Pc := ⟨wbits p 25 0, wbits p 27 26⟩
/-- PRIO of a code pointer (R185). -/
def ptrPrio (p : Word) : Nat := wbits p 31 28

/-- R105: priority high first, then PC low first. -/
def Entry.before (a b : Entry) : Bool := a.prio > b.prio || (a.prio == b.prio && a.pc.lt b.pc)

/-- Adds an entry, merging it into a ready entry of equal PC and priority (R106). -/
def addEntry (e : Entry) (l : List Entry) : List Entry :=
  if e.mask = 0#32 then l
  else if e.st = .ready && l.any (fun x => x.st == .ready && x.pc == e.pc && x.prio == e.prio) then
    updIf (fun x => x.st == .ready && x.pc == e.pc && x.prio == e.prio)
      (fun x => { x with mask := x.mask ||| e.mask, spilled := x.spilled && e.spilled }) l
  else insertBy Entry.before e l

/-- Every entry beyond the n-th in sort order is spilled; a spilled entry above it stays so until it is refilled (R108). -/
def spillBeyond : Nat → List Entry → List Entry
  | _, [] => []
  | 0, e :: t => { e with spilled := true } :: spillBeyond 0 t
  | n + 1, e :: t => e :: spillBeyond n t

/-- A resumed entry takes its turn (R109, R215). -/
def Entry.wake (e : Entry) : Entry := if e.st = .resuming then { e with st := .ready } else e

/-- The frontier in order, ready entries merged, empty entries gone, at most eight on chip (R105, R106, R108). -/
def normFrontier (l : List Entry) : List Entry := spillBeyond 8 (l.foldl (fun acc e => addEntry e acc) [])

/-- The head: the first ready entry in sort order (R105). -/
def Stream.head (t : Stream) : Option Entry := t.frontier.find? (fun e => e.st == .ready)

/-- The lanes of the head, less the lanes that the chain leaves out because they trap (R306). -/
def State.headMask (s : State) : Word :=
  match s.me.head with
  | some e => e.mask &&& ~~~s.ctx.skip
  | none => 0#32

/-- The head's lanes, rising. -/
def State.headLanes (s : State) : List Nat := lanesOf s.headMask

/-- The active lanes: the head's lanes whose `p0` holds when the guard bit is 1 (R74). -/
def State.lanes (s : State) (g : BitVec 1) : List Nat :=
  if g = 1#1 then s.headLanes.filter (fun l => s.me.rdP 0 l) else s.headLanes

/-- The PC of the chain's first word; the head's PC. -/
def State.pc0 (s : State) : Pc := (s.me.head.map Entry.pc).getD ⟨0, 0⟩

/-- The head's priority. -/
def State.prio0 (s : State) : Nat := (s.me.head.map Entry.prio).getD 0

/-- The PC of the word being executed. -/
def State.pc (s : State) : Pc := s.pc0.add s.ctx.slot

/-- The code pointer of the word being executed. -/
def State.here (s : State) : Word := ptrOf s.pc s.prio0

/-- The head entry without lanes. -/
def dropHead (l : List Entry) (m : Word) : List Entry :=
  match l with
  | [] => []
  | e :: t => if e.st = .ready then { e with mask := e.mask &&& ~~~m } :: t else e :: dropHead t m

/-- Takes lanes out of the head and stands them in new entries (R107). -/
def Stream.moveHead (t : Stream) (m : Word) (es : List Entry) : Stream :=
  { t with frontier := normFrontier (dropHead t.frontier m ++ es) }

/-! ### Issuing results -/

/-- Posts a result of the issuing word (R115, R117): due after `lat` cycles, or arriving when `lat` is none. -/
def State.post (s : State) (lat : Option Nat) (flag : Option Nat) (ws : List RegWrite) (reg : Bool := true) : State :=
  { s with
    nextId := s.nextId + 1
    me := { s.me.cfAdd flag with
      pend := s.me.pend ++ [⟨s.nextId, lat.map (s.clock + ·), false, ws, flag, s.here, reg, [], s.clock⟩] } }

/-- Posts a fixed-latency result without a flag. -/
def State.post1 (s : State) (lat : Nat) (ws : List RegWrite) : State := s.post (some lat) none ws

/-- Adds writes to a pending result. -/
def Stream.addWrites (t : Stream) (id : Nat) (ws : List RegWrite) : Stream :=
  { t with pend := updIf (fun p => p.id == id) (fun p => { p with writes := p.writes ++ ws }) t.pend }

/-- Marks a pending result as arrived: its writeback may happen (R115). -/
def Stream.arrive (t : Stream) (id : Nat) : Stream :=
  { t with pend := updIf (fun p => p.id == id) (fun p => { p with arrived := true }) t.pend }

/-- Lets a result arrive and asks for its writeback. -/
def State.arrive (s : State) (r : Ref) (id : Nat) (ws : List RegWrite) : State :=
  (s.updStream r (fun t => (t.addWrites id ws).arrive id)).push .resultWriteback { r := r, a := id }

/-- Posts a result that arrives, with the request its lanes make of their homes, one home step `ev` for each distinct home
(R154, R233). The result and the request carry the same number. Without lanes the result arrives at once (R74). -/
def State.request (s : State) (flag : Option Nat) (kind : ReqKind) (d : Nat) (reg : Bool) (ev : Option Instr)
    (ls : List LaneReq) : State :=
  let s1 := s.post none flag [] reg
  let s2 := { s1 with me := { s1.me with reqs := s1.me.reqs ++ [⟨s.nextId, kind, d, ls, [], none⟩] } }
  if ls = [] then s2.arrive s.self s.nextId []
  else match ev with
    | some op => s2.pushAll op ((ls.map LaneReq.home).eraseDups.map (fun h => { r := s.self, a := s.nextId, b := h }))
    | none => s2

/-- Writes a result back in cycle `now` and ends its flag use (R77, R115, R117). -/
def Stream.writeback (t : Stream) (now : Nat) (p : Pend) : Stream :=
  let t1 := t.land now p.iss (ptrPc p.pc).slot p.writes
  { t1.cfSub p.flag with pend := t1.pend.filter (fun q => q.id != p.id) }

/-! ### Taking a trap (R305 to R310) and returning from one (R212) -/

/-- Hands a record to the crew's queue, behind the records that wait for room (R308). -/
def State.record (s : State) (crew : Nat) (rec : TrapRec) : State :=
  (s.updCrew crew (fun c => { c with recWait := c.recWait ++ [rec] })).push .trapRecordEnqueue { a := crew }

/-- The parked entry of lanes that take a trap: in a group at `at0` (R306, R211); a steward stands after the chain until it enters its
handler (R309). -/
def State.parkEntry (s : State) (cause : Nat) (m : Word) (at0 : Pc) : Entry :=
  ⟨if s.isSteward then s.pc0.add s.ctx.len else at0, s.prio0, m, .parked cause, false⟩

/-- The record of a trap that the issuing stream takes (R308, R309), `TRAPPC` at `at1`; a steward's has no MASK, and in handler mode it
escalates (R310). -/
def State.trapRec (s : State) (cause code : Nat) (addr : Quad) (m : Word) (at1 : Pc) : TrapRec :=
  if s.isSteward then ⟨true, 0, code, cause, ptrOf at1 s.prio0, 0#32, addr, true, s.me.handler.isSome⟩
  else ⟨false, s.me.sid - 1, code, cause, ptrOf at1 s.prio0, m, addr, false, false⟩

/-- The lanes `m` of the issuing stream's head take a trap (R306, R308, R309): they are parked, and a record is made. -/
def State.trapAt (s : State) (cause code : Nat) (addr : Quad) (m : Word) (at0 at1 : Pc) : State :=
  if m = 0#32 then s
  else ({ s with me := s.me.moveHead m [s.parkEntry cause m at0] }).record s.crew.id (s.trapRec cause code addr m at1)

/-- Lanes take a trap raised at issue: parked at the chain's first word, which the record names (R306). -/
def State.trapLanes (s : State) (cause code : Nat) (addr : Quad) (m : Word) : State :=
  s.trapAt cause code addr m s.pc0 s.pc0

/-- The whole head takes a trap raised at issue (R305, R306). -/
def State.trapHead (s : State) (cause code : Nat) (addr : Quad) : State := s.trapLanes cause code addr s.headMask

/-- `ILLEGAL_OP` of the whole head (R91). -/
def State.illegal (s : State) : State := s.trapHead 0x01 0 0#64

/-- A stream that waits in a `FENCE` or `MWAIT` stands at that word again, which will issue once more (R309, R312): those of its lanes
that have not exited or parked. -/
def Stream.rewind (t : Stream) : Stream :=
  match t.blockAt with
  | none => t
  | some b =>
    let live (e : Entry) : Bool := match e.st with | .parked _ => false | _ => true
    let m := b.mask &&& (t.frontier.filter live).foldl (fun m e => m ||| e.mask) 0#32
    { t with
      blocked := none
      blockAt := none
      frontier := normFrontier (t.frontier.map (fun e => if live e then { e with mask := e.mask &&& ~~~m } else e) ++
        [{ b with mask := m }]) }

/-- The steward of a crew enters its handler for a record (R309, R210): the four trap registers are loaded, the place where it
stands is saved, and it runs from `TVEC.PACKET`, slot 0, at priority 0. A `FENCE` in which it waits will issue again; after the trap of
its own word it will go on at the word after it. -/
def Stream.enterHandler (t0 : Stream) (rec : TrapRec) : Stream :=
  let t := t0.rewind
  let e := (t.frontier.head?).getD ⟨⟨0, 0⟩, 0, 1#32, .ready, false⟩
  { t with
    handler := some (if rec.own then { e with st := .ready } else e)
    frontier := [⟨⟨wbits t.tvec 25 0, 0⟩, 0, 1#32, .ready, false⟩]
    tkServed := false
    trapcause := BitVec.ofNat 32
      ((if rec.src then 2 ^ 20 else 0) + rec.group % 16 * 2 ^ 16 + rec.code % 256 * 2 ^ 8 + rec.cause % 256)
    trappc := rec.pc
    trapmask := rec.mask
    trapaddr := rec.addr }

/-- Leaving handler mode (R212): the steward goes on at the saved place. -/
def Stream.leaveHandler (t : Stream) (saved : Entry) : Stream := { t with handler := none, frontier := [saved] }

/-- The failures of each cause, in ascending order: the failure of the lowest lane and the lanes (R220). -/
def failGroups (fails : List (Nat × Nat × Nat × Quad)) : List ((Nat × Nat × Nat × Quad) × Word) :=
  (List.range 16).filterMap (fun cause => match fails.filter (fun f => f.2.1 == cause) with
    | [] => none
    | f :: t => some (f, maskOf ((f :: t).map Prod.fst)))

/-- Lanes that failed a check at issue are parked, one entry and one record for each cause, in ascending cause order, with
`TRAPADDR` that of the lowest lane (R220). Each failure is a lane, a cause, a code and an address. -/
def State.trapFailed (s : State) (fails : List (Nat × Nat × Nat × Quad)) : State :=
  if fails = [] then s
  else
    let gs := failGroups fails
    let s1 : State := { s with me := s.me.moveHead (maskOf (fails.map Prod.fst)) (gs.map (fun g => s.parkEntry g.1.2.1 g.2 s.pc0)) }
    gs.foldl (fun s2 g => s2.record s.crew.id (s.trapRec g.1.2.1 g.1.2.2.1 g.1.2.2.2 g.2 s.pc0)) s1

/-- Every lane of the head failed: the word takes no effect and counts no use (R91). -/
def State.allFailed (s : State) (fails : List (Nat × Nat × Nat × Quad)) : Bool :=
  decide (maskOf (fails.map (·.1)) = s.headMask) && !fails.isEmpty

/-- A register field that must be even in a group (R73). -/
def State.evenG (s : State) (r : BitVec 6) : Bool := s.isSteward || r.toNat % 2 == 0

/-! ### Lanes that exit, and what follows (R127, R178) -/

/-- Every lane of a stream: one for a steward. -/
def Stream.full (t : Stream) : Word := if t.sid = 0 then 1#32 else 0xFFFFFFFF#32

/-- Every lane of the stream has exited. -/
def Stream.gone (t : Stream) : Bool := t.exited == t.full

/-- Takes lanes out of the frontier and the expected mask and counts them as exited (R127). -/
def Stream.exitLanes (t : Stream) (m : Word) : Stream :=
  { t with
    frontier := normFrontier (t.frontier.map (fun e => { e with mask := e.mask &&& ~~~m }))
    expected := t.expected &&& ~~~m
    exited := t.exited ||| m }

/-- Lanes of a stream exit (R127, R189): they count as triggered once their writes have drained (R178), a waiting `JOIN` may
release (R109), and a stream whose lanes have all exited may retire. A steward leaves handler mode and its records escalate
(R212); it counts as arrived at `PHASE` (R125). -/
def State.exitLanes (s : State) (r : Ref) (m : Word) : State :=
  let s1 := s.updStream r (fun t => t.exitLanes m)
  let s2 := (s1.push .triggerRecord { r := r, q := zext m, a := s.nextId }).push .joinRelease { r := r }
  match s2.streamOf r with
  | none => s2
  | some t =>
    if !t.gone then s2
    else
      let s3 := ((s2.push .groupRetire { r := r }).push .asyncTrapPark { r := r }).push .convergencePark { r := r }
      match s3.crewOf r.crew with
      | none => s3
      | some c =>
        let s4 := s3.push .slackwaterReport { a := c.task }
        if r.sid = 0 then
          let s5 := s4.updStream r (fun t => { t with handler := none })
          let s6 := s5.updCrew r.crew (fun c =>
            { c with phaseBusy := match c.phaseBusy with | some b => some b | none => some (s.clock - c.phaseStart) })
          (s6.push .trapEscalation { a := r.crew }).push .phaseRelease { a := c.task, b := c.span }
        else s4

/-- The place of the word being executed with the head's lanes, for a word that the stream waits in (R309, R312). -/
def State.waitPlace (s : State) : Entry := ⟨s.pc, s.prio0, s.headMask, .ready, false⟩

/-- The packets of the issuing stream's code (R185, R333). -/
def State.packets (s : State) : Nat :=
  match s.taskOf s.crew.task with
  | some t => if s.isSteward then t.kernel.spkts else t.kernel.gpkts
  | none => 0

/-- Whether a place in the issuing stream's code is valid (R185). -/
def State.pcValid (s : State) (c : Pc) : Bool := decide (c.slot < 3) && decide (c.packet < s.packets)

end Sys2Proof.Machine
end

