-- ==== Sys2Proof/Machine/Access.lean ====
section
/-! DEFINITION. Where an access goes: translation (R316, R317), the decoding of generic addresses (R150, R151, R217, R218),
the checks at issue (R219, R220) and what they answer. -/

namespace Sys2Proof.Machine

/-! ### Translation -/

/-- The 64-bit little-endian value at a home. -/
def State.quadAt (s : State) (a : Nat) : Quad := BitVec.ofNat 64 (leNat (s.mem.bytes a 8))

/-- A leaf that the table layout of R317 accepts at a level: not above level 2, LOC not 3, bits [50:48] 0, FRAME bits below
the page size 0, PEER 0 unless LOC is 2. -/
def leafOk (lvl : Nat) (e : Quad) : Bool :=
  lvl ≤ 2 && bits e 61 60 ≠ 3 && bits e 50 48 == 0 &&
  bits e 47 16 % 2 ^ (if lvl = 0 then 0 else if lvl = 1 then 5 else 14) == 0 && (bits e 61 60 == 2 || bits e 15 0 == 0)

/-- A non-leaf entry that R317 accepts: every bit but V, LEAF and NEXT is 0. -/
def nextOk (e : Quad) : Bool := bits e 61 48 == 0 && bits e 11 0 == 0

/-- The shift of a level's index (R316). -/
def lvlShift (lvl : Nat) : Nat := match lvl with | 0 => 16 | 1 => 21 | 2 => 30 | 3 => 39 | _ => 48

/-- The number of entries of a level's table (R316). -/
def lvlEntries (lvl : Nat) : Nat := if lvl = 0 then 32 else 512

/-- The five-level walk of R316 from a table at a level: the valid leaf and the bits of its page size, or none. -/
def State.walkFrom (s : State) (va : Nat) : Nat → Nat → Option (Quad × Nat)
  | fuel, tbl =>
    let e := s.quadAt (tbl + 8 * (va / 2 ^ lvlShift fuel % lvlEntries fuel))
    if !qbit e 63 then none
    else if qbit e 62 then (if leafOk fuel e then some (e, lvlShift fuel) else none)
    else match fuel with
      | 0 => none
      | lvl + 1 => if nextOk e then s.walkFrom va lvl (bits e 47 12 * 4096) else none

/-- The leaf of a page of a derived tensor (R400): LOC 0, CA and R set, W clear, the key of its base, a page of the pool. -/
def Derived.leaf (d : Derived) (va : Nat) : Option Quad :=
  if d.base ≤ va then
    (d.homes[(va - d.base) / 65536]?).map (fun h =>
      BitVec.ofNat 64 (2 ^ 63 + 2 ^ 62 + 2 ^ 58 + 2 ^ 56 + d.key % 32 * 2 ^ 51 + h))
  else none

/-- The walk of a partition's table for a 57-bit virtual address; the pages of derived tensors are those the control complex
maps in the range of R400 (log entry 6). -/
def State.walk (s : State) (part va : Nat) : Option (Quad × Nat) :=
  if va / 2 ^ 52 = 0xF then
    ((s.part part).deriveds.findSome? (fun d => d.leaf va)).map (fun e => (e, 16))
  else s.walkFrom va 4 (s.part part).conf.ptroot.toNat

/-- A cached translation that covers an address (R319). -/
def tlbFind (t : List TlbEnt) (holder part va : Nat) : Option TlbEnt :=
  t.find? (fun e => e.holder == holder && e.part == part && e.base ≤ va && va < e.base + e.size)

/-- The leaf an access of a core uses: the one its L1 TLB caches (R319), else the one the table holds. A cached 0 stands for
an address without a valid leaf. -/
def State.leafFor (s : State) (core part va : Nat) : Option (Quad × Nat) :=
  match tlbFind s.tlb1 core part va with
  | some e => if qbit e.leaf 63 then some (e.leaf, Nat.log2 e.size) else none
  | none => s.walk part va

/-- The home of a virtual address under a leaf and its page size: a package address (LOC 0) or host memory (LOC 1). -/
def leafHome (leaf : Quad) (sh va : Nat) : Nat :=
  let a := bits leaf 47 16 * 2 ^ 16 + va % 2 ^ sh
  if bits leaf 61 60 = 0 then a else hostHome a

/-- A package address is in service: in a window or register page, or in DRAM whose stack has trained and whose channel
has not failed (R30, R34). -/
def State.frameUp (s : State) (a : Nat) : Bool :=
  if a < 2 ^ 46 then
    decide (a < dramSize) && s.dev.trained.contains (stackOfSlice (sliceOf a)) && !s.dev.failedChans.contains (sliceOf a)
  else decide (sliceOf a < 384) && s.dev.trained.contains (stackOfSlice (sliceOf a)) &&
    !s.dev.failedChans.contains (sliceOf a)

/-- The home of a global address in a partition as the device's agents reach it: a resident page of package memory. -/
def State.homeOf (s : State) (part va : Nat) : Option Nat :=
  match s.walk part va with
  | some (e, sh) => if bits e 61 60 = 0 then some (leafHome e sh va) else none
  | none => none

/-- The bytes at a global address of a partition; none where a page of package memory is missing. The range must not cross
a 64 KiB page (every structure read so is aligned). -/
def State.gread (s : State) (part va n : Nat) : Option (List Byte) :=
  (s.homeOf part va).map (fun a => s.mem.bytes a n)

/-- The word of a stream's code at a place: 12 bytes a packet, 4 a slot, little-endian (R69); none where the page is not mapped
to package memory. -/
def State.codeWord (s : State) (part base : Nat) (c : Pc) : Option Word :=
  (s.gread part (base + 12 * c.packet + 4 * c.slot) 4).map (fun b => BitVec.ofNat 32 (leNat b))

/-! ### Generic addresses and the checks at issue -/

/-- What an access wants at its home (R220). -/
inductive Want where
  | read | write | readWrite
  deriving DecidableEq, Repr

/-- The outcome of the checks of R220 for one lane: the space, the home and the page address, or a trap cause and address. -/
inductive Target where
  | ok (space : Space) (home va : Nat)
  | trap (cause : Nat) (addr : Quad)
  deriving DecidableEq, Repr

/-- Key rights of a stream for a leaf (R216). -/
def pkrRefuses (pkr : Quad) (leaf : Quad) (wr : Bool) : Bool :=
  qbit pkr (2 * bits leaf 55 51) || (wr && qbit pkr (2 * bits leaf 55 51 + 1))

/-- A leaf refuses an access of a core (R220, R317, R30, R34). -/
def State.leafRefuses (s : State) (leaf : Quad) (sh va : Nat) (w : Want) : Bool :=
  !qbit leaf 58 || qbit leaf 59 || (w != .write && !qbit leaf 56) || (w != .read && !qbit leaf 57) ||
  bits leaf 61 60 == 2 || (bits leaf 61 60 == 1 && w != .write) ||
  (bits leaf 61 60 == 0 && !s.frameUp (leafHome leaf sh va))

/-- The checks of a global access after its address bits (R219, R220): alignment, leaf, key. -/
def State.checkGlobal (s : State) (ea : Quad) (va align : Nat) (w : Want) : Target :=
  if va % align ≠ 0 then .trap 0x04 ea
  else match s.leafFor s.crew.core s.crew.part va with
    | none => .trap 0x03 ea
    | some (leaf, sh) =>
      if s.leafRefuses leaf sh va w || pkrRefuses s.me.pkr leaf (w != .read) then .trap 0x03 ea
      else .ok (if bits leaf 61 60 = 1 then .host else .global) (leafHome leaf sh va) va

/-- The crew whose scratchpad share a rank names (R151): the own crew for 0xF, else the crew of the same span. -/
def State.crewOfRank (s : State) (rank : Nat) : Option Crew :=
  if rank = 15 then some s.crew
  else s.allCrews.find? (fun c => c.task == s.crew.task && c.span == s.crew.span && c.rank == rank)

/-- The checks of a scratchpad access (R151, R219). -/
def State.checkScratch (s : State) (ea : Quad) (rank off width align : Nat) : Target :=
  match s.crewOfRank rank with
  | none => .trap 0x03 ea
  | some c =>
    if off + width > c.shareSize then .trap 0x03 ea
    else if off % align ≠ 0 then .trap 0x04 ea
    else .ok .scratch (c.shareHome + off) 0

/-- A generic address decoded and checked (R150, R151, R218 to R220) for an access of `width` bytes; `nib` for the 4-bit forms,
whose select bit is exempt. -/
def State.resolve (s : State) (lane : Nat) (ea : Quad) (width align : Nat) (nib : Bool) (w : Want) : Target :=
  if !qbit ea 63 then
    (if bits ea 62 58 ≠ 0 || (!nib && qbit ea 57) then .trap 0x03 ea
     else s.checkGlobal ea (bits ea 56 0) align w)
  else if bits ea 63 60 = 0xA then
    (if bits ea 55 21 ≠ 0 || (!nib && qbit ea 20) || (12 ≤ bits ea 59 56 && bits ea 59 56 < 15) then .trap 0x03 ea
     else s.checkScratch ea (bits ea 59 56) (bits ea 19 0) width align)
  else if bits ea 63 60 = 0xB then
    (if bits ea 59 17 ≠ 0 || (!nib && qbit ea 16) then .trap 0x03 ea
     else if bits ea 15 0 % align ≠ 0 then .trap 0x04 ea
     else .ok .stack (stackHome s.crew.part s.crew.core s.crew.slot s.me.sid lane + bits ea 15 0) 0)
  else .trap 0x03 ea

/-- The high-nibble select of a 4-bit access (R218). -/
def nibSel (ea : Quad) : Bool :=
  if !qbit ea 63 then qbit ea 57 else if bits ea 63 60 = 0xA then qbit ea 20 else qbit ea 16

/-- The byte offset of a memory operand (R78, R217): the `IMX` literal, sign-extended, else 0. -/
def State.memOff (s : State) : Int := match s.ctx.lit with | some l => l.toInt | none => 0

/-- The effective address of a `.G` form (R217). -/
def State.eaG (s : State) (a : BitVec 6) (lane : Nat) : Quad :=
  s.me.rd 64 a.toNat lane + BitVec.ofInt 64 s.memOff

/-- The effective address of a `.S` form as a generic address of rank 0xF (R217, R218); none outside its range. -/
def State.eaS (s : State) (a : BitVec 6) (lane : Nat) (nib : Bool) : Option Quad :=
  let o : Int := (s.me.rd 32 a.toNat lane).toNat + s.memOff
  if 0 ≤ o ∧ o < (if nib then 2 ^ 21 else 2 ^ 20) then some (0xAF00000000000000#64 + BitVec.ofInt 64 o) else none

/-- The address a `.S` form reports when its offset is out of range (R220): tag 0xA, rank 0xF, the offset's low bits
(log entry 5). -/
def State.eaSBad (s : State) (a : BitVec 6) (lane : Nat) : Quad :=
  0xAF00000000000000#64 + (BitVec.ofInt 64 ((s.me.rd 32 a.toNat lane).toNat + s.memOff) &&& 0x00FFFFFFFFFFFFFF#64)

end Sys2Proof.Machine
end

