-- ==== Sys2Proof/Machine/Operands.lean ====
section
/-! DEFINITION. The operand forms (R72, R73, R75, R78, R79, R184, R190, R217): how each format's operands are read and where
its result goes. A form is one shared operation that the meanings of its words call with their function. -/

namespace Sys2Proof.Machine

/-- The width a function runs at: the natural width of the stream, or the other one (R75). -/
def State.width (s : State) (other : Bool) : Nat := if s.isSteward != other then 64 else 32

/-- A register field that an operand of width `w` allows: a 64-bit operand of a group is an even pair (R73). -/
def State.fieldOk (s : State) (w : Nat) (r : BitVec 6) : Bool := s.isSteward || w != 64 || r.toNat % 2 == 0

/-- The combined immediate of RRI and RFI (R78): 6 bits, or 25 with the `IMX` literal, sign-extended to 64. -/
def State.imm (s : State) (i : BitVec 6) : Quad :=
  match s.ctx.lit with
  | some l => (l ++ i).signExtend 64
  | none => i.signExtend 64

/-- The packet offset of `BRA` and `CALL` (R78): 12 bits, or 31 with the literal, signed. -/
def State.branchOff (s : State) (off : BitVec 12) : Int :=
  match s.ctx.lit with
  | some l => (l ++ off).toInt
  | none => off.toInt

/-- A function of two operands and the old destination at any width. -/
abbrev AluFn := (w : Nat) → BitVec w → BitVec w → BitVec w → BitVec w

/-- Applies a function at width `w` to values held in 64 bits; the result is zero-extended. -/
def atWidth (f : AluFn) (w : Nat) (x y z : Quad) : Quad :=
  (f w (x.setWidth w) (y.setWidth w) (z.setWidth w)).setWidth 64

/-- Writes one value of width `w` in each active lane, `lat` cycles after issue (R115, R190). -/
def State.aluWrite (s : State) (lat w : Nat) (g : BitVec 1) (d : BitVec 6) (f : Nat → Quad) : State :=
  s.post1 lat ((s.lanes g).flatMap (fun l => s.me.wr w d.toNat l (f l)))

/-- Three-address RRR form (R190): d := f(a, b, d) at the natural width. -/
def State.rrr (s : State) (lat : Nat) (f : AluFn) (d a b : BitVec 6) (g : BitVec 1) : State :=
  let w := s.width false
  s.aluWrite lat w g d (fun l => atWidth f w (s.me.rd w a.toNat l) (s.me.rd w b.toNat l) (s.me.rd w d.toNat l))

/-- Unary RRF form (R190): d := f(a). -/
def State.unary (s : State) (lat : Nat) (other : Bool) (f : AluFn) (d a : BitVec 6) (g : BitVec 1) : State :=
  let w := s.width other
  if s.fieldOk w d && s.fieldOk w a then
    s.aluWrite lat w g d (fun l => atWidth f w (s.me.rd w a.toNat l) 0#64 0#64)
  else s.illegal

/-- Two-address RRF form (R72, R190): d := f(d, a). -/
def State.twoAddr (s : State) (lat : Nat) (other : Bool) (f : AluFn) (d a : BitVec 6) (g : BitVec 1) : State :=
  let w := s.width other
  if s.fieldOk w d && s.fieldOk w a then
    s.aluWrite lat w g d (fun l => atWidth f w (s.me.rd w d.toNat l) (s.me.rd w a.toNat l) 0#64)
  else s.illegal

/-- A two-address shift (R73, R191): the count is bits [5:0] of one register a, whatever the width of d. -/
def State.shiftReg (s : State) (other : Bool) (f : (w : Nat) → BitVec w → Nat → BitVec w) (d a : BitVec 6)
    (g : BitVec 1) : State :=
  let w := s.width other
  if s.fieldOk w d then
    s.aluWrite 2 w g d (fun l =>
      atWidth (fun w x _ _ => f w x ((s.me.rd 32 a.toNat l).toNat % 64)) w (s.me.rd w d.toNat l) 0#64 0#64)
  else s.illegal

/-- Immediate RFI form (R190): d := f(d, value). -/
def State.immForm (s : State) (lat : Nat) (other : Bool) (f : AluFn) (d i : BitVec 6) (g : BitVec 1) : State :=
  let w := s.width other
  if s.fieldOk w d then
    s.aluWrite lat w g d (fun l => atWidth f w (s.me.rd w d.toNat l) (s.imm i) 0#64)
  else s.illegal

/-- A shift by an immediate (R78, R84, R191): the count is the low 6 bits of the sign-extended combined value, whose other bits must
be 0. -/
def State.shiftImm (s : State) (other : Bool) (f : (w : Nat) → BitVec w → Nat → BitVec w) (d i : BitVec 6)
    (g : BitVec 1) : State :=
  let w := s.width other
  let v := (s.imm i).toNat
  if s.fieldOk w d && v < 64 then
    s.aluWrite 2 w g d (fun l => atWidth (fun w x _ _ => f w x v) w (s.me.rd w d.toNat l) 0#64 0#64)
  else s.illegal

/-- A form over 32-bit operands in either stream (R184): d := f(a, b, d) in each active lane. -/
def State.op32 (s : State) (lat : Nat) (f : Word → Word → Word → Word) (d a b : BitVec 6) (g : BitVec 1) : State :=
  s.aluWrite lat 32 g d (fun l =>
    zext (f (lo32 (s.me.rd 32 a.toNat l)) (lo32 (s.me.rd 32 b.toNat l)) (lo32 (s.me.rd 32 d.toNat l))))

/-- A unary function of a 32-bit operand: d := f(a). -/
def State.op32u (s : State) (lat : Nat) (f : Word → Word) (d a : BitVec 6) (g : BitVec 1) : State :=
  s.aluWrite lat 32 g d (fun l => zext (f (lo32 (s.me.rd 32 a.toNat l))))

/-- The register operand a group gives once, from lane 0, or a steward's register (R236, R282): 32 bits. -/
def State.uni32 (s : State) (r : BitVec 6) : Word := lo32 (s.me.rd 32 r.toNat 0)

/-- The same as 64 bits: a pair of lane 0 or a k register. -/
def State.uni64 (s : State) (r : BitVec 6) : Quad := s.me.rd 64 r.toNat 0

/-- The writes of one 64-bit value to register r in every head lane. -/
def State.wrAll (s : State) (r : BitVec 6) (x : Quad) : List RegWrite :=
  s.headLanes.flatMap (fun l => s.me.wr 64 r.toNat l x)

/-- The writes of one 32-bit value to register r in every head lane. -/
def State.wrAll32 (s : State) (r : BitVec 6) (x : Word) : List RegWrite :=
  s.headLanes.flatMap (fun l => s.me.wr 32 r.toNat l (zext x))

/-- The writes of one predicate value in every head lane. -/
def State.wrAllP (s : State) (p : Nat) (b : Bool) : List RegWrite := s.headLanes.map (fun l => .p (32 * p + l) b)

end Sys2Proof.Machine
end

