-- ==== Sys2Proof/Machine/Code.lean ====
section
/-! DEFINITION. Code (R69, R76 to R78): the words at a program counter, the chain they form, its legality, and the pipes and issue
intervals of the words (R82, R81, R183). -/

namespace Sys2Proof.Machine

/-! ### Pipes -/

/-- The pipes of R76. -/
inductive Pipe where
  | none | alu | fma | sfu | lsu | eng | br
  deriving DecidableEq, Repr

/-- A number for each pipe, for the table of free pipes. -/
def Pipe.num : Pipe → Nat
  | .none => 0 | .alu => 1 | .fma => 2 | .sfu => 3 | .lsu => 4 | .eng => 5 | .br => 6

/-- The pipe of a word (R81, R82). -/
def pipeOf (w : Word) : Pipe :=
  let op := (opOf w).toNat
  let fn := wbits w 18 14
  if op = 0x00 then
    (if fn = 0 then .none else if fn = 1 || fn = 2 || fn = 6 || fn = 7 then .br else .alu)
  else if op = 0x01 then .none
  else if op < 0x08 then .br
  else if op < 0x14 then .alu
  else if op < 0x1D then .fma
  else if op = 0x1D then .sfu
  else if op < 0x20 then .fma
  else if op < 0x24 then .alu
  else if op < 0x30 || op = 0x36 || op = 0x3B || op = 0x3C then .lsu
  else .eng

/-- The issue interval of a word on its pipe (R183). -/
def intervalOf (w : Word) (i : Instr) : Nat :=
  if pipeOf w = .sfu then 2
  else match i with
    | .imulOw _ _ _ | .imulImmOw _ _ _ | .imulhIOw _ _ _ | .imulhNOw _ _ _ => 2
    | .grd _ _ | .gwr _ _ | .gresume _ | .gkill _ => 2
    | _ => 1

/-- A word that an `IMX` may precede (R78): RRI, RFI, `BRA`, `CALL` and format M. -/
def takesImx (w : Word) : Bool :=
  let op := (opOf w).toNat
  op == 0x11 || op == 0x17 || op == 0x18 || op == 0x02 || op == 0x03 || (0x24 ≤ op && op < 0x30) || op == 0x36 || op == 0x3B

/-- A word that moves its lanes itself (R107, R109, R127, R211, R212); the others go on at the word after the chain. -/
def movesPc (i : Instr) : Bool :=
  match i with
  | .bra _ _ _ | .call _ _ _ | .brx _ _ _ | .ret _ | .join | .exit _ | .trap | .bkpt | .eret => true
  | _ => false

/-! ### Chains -/

/-- The words of the chain that begins at slot `slot` of the packet whose words are given (R76): up to the first word with C 0,
or to the end of the packet. -/
def chainFrom : List Word → List Word
  | [] => []
  | w :: t => if w.getLsbD 31 then w :: chainFrom t else [w]

/-- The rules of R76 and R78 on a chain of words: its last word ends it, each pipe once, a BR word last, the same Y, D and W
throughout, and each `IMX` before a word that takes it. -/
def chainOk (ws : List Word) : Bool :=
  let pipes := (ws.map pipeOf).filter (· != .none)
  (match ws.getLast? with | some w => !w.getLsbD 31 | none => false) &&
  pipes.eraseDups.length == pipes.length &&
  (ws.dropLast.all (fun w => pipeOf w != .br)) &&
  (ws.all (fun w => wbits w 30 25 == wbits (ws.headD 0) 30 25)) &&
  (List.range ws.length).all (fun i =>
    (opOf (ws.getD i 0)).toNat != 1 || (i + 1 < ws.length && takesImx (ws.getD (i + 1) 0)))

/-- A chain, decoded: the words with their headers and instructions; none when it raises `ILLEGAL_OP` by its form (R76, R91). -/
def decodeChain (ws : List Word) : Option (List (Word × Hdr × Instr)) :=
  if chainOk ws then ws.mapM (fun w => (decodeWord w).map (fun x => (w, x))) else none

/-- The base of a stream's code (R333). -/
def State.codeBase (s : State) (c : Crew) (sid : Nat) : Nat :=
  match s.taskOf c.task with
  | some t => if sid = 0 then t.kernel.scode else t.kernel.gcode
  | none => 0

/-- The packets of a stream's code (R185, R333). -/
def State.codePackets (s : State) (c : Crew) (sid : Nat) : Nat :=
  match s.taskOf c.task with
  | some t => if sid = 0 then t.kernel.spkts else t.kernel.gpkts
  | none => 0

/-- The words from a place to the end of its packet; none where one is not mapped. -/
def State.packetFrom (s : State) (part base : Nat) (c : Pc) : Option (List Word) :=
  (List.range (3 - c.slot)).mapM (fun i => s.codeWord part base ⟨c.packet, c.slot + i⟩)

/-- The chain at the head of a stream; none when the stream has no head, stands past its last packet, or its code is not mapped. -/
def State.headChain (s : State) (c : Crew) (t : Stream) : Option (List Word) :=
  match t.head with
  | none => none
  | some e =>
    if s.codePackets c t.sid ≤ e.pc.packet then none else (s.packetFrom c.part (s.codeBase c t.sid) e.pc).map chainFrom

/-- The instructions of the chain at the head of a stream; none when there is none or it is illegal. -/
def State.headInstrs (s : State) (c : Crew) (t : Stream) : List Instr :=
  match (s.headChain c t).bind decodeChain with
  | some l => l.map (fun x => x.2.2)
  | none => []

end Sys2Proof.Machine
end

