-- ==== Sys2Proof/Machine/Net.lean ====
section
/-! DEFINITION. What leaves the package: interrupts, writes to host memory, datagrams of the Horoux transport and their connections
(R17 to R21, R322, R323), the held egress of lockstep partitions (R326), and the order records of lockstep (R325). -/

namespace Sys2Proof.Machine

/-! ### CRC-32C (R19; the polynomial is in log entry 7) -/

/-- One bit of the reflected CRC. -/
def crcBit (c : Word) : Word := if c.getLsbD 0 then (c >>> 1) ^^^ 0x82F63B78#32 else c >>> 1

/-- One byte of the CRC. -/
def crcByte (c : Word) (b : Byte) : Word := (List.range 8).foldl (fun c _ => crcBit c) (c ^^^ b.setWidth 32)

/-- CRC-32C of bytes. -/
def crc32c (bs : List Byte) : Word := bs.foldl crcByte 0xFFFFFFFF#32 ^^^ 0xFFFFFFFF#32

/-! ### Datagrams -/

/-- The bytes of a datagram with a given CRC field (R19). -/
def dgBytes (g : Datagram) (crc : Word) : List Byte :=
  [g.ver, g.typ, g.flags, g.cls] ++ leBytes 2 g.srcPkg.toNat ++ leBytes 2 g.dstPkg.toNat ++ [g.srcPart, g.dstPart] ++
  leBytes 2 g.payload.length ++ leBytes 4 g.seq.toNat ++ leBytes 4 g.ack.toNat ++ leBytes 4 g.msgId.toNat ++
  leBytes 4 g.offset.toNat ++ leBytes 4 crc.toNat ++ g.payload

/-- The CRC a datagram should carry (R19). -/
def dgCrc (g : Datagram) : Word := crc32c (dgBytes g 0#32)

/-! ### The package's number and lockstep (R18, R23, R325) -/

/-- A little-endian number of the configuration store in effect (R23); the store's layout is in log entry 8. -/
def State.storeNum (s : State) (off n : Nat) : Nat := field s.dev.storeLive off n

/-- The package number (R23). -/
def State.pkgNum (s : State) : Nat := s.storeNum 0 2

/-- The UDP destination port of the transport (R18, R23). -/
def State.udpPort (s : State) : Nat := s.storeNum 4 2

/-- A partition is one of a lockstep pair. -/
def State.isLockstep (s : State) (p : Nat) : Bool := (s.part p).conf.mate.isSome

/-- The follower of a lockstep pair: the higher package number (R325). -/
def State.isFollower (s : State) (p : Nat) : Bool :=
  match (s.part p).conf.mate with | some (pkg, _) => pkg < s.pkgNum | none => false

/-! ### Interrupts and host writes -/

/-- The vector number standing for the physical function in `irqs`. -/
def pfIrq : Nat := 255

/-- The connection of a number. -/
def State.connOfId (s : State) (id : Nat) : Option Conn := s.dev.conns.find? (fun c => c.id == id)

/-- Updates a connection. -/
def State.updConn (s : State) (id : Nat) (f : Conn → Conn) : State :=
  s.updDev (fun d => { d with conns := updIf (fun c => c.id == id) f d.conns })

/-! ### Ports (R17, R18) -/

/-- The two ports of a lockstep partition's pair link (R18, R23): those of its entry in the store, else 16 and 17 (log entries 8, 9). -/
def State.pairPorts (s : State) (p : Nat) : Nat × Nat :=
  let at0 := 16384 + 8 * p
  let a := s.storeNum (at0 + 2) 1
  let b := s.storeNum (at0 + 3) 1
  match (s.part p).conf.mate with
  | some (pkg, _) =>
    if s.storeNum (at0 + 4) 1 = 1 && s.storeNum at0 2 = pkg && a < 18 && b < 18 && a != b then (a, b) else (16, 17)
  | none => (16, 17)

/-- A port that the pair link of a lockstep partition has for itself (R18). -/
def State.dedicated (s : State) (port : Nat) : Bool :=
  s.parts.any (fun p => s.isLockstep p.1 && ((s.pairPorts p.1).1 == port || (s.pairPorts p.1).2 == port))

/-- The port of a partition's other datagrams (log entry 9): the lowest port that no pair link has, of those it has a share of if there is one. -/
def State.dataPort (s : State) (p : Nat) : Nat :=
  let free := (List.range 18).filter (fun i => !s.dedicated i)
  match free.find? (fun i => (s.part p).conf.fabric.getD i 0 != 0) with
  | some i => i
  | none => free.headD 0

/-- Whether a datagram of a type travels on the pair link (R19, R21): `DIGEST` and `ORDER`, and the permits and acknowledgements of the connection
that carries them. -/
def State.onPair (s : State) (c : Conn) (typ : Nat) : Bool :=
  typ == 12 || typ == 13 || ((typ == 8 || typ == 9) && c.cls == 1 && (s.part c.myPart).conf.mate == some (c.peerPkg, c.peerPart))

/-- The port a datagram of a connection leaves through: on a pair link its two ports in turn (log entry 9). -/
def State.sendPort (s : State) (c : Conn) (typ : Nat) (seq : Word) : Nat :=
  if s.onPair c typ then (if seq.getLsbD 0 then (s.pairPorts c.myPart).2 else (s.pairPorts c.myPart).1) else s.dataPort c.myPart

/-- Transmission on a port and the priority of a class is paused (R17). -/
def State.paused (s : State) (port cls : Nat) : Bool := tget false s.dev.pause (2 * port + min 1 cls)

/-- Asks for a device step that is not on the agenda with these operands. -/
def State.pushOnce (s : State) (op : Instr) (arg : EvArg) : State :=
  if s.agenda.any (fun e => e.op == op && e.arg == arg) then s else s.push op arg

/-! ### Sending (R17, R19, R21) -/

/-- A datagram of a connection with its sequence number, acknowledgement and CRC (R19, R21). -/
def State.stamp (s : State) (c : Conn) (g : Datagram) : Datagram :=
  let g1 : Datagram := { g with
    ver := 1#8
    flags := g.flags ||| (if s.onPair c g.typ.toNat then 4#8 else 0#8)
    cls := BitVec.ofNat 8 c.cls
    srcPkg := BitVec.ofNat 16 s.pkgNum
    dstPkg := BitVec.ofNat 16 c.peerPkg
    srcPart := BitVec.ofNat 8 c.myPart
    dstPart := BitVec.ofNat 8 c.peerPart
    seq := c.nextSeq
    ack := c.recvSeq }
  { g1 with crc := dgCrc g1 }

/-- A datagram leaves through a port. -/
def State.transmit (s : State) (port : Nat) (g : Datagram) : State :=
  s.updDev (fun d => { d with netOut := d.netOut ++ [(port, s.udpPort, g)] })

/-- Sends queued datagrams of a connection while permits and the port allow it; each takes one permit (R17, R21). -/
def State.pump (s : State) (id : Nat) : Nat → State
  | 0 => s
  | fuel + 1 =>
    match s.connOfId id with
    | none => s
    | some c => match c.queue with
      | [] => s
      | g :: t =>
        let port := s.sendPort c g.typ.toNat c.nextSeq
        if c.permits = 0 || s.paused port c.cls then s
        else
          let g1 := s.stamp c g
          let s1 := s.updConn id (fun c =>
            { c with queue := t, permits := c.permits - 1, nextSeq := c.nextSeq + 1, ackDue := false,
                     unacked := c.unacked ++ [(g1, s.clock, 72000)] })
          ((s1.transmit port g1).pushOnce .retransmitTimer { a := id }).pump id fuel

/-- A datagram joins the queue of its connection, and what may go is sent. -/
def State.submit (s : State) (id : Nat) (g : Datagram) : State :=
  (s.updConn id (fun c => { c with queue := c.queue ++ [g] })).pump id 65536

/-- Something a partition sends out, released at once outside lockstep. -/
def State.release (s : State) (p : Nat) : Egress → State
  | .host a bs => s.updDev (fun d => { d with hostWrites := d.hostWrites ++ [(a, bs)] })
  | .net id g => s.submit id g
  | .irq v => s.updDev (fun d => { d with irqs := d.irqs ++ [(p, v)] })

/-! ### Held egress (R326) -/

/-- The destination class of an egress: the host, with writes and interrupts in one order (R413), and one for each fabric destination (R326). -/
def Egress.cls : Egress → Nat
  | .host _ _ => 0
  | .irq _ => 0
  | .net _ g => 1 + g.dstPkg.toNat % (2 ^ 16 - 1)

/-- The bytes of an egress as they are hashed; a datagram without what only its sending settles: source, numbers, acknowledgement. -/
def Egress.bytes : Egress → List Byte
  | .host a bs => leBytes 8 a ++ bs
  | .irq v => [BitVec.ofNat 8 v]
  | .net _ g => dgBytes g 0#32

/-- The digest of a piece (R326). -/
def Piece.digest (x : Piece) : BitVec 384 := Config.sha384 x.bytes

/-- The number of the open piece of a class, or that of the next one: pieces of a class are numbered from 0 (log entry 9). -/
def openPiece (cls : Nat) (l : List Piece) : Nat :=
  let mine := l.filter (fun x => x.cls == cls)
  match leastBy Piece.num (mine.filter (fun x => !x.closed)) with
  | some x => x.num
  | none => mine.foldl (fun n x => max n (x.num + 1)) 0

/-- Held egress joins the open piece of its class, or a new one (R326, log entry 9). -/
def addPiece (clock : Nat) (e : Egress) (l : List Piece) : List Piece :=
  let n := openPiece e.cls l
  if l.any (fun x => x.cls == e.cls && x.num == n) then
    updIf (fun x => x.cls == e.cls && x.num == n) (fun x =>
      { x with bytes := x.bytes ++ e.bytes, acts := x.acts ++ [e], since := clock }) l
  else l ++ [⟨n, e.cls, e.bytes, [e], false, none, none, clock⟩]

/-- Egress of a partition: in lockstep it is held until both packages agree (R326). -/
def State.egressOut (s : State) (p : Nat) (e : Egress) : State :=
  if s.isLockstep p then
    (s.updPart p (fun q => { q with pieces := addPiece s.clock e q.pieces })).push .lockstepPieceClose
      { a := p, b := openPiece e.cls (s.part p).pieces, c := e.cls }
  else s.release p e

/-- An interrupt of a partition (R322, R323): into its log while it is suspended, dropped with OVF when that is full. -/
def State.irq (s : State) (p v : Nat) : State :=
  let q := s.part p
  if q.suspended then
    s.updPart p (fun q =>
      if 256 ≤ q.ilogCount then { q with ilogOvf := true }
      else { q with
        ilog := tset [] q.ilog ((q.ilogHead + q.ilogCount) % 256) (leBytes 8 s.clock ++ [BitVec.ofNat 8 v] ++ List.replicate 7 0#8)
        ilogCount := q.ilogCount + 1 })
  else s.egressOut p (.irq v)

/-- An event for the physical-function driver and the management interface (R15, R22): 1 `LOCKSTEP_MISMATCH`, 2 `LOST_PERMIT`, 3
`SERVICE_REQ` with the reduced figures, 4 the thermal alarm (log entry 26). -/
def State.pfEvent (s : State) (v : Nat) : State := s.updDev (fun d => { d with irqs := d.irqs ++ [(pfIrq, v)] })

/-- A write to host memory by a partition (R413). -/
def State.hostWrite (s : State) (p a : Nat) (bs : List Byte) : State :=
  ({ s with mem := s.mem.put (hostHome a) bs }).egressOut p (.host a bs)

/-! ### Connections (R19, R21) -/

/-- A connection's key (R19). -/
def Conn.is (c : Conn) (peerPkg myPart peerPart cls : Nat) : Bool :=
  c.peerPkg == peerPkg && c.myPart == myPart && c.peerPart == peerPart && c.cls == cls

/-- The send permits of a class (R21). -/
def permitsOf (cls : Nat) : Nat := if cls = 0 then 64 else 16

/-- The state with a connection for a peer, opened when it was not there. -/
def State.openConn (s : State) (peerPkg myPart peerPart cls : Nat) : State :=
  if s.dev.conns.any (fun c => c.is peerPkg myPart peerPart cls) then s
  else
    let c : Conn :=
      { id := s.nextId, peerPkg := peerPkg, myPart := myPart, peerPart := peerPart, cls := cls, nextSeq := 0#32,
        recvSeq := 0xFFFFFFFF#32, permits := permitsOf cls, held := 0, queue := [], unacked := [], ackDue := false }
    { s with nextId := s.nextId + 1, dev := { s.dev with conns := s.dev.conns ++ [c] } }

/-- The connection for a peer. -/
def State.connFor (s : State) (peerPkg myPart peerPart cls : Nat) : Option Conn :=
  s.dev.conns.find? (fun c => c.is peerPkg myPart peerPart cls)

/-- Sends a datagram on a connection: egress of its partition, which lockstep holds (R326). -/
def State.sendOn (s : State) (id : Nat) (g : Datagram) : State :=
  match s.connOfId id with
  | some c => s.egressOut c.myPart (.net id { g with
      cls := BitVec.ofNat 8 c.cls, dstPkg := BitVec.ofNat 16 c.peerPkg, dstPart := BitVec.ofNat 8 c.peerPart })
  | none => s

/-- Sends a datagram that takes no permit and is not acknowledged, an `ACK`, where its port is not paused (R17, R21). -/
def State.sendBare (s : State) (c : Conn) (g : Datagram) : State := s.transmit (s.sendPort c g.typ.toNat c.nextSeq) (s.stamp c g)

/-- A datagram of a type with a payload. -/
def dgMake (typ : Nat) (msg off : Nat) (payload : List Byte) : Datagram :=
  { Datagram.zero with typ := BitVec.ofNat 8 typ, msgId := BitVec.ofNat 32 msg, offset := BitVec.ofNat 32 off, payload := payload }

/-- Sends a message on the pair link of a lockstep partition (R20, R21), in the arrival and permit class (log entry 57). -/
def State.sendPair (s : State) (p : Nat) (g : Datagram) : State :=
  match (s.part p).conf.mate with
  | none => s
  | some (pkg, q) =>
    let s1 := s.openConn pkg p q 1
    match s1.connFor pkg p q 1 with
    | some c => s1.submit c.id g
    | none => s1

/-! ### The leader's order (R325, log entry 10) -/

/-- The number of a stream in order records: its TASKID, and its place in the task. -/
def Crew.streamNum (c : Crew) (sid : Nat) : Nat := c.taskId % 2 ^ 16 * 2 ^ 16 + ((c.span * 12 + c.rank) * 17 + sid) % 2 ^ 16

/-- The order object of a memory word: its home, or for a word of a scratchpad share its crew and offset. -/
def State.orderWord (s : State) (h : Nat) : Nat :=
  match s.allCrews.find? (fun c => 0 < c.shareSize && c.shareHome ≤ h && h < c.shareHome + c.shareSize) with
  | some c => 2 ^ 61 + c.streamNum 0 * 2 ^ 20 + (h - c.shareHome)
  | none => h

/-- The follower must wait: the first record of the object is not of this stream. -/
def State.orderWaits (s : State) (p addr num : Nat) : Bool :=
  s.isFollower p && (match (s.part p).order.find? (fun x => x.1 == addr) with | some x => x.2.1 != num | none => true)

/-- A step whose order the leader fixes has been taken: the leader records and sends it, the follower uses its record up. -/
def State.orderDone (s : State) (p addr num : Nat) : State :=
  if !s.isLockstep p then s
  else if s.isFollower p then
    s.updPart p (fun q => { q with order := q.order.eraseP (fun x => x.1 == addr) })
  else
    let pos := (s.part p).order.length
    let s1 := s.updPart p (fun q => { q with order := q.order ++ [(addr, num, pos)] })
    s1.sendPair p (dgMake 13 0 0 (leBytes 8 addr ++ leBytes 4 num ++ leBytes 4 pos))

/-- The order object of a sync object. -/
def orderSync (o : Nat) : Nat := 2 ^ 63 + o
/-- The order object of a work list of a task. -/
def orderList (taskId l : Nat) : Nat := 2 ^ 63 + 2 ^ 40 + taskId * 16 + l
/-- The order object of a span's phases; its records carry `SCHEDSEL`. -/
def orderPhase (taskId span : Nat) : Nat := 2 ^ 63 + 2 ^ 41 + taskId * 2 ^ 20 + span
/-- The order object of the waiters of a ticket word, by its home. -/
def orderTicket (h : Nat) : Nat := 2 ^ 62 + h

end Sys2Proof.Machine
end

