-- ==== Sys2Proof/Machine/Float.lean ====
section
/-! DEFINITION. Number formats and exact arithmetic with one rounding (R129 to R138, R143). A value is decoded to an exact
dyadic number; an operation is computed exactly over integers and rounded once into the destination format. -/

namespace Sys2Proof.Machine

/-- The rounding modes of R133. -/
inductive RMode where
  | rne | rz | ru | rd
  deriving DecidableEq, Repr

/-- The mode of a two-bit field: 0 RNE, 1 RZ, 2 RU, 3 RD (R86). -/
def rmode (n : Nat) : RMode := match n with | 0 => .rne | 1 => .rz | 2 => .ru | _ => .rd

/-- A floating-point format (R129): exponent bits, mantissa bits, bias, whether it has a sign and IEEE infinities and NaNs,
the bits of its largest finite magnitude, and its canonical NaN. -/
structure Fmt where
  eb : Nat
  mb : Nat
  bias : Nat
  sign : Bool
  ieee : Bool
  maxBits : Nat
  nan : Nat
  deriving DecidableEq, Repr

/-- F32 (R129). -/
def fF32 : Fmt := ⟨8, 23, 127, true, true, 0x7F7FFFFF, 0x7FC00000⟩
/-- F16 (R129). -/
def fF16 : Fmt := ⟨5, 10, 15, true, true, 0x7BFF, 0x7E00⟩
/-- BF16 (R129). -/
def fBF16 : Fmt := ⟨8, 7, 127, true, true, 0x7F7F, 0x7FC0⟩
/-- E4M3 (R129): no infinity; its NaN is S.1111.111. -/
def fE4M3 : Fmt := ⟨4, 3, 7, true, false, 0x7E, 0x7F⟩
/-- E5M2 (R129). -/
def fE5M2 : Fmt := ⟨5, 2, 15, true, true, 0x7B, 0x7E⟩
/-- E2M1 (R129): every encoding is a number; a NaN converts to +0 (R137). -/
def fE2M1 : Fmt := ⟨2, 1, 1, true, false, 0x7, 0⟩
/-- E5M3 (R129): no sign; 0xFF is its NaN. -/
def fE5M3 : Fmt := ⟨5, 3, 15, false, false, 0xFE, 0xFF⟩

/-- An exact value: NaN, an infinity, or (-1)^neg · m · 2^e (R130). -/
inductive FVal where
  | nan
  | inf (neg : Bool)
  | num (neg : Bool) (m : Nat) (e : Int)
  deriving DecidableEq, Repr

/-- The width of a format's encoding. -/
def Fmt.width (f : Fmt) : Nat := f.eb + f.mb + (if f.sign then 1 else 0)

/-- The value of an encoding (R130). -/
def Fmt.decode (f : Fmt) (x : Nat) : FVal :=
  let mag := x % 2 ^ (f.eb + f.mb)
  let neg := f.sign && x / 2 ^ (f.eb + f.mb) % 2 == 1
  let e := mag / 2 ^ f.mb
  let m := mag % 2 ^ f.mb
  if f.ieee && e == 2 ^ f.eb - 1 then (if m = 0 then .inf neg else .nan)
  else if !f.ieee && f.nan ≠ 0 && mag == f.nan then .nan
  else if e = 0 then .num neg m (1 - (f.bias : Int) - f.mb)
  else .num neg (2 ^ f.mb + m) ((e : Int) - f.bias - f.mb)

/-- An encoding with a sign. -/
def Fmt.signed (f : Fmt) (neg : Bool) (mag : Nat) : Nat := if neg && f.sign then 2 ^ (f.eb + f.mb) + mag else mag

/-- The infinity of a sign, or the largest magnitude where the format has none (R134). -/
def Fmt.infinity (f : Fmt) (neg : Bool) : Nat :=
  f.signed neg (if f.ieee then (2 ^ f.eb - 1) * 2 ^ f.mb else f.maxBits)

/-- The largest magnitude with a sign. -/
def Fmt.maximum (f : Fmt) (neg : Bool) : Nat := f.signed neg f.maxBits

/-- The result of an overflow (R134). -/
def Fmt.overflow (f : Fmt) (md : RMode) (neg : Bool) : Nat :=
  match md with
  | .rne => f.infinity neg
  | .rz => f.maximum neg
  | .ru => if neg then f.maximum neg else f.infinity neg
  | .rd => if neg then f.infinity neg else f.maximum neg

/-- A scaled quotient n·2^e / d as a fraction of natural numbers. -/
def frac (n d : Nat) (e : Int) : Nat × Nat :=
  if 0 ≤ e then (n * 2 ^ e.toNat, d) else (n, d * 2 ^ (-e).toNat)

/-- A fraction rounded to an integer by a mode, for a value of the given sign (R133). -/
def roundFrac (md : RMode) (neg : Bool) (a b : Nat) : Nat :=
  let q := a / b
  let r := a % b
  if r = 0 then q
  else match md with
    | .rne => if 2 * r > b || (2 * r == b && q % 2 == 1) then q + 1 else q
    | .rz => q
    | .ru => if neg then q else q + 1
    | .rd => if neg then q + 1 else q

/-- The exponent k with 2^k ≤ n·2^e/d < 2^(k+1), for n and d above 0. -/
def expOf (n d : Nat) (e : Int) : Int :=
  let k : Int := (Nat.log2 n : Int) - Nat.log2 d
  let (a, b) := frac n d (-k)
  if b ≤ a then k + e else k - 1 + e

/-- Rounds (-1)^neg · n·2^e/d into a format (R133, R134); `sat` clamps to the largest magnitude. -/
def Fmt.round (f : Fmt) (md : RMode) (sat neg : Bool) (n d : Nat) (e : Int) : Nat :=
  if n = 0 then f.signed neg 0
  else
    let qmin : Int := 1 - (f.bias : Int) - f.mb
    let k := expOf n d e
    let q : Int := if k - f.mb < qmin then qmin else k - f.mb
    let (a, b) := frac n d (e - q)
    let mag := (q - qmin).toNat * 2 ^ f.mb + roundFrac md neg a b
    if mag > f.maxBits then (if sat then f.maximum neg else f.overflow md neg) else f.signed neg mag

/-- Rounds an exact value into a format; NaN gives the canonical NaN, an infinity the format's. -/
def Fmt.ofVal (f : Fmt) (md : RMode) (sat : Bool) : FVal → Nat
  | .nan => f.nan
  | .inf neg => if sat then f.maximum neg else f.infinity neg
  | .num neg m e => f.round md sat neg m 1 e

/-- Signed integer times a power of two: the exact value of a finite number. -/
def FVal.toInt : FVal → Int × Int
  | .num neg m e => ((if neg then -(m : Int) else m), e)
  | _ => (0, 0)

/-- The exact sum of finite values m1·2^e1 + m2·2^e2. -/
def dyAdd (x y : Int × Int) : Int × Int :=
  let e := min x.2 y.2
  (x.1 * 2 ^ (x.2 - e).toNat + y.1 * 2 ^ (y.2 - e).toNat, e)

/-- The exact product of finite values. -/
def dyMul (x y : Int × Int) : Int × Int := (x.1 * y.1, x.2 + y.2)

/-- The sign of an exact sum of 0 (R131): the common sign of two zeros, else + (under RD, -). -/
def zeroSign (md : RMode) (n1 n2 : Bool) : Bool := if n1 == n2 then n1 else md == .rd

/-- The exact sum under R131 and R132; the mode decides the sign of an exact zero. -/
def FVal.add (md : RMode) (x y : FVal) : FVal :=
  match x, y with
  | .nan, _ => .nan
  | _, .nan => .nan
  | .inf a, .inf b => if a == b then .inf a else .nan
  | .inf a, .num _ _ _ => .inf a
  | .num _ _ _, .inf b => .inf b
  | .num a m1 e1, .num b m2 e2 =>
    let r := dyAdd (FVal.num a m1 e1).toInt (FVal.num b m2 e2).toInt
    if r.1 = 0 then .num (if m1 = 0 && m2 = 0 then zeroSign md a b else md == .rd) 0 0
    else .num (decide (r.1 < 0)) r.1.natAbs r.2

/-- The exact product under R131 and R132. -/
def FVal.mul (x y : FVal) : FVal :=
  match x, y with
  | .nan, _ => .nan
  | _, .nan => .nan
  | .inf a, .inf b => .inf (a != b)
  | .inf a, .num b m _ => if m = 0 then .nan else .inf (a != b)
  | .num a m _, .inf b => if m = 0 then .nan else .inf (a != b)
  | .num a m1 e1, .num b m2 e2 => .num (a != b) (m1 * m2) (e1 + e2)

/-- The negation of a value. -/
def FVal.neg : FVal → FVal
  | .nan => .nan
  | .inf a => .inf (!a)
  | .num a m e => .num (!a) m e

/-- The magnitude of a value. -/
def FVal.abs : FVal → FVal
  | .nan => .nan
  | .inf _ => .inf false
  | .num _ m e => .num false m e

/-- The first NaN among operands of one format, its quiet bit set (R132). -/
def Fmt.firstNan (f : Fmt) : List Nat → Option Nat
  | [] => none
  | x :: t => if f.decode x == .nan then some (x ||| 2 ^ (f.mb - 1)) else f.firstNan t

/-- a + b, rounded once (R132, R135). -/
def Fmt.add (f : Fmt) (md : RMode) (a b : Nat) : Nat :=
  match f.firstNan [a, b] with
  | some x => x
  | none => f.ofVal md false ((f.decode a).add md (f.decode b))

/-- a · b, rounded once (R132, R135). -/
def Fmt.mul (f : Fmt) (md : RMode) (a b : Nat) : Nat :=
  match f.firstNan [a, b] with
  | some x => x
  | none => f.ofVal md false ((f.decode a).mul (f.decode b))

/-- a · b + d, rounded once (R132, R135). -/
def Fmt.fma (f : Fmt) (md : RMode) (a b d : Nat) : Nat :=
  match f.firstNan [a, b, d] with
  | some x => x
  | none => f.ofVal md false (((f.decode a).mul (f.decode b)).add md (f.decode d))

/-- A total order key of non-NaN encodings of a signed format, -0 below +0 (R135). -/
def Fmt.key (f : Fmt) (x : Nat) : Int :=
  let mag := x % 2 ^ (f.eb + f.mb)
  if x / 2 ^ (f.eb + f.mb) % 2 = 1 then -(mag : Int) - 1 else mag

/-- minimumNumber or maximumNumber (R135). -/
def Fmt.minmax (f : Fmt) (mx : Bool) (a b : Nat) : Nat :=
  match f.decode a == .nan, f.decode b == .nan with
  | true, true => f.nan
  | true, false => b
  | false, true => a
  | false, false => if (f.key a < f.key b) != mx then a else b

/-- Whether a finite value is below another: the comparison of R199 with -0 equal to +0. -/
def FVal.lt (x y : FVal) : Bool :=
  match x, y with
  | .nan, _ => false
  | _, .nan => false
  | .inf a, .inf b => a && !b
  | .inf a, .num _ _ _ => a
  | .num _ _ _, .inf b => !b
  | .num a m1 e1, .num b m2 e2 => decide ((dyAdd (FVal.num a m1 e1).toInt (dyMul (-1, 0) (FVal.num b m2 e2).toInt)).1 < 0)

/-- Equality of numbers (R199). -/
def FVal.eqv (x y : FVal) : Bool := x != .nan && y != .nan && !x.lt y && !y.lt x

/-- The condition of `FCMP` (R87, R199). -/
def fcmp (cc : Nat) (x y : FVal) : Bool :=
  match cc with
  | 0 => x.eqv y
  | 1 => x != .nan && y != .nan && !x.eqv y
  | 2 => x.lt y
  | 3 => x.lt y || x.eqv y
  | 4 => y.lt x
  | 5 => y.lt x || x.eqv y
  | 6 => x != .nan && y != .nan
  | _ => x == .nan || y == .nan

/-! ### The SFU functions (R136) -/

/-- The integer square root, digit by digit: the greatest r + 2^k·c whose square is at most n. -/
def isqrtGo (n : Nat) : Nat → Nat → Nat
  | 0, r => r
  | k + 1, r => isqrtGo n k (if (r + 2 ^ k) * (r + 2 ^ k) ≤ n then r + 2 ^ k else r)

/-- The integer square root of a number. -/
def isqrt (n : Nat) : Nat := isqrtGo n (Nat.log2 n / 2 + 1) 0

/-- The square root of m·2^e, m above 0, as twice a 40-bit-or-longer integer root plus a sticky bit, times 2^x: enough for one
rounding to F32 in any mode. -/
def sqrtSticky (m : Nat) (e : Int) : Nat × Int :=
  let m1 := if e % 2 = 0 then m * 2 ^ 80 else m * 2 ^ 81
  let e1 := if e % 2 = 0 then e - 80 else e - 81
  let r := isqrt m1
  (if r * r = m1 then 2 * r else 2 * r + 1, e1 / 2 - 1)

/-- The square root, rounded once (R136, R148). -/
def Fmt.sqrt (f : Fmt) (md : RMode) (x : Nat) : Nat :=
  match f.firstNan [x] with
  | some y => y
  | none =>
    match f.decode x with
    | .nan => f.nan
    | .inf true => f.nan
    | .inf false => f.infinity false
    | .num neg m e =>
      if m = 0 then x
      else if neg then f.nan
      else let r := sqrtSticky m e
        f.round md false false r.1 1 r.2

/-- `FRCP.F32` (R136). -/
def frcp (x : Word) : Word :=
  BitVec.ofNat 32 (match fF32.firstNan [x.toNat] with
  | some y => y
  | none =>
    match fF32.decode x.toNat with
    | .nan => fF32.nan
    | .inf neg => fF32.signed neg 0
    | .num neg m e => if m = 0 then fF32.infinity neg else fF32.round .rne false neg 1 m (-e))

/-- 1/√(m·2^e), m above 0, as twice a root plus a sticky bit, times 2^x. -/
def rsqrtSticky (m : Nat) (e : Int) : Nat × Int :=
  let m1 := if e % 2 = 0 then m else 2 * m
  let e1 := if e % 2 = 0 then e else e - 1
  let r := isqrt (2 ^ 160 / m1)
  (if r * r * m1 = 2 ^ 160 then 2 * r else 2 * r + 1, -(e1 / 2) - 81)

/-- A value the hardware picks, kept if it lies within the bound, else the correctly rounded one: the free choice of R136. -/
def within (ok : Bool) (pick def0 : Nat) : Word := BitVec.ofNat 32 (if ok then pick else def0)

/-- The value of one unit in the last place of F32 at a value of binary exponent k. -/
def ulp32 (k : Int) : Int := if k - 23 < -149 then -149 else k - 23

/-- (c·2^e)²·m·2^f is compared with 1: at most, for a non-negative c. -/
def sqAtMost1 (c : Int × Int) (m : Nat) (f : Int) : Bool :=
  c.1 ≤ 0 || decide ((dyAdd (dyMul (dyMul c c) ((m : Int), f)) (-1, 0)).1 ≤ 0)

/-- Whether an F32 pattern is a number within one unit 2^u of 1/√(m·2^e): by the squares of its neighbours at that distance, exactly. -/
def rsqrtNear (c m : Nat) (e u : Int) : Bool :=
  match fF32.decode c with
  | .num neg a b =>
    let v := (FVal.num neg a b).toInt
    let up := dyAdd v (1, u)
    sqAtMost1 (dyAdd v (-1, u)) m e && 0 < up.1 && decide (0 ≤ (dyAdd (dyMul (dyMul up up) ((m : Int), e)) (-1, 0)).1)
  | _ => false

/-- `FRSQ.F32` (R136): within 1 ulp of the exact value; which one is `Config.frsq`. -/
def frsq (x : Word) : Word :=
  match fF32.firstNan [x.toNat] with
  | some y => BitVec.ofNat 32 y
  | none =>
    match fF32.decode x.toNat with
    | .nan => BitVec.ofNat 32 fF32.nan
    | .inf neg => if neg then BitVec.ofNat 32 fF32.nan else 0#32
    | .num neg m e =>
      if m = 0 then BitVec.ofNat 32 (fF32.infinity neg)
      else if neg then BitVec.ofNat 32 fF32.nan
      else
        let r := rsqrtSticky m e
        let c := (Config.frsq x).toNat
        within (rsqrtNear c m e (ulp32 (expOf r.1 1 r.2))) c (fF32.round .rne false false r.1 1 r.2)

/-- 2^120·2^(f/2^k) for a fraction of k bits, given the root 2^120·2^(1/2^j) before bit j: one square root per bit. -/
def exp2Go : Nat → Nat → Nat → Nat → Nat
  | 0, _, _, acc => acc
  | k + 1, f, root, acc =>
    let r := isqrt (root * 2 ^ 120)
    exp2Go k (f % 2 ^ k) r (if f / 2 ^ k % 2 = 1 then acc * r / 2 ^ 120 else acc)

/-- log2 of y/2^120 in [1, 2), k bits below the binary point, by repeated squaring. -/
def log2Go : Nat → Nat → Nat → Nat
  | 0, _, acc => acc
  | k + 1, y, acc =>
    let z := y * y / 2 ^ 120
    if 2 ^ 121 ≤ z then log2Go k (z / 2) (2 * acc + 1) else log2Go k z (2 * acc)

/-- Whether |c - v| ≤ bound for dyadic numbers. -/
def dyWithin (c v bound : Int × Int) : Bool :=
  let d := dyAdd c (dyMul (-1, 0) v)
  decide ((dyAdd ((d.1.natAbs : Int), d.2) (dyMul (-1, 0) bound)).1 ≤ 0)

/-- Whether an F32 pattern is a number within a bound of a dyadic number (R136). -/
def nearTo (c : Nat) (v bound : Int × Int) : Bool :=
  match fF32.decode c with
  | .num neg m e => dyWithin (FVal.num neg m e).toInt v bound
  | _ => false

/-- 2^x for x = (-1)^neg·m·2^e, m above 0, |x| at most 2^9, as a dyadic number: a power of two exactly, and else a number below it by less
than 2^-100 of it. Of an x below 2^-24 it gives a number between 1 and the neighbour of 1 on the same side, as 2^x is: no F32 number and no
number 2 ulp from one lies between them. -/
def exp2Dy (neg : Bool) (m : Nat) (e : Int) : Int × Int :=
  if expOf m 1 e < -24 then (if neg then 2 ^ 26 - 1 else 2 ^ 26 + 1, -26)
  else
    let t : Int := (FVal.num neg m e).toInt.1 * 2 ^ (e + 60).toNat
    ((exp2Go 60 (t % 2 ^ 60).toNat (2 ^ 121) (2 ^ 120) : Nat), t / 2 ^ 60 - 120)

/-- `FEX2.F32` (R136): within 2 ulp of 2^x; which value is `Config.fex2`. Of 2^128, which is no F32 number, the picks within 2 ulp are the
largest finite numbers and +∞. The exact value is taken to 2^-100 of itself, far nearer than it comes to a bound (log entry 68). -/
def fex2 (x : Word) : Word :=
  match fF32.firstNan [x.toNat] with
  | some y => BitVec.ofNat 32 y
  | none =>
    match fF32.decode x.toNat with
    | .nan => BitVec.ofNat 32 fF32.nan
    | .inf neg => if neg then 0#32 else BitVec.ofNat 32 (fF32.infinity false)
    | .num neg m e =>
      if m = 0 then 0x3F800000#32
      else
        let c := (Config.fex2 x).toNat
        let big := 7 ≤ expOf m 1 e
        if big && !neg then within (x == 0x43000000#32 && 0x7F7FFFFC ≤ c && c ≤ 0x7F7FFFFF) c (fF32.infinity false)
        else if big && 8 ≤ expOf m 1 e then within (c ≤ 2 || c == 2 ^ 31 || c == 2 ^ 31 + 1) c 0
        else
          let v := exp2Dy neg m e
          within (nearTo c v (2, ulp32 (expOf v.1.toNat 1 v.2))) c (fF32.round .rne false false v.1.toNat 1 v.2)

/-- `FLG2.F32` (R136): absolute error at most 2^-22 for x in [0.5, 2], within 2 ulp elsewhere; which value is `Config.flg2`. The exact value
is taken to 2^-99, far nearer than it comes to a bound, and exactly for a power of two (log entry 68). -/
def flg2 (x : Word) : Word :=
  match fF32.firstNan [x.toNat] with
  | some y => BitVec.ofNat 32 y
  | none =>
    match fF32.decode x.toNat with
    | .nan => BitVec.ofNat 32 fF32.nan
    | .inf neg => if neg then BitVec.ofNat 32 fF32.nan else BitVec.ofNat 32 (fF32.infinity false)
    | .num neg m e =>
      if m = 0 then BitVec.ofNat 32 (fF32.infinity true)
      else if neg then BitVec.ofNat 32 fF32.nan
      else
        let k := Nat.log2 m
        let n : Int := k + e
        let v : Int := n * 2 ^ 100 + (log2Go 100 (m * 2 ^ 120 / 2 ^ k) 0 : Nat)
        let c := (Config.flg2 x).toNat
        let near := 0x3F000000 ≤ x.toNat && x.toNat ≤ 0x40000000
        within (nearTo c (v, -100) (if near then (1, -22) else (2, ulp32 (expOf v.natAbs 1 (-100))))) c
          (fF32.round .rne false (decide (v < 0)) v.natAbs 1 (-100))

/-! ### Conversions (R86, R137, R138) -/

/-- Clamps an integer to a range. -/
def clampInt (lo hi x : Int) : Int := if x < lo then lo else if hi < x then hi else x

/-- A value rounded to an integer by a mode and clamped to a range; NaN gives 0 (R138). -/
def FVal.toRange (md : RMode) (lo hi : Int) : FVal → Int
  | .nan => 0
  | .inf neg => if neg then lo else hi
  | .num neg m e =>
    let (a, b) := frac m 1 e
    let r : Int := (roundFrac md neg a b : Nat)
    clampInt lo hi (if neg then -r else r)

/-- The range of an n-bit integer, signed or natural (R139). -/
def intRange (n : Nat) (sgn : Bool) : Int × Int :=
  if sgn then (-(2 ^ (n - 1)), 2 ^ (n - 1) - 1) else (0, 2 ^ n - 1)

/-- `CVT` from F32 to the coded destination (R86, R137, R138). -/
def cvtFrom (md : RMode) (code : Nat) (x : Word) : Word :=
  let v := fF32.decode x.toNat
  let toF : Fmt → Bool → Word := fun f sat => BitVec.ofNat 32 (f.ofVal md sat v)
  let toI : Nat → Bool → Word := fun n sgn =>
    BitVec.ofInt 32 (v.toRange md (intRange n sgn).1 (intRange n sgn).2)
  match code with
  | 0 => toF fF16 false
  | 1 => toF fBF16 false
  | 2 => toF fE4M3 false
  | 3 => toF fE5M2 false
  | 4 => toF fE2M1 false
  | 5 => toF fF16 true
  | 6 => toF fBF16 true
  | 7 => toF fE5M2 true
  | 8 => toI 32 true
  | 9 => toI 32 false
  | 10 => toI 16 true
  | 11 => toI 16 false
  | 12 => toI 8 true
  | 13 => toI 8 false
  | 14 => toI 4 true
  | _ => toI 4 false

/-- An integer rounded to F32 (R138). -/
def intToF32 (md : RMode) (i : Int) : Word := BitVec.ofNat 32 (fF32.round md false (decide (i < 0)) i.natAbs 1 0)

/-- The low n bits of a value as an integer, signed or natural. -/
def lowInt (n : Nat) (sgn : Bool) (x : Nat) : Int :=
  let y := x % 2 ^ n
  if sgn && 2 ^ (n - 1) ≤ y then (y : Int) - 2 ^ n else y

/-- `CVT` to F32 from the coded source (R86, R137, R138); the source is given as 64 bits. -/
def cvtTo (md : RMode) (code : Nat) (x : Quad) : Word :=
  let ofF : Fmt → Word := fun f => BitVec.ofNat 32 (fF32.ofVal .rne false (f.decode (x.toNat % 2 ^ f.width)))
  let ofI : Nat → Bool → Word := fun n sgn => intToF32 md (lowInt n sgn x.toNat)
  match code with
  | 0 => ofF fF16
  | 1 => ofF fBF16
  | 2 => ofF fE4M3
  | 3 => ofF fE5M2
  | 4 => ofF fE2M1
  | 5 => ofI 32 true
  | 6 => ofI 32 false
  | 7 => ofI 16 true
  | 8 => ofI 16 false
  | 9 => ofI 8 true
  | 10 => ofI 8 false
  | 11 => ofI 4 true
  | 12 => ofI 4 false
  | 13 => ofI 64 true
  | _ => ofI 64 false

/-- A function of two 16-bit halves applied to each half of two words (R135). -/
def halves (f : Nat → Nat → Nat) (x y : Word) : Word :=
  BitVec.ofNat 32 (f (x.toNat / 2 ^ 16) (y.toNat / 2 ^ 16) % 2 ^ 16 * 2 ^ 16 + f (x.toNat % 2 ^ 16) (y.toNat % 2 ^ 16) % 2 ^ 16)

/-- A function of three 16-bit halves applied to each half of three words (R135). -/
def halves3 (f : Nat → Nat → Nat → Nat) (x y z : Word) : Word :=
  BitVec.ofNat 32 (f (x.toNat / 2 ^ 16) (y.toNat / 2 ^ 16) (z.toNat / 2 ^ 16) % 2 ^ 16 * 2 ^ 16 +
    f (x.toNat % 2 ^ 16) (y.toNat % 2 ^ 16) (z.toNat % 2 ^ 16) % 2 ^ 16)

/-! ### Block quantisation (R143) -/

/-- maxf of a quantising format (R143), by its code (R257). -/
def quantMax (code : Nat) : Nat :=
  match code with | 3 => 448 | 4 => 57344 | 5 => 6 | 10 => 127 | _ => 7

/-- The format of a floating code of R257. -/
def fmtOfCode (code : Nat) : Option Fmt :=
  match code with
  | 0 => some fF32 | 1 => some fF16 | 2 => some fBF16 | 3 => some fE4M3 | 4 => some fE5M2 | 5 => some fE2M1 | _ => none

/-- The integer type of an integer code of R257: bits and signedness. -/
def intOfCode (code : Nat) : Option (Nat × Bool) :=
  match code with
  | 6 => some (32, true) | 7 => some (32, false) | 8 => some (16, true) | 9 => some (16, false) | 10 => some (8, true)
  | 11 => some (8, false) | 12 => some (4, true) | 13 => some (4, false) | 14 => some (64, true) | 15 => some (64, false)
  | _ => none

/-- A positive normal BF16 value (R143). -/
def bf16Normal (x : Nat) : Bool := 0x0080 ≤ x && x ≤ 0x7F7F

/-- The mantissa and exponent of a finite value. -/
def FVal.parts : FVal → Nat × Int
  | .num _ m e => (m, e)
  | _ => (0, 0)

/-- Whether m / (s_row · s) ≤ maxf for a magnitude and scales. -/
def scaleFits (m row sc : Nat × Int) (maxf : Nat) : Bool :=
  let l := frac m.1 1 (m.2 - row.2 - sc.2)
  l.1 ≤ maxf * row.1 * sc.1 * l.2

/-- The block scale of R143 for values with the greatest magnitude m. -/
def blockScale (m : FVal) (row : Nat) (maxf : Nat) : Nat :=
  match m with
  | .num _ mm me =>
    if mm = 0 then 0
    else (((List.range 254).map (· + 1)).find? (fun s =>
      scaleFits (mm, me) (fBF16.decode row).parts (fE5M3.decode s).parts maxf)).getD 0xFE
  | _ => 0xFE

/-- The encodings and the scale of one block under R143: values as exact numbers, the row scale, the format code. -/
def quantBlock (code row : Nat) (xs : List FVal) : List Nat × Nat :=
  let f := fmtOfCode code
  if xs.any (· == .nan) then
    (xs.map (fun _ => match code with | 3 => 0x7F | 4 => 0x7E | _ => 0), 0xFF)
  else
    let m := xs.foldl (fun a x => if a.lt x.abs then x.abs else a) (.num false 0 0)
    let sc := blockScale m row (quantMax code)
    let r := (fBF16.decode row).parts
    let c := (fE5M3.decode sc).parts
    let enc : FVal → Nat := fun x =>
      match f with
      | some f =>
        match x with
        | .num neg mm e => if sc = 0 then f.signed neg 0 else f.round .rne true neg mm (r.1 * c.1) (e - r.2 - c.2)
        | .inf neg => f.maximum neg
        | .nan => 0
      | none =>
        let mx : Int := quantMax code
        let i : Int := match x with
          | .num neg mm e =>
            if sc = 0 then 0
            else
              let l := frac mm (r.1 * c.1) (e - r.2 - c.2)
              let q : Int := (roundFrac .rne neg l.1 l.2 : Nat)
              clampInt (-mx) mx (if neg then -q else q)
          | .inf neg => if neg then -mx else mx
          | .nan => 0
        (BitVec.ofInt (if code = 12 then 4 else 8) i).toNat
    (xs.map enc, sc)

end Sys2Proof.Machine
end

