-- ==== Sys2Proof/Machine/Tensor.lean ====
section
/-! DEFINITION. Element formats (R257), tensor ID entries and where their elements lie (R258 to R262), bit planes (R140, R141),
compressed slots (R274), and reading memory as the engines and the slices do. -/

namespace Sys2Proof.Machine

/-! ### Formats -/

/-- The stored size of an element in bits (R257); a BPN element is stored in 8 planes. -/
def fmtBits (c : Nat) : Nat :=
  match c with
  | 0 | 6 | 7 => 32
  | 1 | 2 | 8 | 9 => 16
  | 14 | 15 => 64
  | 5 | 12 | 13 => 4
  | _ => 8

/-- A format code that R257 assigns. -/
def fmtOk (c : Nat) : Bool := c ≤ 22
/-- A bit-plane format, P2 to P8. -/
def isBpn (c : Nat) : Bool := 16 ≤ c && c ≤ 22
/-- The planes to which a BPN code reads. -/
def bpnDepth (c : Nat) : Nat := c - 14
/-- The formats that take scale arrays (R260). -/
def fmtScales (c : Nat) : Bool := c == 3 || c == 4 || c == 5 || c == 10 || c == 12 || isBpn c
/-- The size of a compressed slot for elements of `e` bytes (R274). -/
def slotSize (e : Nat) : Nat := 16 + 64 * e

/-- The exact value of an element's pattern (R130, R139). -/
def codeVal (c x : Nat) : FVal :=
  match fmtOfCode c with
  | some f => f.decode (x % 2 ^ f.width)
  | none =>
    let i : Int := match intOfCode c with
      | some (n, sgn) => lowInt n sgn x
      | none => lowInt 8 true x
    .num (decide (i < 0)) i.natAbs 0

/-- One conversion into a format (R133, R134, R137, R138). -/
def codeOf (md : RMode) (sat : Bool) (c : Nat) (v : FVal) : Nat :=
  match fmtOfCode c with
  | some f => f.ofVal md sat v
  | none =>
    let (n, sgn) := (intOfCode c).getD (8, true)
    (BitVec.ofInt n (v.toRange md (intRange n sgn).1 (intRange n sgn).2)).toNat

/-- A BPN element read to p planes (R141): its 8 stored bits, sign first in plane 0. -/
def bpnVal (p : Nat) (mid : Bool) (v : Nat) : Int :=
  let q : Int := lowInt 8 true v / 2 ^ (8 - p)
  q * 2 ^ (8 - p) + (if mid && p < 8 then 2 ^ (7 - p) else 0)

/-! ### Tensor ID entries -/

/-- A tensor ID entry as fields (R258). -/
structure Tensor where
  fmt : Nat
  rank : Nat
  place : Nat
  mid : Bool
  comp : Bool
  derived : Bool
  scl : Bool
  valid : Bool
  base : Nat
  ext : List Nat
  str : List Nat
  rscale : Nat
  bscale : Nat
  deriving DecidableEq, Repr

/-- The bytes of an entry held as eight 64-bit words. -/
def entBytes (q : List Quad) : List Byte := q.flatMap (fun x => leBytes 8 x.toNat)

/-- The eight words of a 64-byte descriptor. -/
def entWords (d : List Byte) : List Quad := (List.range 8).map (fun i => BitVec.ofNat 64 (field d (8 * i) 8))

/-- The fields of a 64-byte descriptor. -/
def tensorOfBytes (d : List Byte) : Tensor :=
  let fl := field d 2 1
  { fmt := field d 0 1 % 32
    rank := field d 1 1 % 4 + 1
    place := field d 1 1 / 4 % 4
    mid := fl % 2 == 1
    comp := fl / 2 % 2 == 1
    derived := fl / 4 % 2 == 1
    scl := fl / 8 % 2 == 1
    valid := field d 3 1 % 2 == 1
    base := field d 8 8
    ext := (List.range 4).map (fun i => field d (0x10 + 4 * i) 4)
    str := (List.range 4).map (fun i => field d (0x20 + 4 * i) 4)
    rscale := field d 0x30 8
    bscale := field d 0x38 8 }

/-- The entry of a tensor ID in a partition; an entry never written has VALID 0. -/
def Part.tensor (p : Part) (id : Nat) : Tensor := tensorOfBytes (entBytes (tget [] p.tensors id))

/-- Extent i, outermost first. -/
def Tensor.extent (t : Tensor) (i : Nat) : Nat := t.ext.getD i 0
/-- Stride i, outermost first. -/
def Tensor.stride (t : Tensor) (i : Nat) : Nat := t.str.getD i 0
/-- The element size in bytes, for formats of whole bytes. -/
def Tensor.esize (t : Tensor) : Nat := fmtBits t.fmt / 8
/-- The number of rows (R259). -/
def Tensor.rows (t : Tensor) : Nat := t.extent 0 * t.extent 1 * t.extent 2

/-- A descriptor that R262 refuses. -/
def tensorRefused (d : List Byte) : Bool :=
  let t := tensorOfBytes d
  !fmtOk t.fmt || field d 0 1 / 32 != 0 || t.place == 3 || field d 1 1 / 16 != 0 || field d 2 1 / 16 != 0 ||
  field d 3 1 / 2 != 0 || field d 4 4 != 0 || t.ext.any (· == 0) ||
  ((t.ext.take (4 - t.rank)).any (· != 1)) || t.base % 64 != 0 || t.stride 3 != 1 ||
  (isBpn t.fmt && t.extent 3 % 8 != 0) || (t.comp && t.extent 3 % 64 != 0) ||
  (t.scl && (!fmtScales t.fmt || t.rscale == 0 || t.bscale == 0)) ||
  (t.comp && (isBpn t.fmt || fmtBits t.fmt == 4))

/-- The offset of a row in the units of its tensor's strides (R259). -/
def Tensor.rowOff (t : Tensor) (i3 i2 i1 : Nat) : Nat := i3 * t.stride 0 + i2 * t.stride 1 + i1 * t.stride 2

/-- The indices i3, i2, i1 of a row ordinal (R259). -/
def Tensor.rowIdx (t : Tensor) (r : Nat) : Nat × Nat × Nat :=
  (r / t.extent 2 / t.extent 1, r / t.extent 2 % t.extent 1, r % t.extent 2)

/-- The row ordinal of indices. -/
def Tensor.rowOrd (t : Tensor) (i3 i2 i1 : Nat) : Nat := (i3 * t.extent 1 + i2) * t.extent 2 + i1

/-- The bit address at which a row begins: of its element 0, of its plane block, or of its slot 0. -/
def Tensor.rowBit (t : Tensor) (i3 i2 i1 : Nat) : Nat :=
  let o := t.rowOff i3 i2 i1
  if t.comp then 8 * (t.base + slotSize t.esize * o)
  else if isBpn t.fmt then 8 * (t.base + o)
  else 8 * t.base + fmtBits t.fmt * o

/-- The bytes a row occupies (R140, R259, R274). -/
def Tensor.rowBytes (t : Tensor) : Nat :=
  if t.comp then slotSize t.esize * (t.extent 3 / 64) else divUp (fmtBits t.fmt * t.extent 3) 8

/-- The address of a row scale (R260). -/
def Tensor.rowScaleAt (t : Tensor) (r : Nat) : Nat := t.rscale + 2 * r
/-- The address of a block scale (R260). -/
def Tensor.blockScaleAt (t : Tensor) (r b : Nat) : Nat := t.bscale + r * divUp (t.extent 3) 64 + b

/-! ### Reading memory by virtual address -/

/-- The byte at a virtual address of a partition as the device's own agents read it; 0 where no page of package memory is. -/
def State.gbyte (s : State) (part va : Nat) : Byte :=
  match s.homeOf part va with
  | some h => s.mem.get h
  | none => 0#8

/-- Bytes from a virtual address upward. -/
def State.gbytes (s : State) (part va n : Nat) : List Byte := (List.range n).map (fun i => s.gbyte part (va + i))

/-- The homes a range of virtual addresses covers, as runs within 64 KiB pages: home and length; none where a page is missing. -/
def State.homesOf (s : State) (part va : Nat) : Nat → Nat → Option (List (Nat × Nat))
  | _, 0 => some []
  | 0, _ => some []
  | fuel + 1, n =>
    let k := min n (65536 - va % 65536)
    match s.homeOf part va, s.homesOf part (va + k) fuel (n - k) with
    | some h, some t => some ((h, k) :: t)
    | _, _ => none

/-- An element's pattern, given the bit address of its row and its index in it, for formats that are neither COMP nor BPN. -/
def State.elemAt (s : State) (part : Nat) (fmt rowBit i : Nat) : Nat :=
  let a := rowBit + fmtBits fmt * i
  if fmtBits fmt = 4 then leNat (s.gbytes part (a / 8) 1) / 2 ^ (a % 8) % 16
  else leNat (s.gbytes part (a / 8) (fmtBits fmt / 8))

/-- The eight stored bits of element `i` of a plane block of `n` elements whose bytes are given (R140): plane j holds bit 7 - j. -/
def bpnStored (blk : List Byte) (n i : Nat) : Nat :=
  (List.range 8).foldl (fun v j => v + (if ((blk.getD (j * (n / 8) + i / 8) 0#8).getLsbD (i % 8)) then 2 ^ (7 - j) else 0)) 0

/-! ### Compressed slots (R274) -/

/-- The KIND of a slot. -/
def slotKind (b : List Byte) : Nat := field b 10 1

/-- A slot that is well-formed. -/
def slotOk (b : List Byte) : Bool :=
  let bm := field b 0 8
  let len := field b 8 2
  match slotKind b with
  | 0 => len == popcount 64 bm
  | 1 => len == 0 && bm == 0
  | 2 => len == 64 && bm == 2 ^ 64 - 1
  | _ => false

/-- Element `i` of a well-formed slot of elements of `e` bytes. -/
def slotElem (b : List Byte) (e i : Nat) : Nat :=
  let bm := field b 0 8
  match slotKind b with
  | 0 => if bm / 2 ^ i % 2 = 1 then field b (16 + e * popcount i (bm % 2 ^ i)) e else 0
  | 1 => field b 12 4 % 2 ^ (8 * e)
  | _ => field b (16 + e * i) e

/-- A KIND 0 slot of 64 elements: its header and stored values (R274). -/
def slotPacked (e : Nat) (xs : List Nat) : List Byte :=
  let bm := (xs.mapIdx (fun i x => if x = 0 then 0 else 2 ^ i)).foldl (· + ·) 0
  let vs := xs.filter (· != 0)
  leBytes 8 bm ++ leBytes 2 vs.length ++ [0#8, 0#8] ++ leBytes 4 0 ++ vs.flatMap (leBytes e)

/-- A KIND 1 slot when the 64 elements are one pattern that fits CONST, else a KIND 2 slot (R273, R274). -/
def slotElided (e : Nat) (xs : List Nat) : List Byte :=
  let c := xs.headD 0
  if xs.all (· == c) && c < 2 ^ 32 then leBytes 8 0 ++ leBytes 2 0 ++ [1#8, 0#8] ++ leBytes 4 c
  else leBytes 8 (2 ^ 64 - 1) ++ leBytes 2 64 ++ [2#8, 0#8] ++ leBytes 4 0 ++ xs.flatMap (leBytes e)

end Sys2Proof.Machine
end

