-- ==== Sys2Proof/Machine/Effects.lean ====
section
/-! DEFINITION. What a write does at its home beside writing its bytes (R154): the upkeep of succinct regions (R358, R360, R371), the
marks on derived tiles (R406), the clearing of ECC errors (R353), and the acceptance of host-mapped writes (R413). -/

namespace Sys2Proof.Machine

/-! ### Registered regions -/

/-- A home as a virtual address of a region. -/
def Region.vaOf (r : Region) (h : Nat) : Option Nat :=
  (r.pages.find? (fun p => p.2 ≤ h && h < p.2 + 65536)).map (fun p => p.1 + (h - p.2))

/-- The home of a virtual address of a region's pinned pages. -/
def Region.home (r : Region) (va : Nat) : Nat :=
  match r.pages.find? (fun p => p.1 ≤ va && va < p.1 + 65536) with
  | some p => p.2 + (va - p.1)
  | none => 0

/-- A virtual address in a directory area (R358). -/
def Region.isDir (r : Region) (va : Nat) : Bool :=
  (r.bdir ≤ va && va < r.bdir + 8 * r.nblk) || (r.sdir ≤ va && va < r.sdir + 16 * divUp r.nblk 64) ||
  (r.gdir ≤ va && va < r.gdir + 1024 * divUp r.nblk (2 ^ 18))

/-- The block a virtual address lies in. -/
def Region.blockAt (r : Region) (va : Nat) : Option Nat :=
  if r.blk ≤ va && va < r.blk + 64 * r.nblk then some ((va - r.blk) / 64) else none

/-- The 512 stored bits of a block (R359). -/
def State.blockBits (s : State) (r : Region) (b : Nat) : Nat := leNat (s.mem.bytes (r.home (r.blk + 64 * b)) 64)

/-- A block entry (R360). -/
structure BEnt where
  stale : Bool
  exmin : Int
  extot : Int
  len : Nat
  ones : Nat
  deriving DecidableEq, Repr

/-- The fields of a block entry. -/
def bentOf (x : Nat) : BEnt :=
  { stale := x / 2 ^ 42 % 2 == 1
    exmin := lowInt 11 true (x / 2 ^ 31 % 2 ^ 11)
    extot := lowInt 11 true (x / 2 ^ 20 % 2 ^ 11)
    len := x / 2 ^ 10 % 2 ^ 10
    ones := x % 2 ^ 10 }

/-- The 64 bits of a block entry. -/
def BEnt.word (e : BEnt) : Nat :=
  (if e.stale then 2 ^ 42 else 0) + (BitVec.ofInt 11 e.exmin).toNat * 2 ^ 31 + (BitVec.ofInt 11 e.extot).toNat * 2 ^ 20 +
    e.len % 2 ^ 10 * 2 ^ 10 + e.ones % 2 ^ 10

/-- The entry of a block. -/
def State.bent (s : State) (r : Region) (b : Nat) : BEnt := bentOf (leNat (s.mem.bytes (r.home (r.bdir + 8 * b)) 8))

/-- The state with a block entry set. -/
def State.setBent (s : State) (r : Region) (b : Nat) (e : BEnt) : State :=
  { s with mem := s.mem.put (r.home (r.bdir + 8 * b)) (leBytes 8 e.word) }

/-- The partition and registered region whose pages hold a home. -/
def State.regionAt (s : State) (h : Nat) : Option (Nat × Region) :=
  s.parts.findSome? (fun p => (p.2.regions.find? (fun r => (r.vaOf h).isSome)).map (fun r => (p.1, r)))

/-- Updates a region of a partition. -/
def State.updRegion (s : State) (p handle : Nat) (f : Region → Region) : State :=
  s.updPart p (fun q => { q with regions := updIf (fun r => r.handle == handle) f q.regions })

/-- Appends a record to a sector's log (R371, R372). -/
def Region.append (r : Region) (d : Delta) : Region :=
  let x := d.sb / 4096
  { r with logs := tset [] r.logs x (tget [] r.logs x ++ [d]) }

/-- Asks the keeper to fold (R372). -/
def State.pushFold (s : State) (p handle sector : Nat) : State :=
  s.push .deltaFold { a := p, b := handle, c := sector }

/-! ### Derived tiles -/

/-- Tiles of a derived tensor (R398). -/
def Derived.tiles (d : Derived) : Nat := d.tr * d.tc

/-- The base-A tile that derived tile t reads, as its indices (R399). -/
def Derived.baseTile (d : Derived) (t : Nat) : Nat × Nat :=
  if d.rule = 0 then (t % d.tr, t / d.tr) else (t / d.tc, t % d.tc)

/-- The address and length of the base-A tile that derived tile t reads (R398). -/
def Derived.aRange (d : Derived) (p : Part) (t : Nat) : Nat × Nat :=
  let a := p.tensor d.a
  let (x, y) := d.baseTile t
  (a.rowBit x y 0 / 8, 4096 * a.esize)

/-- The address and length of the base-B piece that serves derived tile t (R398, R406): none but for quantise. -/
def Derived.bRange (d : Derived) (p : Part) (t : Nat) : Nat × Nat :=
  if d.rule = 2 then ((p.tensor d.b).base + 128 * t, 128) else (0, 0)

/-- A range of virtual addresses as pieces that lie within 64 KiB pages each. -/
def pagePieces (va n : Nat) : List (Nat × Nat) :=
  if n = 0 then []
  else (List.range (divUp (va % 65536 + n) 65536)).map (fun i =>
    let a := if i = 0 then va else (va / 65536 + i) * 65536
    (a, min (va + n) ((a / 65536 + 1) * 65536) - a))

/-- Whether a range of virtual addresses has a byte with home in a run. -/
def State.overlaps (s : State) (part : Nat) (va : Nat × Nat) (h n : Nat) : Bool :=
  (pagePieces va.1 va.2).any (fun x => match s.homeOf part x.1 with
    | some y => y < h + n && h < y + x.2
    | none => false)

/-- Derived tiles that read bytes of a home run directly: registration and tile. -/
def State.directTiles (s : State) (part h n : Nat) : List (Nat × Nat) :=
  let p := s.part part
  p.deriveds.flatMap (fun d => ((List.range d.tiles).filter (fun t =>
    s.overlaps part (d.aRange p t) h n || s.overlaps part (d.bRange p t) h n)).map (fun t => (d.id, t)))

/-- Derived tiles that read a derived tile through base A. -/
def Part.readersOf (p : Part) (x : Nat × Nat) : List (Nat × Nat) :=
  match p.deriveds.find? (fun d => d.id == x.1) with
  | none => []
  | some base =>
    let tcd := if base.rule = 0 then base.tr else base.tc
    (p.deriveds.filter (fun d => d.a == x.1)).flatMap (fun d =>
      ((List.range d.tiles).filter (fun t => d.baseTile t == (x.2 / tcd, x.2 % tcd))).map (fun t => (d.id, t)))

/-- Every derived tile that depends on the given ones, through chains of at most `fuel` (R403 allows 3). -/
def Part.closure (p : Part) : Nat → List (Nat × Nat) → List (Nat × Nat)
  | 0, l => l
  | n + 1, l => l ++ p.closure n (l.flatMap p.readersOf)

/-- Marks derived tiles stale. -/
def Part.mark (p : Part) (l : List (Nat × Nat)) : Part :=
  { p with deriveds := p.deriveds.map (fun d =>
      { d with stale := d.stale ++ (((l.filter (fun x => x.1 == d.id)).map Prod.snd).eraseDups.filter (fun t => !d.stale.contains t)) }) }

/-- The marks of a write to a home run (R406), in every partition with derived tensors. -/
def State.markStale (s : State) (h n : Nat) : State :=
  s.parts.foldl (fun s1 p =>
    if p.2.deriveds = [] then s1
    else
      let l := (s1.part p.1).closure 3 (s1.directTiles p.1 h n)
      if l = [] then s1 else s1.updPart p.1 (fun q => q.mark l)) s

/-! ### ECC -/

/-- A write that covers all 32 bytes of a granule clears its error (R353). -/
def clearUe (ue : List Nat) (h : Nat) (data : List (Byte × Byte)) : List Nat :=
  ue.filter (fun g => !(h ≤ g && g + 32 ≤ h + data.length && ((data.drop (g - h)).take 32).all (fun x => x.2 == 0xFF#8)))

/-- The uncorrectable granules among the bytes of a home run. -/
def State.uesIn (s : State) (h n : Nat) : List Nat := s.dev.ue.filter (fun g => g < h + n && h < g + 32)

/-- The first uncorrectable granule among the bytes of a home run. -/
def State.ueIn (s : State) (h n : Nat) : Option Nat := (s.uesIn h n).head?

/-! ### Writes at a home -/

/-- The bytes of a write to a region's page that take effect: none in a directory area (R358). -/
def Region.kept (r : Region) (va : Nat) (data : List (Byte × Byte)) : List (Byte × Byte) :=
  data.mapIdx (fun i x => if r.isDir (va + i) then (x.1, 0#8) else x)

/-- A write within one aligned 64-byte piece of a region's page (R358, R371). -/
def State.writeRegion (s : State) (p : Nat) (r : Region) (h va : Nat) (data : List (Byte × Byte)) : State :=
  let s0 : State :=
    if data.mapIdx (fun i x => r.isDir (va + i) && x.2 != 0#8) |>.any id then
      s.updPart p (fun q => { q with dkDirwr := min 2047 (q.dkDirwr + 1) })
    else s
  let s1 : State := { s0 with mem := s0.mem.putMasked h (r.kept va data) }
  match r.blockAt va with
  | none => s1
  | some b =>
    let e := s.bent r b
    let x0 := s.blockBits r b % 2 ^ e.len
    let x1 := s1.blockBits r b % 2 ^ e.len
    if x0 = x1 then s1
    else
      let d1 : Int := (popcount 512 x1 : Int) - popcount 512 x0
      let ones := ((e.ones : Int) + d1).toNat
      let s2 := s1.setBent r b { e with ones := ones, extot := 2 * ones - e.len, stale := true }
      (s2.updRegion p r.handle (fun r => r.append ⟨b / 64, b, d1, 0⟩)).pushFold p r.handle (b / 64 / 4096)

/-- A home in a slice's register page (R338). -/
def isRegPage (h : Nat) : Bool := 2 ^ 46 + 2 ^ 44 ≤ h && h < 2 ^ 46 + 2 ^ 45

/-- The bytes a write leaves at a home in package memory, with the region's upkeep, and those of them that take effect. -/
def State.writeBytes (s : State) (h : Nat) (data : List (Byte × Byte)) : State × List (Byte × Byte) :=
  match s.regionAt h with
  | some (p, r) => match r.vaOf h with
    | some va => (s.writeRegion p r h va data, r.kept va data)
    | none => ({ s with mem := s.mem.putMasked h data }, data)
  | none => ({ s with mem := s.mem.putMasked h data }, data)

/-- A write of bytes within one aligned 64-byte piece at its home, with the home's side effects: region upkeep, errors cleared, marks.
The register pages keep their bytes: every field of `BERR` is of a kind that software does not write (R7, R352). -/
def State.writePiece (s : State) (h : Nat) (data : List (Byte × Byte)) : State :=
  if 2 ^ 56 ≤ h then { s with mem := s.mem.putMasked h data }
  else if isRegPage h then s
  else
    let x := s.writeBytes h data
    if x.2.all (fun b => b.2 == 0#8) then x.1
    else (x.1.updDev (fun d => { d with ue := clearUe d.ue h x.2, ce := clearUe d.ce h x.2 })).markStale h data.length

/-- A write of any length at consecutive homes, as aligned 64-byte pieces. -/
def State.writeHome (s : State) (h : Nat) : Nat → List (Byte × Byte) → State
  | 0, _ => s
  | fuel + 1, data =>
    if data = [] then s
    else
      let k := 64 - h % 64
      (s.writePiece h (data.take k)).writeHome (h + k) fuel (data.drop k)

/-- A write of whole bytes at consecutive homes. -/
def State.putHome (s : State) (h : Nat) (bs : List Byte) : State :=
  s.writeHome h (bs.length + 1) (bs.map (fun b => (b, 0xFF#8)))

/-- A masked write of one agent of a partition at a home; one to host memory is egress (R413). -/
def State.writeAt (s : State) (part h : Nat) (data : List (Byte × Byte)) : State :=
  if 2 ^ 58 ≤ h then s.hostWrite part (h - hostHome 0) ((s.mem.putMasked h data).bytes h data.length)
  else s.writeHome h (data.length + 1) data

/-- Writes bytes at consecutive virtual addresses of a partition, each at its home; bytes without one are lost. -/
def State.gput (s : State) (part va : Nat) (bs : List Byte) : State :=
  match s.homesOf part va (bs.length + 1) bs.length with
  | some runs =>
    (runs.foldl (fun (acc : State × List Byte) run =>
      (acc.1.writeAt part run.1 ((acc.2.take run.2).map (fun b => (b, 0xFF#8))), acc.2.drop run.2)) (s, bs)).1
  | none => s

/-! ### What holds an access at a home -/

/-- Why an access waits at its home: a repack of its region (R379), the channel of a slice (R346, R347), or a full delta log of a partition
(R371). -/
inductive Hold where
  | repack
  | slice (n : Nat)
  | log (p : Nat)
  deriving DecidableEq, Repr

/-- The step in progress waits. -/
def State.waitFor (s : State) (op : Instr) : Hold → State
  | .repack => s.defer op
  | .slice n => s.deferAt op n
  | .log p => s.deferLog op p

/-- A home whose bytes lie in the DRAM of a channel: package memory and the derived pools. -/
def onChannel (h : Nat) : Bool := h < 2 ^ 46 || (2 ^ 46 + 2 ^ 45 ≤ h && h < 2 ^ 47)

/-- The channel of a home serves no ordinary request: a step of a bank command runs there (R346), or its suspension hands the channel over or
has served 16 requests (R347). -/
def State.channelHolds (s : State) (h : Nat) : Bool :=
  onChannel h && s.banks.any (fun k => k.slice == sliceOf h && !k.ended &&
    (k.lease.isSome || (k.suspended && (s.clock < k.handover || 16 ≤ k.served))))

/-- An ordinary request has been served at a home: a suspended command of the slice counts it (R347). -/
def State.serveAt (s : State) (h : Nat) : State :=
  if onChannel h then
    { s with banks := updIf (fun k => k.slice == sliceOf h && k.suspended) (fun k => { k with served := k.served + 1 }) s.banks }
  else s

/-- An access to a registered region's page waits while a repack runs (R379). -/
def State.repackHolds (s : State) (h : Nat) : Bool :=
  if 2 ^ 46 ≤ h then false
  else match s.regionAt h with
    | some (_, r) => !r.repacks.isEmpty
    | none => false

/-- A write within one aligned piece is held at a full delta log (R371): the partition that counts it. -/
def State.logHolds (s : State) (h : Nat) (data : List (Byte × Byte)) : Option Nat :=
  if 2 ^ 46 ≤ h then none
  else match s.regionAt h with
    | none => none
    | some (p, r) => match (r.vaOf h).bind r.blockAt with
      | none => none
      | some b =>
        let e := s.bent r b
        let x1 := leNat ((s.mem.putMasked h data).bytes (r.home (r.blk + 64 * b)) 64)
        if s.blockBits r b % 2 ^ e.len ≠ x1 % 2 ^ e.len && 16 ≤ (tget [] r.logs (b / 64 / 4096)).length then some p else none

/-- What an access at a home waits for now. -/
def State.homeHold (s : State) (h : Nat) : Option Hold :=
  if s.repackHolds h then some .repack else if s.channelHolds h then some (.slice (sliceOf h)) else none

/-- The writes of one step at their homes, in order, each within one aligned 64-byte piece; the first that waits stops the step (R371). -/
def State.putRuns (s : State) (part : Nat) : List (Nat × List (Byte × Byte)) → Except Hold State
  | [] => .ok s
  | (h, data) :: t => match s.homeHold h, s.logHolds h data with
    | some x, _ => .error x
    | none, some p => .error (.log p)
    | none, none => (s.writeAt part h data).putRuns part t

/-- Whole bytes from a home upward as writes within aligned 64-byte pieces. -/
def piecesOf (h : Nat) : Nat → List Byte → List (Nat × List (Byte × Byte))
  | 0, _ => []
  | fuel + 1, bs =>
    if bs = [] then []
    else
      let k := 64 - h % 64
      (h, (bs.take k).map (fun b => (b, 0xFF#8))) :: piecesOf (h + k) fuel (bs.drop k)

/-- `State.gput` as one step that may have to wait (R371, R379). -/
def State.gputTry (s : State) (part va : Nat) (bs : List Byte) : Except Hold State :=
  match s.homesOf part va (bs.length + 1) bs.length with
  | some runs => s.putRuns part (runs.foldl (fun (acc : List (Nat × List (Byte × Byte)) × List Byte) run =>
      (acc.1 ++ piecesOf run.1 (run.2 + 1) (acc.2.take run.2), acc.2.drop run.2)) ([], bs)).1
  | none => .ok s

/-! ### Derived tiles that a read meets (R407) -/

/-- The tile whose bytes or block scales lie at a home: its own page, or its 64 bytes of the scale pages behind them (R400). -/
def Derived.tileAt (d : Derived) (h : Nat) : Option Nat :=
  match (List.range d.homes.length).find? (fun i => d.homes.getD i 0 == h / 65536 * 65536) with
  | none => none
  | some i =>
    let t := if i < d.tiles then i else ((i - d.tiles) * 65536 + h % 65536) / 64
    if t < d.tiles then some t else none

/-- The registration and tile at a home, with its partition. -/
def State.derivedAt (s : State) (h : Nat) : Option (Nat × Derived × Nat) :=
  if h < 2 ^ 46 + 2 ^ 45 || 2 ^ 47 ≤ h then none
  else s.parts.findSome? (fun p => p.2.deriveds.findSome? (fun d => (d.tileAt h).map (fun t => (p.1, d, t))))

/-- The stale tiles a read of a stale tile needs recomputed, innermost first (R407). -/
def Part.staleChain (p : Part) : Nat → Derived → Nat → List (Nat × Nat)
  | 0, _, _ => []
  | n + 1, d, t =>
    if !d.stale.contains t then []
    else
      let inner := match p.deriveds.find? (fun x => x.id == d.a) with
        | some base =>
          let (x, y) := d.baseTile t
          p.staleChain n base (x * (if base.rule = 0 then base.tr else base.tc) + y)
        | none => []
      inner ++ [(d.id, t)]

/-- The stale tiles to recompute before a read of a home run (R407), with their partition. -/
def State.staleAt (s : State) (h : Nat) : List (Nat × Nat × Nat) :=
  match s.derivedAt h with
  | some (p, d, t) => ((s.part p).staleChain 4 d t).map (fun x => (p, x.1, x.2))
  | none => []

/-- The first uncorrectable granule that the recompute of a tile reads (R409). -/
def State.tileUe (s : State) (p : Nat) (d : Derived) (t : Nat) : Option Nat :=
  let q := s.part p
  let look : Nat × Nat → Option Nat := fun r =>
    (pagePieces r.1 r.2).findSome? (fun x => (s.homeOf p x.1).bind (fun h => s.ueIn h x.2))
  match look (d.aRange q t) with
  | some g => some g
  | none => look (d.bRange q t)

/-- What the recompute of a tile waits for: the homes of its base (R379, R346). -/
def State.tileHold (s : State) (p : Nat) (d : Derived) (t : Nat) : Option Hold :=
  let q := s.part p
  (pagePieces (d.aRange q t).1 (d.aRange q t).2 ++ pagePieces (d.bRange q t).1 (d.bRange q t).2).findSome? (fun x =>
    (s.homeOf p x.1).bind s.homeHold)

/-- What a read at a home waits for now, the recomputes before it included (R407). -/
def State.readHold (s : State) (h : Nat) : Option Hold :=
  match s.homeHold h with
  | some x => some x
  | none => (s.staleAt h).findSome? (fun x =>
      ((s.part x.1).deriveds.find? (fun d => d.id == x.2.1)).bind (fun d => s.tileHold x.1 d x.2.2))

/-- The given device steps are the very next ones, in order (R231, R350, R407). -/
def State.pushFront (s : State) (l : List Event) : State :=
  { s with agenda := l ++ s.agenda, picks := List.replicate l.length 1 ++ s.picks }

/-- Asks for the recomputes before a read, and for the read directly after them, which then goes on whatever they did. -/
def State.recomputeFirst (s : State) (op : Instr) (tiles : List (Nat × Nat × Nat)) : State :=
  s.pushFront (tiles.map (fun x => { op := .derivedRecompute, arg := { a := x.1, b := x.2.1, c := x.2.2 }, due := s.clock }) ++
    [{ op := op, arg := { s.ctx.ev with d := 1 }, due := s.clock }])

end Sys2Proof.Machine
end

