-- ==== Sys2Proof/Machine/Memory.lean ====
section
/-! DEFINITION. Memory words at issue (R217 to R235): loads, stores, `LDPF`, the tag table, gather and scatter, atomics and
tickets. Issue checks each lane, parks those that fail, and leaves requests and buffered writes; the steps at the homes are in
Machine/Home.lean. -/

namespace Sys2Proof.Machine

/-- A lane's access: the address as the program formed it and the outcome of the checks. -/
structure LaneAcc where
  lane : Nat
  ea : Quad
  target : Target

/-- Where an access of a lane goes: `.S` forms give a crew-relative offset, `.G` forms a generic address (R217, R220). -/
def State.access (s : State) (sp : Bool) (a : BitVec 6) (bytes align : Nat) (nib : Bool) (w : Want) (l : Nat) : LaneAcc :=
  if sp then
    match s.eaS a l nib with
    | some ea => ⟨l, ea, s.resolve l ea bytes align nib w⟩
    | none => ⟨l, s.eaSBad a l, .trap 0x03 (s.eaSBad a l)⟩
  else ⟨l, s.eaG a l, s.resolve l (s.eaG a l) bytes align nib w⟩

/-- The accesses of the active lanes. -/
def State.accesses (s : State) (sp : Bool) (a : BitVec 6) (g : BitVec 1) (bytes : Nat) (nib : Bool) (w : Want) : List LaneAcc :=
  (s.lanes g).map (s.access sp a bytes bytes nib w)

/-- An access that only global memory takes (R228, R229, R234): any other space raises `ACCESS`. -/
def LaneAcc.globalOnly (x : LaneAcc) : LaneAcc := if qbit x.ea 63 then { x with target := .trap 0x03 x.ea } else x

/-- An access that the stack window refuses (R232). -/
def LaneAcc.noStack (x : LaneAcc) : LaneAcc :=
  if bits x.ea 63 60 = 0xB then { x with target := .trap 0x03 x.ea } else x

/-- The failed lanes: lane, cause, code 0, address (R220). -/
def failures (xs : List LaneAcc) : List (Nat × Nat × Nat × Quad) :=
  xs.filterMap (fun x => match x.target with | .trap c a => some (x.lane, c, 0, a) | .ok _ _ _ => none)

/-- Performs an effect for the lanes that pass, then parks those that fail; when the whole head fails, nothing but the trap
happens (R91, R220). -/
def State.orTrap (s : State) (xs : List LaneAcc) (f : State) : State :=
  let bad := failures xs
  if s.allFailed bad then s.trapFailed bad else f.trapFailed bad

/-! ### Loads (R224, R225) -/

/-- Register fields of a load or store of some bytes (R73, R224): 64 bits an even pair in a group, 128 bits a multiple of 4 in a
group and even in a steward; a `.G` base is a pair in a group. -/
def State.memFields (s : State) (sp : Bool) (bytes : Nat) (d a : BitVec 6) : Bool :=
  (sp || s.evenG a) &&
  (match bytes with
   | 8 => s.evenG d
   | 16 => if s.isSteward then d.toNat % 2 == 0 else d.toNat % 4 == 0
   | _ => true)

/-- The lane requests of the accesses that passed, with operands. -/
def laneReqs (xs : List LaneAcc) (x y : Nat → Quad) : List LaneReq :=
  xs.filterMap (fun a => match a.target with
    | .ok _ h _ => some ⟨a.lane, h, nibSel a.ea, x a.lane, y a.lane, none, a.ea, false⟩
    | .trap _ _ => none)

/-- A load (R225): each passing lane asks its home for the bytes. -/
def State.load (s : State) (sp : Bool) (bytes : Nat) (nib sx : Bool) (d a : BitVec 6) (f : BitVec 4) (g : BitVec 1) : State :=
  if s.memFields sp bytes d a then
    let xs := s.accesses sp a g bytes nib .read
    s.orTrap xs (s.request (flagOf f) (.load bytes nib sx) d.toNat true (some .readPerform)
      (laneReqs xs (fun _ => 0#64) (fun _ => 0#64)))
  else s.illegal

/-! ### Stores (R222, R226) -/

/-- The bits a store takes from its source registers (R224), as a number. -/
def State.storeBits (s : State) (bytes : Nat) (d : BitVec 6) (l : Nat) : Nat :=
  if bytes = 16 then
    (if s.isSteward then (s.me.rdK d.toNat).toNat + 2 ^ 64 * (s.me.rdK (d.toNat + 1)).toNat
     else (s.me.rdPair d.toNat l).toNat + 2 ^ 64 * (s.me.rdPair (d.toNat + 2) l).toNat)
  else if bytes = 8 then (s.me.rd 64 d.toNat l).toNat
  else (s.me.rd 32 d.toNat l).toNat

/-- The masked bytes of a store: whole bytes, or one nibble (R159, R218). -/
def storeData (bytes : Nat) (nib hi : Bool) (x : Nat) : List (Byte × Byte) :=
  if nib then [(BitVec.ofNat 8 (if hi then x % 16 * 16 else x % 16), if hi then 0xF0#8 else 0x0F#8)]
  else (leBytes bytes x).map (fun b => (b, 0xFF#8))

/-- Appends writes to the write buffer of the issuing stream, numbered in order, and asks for their drains (R154). -/
def State.buffer (s : State) (ws : List PWrite) : State :=
  let n := s.nextId
  let ws1 : List PWrite := ws.mapIdx (fun i (w : PWrite) => { w with id := n + i })
  ({ s with nextId := n + ws.length, me := { s.me with wb := s.me.wb ++ ws1 } }).pushAll .writeDrain
    (ws1.map (fun (w : PWrite) => ({ src := .wb s.self, a := w.id } : EvArg)))

/-- Keeps, of the writes of one word to one place, that of the highest lane (R160). -/
def highestLane : List PWrite → List PWrite
  | [] => []
  | w :: t =>
    if t.any (fun v => v.home == w.home && v.data.map Prod.snd == w.data.map Prod.snd) then highestLane t
    else w :: highestLane t

/-- The writes of a storing word (R226): one for each passing lane, in the buffer of that lane. -/
def State.storeWrites (s : State) (xs : List LaneAcc) (bytes : Nat) (nib : Bool) (d : BitVec 6) : List PWrite :=
  highestLane (xs.filterMap (fun a => match a.target with
    | .ok sp h va => some
        { id := 0, rid := s.nextId, agent := s.self, lane := a.lane, home := h,
          data := storeData bytes nib (nibSel a.ea) (s.storeBits bytes d a.lane),
          va := va, space := sp, part := s.crew.part, eddy := none }
    | .trap _ _ => none))

/-- The use of a storing word: it ends when its writes have drained (R222). -/
def State.postStore (s : State) (f : BitVec 4) (ws : List PWrite) : State :=
  let s1 := s.post none (flagOf f) [] false
  if ws = [] then s1.arrive s.self s.nextId [] else s1.buffer ws

/-- A store (R226). -/
def State.store (s : State) (sp : Bool) (bytes : Nat) (nib : Bool) (d a : BitVec 6) (f : BitVec 4) (g : BitVec 1) : State :=
  if s.memFields sp bytes d a then
    let xs := s.accesses sp a g bytes nib .write
    s.orTrap xs (s.postStore f (s.storeWrites xs bytes nib d))
  else s.illegal

/-! ### LDPF (R227) -/

/-- The checks of one lane of an `LDPF`: the global line as a read of 512 aligned bytes, then the slot offset s. -/
def State.ldpfAccess (s : State) (d a : BitVec 6) (l : Nat) : LaneAcc :=
  let x := (s.access false a 512 512 false .read l).globalOnly
  let off := (s.me.rd 32 d.toNat l).toNat
  match x.target with
  | .trap _ _ => x
  | .ok _ _ _ =>
    if off % 512 ≠ 0 then { x with target := .trap 0x04 x.ea }
    else if off + 512 > s.crew.shareSize then { x with target := .trap 0x03 (BitVec.ofNat 64 off) }
    else x

/-- The eight runs of each passing lane; of lanes that name the same slot only the highest writes it. -/
def State.ldpfRuns (s : State) (d : BitVec 6) (xs : List LaneAcc) : List LaneReq :=
  let off : Nat → Nat := fun l => (s.me.rd 32 d.toNat l).toNat
  let ok := xs.filterMap (fun a => match a.target with | .ok _ h _ => some (a.lane, h, a.ea) | .trap _ _ => none)
  ok.flatMap (fun x =>
    let wins := !(ok.any (fun y => y.1 > x.1 && off y.1 == off x.1))
    (List.range 8).map (fun k =>
      ⟨x.1, x.2.1 + 64 * k, false, 0#64, 0#64,
        if wins then some (s.crew.shareHome + off x.1 + 64 * k) else none, x.2.2, false⟩))

/-- Writes of the issuing stream that take no buffer entry are under way (R227, R299). -/
def State.addDirect (s : State) (ws : List PWrite) : State := { s with me := { s.me with direct := s.me.direct ++ ws } }

/-- A scratchpad write of the issuing word whose bytes are not at hand: `n` bytes at a home (R227, R299). -/
def State.directWrite (s : State) (lane home n : Nat) : PWrite :=
  { id := s.nextId, rid := s.nextId, agent := s.self, lane := lane, home := home, data := List.replicate n (0#8, 0xFF#8),
    va := 0, space := .scratch, part := s.crew.part, eddy := none }

/-- The scratchpad writes of an `LDPF`: writes of its lanes (R227). -/
def State.ldpfWrites (s : State) (ls : List LaneReq) : List PWrite :=
  ls.filterMap (fun l => l.dst.map (fun a => s.directWrite l.lane a 64))

/-- `LDPF` d, [a+off] (R227). -/
def execLdpf (d a : BitVec 6) (f : BitVec 4) (g : BitVec 1) (s : State) : Host.Outcome State Fault Refusal :=
  .next (if s.evenG a then
      let xs := (s.lanes g).map (s.ldpfAccess d a)
      let ls := s.ldpfRuns d xs
      s.orTrap xs ((s.request (flagOf f) .ldpf d.toNat false (some .readPerform) ls).addDirect (s.ldpfWrites ls))
    else s.illegal)

/-! ### The tag table (R172, R228) -/

/-- Writes of an agent whose bytes are at hand and that have not drained: buffered, or captured in a release set of its partition (R154). -/
def State.heldWrites (s : State) (r : Ref) (part : Nat) : List PWrite :=
  (match s.streamOf r with | some t => t.wb | none => []) ++
  ((s.part part).syncs.flatMap (fun o => o.rs.filter (fun w => w.agent == r)))

/-- Writes under way that take no buffer entry: runs of an `LDPF` (R227), rows of a `DRAIN` (R299). -/
def State.directWrites (s : State) (r : Ref) : List PWrite := match s.streamOf r with | some t => t.direct | none => []

/-- Writes of an agent that have not drained (R154, R227, R299). -/
def State.writesOf (s : State) (r : Ref) (part : Nat) : List PWrite := s.directWrites r ++ s.heldWrites r part

/-- Whether a write touches any byte of a range. -/
def PWrite.touches (w : PWrite) (a n : Nat) : Bool := w.home < a + n && a < w.home + w.data.length

/-- Whether a tag entry is visible (R172): the inserter's earlier writes to the slot have drained. -/
def State.tagVisible (s : State) (slot : Nat) (e : TagEnt) : Bool :=
  !(s.writesOf e.owner s.crew.part).any (fun w =>
    w.lane == e.lane && w.id < e.upto && w.touches (s.crew.shareHome + 512 * slot) 512)

/-- The visible entry that holds a line: its slot. -/
def State.tagFind (s : State) (line : Nat) : Option Nat :=
  (s.crew.tags.find? (fun p => match p.2 with | some e => e.line == line && s.tagVisible p.1 e | none => false)).map Prod.fst

/-- Whether any entry, visible or not, holds a line. -/
def State.tagHeld (s : State) (line : Nat) : Bool :=
  s.crew.tags.any (fun p => match p.2 with | some e => e.line == line | none => false)

/-- The crew with a tag entry set. -/
def State.setTag (s : State) (slot : Nat) (e : Option TagEnt) : State :=
  { s with crew := { s.crew with tags := tset none s.crew.tags slot e } }

/-- The line of a global address, as a number. -/
def lineOf (ea : Quad) : Nat := bits ea 56 0 / 512 * 512

/-- The outcome of one lane of a tag instruction: the state after it and the value for d, or a trap. -/
abbrev TagStep := State → Nat → Quad → (State × Quad) ⊕ (Nat × Quad)

/-- A tag instruction (R228): each active lane in ascending order, one step per lane; 8 cycles to the writeback. -/
def State.tagOp (s : State) (w : Nat) (d : BitVec 6) (f : BitVec 4) (g : BitVec 1) (ea : Nat → Quad) (step : TagStep) : State :=
  let r := (s.lanes g).foldl (fun (acc : State × List RegWrite × List (Nat × Nat × Nat × Quad)) l =>
    match step acc.1 l (ea l) with
    | .inl (s1, v) => (s1, acc.2.1 ++ s.me.wr w d.toNat l v, acc.2.2)
    | .inr (c, a) => (acc.1, acc.2.1, acc.2.2 ++ [(l, c, 0, a)])) (s, [], [])
  if s.allFailed r.2.2 then s.trapFailed r.2.2
  else (r.1.post (some 8) (flagOf f) r.2.1).trapFailed r.2.2

/-- An address that is not global (R150). -/
def notGlobal (ea : Quad) : Bool := bits ea 63 57 != 0

/-- `TLOOK` d, [a+off] (R228): the slot that holds the line, or all ones. -/
def execTlook (d a : BitVec 6) (f : BitVec 4) (g : BitVec 1) (s : State) : Host.Outcome State Fault Refusal :=
  .next (if s.evenG a then
      s.tagOp 32 d f g (s.eaG a) (fun s1 _ ea =>
        if notGlobal ea then .inr (0x03, ea)
        else .inl (s1, match s1.tagFind (lineOf ea) with | some n => BitVec.ofNat 64 n | none => 0xFFFFFFFF#64))
    else s.illegal)

/-- `TINS` d, [a+off] (R228): 0 inserted, 1 slot occupied, 2 line already held. -/
def execTins (d a : BitVec 6) (f : BitVec 4) (g : BitVec 1) (s : State) : Host.Outcome State Fault Refusal :=
  .next (if s.evenG a then
      s.tagOp 32 d f g (s.eaG a) (fun s1 l ea =>
        let n := (s.me.rd 32 d.toNat l).toNat
        if notGlobal ea then .inr (0x03, ea)
        else if s.crew.shareSize / 512 ≤ n then .inr (0x03, BitVec.ofNat 64 n)
        else if ea.toNat % 512 ≠ 0 then .inr (0x04, ea)
        else if tget none s1.crew.tags n ≠ none then .inl (s1, 1#64)
        else if s1.tagHeld (lineOf ea) then .inl (s1, 2#64)
        else .inl (s1.setTag n (some ⟨lineOf ea, s.self, l, s.nextId⟩), 0#64))
    else s.illegal)

/-- `TEVICT` d (R228): empties slot n and returns the line it held, or all ones. -/
def execTevict (d : BitVec 6) (f : BitVec 4) (g : BitVec 1) (s : State) : Host.Outcome State Fault Refusal :=
  .next (if s.evenG d then
      s.tagOp 64 d f g (fun _ => 0#64) (fun s1 l _ =>
        let n := (s.me.rd 32 d.toNat l).toNat
        if s.crew.shareSize / 512 ≤ n then .inr (0x03, BitVec.ofNat 64 n)
        else match tget none s1.crew.tags n with
          | some e => .inl (s1.setTag n none, BitVec.ofNat 64 e.line)
          | none => .inl (s1, 0xFFFFFFFFFFFFFFFF#64))
    else s.illegal)

/-- `TINV` d, [a+off] (R228): empties the entry that holds the line and returns its slot, or all ones. DESIGN CHOICE: like `TLOOK` it finds
visible entries only (R172, log entry 55). -/
def execTinv (d a : BitVec 6) (f : BitVec 4) (g : BitVec 1) (s : State) : Host.Outcome State Fault Refusal :=
  .next (if s.evenG a then
      s.tagOp 32 d f g (s.eaG a) (fun s1 _ ea =>
        if notGlobal ea then .inr (0x03, ea)
        else match s1.tagFind (lineOf ea) with
          | some n => .inl (s1.setTag n none, BitVec.ofNat 64 n)
          | none => .inl (s1, 0xFFFFFFFF#64))
    else s.illegal)

/-! ### Gather and scatter (R229 to R231) -/

/-- Joins requests to the open Eddy line of their 64-byte line, or opens it for the partition's window (R230). -/
def State.eddyJoin (s : State) (wr : Bool) (reqs : List (Nat × Ref × Nat × Nat)) : State :=
  reqs.foldl (fun s1 q =>
    let line := q.1 / 64
    let same : EddyLine → Bool := fun e =>
      e.core == s.crew.core && e.part == s.crew.part && e.line == line && e.wr == wr && s.clock ≤ e.closes
    if s1.eddy.any same then
      { s1 with eddy := updIf same (fun e => { e with reqs := e.reqs ++ [q.2] }) s1.eddy }
    else
      let e : EddyLine :=
        { core := s.crew.core, part := s.crew.part, line := line, wr := wr, closes := s.clock + s.myPart.conf.eddyW,
          reqs := [q.2] }
      let s2 : State := { s1 with eddy := s1.eddy ++ [e] }
      s2.push .eddyWindowExpiry { a := s.crew.core, b := line, c := if wr then 1 else 0 }) s

/-- A gather (R229): the same effect as a load, through the Eddy. Group only. -/
def State.gather (s : State) (bytes : Nat) (d a : BitVec 6) (f : BitVec 4) (g : BitVec 1) : State :=
  if !s.isSteward && s.memFields false bytes d a then
    let xs := (s.accesses false a g bytes false .read).map LaneAcc.globalOnly
    let ls := laneReqs xs (fun _ => 0#64) (fun _ => 0#64)
    let s1 := s.request (flagOf f) (.load bytes false false) d.toNat true none ls
    s.orTrap xs (s1.eddyJoin false (ls.map (fun l => (l.home, s.self, s.nextId, l.lane))))
  else s.illegal

/-- A scatter (R229): the same effect as a store; its writes wait in the Eddy for the window. Group only. -/
def State.scatter (s : State) (bytes : Nat) (d a : BitVec 6) (f : BitVec 4) (g : BitVec 1) : State :=
  if !s.isSteward && s.memFields false bytes d a then
    let xs := (s.accesses false a g bytes false .write).map LaneAcc.globalOnly
    let ws := (s.storeWrites xs bytes false d).map (fun w => { w with eddy := some (w.home / 64) })
    let s1 := s.postStore f ws
    s.orTrap xs (s1.eddyJoin true (ws.mapIdx (fun i w => (w.home, s.self, s.nextId + 1 + i, w.lane))))
  else s.illegal

/-! ### Atomics and reductions (R232, R233) -/

/-- An atomic or reduction: each passing lane asks its home for one step. -/
def State.atomic (s : State) (op : AtomOp) (ret : Bool) (d a : BitVec 6) (f : BitVec 4) (g : BitVec 1) : State :=
  let bytes := if s.isSteward then 8 else 4
  let w := 8 * bytes
  if s.evenG a && (op != .cas || d.toNat % 2 == 0) && (op != .addF32 || !s.isSteward) then
    let xs := (s.accesses false a g bytes false .readWrite).map LaneAcc.noStack
    s.orTrap xs (s.request (flagOf f) (.atomic op bytes ret) d.toNat ret (some .atomicPerform)
      (laneReqs xs (s.me.rd w d.toNat) (s.me.rd w (d.toNat + 1))))
  else s.illegal

/-! ### Tickets (R234) -/

/-- The accesses of a ticket instruction: 8 global bytes. -/
def State.ticketAccs (s : State) (a : BitVec 6) (g : BitVec 1) (w : Want) : List LaneAcc :=
  (s.accesses false a g 8 false w).map LaneAcc.globalOnly

/-- `TKGET` d, [a+off] (R234). -/
def execTkget (d a : BitVec 6) (f : BitVec 4) (g : BitVec 1) (s : State) : Host.Outcome State Fault Refusal :=
  .next (if s.evenG a then
      let xs := s.ticketAccs a g .readWrite
      s.orTrap xs (s.request (flagOf f) .tkget d.toNat true (some .atomicPerform)
        (laneReqs xs (fun _ => 0#64) (fun _ => 0#64)))
    else s.illegal)

/-- `TKNEXT` d, [a+off] (R234): the home step waits for the drain of R175. -/
def execTknext (d a : BitVec 6) (f : BitVec 4) (g : BitVec 1) (s : State) : Host.Outcome State Fault Refusal :=
  .next (if s.evenG a then
      let xs := s.ticketAccs a g .readWrite
      s.orTrap xs (s.request (flagOf f) .tknext d.toNat true (some .tknextPerform)
        (laneReqs xs (fun _ => 0#64) (fun _ => 0#64)))
    else s.illegal)

/-! ### The words -/

/-- `LD.G` of 4 bits (R224, R225). -/
def execLdG4 (d a : BitVec 6) (f : BitVec 4) (g : BitVec 1) (s : State) : Host.Outcome State Fault Refusal :=
  .next (s.load false 1 true false d a f g)

/-- `ST.G` of 4 bits (R224, R226). -/
def execStG4 (d a : BitVec 6) (f : BitVec 4) (g : BitVec 1) (s : State) : Host.Outcome State Fault Refusal :=
  .next (s.store false 1 true d a f g)

/-- `LD.G` of 8 bits (R224, R225). -/
def execLdG8 (d a : BitVec 6) (f : BitVec 4) (g : BitVec 1) (s : State) : Host.Outcome State Fault Refusal :=
  .next (s.load false 1 false false d a f g)

/-- `ST.G` of 8 bits (R224, R226). -/
def execStG8 (d a : BitVec 6) (f : BitVec 4) (g : BitVec 1) (s : State) : Host.Outcome State Fault Refusal :=
  .next (s.store false 1 false d a f g)

/-- `LD.G` of 16 bits (R224, R225). -/
def execLdG16 (d a : BitVec 6) (f : BitVec 4) (g : BitVec 1) (s : State) : Host.Outcome State Fault Refusal :=
  .next (s.load false 2 false false d a f g)

/-- `ST.G` of 16 bits (R224, R226). -/
def execStG16 (d a : BitVec 6) (f : BitVec 4) (g : BitVec 1) (s : State) : Host.Outcome State Fault Refusal :=
  .next (s.store false 2 false d a f g)

/-- `LD.G` of 32 bits (R224, R225). -/
def execLdG32 (d a : BitVec 6) (f : BitVec 4) (g : BitVec 1) (s : State) : Host.Outcome State Fault Refusal :=
  .next (s.load false 4 false false d a f g)

/-- `ST.G` of 32 bits (R224, R226). -/
def execStG32 (d a : BitVec 6) (f : BitVec 4) (g : BitVec 1) (s : State) : Host.Outcome State Fault Refusal :=
  .next (s.store false 4 false d a f g)

/-- `LD.G` of 64 bits (R224, R225). -/
def execLdG64 (d a : BitVec 6) (f : BitVec 4) (g : BitVec 1) (s : State) : Host.Outcome State Fault Refusal :=
  .next (s.load false 8 false false d a f g)

/-- `ST.G` of 64 bits (R224, R226). -/
def execStG64 (d a : BitVec 6) (f : BitVec 4) (g : BitVec 1) (s : State) : Host.Outcome State Fault Refusal :=
  .next (s.store false 8 false d a f g)

/-- `LD.G` of 128 bits (R224, R225). -/
def execLdG128 (d a : BitVec 6) (f : BitVec 4) (g : BitVec 1) (s : State) : Host.Outcome State Fault Refusal :=
  .next (s.load false 16 false false d a f g)

/-- `ST.G` of 128 bits (R224, R226). -/
def execStG128 (d a : BitVec 6) (f : BitVec 4) (g : BitVec 1) (s : State) : Host.Outcome State Fault Refusal :=
  .next (s.store false 16 false d a f g)

/-- `LD.G` of 4 bits, sign-extended (R224, R225). -/
def execLdG4Signed (d a : BitVec 6) (f : BitVec 4) (g : BitVec 1) (s : State) : Host.Outcome State Fault Refusal :=
  .next (s.load false 1 true true d a f g)

/-- `LD.G` of 8 bits, sign-extended (R224, R225). -/
def execLdG8Signed (d a : BitVec 6) (f : BitVec 4) (g : BitVec 1) (s : State) : Host.Outcome State Fault Refusal :=
  .next (s.load false 1 false true d a f g)

/-- `LD.G` of 16 bits, sign-extended (R224, R225). -/
def execLdG16Signed (d a : BitVec 6) (f : BitVec 4) (g : BitVec 1) (s : State) : Host.Outcome State Fault Refusal :=
  .next (s.load false 2 false true d a f g)

/-- `LD.G.I32` of a steward, sign-extended; a group raises `ILLEGAL_OP` (R88, R224). -/
def execLdG32Signed (d a : BitVec 6) (f : BitVec 4) (g : BitVec 1) (s : State) : Host.Outcome State Fault Refusal :=
  .next (if s.isSteward then s.load false 4 false true d a f g else s.illegal)

/-- `LD.S` of 4 bits (R224, R225). -/
def execLdS4 (d a : BitVec 6) (f : BitVec 4) (g : BitVec 1) (s : State) : Host.Outcome State Fault Refusal :=
  .next (s.load true 1 true false d a f g)

/-- `ST.S` of 4 bits (R224, R226). -/
def execStS4 (d a : BitVec 6) (f : BitVec 4) (g : BitVec 1) (s : State) : Host.Outcome State Fault Refusal :=
  .next (s.store true 1 true d a f g)

/-- `LD.S` of 8 bits (R224, R225). -/
def execLdS8 (d a : BitVec 6) (f : BitVec 4) (g : BitVec 1) (s : State) : Host.Outcome State Fault Refusal :=
  .next (s.load true 1 false false d a f g)

/-- `ST.S` of 8 bits (R224, R226). -/
def execStS8 (d a : BitVec 6) (f : BitVec 4) (g : BitVec 1) (s : State) : Host.Outcome State Fault Refusal :=
  .next (s.store true 1 false d a f g)

/-- `LD.S` of 16 bits (R224, R225). -/
def execLdS16 (d a : BitVec 6) (f : BitVec 4) (g : BitVec 1) (s : State) : Host.Outcome State Fault Refusal :=
  .next (s.load true 2 false false d a f g)

/-- `ST.S` of 16 bits (R224, R226). -/
def execStS16 (d a : BitVec 6) (f : BitVec 4) (g : BitVec 1) (s : State) : Host.Outcome State Fault Refusal :=
  .next (s.store true 2 false d a f g)

/-- `LD.S` of 32 bits (R224, R225). -/
def execLdS32 (d a : BitVec 6) (f : BitVec 4) (g : BitVec 1) (s : State) : Host.Outcome State Fault Refusal :=
  .next (s.load true 4 false false d a f g)

/-- `ST.S` of 32 bits (R224, R226). -/
def execStS32 (d a : BitVec 6) (f : BitVec 4) (g : BitVec 1) (s : State) : Host.Outcome State Fault Refusal :=
  .next (s.store true 4 false d a f g)

/-- `LD.S` of 64 bits (R224, R225). -/
def execLdS64 (d a : BitVec 6) (f : BitVec 4) (g : BitVec 1) (s : State) : Host.Outcome State Fault Refusal :=
  .next (s.load true 8 false false d a f g)

/-- `ST.S` of 64 bits (R224, R226). -/
def execStS64 (d a : BitVec 6) (f : BitVec 4) (g : BitVec 1) (s : State) : Host.Outcome State Fault Refusal :=
  .next (s.store true 8 false d a f g)

/-- `LD.S` of 128 bits (R224, R225). -/
def execLdS128 (d a : BitVec 6) (f : BitVec 4) (g : BitVec 1) (s : State) : Host.Outcome State Fault Refusal :=
  .next (s.load true 16 false false d a f g)

/-- `ST.S` of 128 bits (R224, R226). -/
def execStS128 (d a : BitVec 6) (f : BitVec 4) (g : BitVec 1) (s : State) : Host.Outcome State Fault Refusal :=
  .next (s.store true 16 false d a f g)

/-- `LD.S` of 4 bits, sign-extended (R224, R225). -/
def execLdS4Signed (d a : BitVec 6) (f : BitVec 4) (g : BitVec 1) (s : State) : Host.Outcome State Fault Refusal :=
  .next (s.load true 1 true true d a f g)

/-- `LD.S` of 8 bits, sign-extended (R224, R225). -/
def execLdS8Signed (d a : BitVec 6) (f : BitVec 4) (g : BitVec 1) (s : State) : Host.Outcome State Fault Refusal :=
  .next (s.load true 1 false true d a f g)

/-- `LD.S` of 16 bits, sign-extended (R224, R225). -/
def execLdS16Signed (d a : BitVec 6) (f : BitVec 4) (g : BitVec 1) (s : State) : Host.Outcome State Fault Refusal :=
  .next (s.load true 2 false true d a f g)

/-- `LD.S.I32` of a steward, sign-extended; a group raises `ILLEGAL_OP` (R88, R224). -/
def execLdS32Signed (d a : BitVec 6) (f : BitVec 4) (g : BitVec 1) (s : State) : Host.Outcome State Fault Refusal :=
  .next (if s.isSteward then s.load true 4 false true d a f g else s.illegal)

/-- `GATH` of 32 bits (R229). -/
def execGath32 (d a : BitVec 6) (f : BitVec 4) (g : BitVec 1) (s : State) : Host.Outcome State Fault Refusal :=
  .next (s.gather 4 d a f g)

/-- `SCAT` of 32 bits (R229). -/
def execScat32 (d a : BitVec 6) (f : BitVec 4) (g : BitVec 1) (s : State) : Host.Outcome State Fault Refusal :=
  .next (s.scatter 4 d a f g)

/-- `GATH` of 64 bits (R229). -/
def execGath64 (d a : BitVec 6) (f : BitVec 4) (g : BitVec 1) (s : State) : Host.Outcome State Fault Refusal :=
  .next (s.gather 8 d a f g)

/-- `SCAT` of 64 bits (R229). -/
def execScat64 (d a : BitVec 6) (f : BitVec 4) (g : BitVec 1) (s : State) : Host.Outcome State Fault Refusal :=
  .next (s.scatter 8 d a f g)

/-- `ATOM.ADD` (R232, R233). -/
def execAtomAdd (d a : BitVec 6) (f : BitVec 4) (g : BitVec 1) (s : State) : Host.Outcome State Fault Refusal :=
  .next (s.atomic .add true d a f g)

/-- `ATOM.MIN` (R232, R233). -/
def execAtomMin (d a : BitVec 6) (f : BitVec 4) (g : BitVec 1) (s : State) : Host.Outcome State Fault Refusal :=
  .next (s.atomic .min true d a f g)

/-- `ATOM.MAX` (R232, R233). -/
def execAtomMax (d a : BitVec 6) (f : BitVec 4) (g : BitVec 1) (s : State) : Host.Outcome State Fault Refusal :=
  .next (s.atomic .max true d a f g)

/-- `ATOM.EXCH` (R232, R233). -/
def execAtomExch (d a : BitVec 6) (f : BitVec 4) (g : BitVec 1) (s : State) : Host.Outcome State Fault Refusal :=
  .next (s.atomic .exch true d a f g)

/-- `ATOM.AND` (R232, R233). -/
def execAtomAnd (d a : BitVec 6) (f : BitVec 4) (g : BitVec 1) (s : State) : Host.Outcome State Fault Refusal :=
  .next (s.atomic .and true d a f g)

/-- `ATOM.OR` (R232, R233). -/
def execAtomOr (d a : BitVec 6) (f : BitVec 4) (g : BitVec 1) (s : State) : Host.Outcome State Fault Refusal :=
  .next (s.atomic .or true d a f g)

/-- `ATOM.XOR` (R232, R233). -/
def execAtomXor (d a : BitVec 6) (f : BitVec 4) (g : BitVec 1) (s : State) : Host.Outcome State Fault Refusal :=
  .next (s.atomic .xor true d a f g)

/-- `CAS` (R232, R233): compare value in d, new value in d + 1. -/
def execCas (d a : BitVec 6) (f : BitVec 4) (g : BitVec 1) (s : State) : Host.Outcome State Fault Refusal :=
  .next (s.atomic .cas true d a f g)

/-- `RED` Add (R232, R233). -/
def execRedAdd (d a : BitVec 6) (f : BitVec 4) (g : BitVec 1) (s : State) : Host.Outcome State Fault Refusal :=
  .next (s.atomic .add false d a f g)

/-- `RED` Min (R232, R233). -/
def execRedMin (d a : BitVec 6) (f : BitVec 4) (g : BitVec 1) (s : State) : Host.Outcome State Fault Refusal :=
  .next (s.atomic .min false d a f g)

/-- `RED` Max (R232, R233). -/
def execRedMax (d a : BitVec 6) (f : BitVec 4) (g : BitVec 1) (s : State) : Host.Outcome State Fault Refusal :=
  .next (s.atomic .max false d a f g)

/-- `RED` AddF32 (R232, R233). -/
def execRedAddF32 (d a : BitVec 6) (f : BitVec 4) (g : BitVec 1) (s : State) : Host.Outcome State Fault Refusal :=
  .next (s.atomic .addF32 false d a f g)

end Sys2Proof.Machine
end

