-- ==== Sys2Proof/Machine/Home.lean ====
section
/-! DEFINITION. The steps at the homes (R154 to R160, R175, R221, R230 to R235): drains, reads, atomics, tickets, the Eddy, page walks and
writebacks. A step whose condition does not hold goes back to the agenda. -/

namespace Sys2Proof.Machine

/-! ### Asynchronous traps and ECC errors -/

/-- An asynchronous trap reaches a stream (R307): a live group parks at its next issue; for a steward or a retired group the
record is sent at once with MASK 0. -/
def State.sendAsync (s : State) (r : Ref) (cause code : Nat) (addr : Quad) (pc : Option Word) : State :=
  match s.streamOf r with
  | none => s
  | some t =>
    if r.sid = 0 then s.record r.crew ⟨true, 0, code, cause, pc.getD 0, 0#32, addr, false, false⟩
    else if t.retired || t.gone then s.record r.crew ⟨false, r.sid - 1, code, cause, pc.getD 0, 0#32, addr, false, false⟩
    else s.updStream r (fun t => { t with asyncs := t.asyncs ++ [⟨cause, code, addr, pc, []⟩] })

/-- The 64 bits of a `BERR` register (R352). -/
def Berr.word (e : Berr) : Nat :=
  (if e.uev then 2 ^ 63 else 0) + e.cecnt % 2 ^ 16 * 2 ^ 47 + e.uecnt % 2 ^ 8 * 2 ^ 39 + e.row % 2 ^ 16 * 2 ^ 23 + e.col % 32 * 2 ^ 18 +
    (if e.half then 2 ^ 17 else 0) + e.synd % 2 ^ 16 * 2

/-- Sets `BERR` k (16·slice + bank), which also stands in the slice's register page (R338, R352). -/
def State.setBerr (s : State) (k : Nat) (e : Berr) : State :=
  { s.updDev (fun d => { d with berr := tset Berr.blank d.berr k e }) with
    mem := s.mem.put (regPageHome (k / 16) + 8 * (k % 16)) (leBytes 8 e.word) }

/-- An uncorrectable read of a granule is recorded in `BERR` of its bank (R352, R353). -/
def State.recordUe (s : State) (g : Nat) : State :=
  let o := g % 2 ^ 31
  let k := sliceOf g * 16 + o / 2048 % 16
  let e := tget Berr.blank s.dev.berr k
  let e1 : Berr :=
    if e.uev then { e with uecnt := min 255 (e.uecnt + 1) }
    else { e with
      uev := true
      uecnt := min 255 (e.uecnt + 1)
      row := o / 2048 / 16
      col := o % 2048 / 64
      half := 32 ≤ o % 64
      synd := (Config.syndrome g).toNat % 2 ^ 16 }
  s.setBerr k e1

/-- The code pointer of the word whose result has a number. -/
def State.wordOf (s : State) (r : Ref) (id : Nat) : Option Word :=
  (s.streamOf r).bind (fun t => (t.pend.find? (fun p => p.id == id)).map Pend.pc)

/-- A stream's read met an uncorrectable granule (R353): it is recorded, and `DATA_POISON` reaches the stream with the pointer of
the word that read it. -/
def State.poison (s : State) (r : Ref) (id g code : Nat) (addr : Quad) : State := (s.recordUe g).sendAsync r 0x08 code addr (s.wordOf r id)

/-! ### Drains -/

/-- The writes of a source. -/
def State.sourceWrites (s : State) : WriteSrc → List PWrite
  | .wb r => match s.streamOf r with | some t => t.wb | none => []
  | .rs p o => match (s.part p).syncs.find? (fun x => x.id == o) with | some x => x.rs | none => []

/-- Removes a write from a source. -/
def State.removeWrite (s : State) (src : WriteSrc) (id : Nat) : State :=
  match src with
  | .wb r => s.updStream r (fun t => { t with wb := t.wb.filter (fun w => w.id != id) })
  | .rs p o => s.updPart p (fun q =>
      { q with syncs := updIf (fun x => x.id == o) (fun x => { x with rs := x.rs.filter (fun w => w.id != id) }) q.syncs })

/-- Two writes touch a common byte. -/
def PWrite.meets (v w : PWrite) : Bool := v.touches w.home w.data.length

/-- The bytes a request of a kind reads at the home of a lane (R224, R227, R232, R234). -/
def ReqKind.width : ReqKind → Nat
  | .load b _ _ => b
  | .ldpf => 64
  | .atomic _ b _ => b
  | .tkget => 8
  | .tknext => 8
  | _ => 0

/-- A lane of a request that has not been performed reads, or asks about, bytes from home `h` on (R156): a query those of its region. -/
def State.reqTouches (s : State) (part : Nat) (q : Req) (l : LaneReq) (h n : Nat) : Bool :=
  !l.done &&
  (match q.kind with
    | .succinct _ | .saddr | .bins | .bdel =>
      (match (s.part part).regions.find? (fun g => g.handle == bits l.x 61 52) with
        | some g => (g.vaOf h).isSome
        | none => false)
    | k => l.home < h + n && h < l.home + k.width)

/-- No older request of the lane reads, or asks about, bytes from home `h` on (R156, R158). -/
def State.reqFree (s : State) (part : Nat) (t : Stream) (id lane h n : Nat) : Bool :=
  !t.reqs.any (fun q => q.id < id && q.lanes.any (fun l => l.lane == lane && s.reqTouches part q l h n))

/-- An older request of the write's lane reads, or asks about, bytes that the write touches (R156). -/
def State.askedBefore (s : State) (w : PWrite) : Bool :=
  match s.streamOf w.agent with
  | none => false
  | some t => !s.reqFree w.part t w.id w.lane w.home w.data.length

/-- The writes that come before a write: those of the same release set that entered it earlier, and the older ones of its lane anywhere
(R154, R156); in a stack window, every older write of its lane (R152). -/
def State.writesBefore (s : State) (src : WriteSrc) (w : PWrite) : List PWrite :=
  (match src with
    | .rs _ _ => ((s.sourceWrites src).takeWhile (fun v => v.id != w.id)).filter (fun v => v.meets w)
    | .wb _ => []) ++
  (s.writesOf w.agent w.part).filter (fun v => v.lane == w.lane && v.id < w.id &&
    (v.meets w || (w.space == .stack && v.space == .stack)))

/-- A write may drain as far as order goes: nothing that comes before it is left (R152, R154, R156). -/
def State.drainFree (s : State) (src : WriteSrc) (w : PWrite) : Bool :=
  !s.askedBefore w && (s.writesBefore src w).isEmpty

/-- The use of a word that writes no register ends, its flag counted down (R117, R222). -/
def State.endUse (s : State) (r : Ref) (id : Nat) : State :=
  s.updStream r (fun t => match t.pend.find? (fun p => p.id == id) with
    | some p => t.writeback s.clock p
    | none => t)

/-- The use of a storing word ends once none of its writes is left (R222). -/
def State.endStore (s : State) (w : PWrite) : State :=
  if (s.heldWrites w.agent w.part).any (fun v => v.rid == w.rid) then s else s.endUse w.agent w.rid

/-- A write has reached its home: it leaves its buffer or list, and its word may end. -/
def State.drained (s : State) (src : WriteSrc) (w : PWrite) : State := (s.removeWrite src w.id).endStore w

/-- `WRITE_DRAIN` (R154, R158): the write `a` of `src` reaches its home. It waits for older writes, for the Eddy (R230), for a repack
(R379), for the channel (R346, R347), and for room in a delta log (R371). -/
def execWriteDrain (s : State) : Host.Outcome State Fault Refusal :=
  let e := s.ctx.ev
  .next (match (s.sourceWrites e.src).find? (fun w => w.id == e.a) with
    | none => s
    | some w =>
      if w.eddy.isSome || !s.drainFree e.src w then s.defer .writeDrain
      else match s.putRuns w.part [(w.home, w.data)] with
        | .error x => s.waitFor .writeDrain x
        | .ok s1 => (s1.serveAt w.home).drained e.src w)

/-! ### Reads -/

/-- The bytes one lane reads at a home: memory under the lane's own older writes that have not drained, in order (R156, R158). -/
def State.readOwn (s : State) (r : Ref) (part lane upto h n : Nat) : List Byte :=
  let own := (s.heldWrites r part).filter (fun w => w.lane == lane && w.id < upto && w.touches h n)
  ((sortBy (fun a b => a.id < b.id) own).foldl (fun (m : Memory) w => m.putMasked w.home w.data) s.mem).bytes h n

/-- The register writes of a loaded value (R224). -/
def Stream.loadWrites (t : Stream) (d lane bytes : Nat) (nib sx : Bool) (x : Nat) : List RegWrite :=
  if bytes = 16 then
    (if t.sid = 0 then [.k d (BitVec.ofNat 64 x), .k (d + 1) (BitVec.ofNat 64 (x / 2 ^ 64))]
     else (List.range 4).map (fun i => .v (32 * (d + i) + lane) (BitVec.ofNat 32 (x / 2 ^ (32 * i)))))
  else if bytes = 8 then t.wr 64 d lane (BitVec.ofNat 64 x)
  else
    let n := if nib then 4 else 8 * bytes
    let v : Quad := BitVec.ofInt 64 (lowInt n sx x)
    if t.sid = 0 then [.k d v] else [.v (32 * d + lane) (lo32 v)]

/-- Lanes of a request meet granules with an uncorrectable error in `n` bytes each: every granule is recorded once, and the lowest lane that met
one is kept with its address (R353). -/
def State.meetUe (s : State) (r : Ref) (id : Nat) (lanes : List LaneReq) (n : Nat) : State :=
  let hit := lanes.filter (fun l => s.ueIn l.home n != none)
  match (s.streamOf r).bind (fun t => t.reqs.find? (fun q => q.id == id)) with
  | none => s
  | some q =>
    let new := (hit.flatMap (fun l => s.uesIn l.home n)).eraseDups.filter (fun g => !q.ues.contains g)
    let low (p : Option (Nat × Quad)) (l : LaneReq) : Option (Nat × Quad) := match p with
      | some x => if l.lane < x.1 then some (l.lane, l.ea) else some x
      | none => some (l.lane, l.ea)
    (new.foldl State.recordUe s).updStream r (fun t =>
      { t with reqs := updIf (fun q => q.id == id) (fun q => { q with ues := q.ues ++ new, poison := hit.foldl low q.poison }) t.reqs })

/-- The request is complete: where its lanes met uncorrectable granules, one `DATA_POISON` with CODE 0x10 and the address of the lowest of them
reaches the stream (R353). -/
def State.endPoison (s : State) (r : Ref) (q : Req) : State :=
  match q.poison with
  | some x => s.sendAsync r 0x08 0x10 x.2 (s.wordOf r q.id)
  | none => s

/-- Marks lanes of a request as performed, with their register writes; when none is left, the result arrives. -/
def State.performed (s : State) (r : Ref) (id : Nat) (lanes : List LaneReq) (ws : List RegWrite) : State :=
  let mark : Req → Req := fun q => { q with lanes := q.lanes.map (fun l =>
    if lanes.any (fun m => m.lane == l.lane && m.home == l.home) then { l with done := true } else l) }
  let s1 := s.updStream r (fun t =>
    { t.addWrites id ws with reqs := updIf (fun q => q.id == id) mark t.reqs })
  match (s1.streamOf r).bind (fun t => t.reqs.find? (fun q => q.id == id)) with
  | some q =>
    if q.lanes.all LaneReq.done then
      ((s1.endPoison r q).updStream r (fun t => { t with reqs := t.reqs.filter (fun q => q.id != id) })).arrive r id []
    else s1
  | none => s1

/-- Whether a lane has an older undrained write to bytes of a range. -/
def State.ownWrites (s : State) (r : Ref) (part lane upto h n : Nat) : Bool :=
  (s.writesOf r part).any (fun w => w.lane == lane && w.id < upto && w.touches h n)

/-- Whether a lane has an older write to bytes of a range whose value is not at hand: a run of an `LDPF`, a row of a `DRAIN` (R156, R227,
R299). -/
def State.ownDirect (s : State) (r : Ref) (lane upto h n : Nat) : Bool :=
  (s.directWrites r).any (fun w => w.lane == lane && w.id < upto && w.touches h n)

/-- Whether lanes of a load may be performed now, as far as order goes (R156). -/
def State.loadFree (s : State) (r : Ref) (part : Nat) (t : Stream) (id bytes : Nat) (lanes : List LaneReq) : Bool :=
  lanes.all (fun l => s.reqFree part t id l.lane l.home bytes && !s.ownDirect r l.lane id l.home bytes)

/-- Performs lanes of a load (R225): each reads its own view. -/
def State.loadLanes (s : State) (r : Ref) (part : Nat) (t : Stream) (q : Req) (bytes : Nat) (nib sx : Bool) (lanes : List LaneReq) :
    State :=
  let ws := lanes.flatMap (fun l =>
    let x := leNat (s.readOwn r part l.lane q.id l.home bytes)
    t.loadWrites q.d l.lane bytes nib sx (if nib && l.hi then x / 16 else x))
  (s.meetUe r q.id lanes bytes).performed r q.id lanes ws

/-- A write under way has been made. -/
def Stream.dropDirect (t : Stream) (rid home : Nat) : Stream :=
  { t with direct := t.direct.filter (fun w => !(w.rid == rid && w.home == home)) }

/-- Whether a run of an `LDPF` may be performed now, as far as order goes: its read (R156), and its write (R154, R227). -/
def State.ldpfFree (s : State) (r : Ref) (part : Nat) (t : Stream) (id : Nat) (l : LaneReq) : Bool :=
  let free := fun h => s.reqFree part t id l.lane h 64 && !s.ownWrites r part l.lane id h 64
  free l.home && (match l.dst with | some a => free a | none => true)

/-- One run of an `LDPF` (R227): 64 bytes into the scratchpad slot. -/
def State.ldpfRun (s : State) (r : Ref) (q : Req) (l : LaneReq) : State :=
  let bs := s.mem.bytes l.home 64
  let s1 : State := match l.dst with
    | some a => (s.putHome a bs).updStream r (fun t => t.dropDirect q.id a)
    | none => s
  s1.performed r q.id [l] []

/-- The lanes of a request at a home that have not been performed. -/
def Req.at (q : Req) (h : Nat) : List LaneReq := q.lanes.filter (fun l => l.home == h && !l.done)

/-- The partition of a crew. -/
def State.partOf (s : State) (crew : Nat) : Nat := match s.crewOf crew with | some c => c.part | none => 0

/-- The request a home step names: its stream, itself, and its lanes at the home `b`. -/
def State.reqAt (s : State) : Option (Stream × Req × List LaneReq) :=
  let e := s.ctx.ev
  (s.streamOf e.r).bind (fun t => (t.reqs.find? (fun q => q.id == e.a)).map (fun q => (t, q, q.at e.b)))

/-- A read that followed recomputes met a granule they could not read (R409): `DATA_POISON` with CODE 0x12. -/
def State.poisonDerived (s : State) (r : Ref) (id h : Nat) : State :=
  match s.staleAt h with
  | (p, d, t) :: _ =>
    match ((s.part p).deriveds.find? (fun x => x.id == d)).bind (fun x => s.tileUe p x t) with
    | some g => s.sendAsync r 0x08 0x12 (BitVec.ofNat 64 g) (s.wordOf r id)
    | none => s
  | [] => s

/-- `READ_PERFORM` (R156, R158, R225, R227): the lanes of request `a` at home `b` read. A stale derived tile is recomputed first (R407). -/
def execReadPerform (s : State) : Host.Outcome State Fault Refusal :=
  let e := s.ctx.ev
  let part := s.partOf e.r.crew
  .next (match s.reqAt with
    | none => s
    | some (t, q, ls) =>
      let free := match q.kind with
        | .load bytes _ _ => s.loadFree e.r part t q.id bytes ls
        | _ => ls.all (s.ldpfFree e.r part t q.id)
      if !free then s.defer .readPerform
      else match s.readHold e.b with
        | some x => s.waitFor .readPerform x
        | none =>
          if e.d = 0 && s.staleAt e.b != [] then s.recomputeFirst .readPerform (s.staleAt e.b)
          else
            let s1 := (s.poisonDerived e.r q.id e.b).serveAt e.b
            match q.kind with
            | .load bytes nib sx => s1.loadLanes e.r part t q bytes nib sx ls
            | .ldpf => ls.foldl (fun s2 l => s2.ldpfRun e.r q l) (s1.meetUe e.r q.id ls 64)
            | _ => s)

/-! ### Atomics and tickets -/

/-- One operation of an atomic at width `w` bits (R233). -/
def atomStep (op : AtomOp) (w : Nat) (v x y : Nat) : Nat :=
  match op with
  | .add => (v + x) % 2 ^ w
  | .min => if lowInt w true x < lowInt w true v then x else v
  | .max => if lowInt w true v < lowInt w true x then x else v
  | .exch => x
  | .and => v &&& x
  | .or => v ||| x
  | .xor => v ^^^ x
  | .cas => if v = x then y else v
  | .addF32 => fF32.add .rne v x

/-- The lanes of one address in ascending order (R233): each lane with its old value, and the last value. -/
def atomLanes (f : Nat → LaneReq → Nat) (v : Nat) (ls : List LaneReq) : List (LaneReq × Nat) × Nat :=
  ls.foldl (fun acc l => (acc.1 ++ [(l, acc.2)], f acc.2 l)) ([], v)

/-- Whether lanes of an atomic or ticket operation may be performed (R156): their own older writes and requests there are done. -/
def State.atomFree (s : State) (r : Ref) (part : Nat) (t : Stream) (q : Req) (bytes : Nat) (ls : List LaneReq) : Bool :=
  ls.all (fun l => !s.ownWrites r part l.lane q.id l.home bytes && s.reqFree part t q.id l.lane l.home bytes)

/-- The step of a request's lanes at a word (R233, R234): the word, the value it leaves, and the register writes. -/
def State.wordStep (s : State) (r : Ref) (part : Nat) (q : Req) (h bytes : Nat) (ls : List LaneReq) (x : Nat) (ws : List RegWrite) :
    Except Hold State :=
  match s.putRuns part [(h, (leBytes bytes x).map (fun b => (b, 0xFF#8)))] with
  | .error x => .error x
  | .ok s1 => .ok (((s1.serveAt h).meetUe r q.id ls bytes).performed r q.id ls ws)

/-- The home step of an atomic, a reduction or a `TKGET` at one address (R233, R234). RED.ADD.F32 takes the memory word as the first operand
(log entry 56). -/
def State.atomAt (s : State) (r : Ref) (part : Nat) (t : Stream) (q : Req) (h bytes : Nat) (ls : List LaneReq) : Except Hold State :=
  let v := leNat (s.mem.bytes h bytes)
  let w := 8 * bytes
  let res : List (LaneReq × Nat) × Nat := match q.kind with
    | .atomic op _ _ => atomLanes (fun v l => atomStep op w v (l.x.toNat % 2 ^ w) (l.y.toNat % 2 ^ w)) v ls
    | _ => atomLanes (fun v _ => v / 2 ^ 32 * 2 ^ 32 + (v + 1) % 2 ^ 32) v ls
  let ws : List RegWrite := match q.kind with
    | .atomic _ _ true => res.1.flatMap (fun x => t.wr w q.d x.1.lane (BitVec.ofNat 64 x.2))
    | .atomic _ _ false => []
    | _ => res.1.flatMap (fun x => t.wr 32 q.d x.1.lane (BitVec.ofNat 64 (x.2 % 2 ^ 32)))
  s.wordStep r part q h bytes ls res.2 ws

/-- `ATOMIC_PERFORM` (R233): the lanes of request `a` at home `b`, in ascending order, in one step. -/
def execAtomicPerform (s : State) : Host.Outcome State Fault Refusal :=
  let e := s.ctx.ev
  let part := s.partOf e.r.crew
  .next (match s.reqAt with
    | none => s
    | some (t, q, ls) =>
      let bytes := match q.kind with | .atomic _ b _ => b | _ => 8
      let o := s.orderWord e.b
      let n := match s.crewOf e.r.crew with | some c => c.streamNum e.r.sid | none => 0
      if !s.atomFree e.r part t q bytes ls || s.orderWaits part o n then s.defer .atomicPerform
      else match s.atomAt e.r part t q e.b bytes ls with
        | .error x => s.waitFor .atomicPerform x
        | .ok s1 => s1.orderDone part o n)

/-- Every earlier write of the lanes of a request has drained, captured ones too (R175). -/
def State.allDrained (s : State) (r : Ref) (part upto : Nat) (lanes : List Nat) : Bool :=
  !(s.writesOf r part).any (fun w => w.id < upto && lanes.contains w.lane)

/-- The streams watching a ticket word. -/
def State.watchers (s : State) (h : Nat) : List Ref := ((s.watch.filter (fun w => w.1 == h)).map (fun w => w.2.1)).eraseDups

/-- `TKNEXT_PERFORM` (R175, R234, R235): SERVING advances once for each lane of request `a` at home `b`; the watching streams look
again. -/
def execTknextPerform (s : State) : Host.Outcome State Fault Refusal :=
  let e := s.ctx.ev
  let part := s.partOf e.r.crew
  .next (match s.reqAt with
    | none => s
    | some (t, q, ls) =>
      if !s.atomFree e.r part t q 8 ls || !s.allDrained e.r part q.id (q.lanes.map LaneReq.lane) then
        s.defer .tknextPerform
      else
        let v := leNat (s.mem.bytes e.b 8)
        let res := atomLanes (fun v _ => v % 2 ^ 32 + (v / 2 ^ 32 + 1) % 2 ^ 32 * 2 ^ 32) v ls
        let ws := res.1.flatMap (fun x => t.wr 32 q.d x.1.lane (BitVec.ofNat 64 ((x.2 / 2 ^ 32 + 1) % 2 ^ 32)))
        match s.wordStep e.r part q e.b 8 ls res.2 ws with
        | .error x => s.waitFor .tknextPerform x
        | .ok s1 => s1.pushAll .tkwaitPoll ((s1.watchers e.b).map (fun r => { r := r })))

/-! ### Writebacks, page walks, the Eddy -/

/-- The lanes of a query with no match take `BRACKET` after its writeback (R367): a group in place of its next issue, for a steward or
a group that has exited as a record with MASK 0. -/
def State.sendBracket (s : State) (r : Ref) (p : Pend) : State :=
  match p.bracket, s.streamOf r with
  | (l, pos) :: rest, some t =>
    if r.sid = 0 then s.record r.crew ⟨true, 0, 0, 0x09, p.pc, 0#32, pos, false, false⟩
    else if t.retired || t.gone then s.record r.crew ⟨false, r.sid - 1, 0, 0x09, p.pc, 0#32, pos, false, false⟩
    else s.updStream r (fun t => { t with asyncs := t.asyncs ++ [⟨0x09, 0, pos, some p.pc, (l, pos) :: rest⟩] })
  | _, _ => s

/-- `RESULT_WRITEBACK` (R115, R117): the arrived result `a` writes back and its flag use ends. -/
def execResultWriteback (s : State) : Host.Outcome State Fault Refusal :=
  let e := s.ctx.ev
  .next (match (s.streamOf e.r).bind (fun t => t.pend.find? (fun p => p.id == e.a && p.arrived)) with
    | some p => (s.updStream e.r (fun t => t.writeback s.clock p)).sendBracket e.r p
    | none => s)

/-- Keeps the newest `n` entries of a holder. -/
def tlbTrim (n holder : Nat) (l : List TlbEnt) : List TlbEnt :=
  let k := (l.filter (fun e => e.holder == holder)).length
  if k ≤ n then l else l.eraseP (fun e => e.holder == holder)

/-- `PAGE_WALK_DONE` (R221, R316, R319): the translation of page `c` of partition `b` enters the L1 TLB of core `a` (128 entries), from
the cluster's L2 TLB (4,096 entries) or from a walk, which fills that too. -/
def execPageWalkDone (s : State) : Host.Outcome State Fault Refusal :=
  let e := s.ctx.ev
  let va := e.c * 65536
  let cl := e.a / 12
  .next (if (tlbFind s.tlb1 e.a e.b va).isSome then s
    else
      let found := tlbFind s.tlb2 cl e.b va
      let ent : TlbEnt := match found with
        | some x => { x with holder := e.a }
        | none => match s.walk e.b va with
          | some (leaf, sh) => ⟨e.a, e.b, va / 2 ^ sh * 2 ^ sh, 2 ^ sh, leaf⟩
          | none => ⟨e.a, e.b, va, 65536, 0#64⟩
      { s with
        tlb1 := tlbTrim 128 e.a (s.tlb1 ++ [ent])
        tlb2 := if found.isSome then s.tlb2 else tlbTrim 4096 cl (s.tlb2 ++ [{ ent with holder := cl }]) })

/-- The request and lane of an entry of an Eddy line. -/
def State.eddyLane (s : State) (x : Ref × Nat × Nat) (line : Nat) : Option (Stream × Req × List LaneReq) :=
  (s.streamOf x.1).bind (fun t => (t.reqs.find? (fun q => q.id == x.2.1)).map (fun q =>
    (t, q, q.lanes.filter (fun l => l.lane == x.2.2 && l.home / 64 == line && !l.done))))

/-- The gathers of one line may be performed (R231). -/
def State.eddyReadFree (s : State) (e : EddyLine) : Bool :=
  e.reqs.all (fun x => match s.eddyLane x e.line with
    | some (t, q, ls) => match q.kind with
      | .load bytes _ _ => s.loadFree x.1 e.part t q.id bytes ls
      | _ => true
    | none => true)

/-- One read of a line serves every gather it carries (R231). -/
def State.eddyRead (s : State) (e : EddyLine) : State :=
  e.reqs.foldl (fun s1 x => match s1.eddyLane x e.line with
    | some (t, q, ls) => match q.kind with
      | .load bytes nib sx => (s1.poisonDerived x.1 q.id (64 * e.line)).loadLanes x.1 e.part t q bytes nib sx ls
      | _ => s1
    | none => s1) (s.serveAt (64 * e.line))

/-- The scattered writes of one line, in the order in which they reached the Eddy. -/
def State.eddyWrites (s : State) (e : EddyLine) : List PWrite :=
  e.reqs.filterMap (fun x => (s.heldWrites x.1 e.part).find? (fun w => w.id == x.2.1))

/-- The source that holds a write. -/
def State.whereWrite (s : State) (w : PWrite) : WriteSrc :=
  match (s.part w.part).syncs.find? (fun o => o.rs.any (fun v => v.id == w.id)) with
  | some o => .rs w.part o.id
  | none => .wb w.agent

/-- The merged writes of a line may drain one directly after another: what comes before each of them has drained, but for those merged with
it that go before it (R154, R231). -/
def State.eddyWriteFree (s : State) (ws : List PWrite) : Bool :=
  ws.all (fun w => !s.askedBefore w && (s.writesBefore (s.whereWrite w) w).all (fun v =>
    (ws.takeWhile (fun u => u.id != w.id)).any (fun u => u.id == v.id)))

/-- The merged writes of a line drain, in the order in which they reached the Eddy, with nothing between them (R231). -/
def State.eddyDrain (s : State) (e : EddyLine) (ws : List PWrite) : Except Hold State :=
  match s.putRuns e.part (ws.map (fun w => (w.home, w.data))) with
  | .error x => .error x
  | .ok s1 => .ok (ws.foldl (fun s2 w => s2.drained (s2.whereWrite w) w) (s1.serveAt (64 * e.line)))

/-- `EDDY_WINDOW_EXPIRY` (R230, R231): the line `b` of core `a` is sent, as one read, or (`c` 1) as consecutive drains. -/
def execEddyWindowExpiry (s : State) : Host.Outcome State Fault Refusal :=
  let e := s.ctx.ev
  .next (match s.eddy.find? (fun x => x.core == e.a && x.line == e.b && (x.wr == (e.c == 1))) with
    | none => s
    | some x =>
      let s1 : State := { s with eddy := s.eddy.erase x }
      if s.clock < x.closes then s.defer .eddyWindowExpiry
      else if x.wr then
        if !s.eddyWriteFree (s.eddyWrites x) then s.defer .eddyWindowExpiry
        else match s1.eddyDrain x (s.eddyWrites x) with
          | .error h => s.waitFor .eddyWindowExpiry h
          | .ok s2 => s2
      else if !s.eddyReadFree x then s.defer .eddyWindowExpiry
      else match s.readHold (64 * x.line) with
        | some h => s.waitFor .eddyWindowExpiry h
        | none =>
          if e.d = 0 && s.staleAt (64 * x.line) != [] then s.recomputeFirst .eddyWindowExpiry (s.staleAt (64 * x.line))
          else s1.eddyRead x)

end Sys2Proof.Machine
end

