-- ==== Sys2Proof/Machine/Control.lean ====
section
/-! DEFINITION. Control words (R186 to R189, R206, R211, R212): branches, `JOIN`, `EXIT`, `TRAP`, `BKPT`, `YIELD`, `ERET`,
`NOP` and `IMX`. A branch divides the head entry at its issue (R107). -/

namespace Sys2Proof.Machine

/-- The lanes that take a branch (R81, R107, R186): under cond 0 all, 1 those with `p0`, 2 those without, 3 all when all have
it, 4 all when any has it. A steward reads 3 and 4 as 1. -/
def State.taken (s : State) (c : BitVec 3) : List Nat :=
  let ls := s.headLanes
  let has := ls.filter (fun l => s.me.rdP 0 l)
  match c.toNat with
  | 0 => ls
  | 1 => has
  | 2 => ls.filter (fun l => !s.me.rdP 0 l)
  | 3 => if s.isSteward then has else if has.length = ls.length then ls else []
  | _ => if s.isSteward then has else if has.isEmpty then [] else ls

/-- A branch to given destinations (R106, R107, R185): lanes with an invalid destination are parked with `ACCESS`, `TRAPADDR`
the pointer of the lowest; the other lanes with a destination stand there with its priority, and the rest of the head at the next word.
Each destination is a lane, a pointer, a place, a priority and its validity. -/
def State.branch (s : State) (ds : List (Nat × Word × Pc × Nat × Bool)) : State :=
  let bad := ds.filter (fun d => !d.2.2.2.2)
  let good := ds.filter (fun d => d.2.2.2.2)
  let badMask := maskOf (bad.map (·.1))
  let moved : List Entry := good.map (fun d => ⟨d.2.2.1, d.2.2.2.1, 1#32 <<< d.1, .ready, false⟩)
  let rest : Entry := ⟨s.pc.succ, s.prio0, s.headMask &&& ~~~maskOf (ds.map (·.1)), .ready, false⟩
  let s1 := { s with me := s.me.moveHead s.headMask (s.parkEntry 0x03 badMask s.pc0 :: (moved ++ [rest])) }
  match bad with
  | [] => s1
  | d :: _ => s1.record s.crew.id (s.trapRec 0x03 0 (zext d.2.1) badMask s.pc0)

/-- The destination of `BRA` and `CALL` (R64, R186): slot 0 of a packet relative to the branch's. DESIGN CHOICE: a pointer has 26 bits for its
packet, and `TRAPADDR` shows a packet below 0 or from 2^26 modulo 2^26 (log entry 70). -/
def State.relTarget (s : State) (p : BitVec 4) (o : BitVec 12) (l : Nat) : Nat × Word × Pc × Nat × Bool :=
  let t : Int := s.pc.packet + s.branchOff o
  let c : Pc := ⟨t.toNat, 0⟩
  (l, ptrOf ⟨(t % 2 ^ 26).toNat, 0⟩ p.toNat, c, p.toNat, decide (0 ≤ t) && s.pcValid c)

/-- `BRA` label (R186). -/
def execBra (p : BitVec 4) (c : BitVec 3) (o : BitVec 12) (s : State) : Host.Outcome State Fault Refusal :=
  .next (if c.toNat < 5 then s.branch ((s.taken c).map (s.relTarget p o)) else s.illegal)

/-- `CALL` label (R187): the lanes that go write their link register one cycle after issue. -/
def execCall (p : BitVec 4) (c : BitVec 3) (o : BitVec 12) (s : State) : Host.Outcome State Fault Refusal :=
  .next (if c.toNat < 5 then
      let ds := (s.taken c).map (s.relTarget p o)
      let link := ptrOf s.pc.succ s.prio0
      let s1 := s.post1 1 ((ds.filter (fun d => d.2.2.2.2)).flatMap (fun d => s.me.wr 32 63 d.1 (zext link)))
      s1.branch ds
    else s.illegal)

/-- `BRX` a, N (R188): each lane goes to slot 0 of its own pointer's packet with priority N. -/
def execBrx (p : BitVec 4) (c : BitVec 3) (a : BitVec 6) (s : State) : Host.Outcome State Fault Refusal :=
  .next (if c.toNat < 3 then
      s.branch ((s.taken c).map (fun l =>
        let q := lo32 (s.me.rd 32 a.toNat l)
        (l, q, ptrPc q, p.toNat, (ptrPc q).slot == 0 && s.pcValid (ptrPc q))))
    else s.illegal)

/-- `RET` (R187): each lane goes to the place and priority of its link pointer. -/
def execRet (c : BitVec 3) (s : State) : Host.Outcome State Fault Refusal :=
  .next (if c.toNat < 3 then
      s.branch ((s.taken c).map (fun l =>
        let q := lo32 (s.me.rd 32 63 l)
        (l, q, ptrPc q, ptrPrio q, s.pcValid (ptrPc q))))
    else s.illegal)

/-- Stands lanes in the waiting entry of a `JOIN` (R109): merged with an entry already waiting there, the higher priority kept. -/
def joinAt (c : Pc) (prio : Nat) (m : Word) (l : List Entry) : List Entry :=
  match l.find? (fun e => e.st == .joinWait && e.pc == c) with
  | some x =>
    l.filter (fun e => !(e.st == .joinWait && e.pc == c)) ++ [⟨c, max prio x.prio, x.mask ||| m, .joinWait, false⟩]
  | none => l ++ [⟨c, prio, m, .joinWait, false⟩]

/-- `JOIN` (R109, R189): head lanes outside the expected mask pass; the others wait here. Group only. -/
def execJoin (s : State) : Host.Outcome State Fault Refusal :=
  .next (if s.isSteward then s.illegal
    else
      let inside := s.headMask &&& s.me.expected
      let outside := s.headMask &&& ~~~s.me.expected
      let f := dropHead s.me.frontier s.headMask ++ [⟨s.pc.succ, s.prio0, outside, .ready, false⟩]
      let s1 := { s with me := { s.me with
        frontier := normFrontier (if inside = 0#32 then f else joinAt s.pc s.prio0 inside f) } }
      (s1.push .joinRelease { r := s.self }).push .convergencePark { r := s.self })

/-- `EXIT` (R189): the lanes whose cond holds exit (R127); the others go on. -/
def execExit (c : BitVec 3) (s : State) : Host.Outcome State Fault Refusal :=
  .next (if c.toNat < 3 then
      let m := maskOf (s.taken c)
      let rest : Entry := ⟨s.pc.succ, s.prio0, s.headMask &&& ~~~m, .ready, false⟩
      let s1 := { s with me := s.me.moveHead (s.headMask &&& ~~~m) [rest] }
      if m = 0#32 then s1 else s1.exitLanes s.self m
    else s.illegal)

/-- `IMX` (R78): its number is the literal of the next word of its chain. -/
def execImx (s : State) : Host.Outcome State Fault Refusal :=
  .next { s with ctx := { s.ctx with lit := some s.ctx.imm } }

/-- `NOP` (R206): no effect. -/
def execNop (s : State) : Host.Outcome State Fault Refusal := .next s

/-- `YIELD` (R206): the promotion is lost, and the stream is ineligible for the next 16 cycles. -/
def execYield (s : State) : Host.Outcome State Fault Refusal :=
  .next (({ s with me := { s.me with
      promoted := none
      eligFor := 0
      yieldUntil := s.clock + 17 } }).push .yieldExpiry { r := s.self })

/-- A software trap of the whole head (R211): the lanes stand at the word after it, and the record names the word itself. -/
def State.softTrap (s : State) (cause : Nat) : State :=
  s.trapAt cause (s.ctx.imm.toNat % 256) 0#64 s.headMask s.pc.succ s.pc

/-- `TRAP` x (R211): cause `SOFTWARE`. -/
def execTrap (s : State) : Host.Outcome State Fault Refusal := .next (s.softTrap 0x0E)

/-- `BKPT` x (R211): cause `BREAKPOINT`. -/
def execBkpt (s : State) : Host.Outcome State Fault Refusal := .next (s.softTrap 0x0D)

/-- `ERET` (R212): the steward leaves handler mode, the oldest record's place frees (R308), and it goes on where it stood.
Outside handler mode, and in a group, it raises `ILLEGAL_OP`. -/
def execEret (s : State) : Host.Outcome State Fault Refusal :=
  .next (if !s.isSteward then s.illegal
    else match s.me.handler with
      | none => s.illegal
      | some e =>
        let s1 := { s with me := s.me.leaveHandler e, crew := { s.crew with records := s.crew.records.drop 1 } }
        ((s1.push .trapRecordEnqueue { a := s.crew.id }).push .handlerEntry { a := s.crew.id }).push
          .trapEscalation { a := s.crew.id })

end Sys2Proof.Machine
end

