-- ==== Sys2Proof/Machine/System.lean ====
section
/-! DEFINITION. System words (R207 to R209, R213 to R216): `CLOCK`, `SRD`, `SWR`, `PKEY`, and the steward's group control. -/

namespace Sys2Proof.Machine

/-! ### System registers -/

/-- The `CLOCK` register as the issuing stream reads it (R207): core cycles, or in deterministic mode the words it has issued. -/
def State.clockReg (s : State) : Quad :=
  BitVec.ofNat 64 (if s.myPart.conf.det then s.me.issued else s.clock)

/-- A system register as a lane reads it (R83, R92, R208): its width and value; none where the read is refused. -/
def State.sysRead (s : State) (x lane : Nat) : Option (Nat × Quad) :=
  let n32 : Nat → Option (Nat × Quad) := fun n => some (32, BitVec.ofNat 64 n)
  let grp : Nat → Option (Nat × Quad) := fun n => some (32, if s.isSteward then 0xFFFFFFFF#64 else BitVec.ofNat 64 n)
  let st : Nat → Quad → Option (Nat × Quad) := fun w v => if s.isSteward then some (w, v) else none
  match x with
  | 0x00 => n32 s.crew.taskId
  | 0x01 => n32 s.crew.span
  | 0x02 => n32 s.crew.rank
  | 0x03 => grp (s.me.sid - 1)
  | 0x04 => grp lane
  | 0x05 => grp s.me.stage
  | 0x06 => n32 s.crew.ngroup
  | 0x07 => n32 s.crew.ncrew
  | 0x08 => n32 s.crew.nspan
  | 0x09 => some (64, s.clockReg)
  | 0x0A => some (64, s.me.pkr)
  | 0x0B => st 32 (zext s.me.tvec)
  | 0x0C => st 32 (zext s.me.trapcause)
  | 0x0D => st 32 (zext s.me.trappc)
  | 0x0E => st 32 (zext s.me.trapmask)
  | 0x0F => st 64 s.me.trapaddr
  | 0x10 => n32 s.crew.schedsel
  | 0x11 => some (32, zext s.crew.wtheta)
  | 0x12 => some (32, zext s.crew.wtau)
  | 0x13 => some (32, zext s.crew.wseed)
  | 0x14 => some (64, s.myPart.dkstat)
  | _ => if 0x20 ≤ x ∧ x < 0x30 then some (64, s.crew.largs.getD (x - 0x20) 0#64) else none

/-- `CLOCK` d (R207): the register as read in the issue cycle, in every head lane. -/
def execClock (d : BitVec 6) (s : State) : Host.Outcome State Fault Refusal :=
  .next (if s.evenG d then s.aluWrite 2 64 0#1 d (fun _ => s.clockReg) else s.illegal)

/-- `SRD` d, x (R209): system register x into d in every head lane. -/
def execSrd (d : BitVec 6) (x : BitVec 8) (s : State) : Host.Outcome State Fault Refusal :=
  .next (match s.sysRead x.toNat 0 with
    | none => s.illegal
    | some (w, _) =>
      if s.fieldOk w d then s.aluWrite 2 w 0#1 d (fun l => ((s.sysRead x.toNat l).map Prod.snd).getD 0#64)
      else s.illegal)

/-- `SWR` x, d (R208, R209): a write of `PKR`, or of `TVEC`, `WTHETA`, `WTAU`, `WSEED` by a steward; any other is refused.
Reserved bits of `TVEC` are ignored. -/
def execSwr (d : BitVec 6) (x : BitVec 8) (s : State) : Host.Outcome State Fault Refusal :=
  .next (match x.toNat with
    | 0x0A => if s.evenG d then { s with me := { s.me with pkr := s.uni64 d } } else s.illegal
    | 0x0B => if s.isSteward then { s with me := { s.me with tvec := s.uni32 d &&& 0x83FFFFFF#32 } } else s.illegal
    | 0x11 => if s.isSteward then { s with crew := { s.crew with wtheta := s.uni32 d } } else s.illegal
    | 0x12 => if s.isSteward then { s with crew := { s.crew with wtau := s.uni32 d } } else s.illegal
    | 0x13 => if s.isSteward then { s with crew := { s.crew with wseed := s.uni32 d } } else s.illegal
    | _ => s.illegal)

/-- `PKEY` k, r (R216): the number holds k in bits [6:2] and r in bits [1:0]; r goes to field k of the stream's `PKR`. -/
def execPkey (s : State) : Host.Outcome State Fault Refusal :=
  .next (
    let k := s.ctx.imm.toNat / 4 % 32
    let r : Quad := BitVec.ofNat 64 (s.ctx.imm.toNat % 4)
    { s with me := { s.me with pkr := (s.me.pkr &&& ~~~(3#64 <<< (2 * k))) ||| (r <<< (2 * k)) } })

/-! ### Group control -/

/-- KIND of a selector (R213). -/
def selKind (x : Quad) : Nat := bits x 3 0
/-- GROUP of a selector. -/
def selGroup (x : Quad) : Nat := bits x 7 4
/-- LANE of a selector. -/
def selLane (x : Quad) : Nat := bits x 12 8
/-- INDEX of a selector. -/
def selIndex (x : Quad) : Nat := bits x 18 13
/-- MASK of a selector. -/
def selMask (x : Quad) : Word := hi32 x

/-- A selector of `GRD` or `GWR` that is not refused (R213). -/
def selOk (ngroup : Nat) (wr : Bool) (x : Quad) : Bool :=
  selKind x ≤ 6 && selGroup x < ngroup && bits x 31 19 == 0 && selMask x == 0#32 &&
  (selIndex x == 0 || selKind x == 0) &&
  (selLane x == 0 || selKind x == 0 || selKind x == 1 || selKind x == 2 || selKind x == 4) &&
  !(wr && (selKind x == 4 || selKind x == 6))

/-- A selector of `GRESUME` or `GKILL` that is not refused (R213). -/
def selOkLanes (ngroup : Nat) (x : Quad) : Bool := bits x 31 8 == 0 && selKind x == 0 && selGroup x < ngroup

/-- The entry that holds a lane. -/
def Stream.entryOf (t : Stream) (lane : Nat) : Option Entry := t.frontier.find? (fun e => e.mask.getLsbD lane)

/-- What `GRD` returns (R213). -/
def Stream.groupRead (t : Stream) (x : Quad) : Quad :=
  let l := selLane x
  match selKind x with
  | 0 => zext (t.rdV (selIndex x) l)
  | 1 => BitVec.ofNat 64 ((List.range 8).foldl (fun a i => a + if t.rdP i l then 2 ^ i else 0) 0)
  | 2 => match t.entryOf l with | some e => zext (ptrOf e.pc e.prio) | none => 0xFFFFFFFF#64
  | 3 => zext t.expected
  | 4 => match t.entryOf l with
    | some e => match e.st with
      | .ready | .resuming => 0#64
      | .joinWait => 1#64
      | .parked c => BitVec.ofNat 64 (2 + c % 256 * 256)
    | none => 3#64
  | 5 => BitVec.ofNat 64 (t.level % 4)
  | _ => BitVec.ofNat 64 ((List.range 12).foldl (fun a i => a + if t.cfGet i = 0 then 0 else 2 ^ i) 0)

/-- The stream after `GWR`, and whether the write was allowed (R213, R214). -/
def Stream.groupWrite (t : Stream) (x val : Quad) : Stream × Bool :=
  let l := selLane x
  let parked := match t.entryOf l with | some e => (match e.st with | .parked _ => true | _ => false) | none => false
  let waiting := match t.entryOf l with | some e => e.st == .joinWait | none => false
  match selKind x with
  | 0 => if parked then (t.write (.v (32 * selIndex x + l) (lo32 val)), true) else (t, false)
  | 1 => if parked then (t.writes ((List.range 8).map (fun i => .p (32 * i + l) (qbit val i))), true) else (t, false)
  | 2 =>
    if parked || waiting then
      let cause := match t.entryOf l with | some e => (match e.st with | .parked c => c | _ => 0) | none => 0
      let p := lo32 val
      let e : Entry := ⟨ptrPc p, ptrPrio p, 1#32 <<< l, .parked cause, false⟩
      let rest := t.frontier.map (fun e => { e with mask := e.mask &&& ~~~(1#32 <<< l) })
      ({ t with frontier := normFrontier (rest ++ [e]) }, true)
    else (t, false)
  | 3 => ({ t with expected := lo32 val &&& ~~~t.exited }, true)
  | 5 => ({ t with newLevel := some (bits val 1 0) }, true)
  | _ => (t, false)

/-- Puts a delayed effect on the crew's list, 6 cycles after issue (R214). -/
def State.postLate (s : State) (lat : Nat) (op : LateOp) (x y : Quad) (d : Nat) : State :=
  { s with
    nextId := s.nextId + 1
    crew := { s.crew with late := s.crew.late ++ [⟨s.clock + lat, s.me.sid, op, x, y, d, s.nextId⟩] }
    me := { s.me with pend := s.me.pend ++ [⟨s.nextId, none, false, [], none, s.here, true, [], s.clock⟩] } }

/-- `GRD` d, a (R213, R214): the object the selector names, read 6 cycles after issue. Steward only. -/
def execGrd (d a : BitVec 6) (s : State) : Host.Outcome State Fault Refusal :=
  .next (if s.isSteward && selOk s.crew.ngroup false (s.me.rdK a.toNat) then
      s.postLate 6 .grd (s.me.rdK a.toNat) 0#64 d.toNat
    else s.illegal)

/-- `GWR` d, a (R213, R214): k(a) into the object k(d) selects, 6 cycles after issue. Steward only. -/
def execGwr (d a : BitVec 6) (s : State) : Host.Outcome State Fault Refusal :=
  .next (if s.isSteward && selOk s.crew.ngroup true (s.me.rdK d.toNat) then
      s.postLate 6 .gwr (s.me.rdK d.toNat) (s.me.rdK a.toNat) 0
    else s.illegal)

/-- `GRESUME` a (R215), 6 cycles after issue. Steward only. -/
def execGresume (a : BitVec 6) (s : State) : Host.Outcome State Fault Refusal :=
  .next (if s.isSteward && selOkLanes s.crew.ngroup (s.me.rdK a.toNat) then
      s.postLate 6 .gresume (s.me.rdK a.toNat) 0#64 0
    else s.illegal)

/-- `GKILL` a (R215), 6 cycles after issue. Steward only. -/
def execGkill (a : BitVec 6) (s : State) : Host.Outcome State Fault Refusal :=
  .next (if s.isSteward && selOkLanes s.crew.ngroup (s.me.rdK a.toNat) then
      s.postLate 6 .gkill (s.me.rdK a.toNat) 0#64 0
    else s.illegal)

/-- The result of a delayed word reaches its stream: its writes are done and its result is gone (R115). -/
def State.lateResult (s : State) (r : Ref) (id : Nat) (ws : List RegWrite) : State :=
  s.updStream r (fun t => match t.pend.find? (fun p => p.id == id) with
    | some p => t.writeback s.clock { p with writes := ws }
    | none => t)

/-- The group of a crew that a selector names, if it has not retired. -/
def State.liveGroup (s : State) (crew : Nat) (x : Quad) : Option Stream :=
  (s.streamOf ⟨crew, selGroup x + 1⟩).filter (fun t => !t.retired)

/-- The step of `GRD` (R213, R214). -/
def State.lateGrd (s : State) (crew : Nat) (l : Late) : State :=
  match s.liveGroup crew l.x with
  | some t => s.lateResult ⟨crew, l.sid⟩ l.id [.k l.d (t.groupRead l.x), .p 224 true]
  | none => s.lateResult ⟨crew, l.sid⟩ l.id [.k l.d 0#64, .p 224 false]

/-- The step of `GWR` (R213, R214): a new expected mask is tested at every `JOIN`. -/
def State.lateGwr (s : State) (crew : Nat) (l : Late) : State :=
  match s.liveGroup crew l.x with
  | some t =>
    let g : Ref := ⟨crew, selGroup l.x + 1⟩
    let r := t.groupWrite l.x l.y
    ((s.updStream g (fun _ => r.1)).lateResult ⟨crew, l.sid⟩ l.id [.p 224 r.2]).push .joinRelease { r := g }
  | none => s.lateResult ⟨crew, l.sid⟩ l.id [.p 224 false]

/-- Whether a word is a `JOIN` that issues as one: its fields are those R189 gives, and it ends its chain (R76, R81). -/
def isJoin (w : Word) : Bool := match decodeWord w with | some (h, .join) => !h.c | _ => false

/-- Whether an entry is parked. -/
def Entry.isParked (e : Entry) : Bool := match e.st with | .parked _ => true | _ => false

/-- A parked lane cannot resume at a place outside its stream (R185, R215). -/
def Kernel.badPc (k : Kernel) (c : Pc) : Bool := decide (3 ≤ c.slot) || decide (k.gpkts ≤ c.packet)

/-- The lanes `m` of one parked entry resume (R215): with an invalid PC they stay parked with `ACCESS`; at a `JOIN` those of the expected
mask wait; the others take their turn from the next cycle. -/
def State.resumeEntry (s : State) (k : Kernel) (part : Nat) (m : Word) (t : Stream) (e : Entry) : Stream :=
  let lanes := e.mask &&& m
  let rest := t.frontier.map (fun x => { x with mask := x.mask &&& ~~~lanes })
  if lanes = 0#32 then t
  else if k.badPc e.pc then { t with frontier := normFrontier (rest ++ [⟨e.pc, e.prio, lanes, .parked 0x03, false⟩]) }
  else
    let j := match s.codeWord part k.gcode e.pc with | some w => isJoin w | none => false
    let inside := if j then lanes &&& t.expected else 0#32
    let f := rest ++ [⟨e.pc, e.prio, lanes &&& ~~~inside, .resuming, false⟩]
    { t with frontier := normFrontier (if inside = 0#32 then f else joinAt e.pc e.prio inside f) }

/-- The trap records of lanes that could not resume, one for each lane in ascending order (R215). -/
def Stream.badResumes (t : Stream) (k : Kernel) (m : Word) : List TrapRec :=
  (lanesOf m).filterMap (fun l => (t.frontier.find? (fun e => e.isParked && e.mask.getLsbD l && k.badPc e.pc)).map (fun e =>
    ⟨false, t.sid - 1, 0, 0x03, ptrOf e.pc e.prio, 1#32 <<< l, zext (ptrOf e.pc e.prio), false, false⟩))

/-- The step of `GRESUME` (R215). -/
def State.lateResume (s : State) (crew : Nat) (l : Late) : State :=
  let g : Ref := ⟨crew, selGroup l.x + 1⟩
  let m := selMask l.x
  let s1 := s.lateResult ⟨crew, l.sid⟩ l.id []
  match s1.liveGroup crew l.x, s1.crewOf crew with
  | some t, some c => match s1.taskOf c.task with
    | none => s1
    | some task =>
      let s2 := s1.updStream g (fun _ => (t.frontier.filter Entry.isParked).foldl (s1.resumeEntry task.kernel c.part m) t)
      let s3 := (t.badResumes task.kernel m).foldl (fun s3 rec => s3.record crew rec) s2
      (s3.push .joinRelease { r := g }).push .convergencePark { r := g }
  | _, _ => s1

/-- The step of `GKILL` (R215): the parked lanes of the mask exit. -/
def State.lateKill (s : State) (crew : Nat) (l : Late) : State :=
  let g : Ref := ⟨crew, selGroup l.x + 1⟩
  let s1 := s.lateResult ⟨crew, l.sid⟩ l.id []
  match s1.liveGroup crew l.x with
  | some t =>
    let m := (t.frontier.filter Entry.isParked).foldl (fun a e => a ||| (e.mask &&& selMask l.x)) 0#32
    if m = 0#32 then s1 else s1.exitLanes g m
  | none => s1

end Sys2Proof.Machine
end

