-- ==== Sys2Proof/Machine/Sync.lean ====
section
/-! DEFINITION. Barriers, queues, stream channels, sync objects, fences, triggers and work lists (R101, R102, R124, R161 to R171,
R204, R205, R236 to R248, R252 to R256), with the device steps that complete them. The word forms act once for their stream.
A word that waits (R113) has the effect written here once the condition of its `...Ready` test holds; before that it only enters
its arrival where the spec keeps one, and stays at its place. -/

namespace Sys2Proof.Machine

/-! ### Results of ENG words -/

/-- Posts the result of an ENG word whose values are known: it writes back when it arrives (R115). -/
def State.engResult (s : State) (flag : Option Nat) (ws : List RegWrite) : State :=
  let s1 := s.post none flag ws
  { s1 with me := s1.me.arrive s.nextId }.push .resultWriteback { r := s.self, a := s.nextId }

/-- The write of `kp7` (R115): predicate 7 of the steward. -/
def kp7 (b : Bool) : RegWrite := .p (32 * 7) b

/-- A register value that names an object, 32 bits of a group's lane 0 or 64 of a steward, as 64 bits. -/
def State.uniNat (s : State) (r : BitVec 6) : Quad := s.me.rd (s.width false) r.toNat 0

/-! ### Barriers -/

/-- A barrier of a crew. -/
def Crew.bar (c : Crew) (b : Nat) : Barrier := tget Barrier.blank c.barriers b

/-- Sets a barrier of a crew. -/
def Crew.setBar (c : Crew) (b : Nat) (x : Barrier) : Crew := { c with barriers := tset Barrier.blank c.barriers b x }

/-- The flip test of R168. -/
def Barrier.flip (x : Barrier) : Barrier :=
  if x.expArr ≠ 0 && x.arr == x.expArr && x.expBytes ≤ x.bytes then
    { x with phase := !x.phase, arr := 0, bytes := 0, expBytes := x.reload }
  else x

/-- A count step (R168, R170, R240): arrivals and bytes; `err` sets the error bit with it. The byte count holds at 2^32 - 1 (R275). -/
def Barrier.count (x : Barrier) (arr bytes : Nat) (err : Bool) : Barrier :=
  if x.expArr = 0 || (arr ≠ 0 && x.expArr < x.arr + arr) then { x with err := true }
  else
    let n := min (2 ^ 32 - 1) (x.bytes + bytes)
    Barrier.flip { x with arr := x.arr + arr, bytes := n, err := x.err || err || (bytes ≠ 0 && x.expBytes < n) }

/-- Counts into a barrier of a crew, live or saved (R315); a crew that is gone drops the count. -/
def State.countBar (s : State) (crew b arr bytes : Nat) (err : Bool) : State :=
  s.updCrew crew (fun c => if c.retired then c else c.setBar b ((c.bar b).count arr bytes err))

/-- `BINIT` in effect (R237). -/
def Barrier.init (x : Barrier) (v : Quad) : Barrier :=
  if bits v 11 0 = 0 || bits v 31 12 ≠ 0 then { x with err := true }
  else { x with expArr := bits v 11 0, arr := 0, expBytes := bits v 63 32, bytes := 0, reload := bits v 63 32, err := false }

/-- `BEXPECT` in effect (R237). -/
def Barrier.expect (x : Barrier) (n : Nat) : Barrier :=
  if 2 ^ 32 ≤ x.expBytes + n then { x with expBytes := 2 ^ 32 - 1, err := true } else { x with expBytes := x.expBytes + n }

/-- Puts a delayed effect without a result on the crew's list. -/
def State.later (s : State) (lat : Nat) (op : LateOp) (x y : Quad) : State :=
  { s with crew := { s.crew with late := s.crew.late ++ [⟨s.clock + lat, s.me.sid, op, x, y, 0, 0⟩] } }

/-- `BINIT` b, y (R237), 4 cycles after issue. -/
def execBinit (x y : BitVec 6) (s : State) : Host.Outcome State Fault Refusal :=
  .next (if s.evenG y then s.later 4 .binit (BitVec.ofNat 64 x.toNat) (s.uni64 y) else s.illegal)

/-- `BEXPECT` b, y (R237), 4 cycles after issue. -/
def execBexpect (x y : BitVec 6) (s : State) : Host.Outcome State Fault Refusal :=
  .next (s.later 4 .bexpect (BitVec.ofNat 64 x.toNat) (zext (s.uni32 y)))

/-- The delayed step of `BINIT` and `BEXPECT`. -/
def State.lateBar (s : State) (crew : Nat) (l : Late) : State :=
  s.updCrew crew (fun c =>
    let b := l.x.toNat
    c.setBar b (if l.op = .binit then (c.bar b).init l.y else (c.bar b).expect l.y.toNat))

/-- `BARRIVE` b (R238): the arrival counts once the issuer's earlier scratchpad writes have drained. -/
def execBarrive (x : BitVec 6) (s : State) : Host.Outcome State Fault Refusal :=
  .next (s.push .barriveCount { r := s.self, a := x.toNat, b := s.nextId })

/-- The scratchpad writes of a stream with a number below `upto` that have not drained. -/
def State.scratchWrites (s : State) (r : Ref) (upto : Nat) : List PWrite :=
  match s.streamOf r with
  | some t => (t.wb ++ t.direct).filter (fun w => w.space == .scratch && w.id < upto)
  | none => []

/-- `BARRIVE_COUNT` (R169): barrier `a`, writes below `b`. -/
def execBarriveCount (s : State) : Host.Outcome State Fault Refusal :=
  let e := s.ctx.ev
  .next (if s.scratchWrites e.r e.b = [] then s.countBar e.r.crew e.a 1 0 false else s.defer .barriveCount)

/-- The barrier's phase differs from the issuer's parity (R239). -/
def State.barFlipped (s : State) (b : Nat) : Bool := (s.crew.bar b).phase != qbit s.me.parity b

/-- `BWAIT` b, p (R239): issues once the phase differs from the parity; it toggles the parity and writes the error bit. -/
def execBwait (x : BitVec 6) (z : BitVec 3) (s : State) : Host.Outcome State Fault Refusal :=
  .next (if s.barFlipped x.toNat then
      let t : Stream := { s.me with parity := s.me.parity ^^^ (1#64 <<< x.toNat) }
      { s with me := t.land s.clock s.clock s.ctx.slot (s.wrAllP z.toNat (s.crew.bar x.toNat).err) }
    else s)

/-- `BTEST` b, p (R239): writes whether the phase differs from the parity, 4 cycles after issue. -/
def execBtest (x : BitVec 6) (z : BitVec 3) (s : State) : Host.Outcome State Fault Refusal :=
  .next (s.post1 4 (s.wrAllP z.toNat (s.barFlipped x.toNat)))

/-! ### Scratchpad queues -/

/-- A queue of the issuing crew. -/
def Crew.queue (c : Crew) (q : Nat) : TileQueue := tget TileQueue.blank c.queues q

/-- Sets a queue of a crew. -/
def Crew.setQueue (c : Crew) (q : Nat) (x : TileQueue) : Crew := { c with queues := tset TileQueue.blank c.queues q x }

/-- The stage check of R124 passes. -/
def State.queueStage (s : State) (q : Nat) (push : Bool) : Bool :=
  let x := s.crew.queue q
  !x.decl || s.me.stage == (if push then x.prod else x.cons)

/-- The handle a push reads (R241). -/
def State.handleOf (s : State) (y : BitVec 6) : Nat := (s.uni32 y).toNat

/-- Whether a handle names a tile of the crew (R241). -/
def State.handleOk (s : State) (h : Nat) : Bool := decide (h < s.crew.tiles.length)

/-- A push in effect (R171, R242): the allowance falls, and the handle enters once the writes within its tile have drained. -/
def State.pushHandle (s : State) (q h : Nat) : State :=
  let x := s.crew.queue q
  { s with nextId := s.nextId + 1, crew := s.crew.setQueue q { x with allow := x.allow - 1, inflight := x.inflight + 1 } }.push .qpushPlace
    { r := s.self, a := q, b := h, c := s.nextId, d := s.clock }

/-- A pop in effect (R171, R242). -/
def State.popHandle (s : State) (q : Nat) : State :=
  let x := s.crew.queue q
  { s with crew := s.crew.setQueue q { x with handles := x.handles.drop 1, allow := x.allow + 1 } }

/-- The checks of a push (R124, R241): none when they pass, else the state after the trap. -/
def State.pushTrap (s : State) (q : Nat) (y : BitVec 6) : Option State :=
  if s.isSteward then some s.illegal
  else if !s.queueStage q true then some (s.trapHead 0x0F q 0#64)
  else if !s.handleOk (s.handleOf y) then some (s.trapHead 0x06 0 (BitVec.ofNat 64 (s.handleOf y)))
  else none

/-- The checks of a pop (R124). -/
def State.popTrap (s : State) (q : Nat) : Option State :=
  if s.isSteward then some s.illegal
  else if !s.queueStage q false then some (s.trapHead 0x0F q 0#64)
  else none

/-- `QPUSH` q, y (R242): issues once the allowance is not 0. -/
def execQpush (x y : BitVec 6) (s : State) : Host.Outcome State Fault Refusal :=
  .next (match s.pushTrap x.toNat y with
    | some t => t
    | none => if (s.crew.queue x.toNat).allow = 0 then s else s.pushHandle x.toNat (s.handleOf y))

/-- `QPOP` q, y (R242): issues once a handle is there, which it writes 4 cycles later. -/
def execQpop (x y : BitVec 6) (s : State) : Host.Outcome State Fault Refusal :=
  .next (match s.popTrap x.toNat with
    | some t => t
    | none => match (s.crew.queue x.toNat).handles with
      | [] => s
      | h :: _ => (s.popHandle x.toNat).post1 4 (s.wrAll32 y (BitVec.ofNat 32 h)))

/-- `QTRY.PUSH` q, y, p (R242). -/
def execQtryPush (x y : BitVec 6) (z : BitVec 3) (s : State) : Host.Outcome State Fault Refusal :=
  .next (match s.pushTrap x.toNat y with
    | some t => t
    | none =>
      let ok := (s.crew.queue x.toNat).allow != 0
      (if ok then s.pushHandle x.toNat (s.handleOf y) else s).post1 4 (s.wrAllP z.toNat ok))

/-- `QTRY.POP` q, y, p (R242). -/
def execQtryPop (x y : BitVec 6) (z : BitVec 3) (s : State) : Host.Outcome State Fault Refusal :=
  .next (match s.popTrap x.toNat with
    | some t => t
    | none => match (s.crew.queue x.toNat).handles with
      | [] => s.post1 4 (s.wrAllP z.toNat false)
      | h :: _ => (s.popHandle x.toNat).post1 4 (s.wrAll32 y (BitVec.ofNat 32 h) ++ s.wrAllP z.toNat true))

/-- An earlier step of one name for the same stream and object still waits. -/
def State.earlierStep (s : State) (op : Instr) : Bool :=
  let e := s.ctx.ev
  s.agenda.any (fun x => x.op == op && x.arg.r == e.r && x.arg.a == e.a && x.arg.c < e.c)

/-- `QPUSH_PLACE` (R171): handle `b` enters queue `a` once the pusher's scratchpad writes below `c` to the tile have drained, 4
cycles after the push issued in cycle `d`. -/
def execQpushPlace (s : State) : Host.Outcome State Fault Refusal :=
  let e := s.ctx.ev
  .next (match s.crewOf e.r.crew with
    | none => s
    | some c =>
      let ext : Nat × Nat := match c.tiles[e.b]? with | some t => (c.shareHome + t.offset, t.bytes) | none => (0, 0)
      if s.clock < e.d + 4 || s.earlierStep .qpushPlace ||
          (s.scratchWrites e.r e.c).any (fun w => w.touches ext.1 ext.2) then s.defer .qpushPlace
      else s.updCrew e.r.crew (fun c =>
        let x := c.queue e.a
        c.setQueue e.a { x with handles := x.handles ++ [e.b], inflight := x.inflight - 1 }))

/-! ### Lane-uniform queues and crew flags -/

/-- A queue with nothing in it. -/
def Lq.blank : Lq := ⟨[], 0, []⟩

/-- Lane-uniform queue `n` of a crew. -/
def Crew.lq (c : Crew) (n : Nat) : Lq := tget Lq.blank c.lqs n

/-- The read position of a group in a down channel (R101). -/
def Stream.lqAt (t : Stream) (n : Nat) : Nat := tget 0 t.lqPos n

/-- The live groups of the issuing crew. -/
def State.liveGroups (s : State) : List Stream :=
  (s.streamsOf s.crew).filter (fun t => t.sid != 0 && !t.gone)

/-- Down entries that every non-exited group has read are freed (R101). -/
def Lq.free (q : Lq) (n : Nat) (groups : List Stream) : Lq :=
  let last := q.base + q.down.length
  let k := groups.foldl (fun m t => min m (t.lqAt n)) last
  { q with down := q.down.drop (k - q.base), base := max q.base k }

/-- `LQSEND` may issue (R101): the channel has room. -/
def State.lqsendReady (s : State) (n : Nat) : Bool :=
  let q := (s.crew.lq n).free n s.liveGroups
  if s.isSteward then q.down.length < 8 else q.up.length < 8

/-- The steward's oldest up entry, if it can be read now (R204). -/
def State.lqUp (s : State) (n : Nat) : Option Quad :=
  match (s.crew.lq n).up with
  | (v, t, _) :: _ => if t + 4 ≤ s.clock then some v else none
  | [] => none

/-- The down entry at the group's read position, if it can be read now (R204). -/
def State.lqDown (s : State) (n : Nat) : Option Quad :=
  let q := s.crew.lq n
  match (q.down.drop (s.me.lqAt n - q.base)) with
  | (v, t) :: _ => if t + 4 ≤ s.clock then some v else none
  | [] => none

/-- Sets a lane-uniform queue. -/
def State.setLq (s : State) (n : Nat) (q : Lq) : State :=
  { s with crew := { s.crew with lqs := tset Lq.blank s.crew.lqs n q } }

/-- `LQSEND` lq, y (R101, R204): up entries of one cycle stand in ascending group order. -/
def execLqsend (x y : BitVec 6) (s : State) : Host.Outcome State Fault Refusal :=
  .next (if !s.evenG y then s.illegal
    else if !s.lqsendReady x.toNat then s
    else
      let q := (s.crew.lq x.toNat).free x.toNat s.liveGroups
      if s.isSteward then s.setLq x.toNat { q with down := q.down ++ [(s.uni64 y, s.clock)] }
      else s.setLq x.toNat { q with
        up := insertBy (fun a b => a.2.1 == b.2.1 && a.2.2 < b.2.2) (s.uni64 y, s.clock, s.me.sid) q.up })

/-- `LQRECV` lq, y (R101, R204): the value is written 4 cycles after issue. -/
def execLqrecv (x y : BitVec 6) (s : State) : Host.Outcome State Fault Refusal :=
  .next (if !s.evenG y then s.illegal
    else if s.isSteward then
      match s.lqUp x.toNat with
      | none => s
      | some v =>
        let q := s.crew.lq x.toNat
        (s.setLq x.toNat { q with up := q.up.drop 1 }).post1 4 (s.wrAll y v)
    else match s.lqDown x.toNat with
      | none => s
      | some v =>
        let s1 : State := { s with me := { s.me with lqPos := tset 0 s.me.lqPos x.toNat (s.me.lqAt x.toNat + 1) } }
        (s1.setLq x.toNat ((s1.crew.lq x.toNat).free x.toNat s1.liveGroups)).post1 4 (s.wrAll y v))

/-- Sets a crew flag's state. -/
def State.setFlag (s : State) (n : Nat) (f : Option (Nat × Nat)) : State :=
  { s with crew := { s.crew with flags := tset none s.crew.flags n f } }

/-- `XFSET` xf (R102, R205). -/
def execXfset (x : BitVec 6) (s : State) : Host.Outcome State Fault Refusal :=
  .next (s.setFlag x.toNat (match tget none s.crew.flags x.toNat with
    | none => some (s.clock, s.clock)
    | some (a, _) => some (a, s.clock)))

/-- The flag is set and an `XFWAIT` may see it: 2 cycles after the `XFSET` (R205). -/
def State.flagSeen (s : State) (n : Nat) : Bool :=
  match tget none s.crew.flags n with
  | some (a, _) => a + 2 ≤ s.clock
  | none => false

/-- `XFWAIT` xf (R102, R205): clears the flag, which stays set when an `XFSET` falls in the same cycle. -/
def execXfwait (x : BitVec 6) (s : State) : Host.Outcome State Fault Refusal :=
  .next (match tget none s.crew.flags x.toNat with
    | none => s
    | some (_, b) =>
      if s.flagSeen x.toNat then s.setFlag x.toNat (if b = s.clock then some (b, b) else none) else s)

/-! ### Sync objects -/

/-- A sync ID in a register (R243): the object it names in the partition; none raises `ACCESS`. -/
def State.syncIdOf (s : State) (x : BitVec 6) : Option SyncObj :=
  let v := s.uniNat x
  if v.toNat < 4096 then s.myPart.syncs.find? (fun o => o.id == v.toNat) else none

/-- `ACCESS` for a refused sync ID, `TRAPADDR` the value (R243). -/
def State.syncTrap (s : State) (x : BitVec 6) : State := s.trapHead 0x03 0 (s.uniNat x)

/-- Updates a sync object of a partition. -/
def State.updSync (s : State) (p o : Nat) (f : SyncObj → SyncObj) : State :=
  s.updPart p (fun q => { q with syncs := updIf (fun x => x.id == o) f q.syncs })

/-- The 4 KiB pages of a region word (R244): the first page and their number. -/
def regionWord (v : Quad) : Nat × Nat := (bits v 63 12, bits v 11 0 + 1)

/-- Two runs of pages meet. -/
def pagesMeet (a n b m : Nat) : Bool := a < b + m && b < a + n

/-- A page that is mapped core-accessible (R244, R317). -/
def State.pageCore (s : State) (p page : Nat) : Bool :=
  match s.walk p (page * 4096) with
  | some (e, _) => qbit e 58 && !qbit e 59
  | none => false

/-- `BIND` is refused (R161, R162, R244). -/
def State.bindRefused (s : State) (v : Quad) : Bool :=
  let (a, n) := regionWord v
  bits v 63 57 != 0 || s.myPart.bindings.any (fun b => pagesMeet b.page b.pages a n) ||
  !((List.range n).all (fun i => s.pageCore s.crew.part (a + i))) || 4096 ≤ s.myPart.bindings.length

/-- `BIND` x, y (R161, R244): `kp7` tells whether the region was added. Steward only. -/
def execBind (x y : BitVec 6) (s : State) : Host.Outcome State Fault Refusal :=
  .next (if !s.isSteward then s.illegal
    else match s.syncIdOf x with
      | none => s.syncTrap x
      | some o =>
        let v := s.uni64 y
        if s.bindRefused v then s.engResult none [kp7 false]
        else
          let b : Binding := ⟨o.id, (regionWord v).1, (regionWord v).2, none⟩
          (s.updPart s.crew.part (fun q => { q with bindings := q.bindings ++ [b] })).engResult none [kp7 true])

/-- Byte ranges by virtual address of the bases and the pages of a derived registration (R405). -/
def Derived.ranges (d : Derived) (p : Part) : List (Nat × Nat) :=
  (d.base, 65536 * d.homes.length) ::
    (List.range d.tiles).flatMap (fun t => [d.aRange p t, d.bRange p t])

/-- A region covers a page of a base or of the derived tensor of a registration (R405). -/
def Part.derivedCovers (p : Part) (a n : Nat) : Bool :=
  p.deriveds.any (fun d => (d.ranges p).any (fun r => r.2 != 0 && pagesMeet a n (r.1 / 4096) (divUp (r.1 + r.2) 4096 - r.1 / 4096)))

/-- `UNBIND` y (R162, R244, R405): removes exactly that region; writes captured before stay captured. Steward only. -/
def execUnbind (y : BitVec 6) (s : State) : Host.Outcome State Fault Refusal :=
  .next (if !s.isSteward then s.illegal
    else
      let (a, n) := regionWord (s.uni64 y)
      let is : Binding → Bool := fun b => b.page == a && b.pages == n
      if s.myPart.bindings.any is && !s.myPart.derivedCovers a n then
        (s.updPart s.crew.part (fun q => { q with bindings := q.bindings.filter (fun b => !is b) })).engResult none [kp7 true]
      else s.engResult none [kp7 false])

/-- The stream holds the object. -/
def SyncObj.heldBy (o : SyncObj) (r : Ref) : Bool := o.excl == some r || o.shared.contains r

/-- The waiters that came before a stream: all of them when it does not wait yet. -/
def SyncObj.ahead (o : SyncObj) (r : Ref) : List (Ref × Bool) := o.waiters.takeWhile (fun w => w.1 != r)

/-- O can admit the stream now (R164, R245): its release set is empty, its holders allow it, and it is its turn. -/
def SyncObj.admits (o : SyncObj) (r : Ref) (shared : Bool) : Bool :=
  o.heldBy r ||
  (o.rs.isEmpty && o.excl.isNone &&
    (if shared then !(o.ahead r).any (fun w => !w.2) else o.shared.isEmpty && (o.ahead r).isEmpty))

/-- `ACQ` completes at its issue: it is admissible. -/
def State.acqReady (s : State) (x : BitVec 6) (shared : Bool) : Bool :=
  match s.syncIdOf x with
  | some o => o.heldBy s.self || (o.admits s.self shared && !s.orderWaits s.crew.part (orderSync o.id) (s.crew.streamNum s.me.sid))
  | none => true

/-- `ACQ` x (R164, R245): the stream becomes a holder in the step in which it is admissible; until then it waits in the order of
arrival. -/
def execAcq (x : BitVec 6) (z : BitVec 3) (s : State) : Host.Outcome State Fault Refusal :=
  .next (if 2 ≤ z.toNat then s.illegal
    else match s.syncIdOf x with
      | none => s.syncTrap x
      | some o =>
        let sh := z == 1#3
        if o.heldBy s.self then s
        else if s.acqReady x sh then
          let s1 := s.updSync s.crew.part o.id (fun o =>
            { o with
              excl := if sh then o.excl else some s.self
              shared := if sh then o.shared ++ [s.self] else o.shared
              waiters := o.waiters.filter (fun w => w.1 != s.self) })
          s1.orderDone s.crew.part (orderSync o.id) (s.crew.streamNum s.me.sid)
        else if o.waiters.any (fun w => w.1 == s.self) then s
        else s.updSync s.crew.part o.id (fun o => { o with waiters := o.waiters ++ [(s.self, sh)] }))

/-- A write lies in a page bound to an object (R161 to R163). -/
def Part.boundTo (p : Part) (o : Nat) (w : PWrite) : Bool :=
  (w.space == .global || w.space == .host) &&
    p.bindings.any (fun b => b.sync == o && b.page ≤ w.va / 4096 && w.va / 4096 < b.page + b.pages)

/-- `REL` x (R163, R246): the stream's buffered writes to pages bound to O move into RS(O), and it holds O no more. -/
def execRel (x : BitVec 6) (s : State) : Host.Outcome State Fault Refusal :=
  .next (match s.syncIdOf x with
    | none => s.syncTrap x
    | some o =>
      let cap := s.me.wb.filter (s.myPart.boundTo o.id)
      let s1 := s.updSync s.crew.part o.id (fun o =>
        { o with
          rs := o.rs ++ cap
          excl := if o.excl = some s.self then none else o.excl
          shared := o.shared.filter (· != s.self) })
      let s2 : State := { s1 with me := { s1.me with wb := s1.me.wb.filter (fun w => !cap.any (fun v => v.id == w.id)) } }
      s2.pushAll .writeDrain (cap.map (fun w => { src := .rs s.crew.part o.id, a := w.id })))

/-! ### Fences and triggers -/

/-- A write is in a class that a fence of a scope waits for (R152, R167). -/
def State.fenceCovers (s : State) (c : Crew) (scope : Nat) (w : PWrite) : Bool :=
  match w.space with
  | .stack => false
  | .scratch => 2 ≤ scope || (c.shareHome ≤ w.home && w.home < c.shareHome + c.shareSize)
  | .global => scope == 4 || (scope == 3 && (s.part w.part).bindings.any (fun b =>
      b.page ≤ w.va / 4096 && w.va / 4096 < b.page + b.pages))
  | .host => scope == 4 || (scope == 3 && (s.part w.part).bindings.any (fun b =>
      b.page ≤ w.va / 4096 && w.va / 4096 < b.page + b.pages))

/-- `FENCE` (R167, R247): the stream issues nothing until its writes of the scope, of the active lanes, have drained. -/
def execFence (s : State) : Host.Outcome State Fault Refusal :=
  .next (let z := s.ctx.imm.toNat
    if 4 < z then s.illegal
    else ({ s with me := { s.me with blocked := some (.fence z s.nextId s.headMask), blockAt := some s.waitPlace } }).push
      .fenceComplete { r := s.self })

/-- `FENCE_COMPLETE` (R167). -/
def execFenceComplete (s : State) : Host.Outcome State Fault Refusal :=
  let r := s.ctx.ev.r
  .next (match s.streamOf r, s.crewOf r.crew with
    | some t, some c => match t.blocked with
      | some (.fence z n m) =>
        if (t.wb ++ t.direct).any (fun w => w.id < n && m.getLsbD w.lane && s.fenceCovers c z w) then s.defer .fenceComplete
        else s.updStream r (fun t => { t with blocked := none, blockAt := none })
      | _ => s
    | _, _ => s)

/-- `TRIG` (R178, R248): recorded once the writes of the active lanes have drained. -/
def execTrig (s : State) : Host.Outcome State Fault Refusal :=
  .next (s.push .triggerRecord { r := s.self, q := zext s.headMask, a := s.nextId })

/-- `TRIGGER_RECORD` (R178, R248): the lanes of `q` count as triggered, and dependants of the task may start. -/
def execTriggerRecord (s : State) : Host.Outcome State Fault Refusal :=
  let e := s.ctx.ev
  .next (match s.streamOf e.r, s.crewOf e.r.crew with
    | some _, some c =>
      if !s.allDrained e.r c.part e.a (lanesOf (lo32 e.q)) then s.defer .triggerRecord
      else
        let s1 := s.updStream e.r (fun t => { t with trig := t.trig ||| lo32 e.q })
        s1.pushAll .dependantStart ((s.tasks.filter (fun t => t.waitsFor == some c.task)).map (fun t => { a := t.id }))
    | _, _ => s)

/-! ### Tickets -/

/-- A lane's ticket is served (R234): (SERVING - t) mod 2^32 below 2^31. -/
def served (word t : Nat) : Bool := (word / 2 ^ 32 + 2 ^ 32 - t % 2 ^ 32) % 2 ^ 32 < 2 ^ 31

/-- The ticket words of a `TKWAIT`: lane, home and ticket of each active lane that passes the checks. -/
def State.ticketLanes (s : State) (d a : BitVec 6) (g : BitVec 1) : List (Nat × Nat × Nat) :=
  (s.ticketAccs a g .read).filterMap (fun x => match x.target with
    | .ok _ h _ => some (x.lane, h, (s.me.rd 32 d.toNat x.lane).toNat)
    | .trap _ _ => none)

/-- Every ticket is served at the home of its word, where no write of its lane to the word is still to come (R156, R175). -/
def State.ticketsServed (s : State) (ls : List (Nat × Nat × Nat)) : Bool :=
  ls.all (fun l => (s.homeHold l.2.1).isNone && !s.ownWrites s.self s.crew.part l.1 s.nextId l.2.1 8 &&
    served (leNat (s.mem.bytes l.2.1 8)) l.2.2)

/-- Waiting lanes take the free places of the 256 watchers of their words (R235). -/
def State.takePlaces (s : State) (ls : List (Nat × Nat × Nat)) : State :=
  { s with watch := ls.foldl (fun w l =>
      if 256 ≤ (w.filter (fun x => x.1 == l.2.1)).length || w.contains (l.2.1, s.self, l.1) then w
      else w ++ [(l.2.1, s.self, l.1)]) s.watch }

/-- The head's lanes have been found served, all that stand at the `TKWAIT` now (R234). -/
def Stream.ticketsDone (t : Stream) : Bool := t.tkServed && t.arrived == t.head

/-- `TKWAIT` d, [a+off] (R234, R235): writes nothing and completes once every active lane's ticket has been found served. Until then
its lanes take the free places of the 256 watchers of their words, in order of arrival, and look again. Lanes that fail the checks
park, and the others go on waiting. -/
def execTkwait (d a : BitVec 6) (g : BitVec 1) (s : State) : Host.Outcome State Fault Refusal :=
  .next (if s.evenG a then
      let xs := s.ticketAccs a g .read
      let s1 : State := { s with me := { s.me with tkServed := false } }
      if failures xs = [] && s.me.ticketsDone then { s1 with watch := s.watch.filter (fun w => w.2.1 != s.self) }
      else s.orTrap xs ((s1.takePlaces (s.ticketLanes d a g)).push .tkwaitPoll { r := s.self })
    else s.illegal)

/-- `TKWAIT_POLL` (R235): a stream that stands at a `TKWAIT` looks at its words; one that no longer does gives up its places. -/
def execTkwaitPoll (s : State) : Host.Outcome State Fault Refusal :=
  let r := s.ctx.ev.r
  let s0 := s.focus r
  .next (match (s0.headInstrs s0.crew s0.me).find? (fun i => match i with | .tkwait _ _ _ => true | _ => false) with
    | some (.tkwait d a g) =>
      if s0.self ≠ r then s
      else
        let ls := s0.ticketLanes d a g
        let o := orderTicket (s0.orderWord ((ls.head?.map (fun l => l.2.1)).getD 0))
        if s0.ticketsServed ls && !s0.orderWaits s0.crew.part o (s0.crew.streamNum r.sid) then
          ({ s0 with me := { s0.me with tkServed := true } }).orderDone s0.crew.part o (s0.crew.streamNum r.sid)
        else (s0.takePlaces ls).defer .tkwaitPoll
    | _ => { s with watch := s.watch.filter (fun w => w.2.1 != r) })

/-! ### Work lists -/

/-- NONE and QUIET (R254). -/
def wlNone : Quad := 0xFFFFFFFFFFFFFFFE#64
def wlQuiet : Quad := 0xFFFFFFFFFFFFFFFF#64

/-- The task of the issuing stream. -/
def State.myTask (s : State) : Option Task := s.taskOf s.crew.task

/-- A work list of a task. -/
def Task.list (t : Task) (l : Nat) : List Quad := tget [] t.lists l

/-- One lane of `WLPUSH` (R253): refused lanes are collected. -/
def wlpushLane (t : Task) (item : Quad) : Option Task :=
  if item = wlNone || item = wlQuiet || t.room = 0 || t.quiet then none
  else some { t with room := t.room - 1, inflight := t.inflight + 1 }

/-- `WLPUSH` wl, y (R253): each head lane's item is on its way to the list; refused lanes park with `QUEUE`. -/
def execWlpush (x y : BitVec 6) (s : State) : Host.Outcome State Fault Refusal :=
  .next (if !s.evenG y then s.illegal
    else match s.myTask with
      | none => s
      | some t =>
        let r := s.headLanes.foldl (fun (acc : Task × List EvArg × List (Nat × Nat × Nat × Quad)) l =>
          let item := s.me.rd 64 y.toNat l
          match wlpushLane acc.1 item with
          | some t1 => (t1, acc.2.1 ++ [{ r := s.self, a := x.toNat, b := l, q := item, c := s.nextId + acc.2.1.length }], acc.2.2)
          | none => (acc.1, acc.2.1, acc.2.2 ++ [(l, 0x0F, x.toNat, 0#64)])) (t, [], [])
        if s.allFailed r.2.2 then s.trapFailed r.2.2
        else
          let s1 := { s.updTask t.id (fun _ => r.1) with nextId := s.nextId + r.2.1.length, me := { s.me with participant := true } }
          (s1.pushAll .wlpushEnter r.2.1).trapFailed r.2.2)

/-- `WLPUSH_ENTER` (R252, R253): item `q` of lane `b` enters list `a` once the lane's writes below `c` have drained, after the
stream's earlier items for the list. -/
def execWlpushEnter (s : State) : Host.Outcome State Fault Refusal :=
  let e := s.ctx.ev
  .next (match s.crewOf e.r.crew with
    | none => s
    | some c =>
      if !s.allDrained e.r c.part e.c [e.b] || s.earlierStep .wlpushEnter then s.defer .wlpushEnter
      else s.updTask c.task (fun t =>
        { t with lists := tset [] t.lists e.a (t.list e.a ++ [e.q]), inflight := t.inflight - 1, pushed := t.pushed + 1 }))

/-- `WLPOP` completes at its issue: items are there, or quiescence was reported. -/
def State.wlpopReady (s : State) (l : Nat) : Bool :=
  match s.myTask with
  | some t => t.quiet || (!(t.list l).isEmpty &&
      !s.orderWaits s.crew.part (orderList t.taskId l) (s.crew.streamNum s.me.sid))
  | none => true

/-- `WLPOP` wl, y (R254): the head lanes take items in ascending order; lanes without one get NONE, after quiescence QUIET. A stream
that waits here is a participant of the Slackwater (R255). -/
def execWlpop (x y : BitVec 6) (z : BitVec 4) (s : State) : Host.Outcome State Fault Refusal :=
  .next (if !s.evenG y then s.illegal
    else match s.myTask with
      | none => s
      | some t =>
        let s1 : State := { s with me := { s.me with participant := true } }
        if !s.wlpopReady x.toNat then s1.push .slackwaterReport { a := t.id }
        else
          let items := t.list x.toNat
          let n := min items.length s.headLanes.length
          let ws := (s.headLanes.mapIdx (fun i l =>
            s.me.wr 64 y.toNat l (if t.quiet then wlQuiet else items.getD i wlNone))).flatten
          let s2 := s1.updTask t.id (fun t =>
            { t with lists := tset [] t.lists x.toNat (items.drop n), popped := t.popped + n, room := t.room + n })
          let s3 := if t.quiet then s2 else s2.orderDone s.crew.part (orderList t.taskId x.toNat) (s.crew.streamNum s.me.sid)
          (s3.engResult (flagOf z) ws).push .slackwaterReport { a := t.id })

/-- A stream stands at a `WLPOP` (R113). -/
def State.atWlpop (s : State) (c : Crew) (t : Stream) : Bool :=
  (s.headInstrs c t).any (fun i => match i with | .wlpop _ _ _ => true | _ => false)

/-- The conditions of quiescence (R255); a participant that the debugger has stopped does not count as waiting (R328). -/
def State.quiescent (s : State) (t : Task) : Bool :=
  let ps := ((s.allCrews.filter (fun c => c.task == t.id)).flatMap (fun c => (s.streamsOf c).map (fun x => (c, x)))).filter
    (fun x => x.2.participant && !x.2.gone)
  t.lists == [] && t.inflight == 0 && t.pushed == t.popped && !ps.isEmpty && ps.all (fun x => s.atWlpop x.1 x.2 && !x.2.stopped)

/-- `SLACKWATER_REPORT` (R255): the report is final; with the conditions not met, nothing is reported. -/
def execSlackwaterReport (s : State) : Host.Outcome State Fault Refusal :=
  .next (match s.taskOf s.ctx.ev.a with
    | some t => if s.quiescent t then s.updTask t.id (fun t => { t with quiet := true }) else s
    | none => s)

/-! ### The Beagle -/

/-- The audit of one crew's declared queues (R256): a sum that differs is repaired and `LOST_PERMIT` goes to the steward. -/
def State.auditCrew (s : State) (c : Crew) : State :=
  if c.saved then s
  else c.queues.foldl (fun s1 q =>
    let x := q.2
    if x.decl && x.allow + x.handles.length + x.inflight != x.cap then
      (s1.updCrew c.id (fun c => c.setQueue q.1 { x with allow := x.cap - x.handles.length - x.inflight })).record c.id
        ⟨true, 0, q.1, 0x0B, 0#32, 0#32, 0#64, false, false⟩
    else s1) s

end Sys2Proof.Machine
end

