-- ==== Sys2Proof/Machine/Launch.lean ====
section
/-! DEFINITION. Launches and tasks (R92 to R99, R177 to R180, R249, R250, R333): the kernel image, the checks of a launch, placement,
completion and reports. -/

namespace Sys2Proof.Machine

/-! ### Descriptors in the scratchpad (R249, R263, R270) -/

/-- The generic address of a crew-relative scratchpad offset (R150). -/
def shareEa (off : Nat) : Quad := 0xAF00000000000000#64 + BitVec.ofNat 64 off

/-- The trap of a descriptor of `n` bytes named by a register value: cause and address (log entry 14); `wide` where bits [63:32] must
be 0. -/
def State.descTrap (s : State) (v : Quad) (n align : Nat) (wide : Bool) : Option (Nat × Quad) :=
  let off := bits v 31 0
  if off % align ≠ 0 then some (0x04, shareEa off)
  else if wide && bits v 63 32 ≠ 0 then some (0x03, v)
  else if s.crew.shareSize < off + n then some (0x03, shareEa off)
  else none

/-- The bytes of a descriptor as the issuing stream reads them, after its own earlier writes (R156). -/
def State.descBytes (s : State) (v : Quad) (n : Nat) : List Byte :=
  s.readOwn s.self s.crew.part 0 s.nextId (s.crew.shareHome + bits v 31 0) n

/-! ### Kernel images (R333) -/

/-- The tile a tile word describes, empty (R265). -/
def tileOfWord (w : Quad) : Tile :=
  { tid := bits w 63 52
    tv := qbit w 51
    st := 0
    pin := false
    pitch := bits w 47 40
    bytes := bits w 36 20
    offset := bits w 19 0
    readers := 0 }

/-- BYTES and OFFSET that R265 allows. -/
def tileExtentOk (w : Quad) : Bool :=
  bits w 36 20 % 64 == 0 && 64 ≤ bits w 36 20 && bits w 36 20 ≤ 65536 && bits w 19 0 % 64 == 0

/-- The 64-bit words from a virtual address upward. -/
def State.gwords (s : State) (part va n : Nat) : List Quad :=
  (List.range n).map (fun i => BitVec.ofNat 64 (leNat (s.gbytes part (va + 8 * i) 8)))

/-- A counts value that `BINIT` accepts (R237). -/
def countsOk (v : Quad) : Bool := bits v 11 0 != 0 && bits v 31 12 == 0

/-- A queue word that R333 allows. -/
def queueWordOk (w : Nat) : Bool :=
  w / 2 ^ 22 % 2 ^ 9 == 0 && w / 2 ^ 7 % 2 ^ 9 == 0 && w / 8 % 2 == 0 &&
  (if w / 2 ^ 31 % 2 = 1 then 1 ≤ w / 2 ^ 16 % 64 && w / 2 ^ 16 % 64 ≤ 32 else true)

/-- The schedules of an image. -/
def imageScheds (b : List Byte) : List (List Nat) :=
  (List.range (field b 0x60 1)).map (fun i => (List.range (field b 0x61 1)).map (fun j => field b (0x64 + 12 * i + j) 1))

/-- The kernel image at an address; none when it cannot be read or breaks a limit of R333, but for NTILE above 256, which R93 names. -/
def State.readKernel (s : State) (part kimg : Nat) : Option Kernel :=
  match s.homeOf part kimg with
  | none => none
  | some _ =>
    let b := s.gbytes part kimg 512
    let ns := field b 0x60 1
    let len := field b 0x61 1
    let nt := field b 0x94 4
    let tiles := if nt ≤ 256 then s.gwords part (field b 0x98 8) nt else []
    let bdecl := field b 0xE0 8
    let bars := s.gwords part (field b 0xE8 8) 64
    let qs := (List.range 16).map (fun i => field b (0xA0 + 4 * i) 4)
    let masks := (List.range 7).map (fun i => (field b (0x40 + 2 * i) 2, field b (0x50 + 2 * i) 2))
    let has := field b 0xF8 8 % 2 == 1
    let ok :=
      kimg % 512 == 0 && 1 ≤ field b 0 4 && field b 0 4 ≤ 2 ^ 24 && 1 ≤ field b 4 4 && field b 4 4 ≤ 2 ^ 24 &&
      field b 8 8 % 4096 == 0 && field b 0x10 8 % 4096 == 0 && field b 0x18 4 / 2 ^ 26 % 4 == 0 && zeroAt b 0x1C 4 &&
      (List.range 8).all (fun i => field b (0x20 + 4 * i) 4 / 2 ^ 26 % 2 == 0) &&
      masks.all (fun m => m.1 < 2 ^ 12 && m.2 < 2 ^ 12) && zeroAt b 0x4E 2 && zeroAt b 0x5E 2 &&
      ns ≤ 4 && (if ns = 0 then len == 0 else 1 ≤ len && len ≤ 12) && zeroAt b 0x62 2 &&
      (List.range 4).all (fun i => (List.range 12).all (fun j =>
        if i < ns && j < len then field b (0x64 + 12 * i + j) 1 != 0 else field b (0x64 + 12 * i + j) 1 == 0)) &&
      tiles.all (fun w => tileExtentOk w && bits w 50 48 == 0 && bits w 39 37 == 0) &&
      qs.all queueWordOk &&
      (List.range 64).all (fun i => let v := bars.getD i 0#64
        if bdecl / 2 ^ i % 2 = 1 then countsOk v else v == 0#64) &&
      field b 0xF8 8 / 2 == 0 && zeroAt b 0x100 3 && zeroAt b 0x118 8 && zeroAt b 0x1C0 64
    if ok then
      some
        { spkts := field b 0 4
          gpkts := field b 4 4
          scode := field b 8 8
          gcode := field b 0x10 8
          sentry := BitVec.ofNat 32 (field b 0x18 4)
          stages := (List.range 8).map (fun i => BitVec.ofNat 32 (field b (0x20 + 4 * i) 4))
          swait := masks.map Prod.fst
          gwait := masks.map Prod.snd
          sched := imageScheds b
          ntile := nt
          tiles := tiles
          queues := qs.map (BitVec.ofNat 32)
          bdecl := BitVec.ofNat 64 bdecl
          bars := bars
          ktab := BitVec.ofNat 64 (field b 0xF0 8)
          hasLaunch := has
          lgeom := (b.drop 0x100).take 64
          largs := (List.range 16).map (fun i => BitVec.ofNat 64 (field b (0x140 + 8 * i) 8)) }
    else none

/-! ### Geometry and the checks of a launch (R93) -/

/-- The geometry of a launch (R93). -/
structure Geom where
  spans : Nat
  crews : Nat
  groups : Nat
  scratch : Nat
  stages : List Nat
  deriving DecidableEq, Repr

/-- The geometry in the layout of a `LAUNCH` descriptor (R249). -/
def geomOf (d : List Byte) : Geom :=
  ⟨field d 4 4, field d 8 1, field d 9 1, field d 0xC 4, (List.range 8).map (fun i => field d (0x10 + i) 1)⟩

/-- Every field of a geometry within its range (R249, R331), but for the upper limit of SCRATCH, which is CAUSE 4 (R93). -/
def Geom.inRange (g : Geom) : Bool :=
  1 ≤ g.spans && g.spans ≤ 2 ^ 20 && 1 ≤ g.crews && g.crews ≤ 12 && 1 ≤ g.groups && g.groups ≤ 16 &&
  g.scratch % 4096 == 0 && 4096 ≤ g.scratch

/-- The end of a kernel's highest tile. -/
def Kernel.tileEnd (k : Kernel) : Nat := k.tiles.foldl (fun m w => max m (bits w 19 0 + bits w 36 20)) 0

/-- The cause for which a launch is refused (R93, R250); 0 for none. Field ranges come first. -/
def launchCause (k : Kernel) (g : Geom) : Nat :=
  if !g.inRange then 5
  else if g.stages.foldl (· + ·) 0 ≠ g.groups then 1
  else if (List.range 8).any (fun i => g.stages.getD i 0 != 0 && !(k.stages.getD i 0#32).getLsbD 27) then 2
  else if !k.sched.isEmpty && (k.sched.headD []).length != g.crews then 3
  else if 256 < k.ntile || 2 ^ 20 < g.scratch || g.scratch < k.tileEnd then 4
  else 0

/-! ### Outcomes (R250) -/

/-- Writes bytes of the device to a global address of a partition: package memory, or host memory where the page is host-mapped. -/
def State.devWrite (s : State) (p va : Nat) (bs : List Byte) : State :=
  match s.walk p va with
  | some (leaf, sh) =>
    if bits leaf 61 60 = 1 then s.hostWrite p (leafHome leaf sh va - hostHome 0) bs else s.gput p va bs
  | none => s

/-- What a report of 16 bytes at a global address of a partition waits for (R371, R379); none where there is no report. -/
def State.reportHold (s : State) (p va : Nat) : Option Hold :=
  if va = 0 then none
  else match s.walk p va with
    | some (leaf, sh) =>
      let h := leafHome leaf sh va
      if bits leaf 61 60 = 0 then
        match s.homeHold h with
        | some x => some x
        | none => ([0#8, 0xFF#8].findSome? (fun b => s.logHolds h (List.replicate 16 (b, 0xFF#8)))).map Hold.log
      else none
    | none => none

/-- A step that ends with a report at an address waits until the report can be written. -/
def State.whenReport (s : State) (op : Instr) (p va : Nat) (f : State) : State :=
  match s.reportHold p va with
  | some x => s.waitFor op x
  | none => f

/-- The 16-byte launch report (R250). -/
def State.reportBytes (s : State) (taskId cause status : Nat) : List Byte :=
  [BitVec.ofNat 8 status, BitVec.ofNat 8 cause] ++ leBytes 2 taskId ++ leBytes 4 0 ++ leBytes 8 s.clock

/-- The outcome of a launch (R250, R331): the report, then the count, then the interrupt of the queue's vector. -/
def State.outcome (s : State) (p report : Nat) (barrier : Option (Nat × Nat)) (vec : Option Nat) (taskId cause status : Nat) :
    State :=
  let s1 := if report = 0 then s else s.devWrite p report (s.reportBytes taskId cause status)
  let s2 := match barrier with | some (c, b) => s1.countBar c b 1 0 false | none => s1
  match vec with | some v => s2.irq p v | none => s2

/-- The vector of a task's completion. -/
def Task.vec (t : Task) : Option Nat := if t.irq then t.queue.map (· + 1) else none

/-- Tasks that wait for others look again (R178). -/
def State.askDependants (s : State) : State :=
  s.pushAll .dependantStart ((s.tasks.filter (fun t => t.waitsFor.isSome)).map (fun t => { a := t.id }))

/-- The signals of a partition's queues look again (R331). -/
def State.askSignals (s : State) (p : Nat) : State :=
  s.pushAll .signalApply ((s.part p).queues.flatMap (fun q => q.2.signals.map (fun x => { a := p, b := q.1, c := x.id })))

/-- A task ends with an outcome and is no task any more. -/
def State.endTask (s : State) (t : Task) (cause status : Nat) : State :=
  let s1 : State := { s with tasks := s.tasks.filter (fun x => x.id != t.id) }
  ((s1.outcome t.part t.report.toNat t.barrier t.vec t.taskId cause status).askDependants).askSignals t.part

/-- A number that no live task of a partition has (R92): one of 1 to 65,535, since 0 stands for no task in a report; that 0 is never
given is the model's choice (log entry 15). -/
def State.freeTaskId (s : State) (p : Nat) : Nat :=
  s.freeNumber 1 (2 ^ 16) ((s.tasks.filter (fun t => t.part == p)).map Task.taskId)

/-- A task of a kernel and a geometry that passed the checks. -/
def mkTask (id taskId part : Nat) (k : Kernel) (g : Geom) (args : List Quad) (report : Quad) (barrier : Option (Nat × Nat))
    (queue : Option Nat) (irq : Bool) (waitsFor : Option Nat) : Task where
  id := id
  taskId := taskId
  part := part
  kernel := k
  spans := g.spans
  crews := g.crews
  groups := g.groups
  scratch := g.scratch
  stages := g.stages
  args := args
  report := report
  barrier := barrier
  queue := queue
  irq := irq
  waitsFor := waitsFor
  placed := 0
  retired := 0
  waitSince := none
  blocking := false
  restoring := []
  lists := []
  room := 2 ^ 24
  pushed := 0
  popped := 0
  inflight := 0
  quiet := false
  launch := none

/-- A checked launch starts its task, or is refused with its cause (R93, R250). -/
def State.startTask (s : State) (id part : Nat) (k : Option Kernel) (g : Option Geom) (args : List Quad) (report : Quad)
    (barrier : Option (Nat × Nat)) (queue : Option Nat) (irq : Bool) (waitsFor : Option Nat) : State :=
  let cause := match k, g with | some k, some g => launchCause k g | _, _ => 5
  match k, g with
  | some k, some g =>
    if cause ≠ 0 then s.outcome part report.toNat barrier (if irq then queue.map (· + 1) else none) 0 cause 2
    else
      let t := mkTask id (s.freeTaskId part) part k g args report barrier queue irq waitsFor
      let s1 : State := { s with tasks := s.tasks ++ [t] }
      match waitsFor with
      | some _ => s1.push .dependantStart { a := id }
      | none => s1.push .spanPlace { a := id }
  | _, _ => s.outcome part report.toNat barrier (if irq then queue.map (· + 1) else none) 0 5 2

/-- A `LAUNCH` descriptor whose own fields are in range (R249). -/
def launchDescOk (d : List Byte) : Bool :=
  field d 1 1 < 8 && (field d 2 1 < 64 || field d 2 1 == 0xFF) && zeroAt d 3 1 && zeroAt d 0xA 2 && zeroAt d 0x20 32

/-- A steward's `LAUNCH` performs once the steward's earlier writes have drained (R177, R249): the kernel at KIDX of its own object's
table starts as a task, or is refused. -/
def State.tryLaunch (s : State) (t : Task) : State :=
  match t.launch with
  | none => s
  | some (r, upto, d) =>
    if (s.writesOf r t.part).any (fun w => w.id < upto) then s.push .spanPlace { a := t.id }
    else
      let s0 : State := { s with tasks := s.tasks.filter (fun x => x.id != t.id) }
      let ktab := t.kernel.ktab.toNat
      let idx := field d 0 1
      let k := if idx < leNat (s.gbytes t.part ktab 4) then
          s.readKernel t.part (leNat (s.gbytes t.part (ktab + 8 + 8 * idx) 8)) else none
      let ctrl := field d 1 1
      let g := if !launchDescOk d then none
        else if ctrl % 2 = 1 then some (geomOf d)
        else k.bind (fun k => if k.hasLaunch then some (geomOf k.lgeom) else none)
      let args := if ctrl / 2 % 2 = 1 then (List.range 16).map (fun i => BitVec.ofNat 64 (field d (0x40 + 8 * i) 8))
        else match k with | some k => if k.hasLaunch then k.largs else [] | none => []
      let b := field d 2 1
      s0.startTask t.id t.part k g args (BitVec.ofNat 64 (field d 0x18 8))
        (if b < 64 then some (r.crew, b) else none) none false (if ctrl / 4 % 2 = 1 then t.waitsFor else none)

/-- The trap of a `LAUNCH`: its descriptor, then REPORT as a 16-byte write (R220, R249). -/
def State.launchTrap (s : State) (v : Quad) : Option (Nat × Quad) :=
  match s.descTrap v 192 64 false with
  | some x => some x
  | none =>
    let rep := BitVec.ofNat 64 (field (s.descBytes v 192) 0x18 8)
    if rep = 0#64 then none
    else if qbit rep 63 then some (0x03, rep)
    else match s.resolve 0 rep 16 16 false .write with
      | .ok _ _ _ => none
      | .trap c a => some (c, a)

/-- `LAUNCH` kX (R249): launches a kernel from the 192-byte descriptor. Steward only. The launching task's number stands in the new
task until it performs; it performs later too where its report waits at its home (R371, R379). -/
def execLaunch (x : BitVec 6) (s : State) : Host.Outcome State Fault Refusal :=
  .next (if !s.isSteward then s.illegal
    else
      let v := s.uni64 x
      match s.launchTrap v, s.myTask with
      | some (c, a), _ => s.trapHead c 0 a
      | none, none => s
      | none, some me =>
        let t : Task := { mkTask s.nextId 0 s.crew.part me.kernel (geomOf []) [] 0#64 none none false (some me.id) with
          launch := some (s.self, s.nextId, s.descBytes v 192) }
        let s1 : State := { s with tasks := s.tasks ++ [t], nextId := s.nextId + 1 }
        match s1.reportHold t.part (field (s.descBytes v 192) 0x18 8) with
        | some _ => s1.push .spanPlace { a := t.id }
        | none => s1.tryLaunch t)

/-! ### Clusters and placement (R33, R94 to R97, R320) -/

/-- The cores in service of half `h` of the package's 32 (R320, R33). -/
def State.halfCores (s : State) (h : Nat) : List Nat :=
  (List.range (tget 6 s.dev.halfSize h)).map (fun i => h / 2 * 12 + h % 2 * 6 + i)

/-- The cores of cluster `c` that a partition owns, by cluster rank. -/
def State.clusterCores (s : State) (p c : Nat) : List Nat :=
  let m := (s.part p).conf.clusters
  (if m.getLsbD (2 * c) then s.halfCores (2 * c) else []) ++ (if m.getLsbD (2 * c + 1) then s.halfCores (2 * c + 1) else [])

/-- The pause of the change to full service (R31) goes on: its last step waits on the agenda. -/
def State.pausing (s : State) : Bool := s.agenda.any (fun e => e.op == .fullServiceEntry && e.arg.d == 1)

/-- The launch unit places spans on a cluster at the present service level (R30, R31). -/
def State.clusterServes (s : State) (c : Nat) : Bool :=
  !s.pausing && s.dev.level != 0 && s.dev.level != 4 && (!s.dev.reduced || c == 0 || c == 1 || c == 8 || c == 9)

/-- The crews that occupy a core. -/
def State.crewsOn (s : State) (core : Nat) : List Crew :=
  s.allCrews.filter (fun c => c.core == core && !c.saved && !c.retired)

/-- A crew slot is free on a core, and its scheduler limits allow `groups` more groups there (R94). -/
def slotFits (l : List Crew) (groups slot : Nat) : Bool :=
  l.all (fun c => c.slot != slot) &&
  (List.range 4).all (fun q =>
    let load := (l.map (fun c => ((List.range c.ngroup).filter (fun g => (c.slot + g) % 4 == q)).length)).foldl (· + ·) 0
    load + ((List.range groups).filter (fun g => (slot + g) % 4 == q)).length ≤ 16)

/-- The lowest offset at which a share fits beside others, taken in rising order (log entry 16). -/
def firstFit (size at0 : Nat) : List (Nat × Nat) → Option Nat
  | [] => if at0 + size ≤ 2 ^ 20 then some at0 else none
  | (o, n) :: t => if at0 + size ≤ o then some at0 else firstFit size (max at0 (o + n)) t

/-- The crew slot and the scratchpad offset a crew takes on a core; none when it does not fit (R94, R95). `grant` where the crew
brings the grant of the matrix engine (R314). -/
def State.coreFits (s : State) (core groups scratch tiles : Nat) (grant : Bool) : Option (Nat × Nat) :=
  let l := s.crewsOn core
  let used := (sortBy (fun a b => a.1 < b.1) (l.map (fun c => (c.shareHome - scratchHome core, c.shareSize))))
  if 256 < (l.map (fun c => c.tiles.length)).foldl (· + ·) 0 + tiles || (grant && l.any (fun c => c.matrix.isSome)) then none
  else match (List.range 4).find? (slotFits l groups), firstFit scratch 0 used with
    | some x, some o => some (x, o)
    | _, _ => none

/-- Where the crews of a span go on a cluster: core, slot and scratchpad offset for each rank; none when it does not fit whole. -/
def State.spanFits (s : State) (p c : Nat) (crews groups scratch tiles : Nat) (grants : List Bool) :
    Option (List (Nat × Nat × Nat)) :=
  let cores := s.clusterCores p c
  if !s.clusterServes c || cores.length < crews then none
  else (List.range crews).mapM (fun i =>
    let core := cores.getD i 0
    (s.coreFits core groups scratch tiles (grants.getD i false)).map (fun x => (core, x.1, x.2)))

/-- The first cluster on which a task's next span fits. -/
def State.placeFor (s : State) (t : Task) : Option (List (Nat × Nat × Nat)) :=
  (List.range 16).findSome? (fun c => s.spanFits t.part c t.crews t.groups t.scratch t.kernel.tiles.length [])

/-- The stage of group `g` (R58). -/
def stageOf : List Nat → Nat → Nat → Nat
  | [], _, i => i
  | n :: t, g, i => if g < n then i else stageOf t (g - n) (i + 1)

/-- A steward at placement (R97). -/
def freshSteward (k : Kernel) : Stream :=
  { Stream.blank 0 with
    expected := 1#32
    frontier := [⟨⟨wbits k.sentry 25 0, 0⟩, wbits k.sentry 31 28, 1#32, .ready, false⟩] }

/-- Group `g` at placement (R97). -/
def freshGroup (k : Kernel) (stages : List Nat) (g : Nat) : Stream :=
  let w := k.stages.getD (stageOf stages g 0) 0#32
  { Stream.blank (g + 1) with
    stage := stageOf stages g 0
    frontier := [⟨⟨wbits w 25 0, 0⟩, wbits w 31 28, 0xFFFFFFFF#32, .ready, false⟩] }

/-- The barriers a kernel declares (R56, R333). -/
def declaredBars (k : Kernel) : Table Barrier :=
  ((List.range 64).filter (fun b => qbit k.bdecl b)).map (fun b =>
    let v := k.bars.getD b 0#64
    (b, ⟨bits v 11 0, 0, bits v 63 32, 0, bits v 63 32, false, false⟩))

/-- The queues a kernel declares. -/
def declaredQueues (k : Kernel) : Table TileQueue :=
  ((List.range 16).filter (fun q => (k.queues.getD q 0#32).getLsbD 31)).map (fun q =>
    let w := k.queues.getD q 0#32
    (q, ⟨true, wbits w 2 0, wbits w 6 4, wbits w 21 16, wbits w 21 16, [], 0⟩))

/-- A crew at placement (R97). -/
def freshCrew (t : Task) (id span rank core slot off clock : Nat) : Crew :=
  { Crew.blank with
    id := id
    task := t.id
    taskId := t.taskId
    part := t.part
    span := span
    rank := rank
    ngroup := t.groups
    ncrew := t.crews
    nspan := t.spans
    core := core
    slot := slot
    placedAt := clock
    streams := freshSteward t.kernel :: (List.range t.groups).map (freshGroup t.kernel t.stages)
    largs := t.args
    shareHome := scratchHome core + off
    shareSize := t.scratch
    tiles := t.kernel.tiles.map tileOfWord
    barriers := declaredBars t.kernel
    queues := declaredQueues t.kernel
    phaseStart := clock }

/-- The next span of a task is placed whole (R95, R97). -/
def State.placeSpan (s : State) (t : Task) (l : List (Nat × Nat × Nat)) : State :=
  let cs := l.mapIdx (fun i x => freshCrew t (s.nextId + i) t.placed i x.1 x.2.1 x.2.2 s.clock)
  let s1 : State := { s with crews := s.crews ++ cs, nextId := s.nextId + cs.length }
  s1.updTask t.id (fun t => { t with placed := t.placed + 1, waitSince := none, blocking := false })

/-- In reduced service the partition owns none of the clusters on which spans are placed (R30). -/
def State.unserved (s : State) (p : Nat) : Bool :=
  s.dev.reduced && [0, 1, 8, 9].all (fun c => (s.clusterCores p c).isEmpty)

/-- A span of these crews fits no cluster of its partition, however free (R33); launches of a partition that reduced service does not
serve stay queued (R30). -/
def State.unplaceable (s : State) (t : Task) : Bool :=
  !s.unserved t.part && (List.range 16).all (fun c => (s.clusterCores t.part c).length < t.crews)

/-- The address of a task's report, or of that of a steward's launch which has not performed yet; 0 for none. -/
def Task.reportTo (t : Task) : Nat :=
  match t.launch with
  | some l => field l.2.2 0x18 8
  | none => t.report.toNat

/-- A task whose next span may be placed now. -/
def Task.ready (t : Task) : Bool := t.launch.isNone && t.waitsFor.isNone && t.placed < t.spans

/-- Other tasks go first (R96): one whose span has waited 10 µs, or an older one whose span fits. A task that has waited 10 µs itself
lets only older ones go first that have (log entry 53). -/
def State.othersFirst (s : State) (t : Task) : Bool :=
  s.tasks.any (fun x => x.part == t.part && x.id != t.id &&
    (if t.blocking then x.blocking && x.id < t.id else x.blocking || (x.id < t.id && x.ready && (s.placeFor x).isSome)))

/-- A span of a task waits for room (R96); `restore` names it where it is to be restored (R314). -/
def State.spanWaits (s : State) (t : Task) (restore : Option Nat) : State :=
  let s1 := s.updTask t.id (fun t => { t with
    waitSince := some (t.waitSince.getD s.clock)
    restoring := match restore with | some b => if t.restoring.contains b then t.restoring else t.restoring ++ [b] | none => t.restoring })
  if t.waitSince.isNone then s1.push .placementWaitTimer { a := t.id } else s1

/-- A lower span of the task waits for its restore, and goes first (R96, R314). -/
def Task.restoresBefore (t : Task) (b : Nat) : Bool := t.restoring.any (· < b)

/-- The partition's spans may be placed now. -/
def Part.places (q : Part) : Bool := !q.suspended && !q.halted && !q.resetting

/-- `SPAN_PLACE` (R95, R96): the launch unit places the next span of task `a`, or reports the task unplaceable, or lets it wait. A
steward's launch that waits for drains performs here. -/
def execSpanPlace (s : State) : Host.Outcome State Fault Refusal :=
  .next (match s.taskOf s.ctx.ev.a with
    | none => s
    | some t =>
      if t.launch.isSome then s.whenReport .spanPlace t.part t.reportTo (s.tryLaunch t)
      else if !t.ready then s
      else if s.unplaceable t then s.whenReport .spanPlace t.part t.reportTo (s.endTask t 0 3)
      else if !(s.part t.part).places || s.othersFirst t || t.restoresBefore t.placed then s.defer .spanPlace
      else match s.placeFor t with
        | some l =>
          let s1 := s.placeSpan t l
          if t.placed + 1 < t.spans then s1.push .spanPlace { a := t.id } else s1
        | none => (s.spanWaits t none).defer .spanPlace)

/-- `PLACEMENT_WAIT_TIMER` (R96): a span of task `a` that has waited 36,000 cycles holds the spans of other tasks. -/
def execPlacementWaitTimer (s : State) : Host.Outcome State Fault Refusal :=
  .next (match s.taskOf s.ctx.ev.a with
    | some t => match t.waitSince with
      | some c => if c + 36000 ≤ s.clock then s.updTask t.id (fun t => { t with blocking := true }) else s.defer .placementWaitTimer
      | none => s
    | none => s)

/-! ### Triggers, retirement, completion -/

/-- Every thread and steward of a task has triggered or exited (R178); a retired crew's have. -/
def State.allTriggered (s : State) (t : Task) : Bool :=
  t.placed == t.spans &&
  (s.allCrews.filter (fun c => c.task == t.id)).all (fun c =>
    (s.streamsOf c).all (fun x => x.retired || x.trig &&& x.full == x.full))

/-- `DEPENDANT_START` (R178, R249): task `a` may be placed once its producer has triggered everywhere, or is gone. -/
def execDependantStart (s : State) : Host.Outcome State Fault Refusal :=
  .next (match s.taskOf s.ctx.ev.a with
    | some t => match t.waitsFor with
      | some p =>
        if t.launch.isSome then s
        else if (match s.taskOf p with | some x => s.allTriggered x | none => true) then
          (s.updTask t.id (fun t => { t with waitsFor := none })).push .spanPlace { a := t.id }
        else s
      | none => s
    | none => s)

/-- `GROUP_RETIRE` (R127): a stream whose lanes have all exited retires once no result and no write of it is outstanding. -/
def execGroupRetire (s : State) : Host.Outcome State Fault Refusal :=
  let r := s.ctx.ev.r
  .next (match s.streamOf r with
    | none => s
    | some t =>
      if !t.gone || t.retired then s
      else if t.pend ≠ [] || t.wb ≠ [] || t.direct ≠ [] || t.asyncs ≠ [] then s.defer .groupRetire
      else (s.updStream r (fun t => { t with retired := true, cf := [] })).push .crewRetire { a := r.crew })

/-- Steps on the agenda that still act for a crew's streams. -/
def State.crewSteps (s : State) (id : Nat) : Bool :=
  s.agenda.any (fun e => e.arg.r.crew == id &&
    (e.op == .wlpushEnter || e.op == .triggerRecord || e.op == .barriveCount || e.op == .qpushPlace || e.op == .srepackAccept))

/-- The cluster ranks whose scratchpad shares the address sides of a copy descriptor name (R151, R271). -/
def copyRanks (d : List Byte) : List Nat :=
  let ctl := field d 1 1
  let rank (ea : Nat) : List Nat := if ea / 2 ^ 60 = 0xA then [ea / 2 ^ 56 % 16] else []
  (if ctl / 8 % 2 = 1 && ctl / 64 % 2 = 0 then rank (field d 0x10 8) else []) ++ (if ctl / 16 % 4 = 1 then rank (field d 0x28 8) else [])

/-- A copy command names the share of a crew (R128): the crew issued it, or a crew of the same span did with the crew's rank. -/
def State.copyNames (s : State) (c : Crew) (x : CopyCmd) : Bool :=
  x.crew == c.id || ((copyRanks x.desc).contains c.rank &&
    s.allCrews.any (fun y => y.id == x.crew && y.task == c.task && y.span == c.span))

/-- Commands that name a crew's scratchpad, tiles or barriers and have not ended: copies, bank commands, queries, repacks, sequencer
entries (R128). -/
def State.crewBusy (s : State) (c : Crew) : Bool :=
  s.copies.any (s.copyNames c) || s.banks.any (fun x => x.crew == c.id) || s.queries.any (fun x => x.crew == c.id) ||
  (s.part c.part).regions.any (fun r => r.repacks.any (fun x => x.crew == c.id)) ||
  (match c.matrix with | some m => !m.queue.isEmpty | none => false) ||
  !c.late.isEmpty || !c.records.isEmpty || !c.recWait.isEmpty || s.crewSteps c.id

/-- Removes the retired crews of a span that has retired whole (R128). -/
def State.dropSpan (s : State) (task span : Nat) : State :=
  let l := s.allCrews.filter (fun c => c.task == task && c.span == span)
  if l.all Crew.retired then
    let s1 := s.unfocus
    { s1 with crews := s1.crews.filter (fun c => !(c.task == task && c.span == span)) }
  else s

/-- `CREW_RETIRE` (R128): crew `a` retires once its streams have and its commands have ended; what it held on its core is free. -/
def execCrewRetire (s : State) : Host.Outcome State Fault Refusal :=
  .next (match s.crewOf s.ctx.ev.a with
    | none => s
    | some c =>
      if c.retired || !(s.streamsOf c).all Stream.retired then s
      else if s.crewBusy c then s.defer .crewRetire
      else
        let s1 := s.updCrew c.id (fun c => { c with
          retired := true, shareSize := 0, matrix := none, tiles := [], tags := [], barriers := [], queues := [] })
        let s2 : State := { s1 with watch := s1.watch.filter (fun w => w.2.1.crew != c.id) }
        let s3 := (s2.updTask c.task (fun t => { t with retired := t.retired + 1 })).dropSpan c.task c.span
        (s3.push .taskComplete { a := c.task }).askDependants)

/-- `TASK_COMPLETE` (R128, R180): task `a` completes when every crew of every span has retired; it is reported (R250). -/
def execTaskComplete (s : State) : Host.Outcome State Fault Refusal :=
  .next (match s.taskOf s.ctx.ev.a with
    | some t =>
      if t.launch.isNone && t.placed == t.spans && t.retired == t.spans * t.crews then
        s.whenReport .taskComplete t.part t.reportTo (s.endTask t 0 1)
      else s
    | none => s)

/-! ### Abort (R310) -/

/-- Streams of discarded crews hold and await no sync object any more, and their captured writes are gone (R310, R324, log entry 17). -/
def dropAgents (gone : Ref → Bool) (o : SyncObj) : SyncObj :=
  { o with
    excl := match o.excl with | some r => if gone r then none else some r | none => none
    shared := o.shared.filter (fun r => !gone r)
    waiters := o.waiters.filter (fun w => !gone w.1)
    rs := o.rs.filter (fun w => !gone w.agent) }

/-- Deferred reductions of slices on which no lease is left are applied, in arrival order (R324, R350). -/
def State.freeDeferred (s : State) : State :=
  let free := s.dev.deferred.filter (fun x => !s.banks.any (fun k => k.slice == x.1 && k.lease.isSome))
  (s.updDev (fun d => { d with deferred := d.deferred.filter (fun x => s.banks.any (fun k => k.slice == x.1 && k.lease.isSome)) })).pushAll
    .reduce (free.flatMap (fun x => x.2.map (fun g => { dg := g, d := 1 })))

/-- A query leaves its place at a walker, of 64 (R386, R390). -/
def freePlace (w : Nat) (t : Table Nat) : Table Nat := tset 64 t w (tget 64 t w + 1)

/-- Discards crews (R310, R324): their streams, write buffers, captured writes, commands, watchers and Eddy requests. -/
def State.discardCrews (s : State) (p : Nat) (is : Crew → Bool) : State :=
  let ids := (s.allCrews.filter is).map Crew.id
  let gone : Ref → Bool := fun r => ids.contains r.crew
  let s1 := s.unfocus
  let s2 : State := { s1 with
    crews := s1.crews.filter (fun c => !ids.contains c.id)
    mem := (s1.copies.filter (fun c => ids.contains c.crew)).foldl (fun m c => m.clear (fetchHome c.id 0) (fetchHome (c.id + 1) 0)) s1.mem
    copies := s1.copies.filter (fun c => !ids.contains c.crew)
    banks := s1.banks.filter (fun c => !ids.contains c.crew)
    queries := s1.queries.filter (fun c => !ids.contains c.crew)
    dev := { s1.dev with walkFree :=
      (s1.queries.filter (fun c => ids.contains c.crew)).foldl (fun t c => match c.walker with | some w => freePlace w t | none => t) s1.dev.walkFree }
    watch := s1.watch.filter (fun w => !gone w.2.1)
    eddy := (s1.eddy.map (fun e => { e with reqs := e.reqs.filter (fun x => !gone x.1) })).filter (fun e => !e.reqs.isEmpty) }
  (s2.updPart p (fun q => { q with syncs := q.syncs.map (dropAgents gone) })).freeDeferred

/-- Aborts a task (R310): its crews are discarded, and its launch reports STATUS 4 with the cause. -/
def State.abortTask (s : State) (t : Task) (cause : Nat) : State :=
  (s.discardCrews t.part (fun c => c.task == t.id)).endTask t cause 4

end Sys2Proof.Machine
end

