-- ==== Sys2Proof/Machine/Tiles.lean ====
section
/-! DEFINITION. Tensor IDs and the tile table (R258 to R268). -/

namespace Sys2Proof.Machine

/-! ### Tensor IDs -/

/-- The entry a descriptor makes (R258): VALID set and DERIVED clear. -/
def entryOf (d : List Byte) : List Quad :=
  entWords (setNth (setNth d 2 (d.getD 2 0#8 &&& 0xFB#8)) 3 1#8)

/-- The refusal of R262 for an entry of a partition. -/
def Part.tensorRefuses (p : Part) (id : Nat) (d : List Byte) : Bool := (p.tensor id).derived || tensorRefused d

/-- Writes a tensor entry. -/
def State.setTensor (s : State) (p id : Nat) (e : List Quad) : State :=
  s.updPart p (fun q => { q with tensors := tset [] q.tensors id e })

/-- `TIDSET` kX, kY (R263): entry kX from the descriptor at kY, unless R262 refuses it; `kp7` tells. Steward only. -/
def execTidset (x y : BitVec 6) (s : State) : Host.Outcome State Fault Refusal :=
  .next (if !s.isSteward then s.illegal
    else
      let v := s.uni64 y
      let id := s.uni64 x
      match s.descTrap v 64 64 false with
      | some (c, a) => s.trapHead c 0 a
      | none =>
        if bits id 63 12 ≠ 0 then s.trapHead 0x03 0 id
        else
          let d := s.descBytes v 64
          if s.myPart.tensorRefuses id.toNat d then s.engResult none [kp7 false]
          else (s.setTensor s.crew.part id.toNat (entryOf d)).engResult none [kp7 true])

/-- `TIDGET` d, a, w (R264): word w of an entry into d, 20 cycles after issue. -/
def execTidget (x y : BitVec 6) (z : BitVec 3) (s : State) : Host.Outcome State Fault Refusal :=
  .next (if !s.evenG x then s.illegal
    else
      let v := s.uniNat y
      if bits v 63 12 ≠ 0 then s.trapHead 0x03 0 v
      else s.post1 20 (s.wrAll x ((tget [] s.myPart.tensors v.toNat).getD z.toNat 0#64)))

/-! ### The tile table -/

/-- The tile word of a tile (R265). -/
def Tile.word (t : Tile) : Quad :=
  BitVec.ofNat 64 (t.tid % 2 ^ 12 * 2 ^ 52 + (if t.tv then 2 ^ 51 else 0) + t.st % 4 * 2 ^ 49 + (if t.pin then 2 ^ 48 else 0) +
    t.pitch % 2 ^ 8 * 2 ^ 40 + t.bytes % 2 ^ 17 * 2 ^ 20 + t.offset % 2 ^ 20)

/-- Updates a tile of a crew. -/
def Crew.updTile (c : Crew) (i : Nat) (f : Tile → Tile) : Crew :=
  match c.tiles[i]? with
  | some t => { c with tiles := setNth c.tiles i (f t) }
  | none => c

/-- The source tile a copy descriptor names. -/
def copySrcTile (d : List Byte) : Option Nat :=
  if field d 1 1 / 8 % 2 = 1 && field d 1 1 / 64 % 2 = 1 then some (field d 0x10 8) else none

/-- The destination tile a copy descriptor names. -/
def copyDstTile (d : List Byte) : Option Nat := if field d 1 1 / 16 % 4 = 2 then some (field d 0x28 8) else none

/-- The tile a sequencer entry names. -/
def SeqEntry.tile (e : SeqEntry) : Option Nat :=
  match e.kind with
  | .ldstat | .mma _ _ _ _ | .drain _ _ => some (bits e.x 7 0)
  | _ => none

/-- A queue holds the tile's handle, or an accepted copy or matrix instruction names it (R267). -/
def State.tileUsed (s : State) (c : Crew) (i : Nat) : Bool :=
  c.queues.any (fun q => q.2.handles.contains i) ||
  s.copies.any (fun x => x.crew == c.id && x.st != .issued && (copySrcTile x.desc == some i || copyDstTile x.desc == some i)) ||
  (match c.matrix with | some m => m.queue.any (fun e => e.tile == some i) | none => false)

/-- `TLSET` refuses (R267). -/
def State.tlsetRefuses (s : State) (i : Nat) (t : Tile) (w : Quad) : Bool :=
  t.st == 1 || t.st == 3 || t.pin || s.tileUsed s.crew i || !tileExtentOk w ||
  s.crew.shareSize < bits w 19 0 + bits w 36 20 || bits w 38 37 != 0

/-- `TLSET` kT, kW (R267): the tile takes the word's fields, ready or empty by MKRDY; `kp7` tells, 8 cycles after issue. Steward
only. -/
def execTlset (x y : BitVec 6) (s : State) : Host.Outcome State Fault Refusal :=
  .next (if !s.isSteward then s.illegal
    else
      let i := s.uni64 x
      let w := s.uni64 y
      match (if bits i 63 8 ≠ 0 then none else s.crew.tiles[i.toNat]?) with
      | none => s.trapHead 0x06 0 i
      | some t =>
        if s.tlsetRefuses i.toNat t w then s.post1 8 [kp7 false]
        else
          let t1 : Tile := { tileOfWord w with st := if qbit w 39 then 2 else 0 }
          { s with crew := s.crew.updTile i.toNat (fun _ => t1) }.post1 8 [kp7 true])

/-- `TLSTATE` d, t (R268): the tile word as it stands at issue, 8 cycles later. -/
def execTlstate (x y : BitVec 6) (s : State) : Host.Outcome State Fault Refusal :=
  .next (if !s.evenG x then s.illegal
    else
      let i := (s.uni32 y).toNat % 256
      match s.crew.tiles[i]? with
      | none => s.trapHead 0x06 0 (BitVec.ofNat 64 i)
      | some t => s.post1 8 (s.wrAll x t.word))

/-- A stream's writes with a number below `upto` to ranges of bytes have drained: virtual addresses, or offsets in a crew's share. -/
def State.rangeDrained (s : State) (r : Ref) (part upto : Nat) (scr : Option Nat) (runs : List (Nat × Nat)) : Bool :=
  !(s.writesOf r part).any (fun w => w.id < upto && runs.any (fun x =>
    match scr with
    | none => (w.space == .global || w.space == .host) && w.va < x.1 + x.2 && x.1 < w.va + w.data.length
    | some id => match s.crewOf id with
      | some c => w.touches (c.shareHome + x.1) x.2
      | none => false))

/-- A tile a reader may use now (R266). -/
def Tile.readable (t : Tile) : Bool := t.st == 2 || t.st == 3

/-- A tile a writer may use now (R266). -/
def Tile.writable (t : Tile) : Bool := t.st == 0 || (t.st == 2 && !t.pin && t.readers == 0)

/-- A transfer out of a tile starts (R173); a pinned tile stays ready (R293). -/
def Tile.startRead (t : Tile) : Tile := { t with st := if t.pin then t.st else 3, readers := t.readers + 1 }

/-- A transfer out of a tile has moved its last run, or ended (R173). -/
def Tile.endRead (t : Tile) : Tile :=
  { t with readers := t.readers - 1, st := if t.readers ≤ 1 && t.st == 3 then 2 else t.st }

end Sys2Proof.Machine
end

