-- ==== Sys2Proof/Machine/Bank.lean ====
section
/-! DEFINITION. Bank commands (R14, R146, R147, R336 to R357): issue, acceptance, steps, results, the count step, inspection and
cancelling; the power governor and `BERR`. A step reads its rows and writes its results when it begins; its rows stay leased
until it ends (log entry 12). -/

namespace Sys2Proof.Machine

/-! ### Descriptors (R340) -/

/-- MODE: 0 row-dot, 1 row-weighted accumulate, 2 and 3 refused. -/
def BankCmd.mode (k : BankCmd) : Nat := field k.desc 0 1 % 4
/-- MODE.ELIDED. -/
def BankCmd.elided (k : BankCmd) : Bool := field k.desc 0 1 / 4 % 2 == 1
def BankCmd.barrier (k : BankCmd) : Nat := field k.desc 2 1
def BankCmd.notify (k : BankCmd) : Nat := field k.desc 3 1
def BankCmd.tid (k : BankCmd) : Nat := field k.desc 4 2
def BankCmd.btile (k : BankCmd) : Nat := field k.desc 6 1
def BankCmd.row0 (k : BankCmd) : Nat := field k.desc 8 4
def BankCmd.rows (k : BankCmd) : Nat := field k.desc 0xC 2
def BankCmd.elems (k : BankCmd) : Nat := field k.desc 0xE 2
def BankCmd.rstride (k : BankCmd) : Nat := field k.desc 0x10 4
def BankCmd.rwin (k : BankCmd) : Nat := field k.desc 0x18 8

/-- The weight tensor. -/
def BankCmd.tensor (k : BankCmd) : Tensor := tensorOfBytes (entBytes k.ent)

/-- The ordinal of row i (R340). -/
def BankCmd.rowOrd (k : BankCmd) (i : Nat) : Nat := k.row0 + i * k.rstride

/-- The virtual address at which row i begins. -/
def BankCmd.rowAt (k : BankCmd) (i : Nat) : Nat :=
  let x := k.tensor.rowIdx (k.rowOrd i)
  k.tensor.rowBit x.1 x.2.1 x.2.2 / 8

/-- The bytes read of a row (R342): for BPN the first p planes of its block. -/
def BankCmd.rowBytes (k : BankCmd) : Nat :=
  if k.elided then slotSize k.tensor.esize * (k.elems / 64)
  else if isBpn k.tensor.fmt then bpnDepth k.tensor.fmt * (k.tensor.extent 3 / 8)
  else k.tensor.esize * k.elems

/-- The columns a row is metered at (R342). -/
def BankCmd.columns (k : BankCmd) : Nat :=
  if isBpn k.tensor.fmt then divUp (bpnDepth k.tensor.fmt * k.elems) 512 else divUp k.rowBytes 64

/-- The elements a row may hold (R342). -/
def BankCmd.capacity (k : BankCmd) : Nat :=
  if k.elided then 64 * (2048 / slotSize k.tensor.esize)
  else if k.tensor.fmt = 1 || k.tensor.fmt = 2 then 1024 else 2048

/-- ELEMS suits the weight kind (R342). -/
def BankCmd.elemsOk (k : BankCmd) : Bool :=
  k.elems ≤ k.tensor.extent 3 && k.elems ≤ k.capacity && (!k.elided || k.elems % 64 == 0) && (!isBpn k.tensor.fmt || k.elems % 8 == 0)

/-- The format of the broadcast elements (R343). -/
def BankCmd.xfmt (k : BankCmd) : Nat :=
  match k.tensor.fmt with | 1 => 1 | 2 => 2 | 3 => 1 | 4 => 1 | _ => 10

/-- The bytes of the broadcast vector. -/
def BankCmd.xBytes (k : BankCmd) : Nat := fmtBits k.xfmt / 8 * (if k.mode = 0 then k.elems else k.rows)

/-- The declared count (R345). -/
def BankCmd.declared (k : BankCmd) : Nat :=
  match k.mode with | 0 => 64 + 4 * k.rows | 1 => 64 + 64 * k.elems | _ => Config.bankCount k.rows k.elems

/-- The bytes of the result region (R344). -/
def BankCmd.regionBytes (k : BankCmd) : Nat := if k.mode = 0 then 64 + 4 * k.rows else 64 + 64 * k.elems

/-- Integer weights, whose sums are exact integers (R147). -/
def BankCmd.isInt (k : BankCmd) : Bool := k.tensor.fmt == 10 || isBpn k.tensor.fmt

/-! ### Issue (R339) -/

/-- The home of a virtual address in package memory whose leaf allows a read by key rights and R. -/
def State.rowHome (s : State) (part va : Nat) (pkr : Quad) (mig : Bool) : Option Nat :=
  match s.walk part va with
  | some (leaf, sh) =>
    if bits leaf 61 60 = 0 && qbit leaf 56 && !(mig && qbit leaf 59) && !pkrRefuses pkr leaf false then some (leafHome leaf sh va)
    else none
  | none => none

/-- RWIN's placement (R344): a multiple of 64, every page of the region in the result window of one slice, that of row ROW0. -/
def State.rwinOk (s : State) (k : BankCmd) : Bool :=
  let slice := (s.homeOf k.part (k.rowAt 0)).map sliceOf
  k.rwin % 64 == 0 && k.rwin < 2 ^ 57 &&
  (List.range (divUp (k.rwin % 65536 + k.regionBytes) 65536)).all (fun i =>
    match s.homeOf k.part ((k.rwin / 65536 + i) * 65536) with
    | some h => 2 ^ 46 ≤ h && h < 2 ^ 46 + 2 ^ 44 && (match slice with | some x => sliceOf h == x | none => true) &&
        (match s.homeOf k.part (k.rwin / 65536 * 65536) with | some h0 => sliceOf h == sliceOf h0 | none => false)
    | none => false)

/-- A slot of the crew that is queued, running or suspended. -/
def BankSlot.busy (x : BankSlot) : Bool := x.st == 1 || x.st == 2 || x.st == 3

/-- A slot that was never used (R355). -/
def BankSlot.blank : BankSlot := ⟨0, 0, 0, 0⟩

/-- Sets a command slot of a crew. -/
def State.setSlot (s : State) (crew slot : Nat) (x : BankSlot) : State :=
  s.updCrew crew (fun c => { c with bankSlots := tset BankSlot.blank c.bankSlots slot x })

/-- The trap of a `BKCMD` (R339). -/
def State.bkcmdTrap (s : State) (v : Quad) (k : BankCmd) : Option (Nat × Quad) :=
  if !k.tensor.valid || k.tensor.derived || k.tensor.rows ≤ k.row0 then some (0x03, v)
  else if !s.rwinOk k then some (0x03, BitVec.ofNat 64 k.rwin)
  else if (s.rowHome k.part (k.rowAt 0) k.pkr false).isNone then some (0x03, BitVec.ofNat 64 (k.rowAt 0 / 65536 * 65536))
  else none

/-- `BKCMD` kX (R29, R339): a command from the 32-byte descriptor takes its slot and goes to its slice; `kp7` tells. Steward only. -/
def execBkcmd (x : BitVec 6) (s : State) : Host.Outcome State Fault Refusal :=
  .next (if !s.isSteward then s.illegal
    else if s.dev.reduced then s.trapHead 0x0C 0 0#64
    else
      let v := s.uni64 x
      match s.descTrap v 32 32 true with
      | some (c, a) => s.trapHead c 0 a
      | none =>
        let d := s.descBytes v 32
        let k : BankCmd :=
          { id := s.nextId, part := s.crew.part, crew := s.crew.id, slot := field d 1 1 % 16, desc := d, pkr := s.me.pkr, upto := s.nextId,
            pc := s.here, slice := 0, ent := tget [] s.myPart.tensors (field d 4 2 % 4096), accepted := false, sending := false,
            ready := false, running := false, suspended := false, cancelled := false, ended := false, step := 0, lease := none,
            handover := 0, served := 0, x := [], read := [], bad := [], code := 0, cause := 0, first := 2 ^ 32 - 1, npois := 0 }
        match s.bkcmdTrap v k with
        | some (c, a) => s.trapHead c 0 a
        | none =>
          if (tget BankSlot.blank s.crew.bankSlots k.slot).busy then s.engResult none [kp7 false]
          else
            let k1 := { k with slice := match s.homeOf k.part (k.rowAt 0) with | some h => sliceOf h | none => 0 }
            let s1 : State := { s with banks := s.banks ++ [k1], nextId := s.nextId + 1 }
            ((s1.setSlot s.crew.id k.slot ⟨0, 0, 0, 1⟩).push .bankAccept { a := k.id }).engResult none [kp7 true])

/-! ### Acceptance (R341) -/

/-- A command. -/
def State.bankOf (s : State) (id : Nat) : Option BankCmd := s.banks.find? (fun k => k.id == id)

/-- Updates a command. -/
def State.updBank (s : State) (id : Nat) (f : BankCmd → BankCmd) : State :=
  { s with banks := updIf (fun k => k.id == id) f s.banks }

/-- The bank of a home (R337). -/
def bankOfHome (h : Nat) : Nat := h / 2048 % 16

/-- Check 1 of R341. -/
def bankDescOk (c : Crew) (k : BankCmd) : Bool :=
  let d := k.desc
  field d 0 1 / 8 == 0 && field d 1 1 < 16 && field d 4 2 < 4096 && zeroAt d 7 1 && zeroAt d 0x14 4 && k.mode < 2 &&
  1 ≤ k.rows && k.rows ≤ 4096 && 1 ≤ k.elems && k.elems ≤ 2048 && 1 ≤ k.rstride && k.rstride ≤ 2 ^ 24 &&
  k.tensor.valid && !k.tensor.derived && k.rowOrd (k.rows - 1) < k.tensor.rows && k.elemsOk &&
  (k.notify == 0xFF || k.notify < c.ngroup) && (k.barrier == 0xFF || k.barrier < 64) &&
  (match c.tiles[k.btile]? with | some t => k.xBytes ≤ t.bytes | none => false)

/-- Check 2 of R341, with R354. -/
def bankFmtOk (k : BankCmd) : Bool :=
  let t := k.tensor
  t.place == 2 && (t.fmt == 1 || t.fmt == 2 || t.fmt == 3 || t.fmt == 4 || t.fmt == 10 || isBpn t.fmt) && t.comp == k.elided

/-- The bytes of row i and of its block scales. -/
def BankCmd.rowRanges (k : BankCmd) (i : Nat) : List (Nat × Nat) :=
  (k.rowAt i, k.rowBytes) ::
    (if k.tensor.scl && (k.tensor.fmt == 3 || k.tensor.fmt == 4) then [(k.tensor.blockScaleAt (k.rowOrd i) 0, divUp k.elems 64)] else [])

/-- Check 3 of R341: every byte is in this channel in a page that may be read. -/
def State.bankPagesOk (s : State) (k : BankCmd) : Bool :=
  (List.range k.rows).all (fun i => (k.rowRanges i).all (fun r =>
    (List.range (divUp (r.1 % 65536 + r.2) 65536)).all (fun j =>
      match s.rowHome k.part (if j = 0 then r.1 else (r.1 / 65536 + j) * 65536) k.pkr true with
      | some h => h < 2 ^ 46 && sliceOf h == k.slice
      | none => false)))

/-- The rows of the command in a bank, in command order. -/
def State.bankRows (s : State) (k : BankCmd) (b : Nat) : List Nat :=
  (List.range k.rows).filter (fun i => match s.homeOf k.part (k.rowAt i) with | some h => bankOfHome h == b | none => false)

/-- The cause for which a slice refuses a command; 0 for none. -/
def State.bankRefusal (s : State) (c : Crew) (k : BankCmd) : Nat :=
  if !bankDescOk c k then 1
  else if !bankFmtOk k then 2
  else if !s.bankPagesOk k then 3
  else if (List.range 16).any (fun b => 256 < (s.bankRows k b).length) then 1
  else match c.tiles[k.btile]? with
    | some t => if t.st = 0 then 1 else 0
    | none => 1

/-- The status word (R344). -/
def BankCmd.status (k : BankCmd) (code cause : Nat) : List Byte :=
  [BitVec.ofNat 8 code, BitVec.ofNat 8 cause] ++ leBytes 2 (min 65535 k.npois) ++ leBytes 4 k.first

/-- The broadcast tile of a command changes as a transfer out of it starts or ends (R173, R341). -/
def State.updBtile (s : State) (k : BankCmd) (f : Tile → Tile) : State := s.updCrew k.crew (fun c => c.updTile k.btile f)

/-- A command is to end with a code and a cause. -/
def State.bankEnds (s : State) (k : BankCmd) (code cause : Nat) : State :=
  let s1 := if k.sending then s.updBtile k Tile.endRead else s
  (s1.updBank k.id (fun k => { k with
    ended := true, sending := false, running := false, suspended := false, lease := none, code := code, cause := cause })).push
      .bankCount { a := k.id }

/-- A command whose partition resets stops where it stands (R324, R357). -/
def State.bankStops (s : State) (k : BankCmd) : Bool := k.ended || (s.part k.part).resetting

/-- `BANK_ACCEPT` (R173, R341): command `a` enters its slice's queue of 32, its running status is written and it is checked; once the
steward's earlier writes to its rows and its broadcast tile have drained and the tile allows it, the tile is draining while the broadcast
vector is sent; then the tile is ready and the command queues. -/
def execBankAccept (s : State) : Host.Outcome State Fault Refusal :=
  let e := s.ctx.ev
  .next (match s.bankOf e.a with
    | none => s
    | some k0 =>
      if s.bankStops k0 then s
      else match s.crewOf k0.crew with
        | none => s
        | some c =>
          if !k0.accepted then
            (if 32 ≤ (s.banks.filter (fun x => x.slice == k0.slice && x.accepted)).length then s.defer .bankAccept
             else
              let k : BankCmd := { k0 with accepted := true, ent := tget [] (s.part k0.part).tensors (k0.tid % 4096) }
              let s1 : State := { s with banks := s.banks.filter (fun x => x.id != k.id) ++ [k] }
              let s2 := s1.gput k.part k.rwin (k.status 0 0)
              let cause := s2.bankRefusal c k
              if cause ≠ 0 then s2.bankEnds k 2 cause else s2.push .bankAccept e)
          else if k0.sending then
            (let off := match c.tiles[k0.btile]? with | some t => t.offset | none => 0
             ((s.updBank k0.id (fun k => { k with sending := false, ready := true, x := s.mem.bytes (c.shareHome + off) k.xBytes })).updBtile k0
              Tile.endRead).push .bankStep { a := k0.id })
          else
            let tile := c.tiles[k0.btile]?
            let free := (match tile with | some t => t.readable | none => false) &&
              s.rangeDrained ⟨k0.crew, 0⟩ k0.part k0.upto none ((List.range k0.rows).flatMap k0.rowRanges) &&
              (match tile with
               | some t => s.rangeDrained ⟨k0.crew, 0⟩ k0.part k0.upto (some k0.crew) [(t.offset, k0.xBytes)]
               | none => true)
            if !free then s.defer .bankAccept
            else ((s.updBank k0.id (fun k => { k with sending := true })).updBtile k0 Tile.startRead).push .bankAccept e)

/-! ### Arithmetic (R141, R146, R147, R343) -/

/-- Element k of a row's bytes, of a weight tensor, to be multiplied: its exact value. -/
def BankCmd.weight (k : BankCmd) (row : List Byte) (i : Nat) : FVal :=
  let t := k.tensor
  if k.elided then codeVal t.fmt (slotElem (row.drop (slotSize t.esize * (i / 64))) t.esize (i % 64))
  else if isBpn t.fmt then
    let p := bpnDepth t.fmt
    let v := (List.range p).foldl (fun v j =>
      v + (if (row.getD (j * (t.extent 3 / 8) + i / 8) 0#8).getLsbD (i % 8) then 2 ^ (7 - j) else 0)) 0
    let q := bpnVal p t.mid v
    .num (decide (q < 0)) q.natAbs 0
  else codeVal t.fmt (field row (t.esize * i) t.esize)

/-- The block scale of element i, from the scale bytes behind the row's bytes; 1 where none applies. -/
def BankCmd.scale (k : BankCmd) (row : List Byte) (i : Nat) : FVal :=
  if k.tensor.scl && (k.tensor.fmt == 3 || k.tensor.fmt == 4) then fE5M3.decode (field row (k.rowBytes + i / 64) 1) else .num false 1 0

/-- Broadcast element i. -/
def BankCmd.bcast (k : BankCmd) (i : Nat) : FVal := codeVal k.xfmt (field k.x (fmtBits k.xfmt / 8 * i) (fmtBits k.xfmt / 8))

/-- floor(m·2^e) of a signed number. -/
def floorPow (m e : Int) : Int := if 0 ≤ e then m * 2 ^ e.toNat else m / 2 ^ (-e).toNat

/-- The exponent E with 2^E ≤ |p| < 2^(E+1) of a non-zero value. -/
def topExp (p : FVal) : Int := match p with | .num _ m e => (Nat.log2 m : Int) + e | _ => 0

/-- The value of one block of products (R146). -/
def bankBlock (ps : List FVal) : FVal :=
  let nz := ps.filter (fun p => match p with | .num _ m _ => m != 0 | _ => false)
  match nz with
  | [] => .num false 0 0
  | p0 :: t =>
    let e := t.foldl (fun m p => max m (topExp p)) (topExp p0)
    let sum := nz.foldl (fun (a : Int) p => a + (let d := p.toInt; floorPow d.1 (d.2 + 40 - e))) 0
    .num (decide (sum < 0)) sum.natAbs (e - 40)

/-- Products in blocks of 32, in ascending order. -/
def bankSum : Nat → List FVal → Nat → Nat
  | 0, _, acc => acc
  | n + 1, ps, acc =>
    if ps = [] then acc
    else bankSum n (ps.drop 32) (fF32.ofVal .rne false ((fF32.decode acc).add .rne (bankBlock (ps.take 32))))

/-- The result of one dot unit for products (R146, R147). -/
def bankResult (int : Bool) (ps : List FVal) : Nat :=
  if int then (BitVec.ofInt 32 (ps.foldl (fun (a : Int) p => a + floorPow p.toInt.1 p.toInt.2) 0)).toNat
  else if ps.any (fun p => match p with | .num _ _ _ => false | _ => true) then 0x7FC00000
  else bankSum (ps.length / 32 + 1) ps 0

/-- A poisoned result (R351). -/
def poisonedResult (int : Bool) : Nat := if int then 0x80000000 else 0x7FC0DEAD

/-- `n` byte offsets from one on. -/
def offsets (o n : Nat) : List Nat := (List.range n).map (fun i => o + i)

/-- The offsets, in a row's bytes with its scale bytes behind them, of what result terms use of element i (R343, R351): its own bytes, for BPN
one in each plane, under ELIDED the slot's header before them, and its block scale. -/
def BankCmd.elemBytes (k : BankCmd) (i : Nat) : List Nat :=
  let t := k.tensor
  (if k.elided then
    let o := slotSize t.esize * (i / 64)
    offsets o 16 ++ offsets (o + 16 + t.esize * (i % 64)) t.esize
  else if isBpn t.fmt then (List.range (bpnDepth t.fmt)).map (fun j => j * (t.extent 3 / 8) + i / 8)
  else offsets (t.esize * i) t.esize) ++ [k.rowBytes + i / 64]

/-- Element i of row r, or its block scale, lies in a poisoned half. -/
def BankCmd.poisoned (k : BankCmd) (r i : Nat) : Bool := (k.elemBytes i).any (fun o => k.bad.contains (r, o))

/-! ### Steps (R342, R347, R349 to R351, R354) -/

/-- The rows that the next step reads: bank and row. -/
def State.stepRows (s : State) (k : BankCmd) : List (Nat × Nat) :=
  (List.range 16).filterMap (fun b => ((s.bankRows k b)[k.step]?).map (fun i => (b, i)))

/-- The number of steps: the rows of the busiest bank (R342). -/
def State.bankSteps (s : State) (k : BankCmd) : Nat :=
  (List.range 16).foldl (fun m b => max m (s.bankRows k b).length) 0

/-- The bytes of row i and the scale bytes behind them. -/
def State.bankRead (s : State) (k : BankCmd) (i : Nat) : List Byte :=
  (k.rowRanges i).flatMap (fun r => s.gbytes k.part r.1 r.2)

/-- The offsets of the bytes a unit reads of a row: under ELIDED of a KIND 1 slot the header alone (R342, R354). -/
def BankCmd.used (k : BankCmd) (row : List Byte) : List Nat :=
  let t := k.tensor
  if k.elided then (List.range (k.elems / 64)).flatMap (fun j =>
    let o := slotSize t.esize * j
    offsets o (if slotKind (row.drop o) = 1 then 16 else slotSize t.esize))
  else if isBpn t.fmt then (List.range (bpnDepth t.fmt)).flatMap (fun j => offsets (j * (t.extent 3 / 8)) (k.elems / 8))
  else offsets 0 (t.esize * k.elems)

/-- The bytes a unit reads for row i that lie in granules of a list, with the granule: offsets in the row, and behind them in its scales. -/
def State.bankHits (s : State) (k : BankCmd) (i : Nat) (row : List Byte) (l : List Nat) : List (Nat × Nat) :=
  let at0 (va o : Nat) : Option (Nat × Nat) :=
    (s.homeOf k.part va).bind (fun h => if l.contains (h / 32 * 32) then some (o, h / 32 * 32) else none)
  (k.used row).filterMap (fun o => at0 (k.rowAt i + o) o) ++
  ((k.rowRanges i).drop 1).flatMap (fun r => (List.range r.2).filterMap (fun o => at0 (r.1 + o) (k.rowBytes + o)))

/-- A corrected error met by a bank dot unit is counted in `BERR` of its bank (R351, R352). -/
def State.recordCe (s : State) (g : Nat) : State :=
  let b := sliceOf g * 16 + bankOfHome g
  let e := tget Berr.blank s.dev.berr b
  s.setBerr b { e with cecnt := min 65535 (e.cecnt + 1) }

/-- The slots of an elided row stop the command (R354); one whose header is poisoned is not looked at (log entry 12). -/
def BankCmd.slotsBad (k : BankCmd) (i : Nat) (row : List Byte) : Bool :=
  k.elided && (List.range (k.elems / 64)).any (fun j =>
    let o := slotSize k.tensor.esize * j
    let sl := row.drop o
    !(offsets o 16).any (fun x => k.bad.contains (i, x)) && (!(slotKind sl == 1 || slotKind sl == 2) || !slotOk sl))

/-- The metered columns of a row: those that are read (R349). -/
def BankCmd.metered (k : BankCmd) (row : List Byte) : Nat :=
  if k.elided then ((k.used row).map (fun o => o / 64)).eraseDups.length else k.columns

/-- The columns of a 1 µs window at 98 TB/s (R14). -/
def govBudget : Nat := 1531250

/-- The length of a step in tenths of a nanosecond: 19.2 + 1.6·C ns (R342). -/
def BankCmd.stepTenths (k : BankCmd) : Nat := 192 + 16 * k.columns

/-- The length of a step in whole cycles of 3.6 GHz, at most 253 (R342). -/
def BankCmd.stepCycles (k : BankCmd) : Nat := k.stepTenths * 36 / 100

/-- The ordinary requests that wait for the channel of a slice (R346): the cycles from which they do. -/
def State.waitingAt (s : State) (slice : Nat) : List Nat := (s.agenda.filter (fun e => e.wait == .slice slice)).map Event.due

/-- The controller suspends a command at a step boundary (R347): 16 requests wait, or the oldest would have waited longer than W by the end of
the next step. -/
def State.bankYields (s : State) (k : BankCmd) : Bool :=
  let w := s.waitingAt k.slice
  16 ≤ w.length || w.any (fun t => 360 * s.dev.arbW < 100 * (s.clock - t) + 36 * k.stepTenths)

/-- The row-dot product terms of a row. -/
def BankCmd.rowTerms (k : BankCmd) (row : List Byte) : List FVal :=
  (List.range k.elems).map (fun j => ((k.bcast j).mul (k.weight row j)).mul (k.scale row j))

/-- One row of a step: its read, and in row-dot mode its result. -/
def State.bankRow (s : State) (id : Nat) (i : Nat) : State :=
  match s.bankOf id with
  | none => s
  | some k0 =>
    let row := s.bankRead k0 i
    let bad := s.bankHits k0 i row s.dev.ue
    let s0 := (((s.bankHits k0 i row s.dev.ce).map Prod.snd).eraseDups).foldl State.recordCe s
    let s1 := ((bad.map Prod.snd).eraseDups).foldl State.recordUe s0
    let k : BankCmd := { k0 with bad := k0.bad ++ bad.map (fun x => (i, x.1)) }
    let s2 := s1.updDev (fun d => { d with govCols := d.govCols + k.metered row })
    if k.slotsBad i row then s2.updBank id (fun _ => { k with code := 5, cause := 2 })
    else if k.mode = 0 then
      let hit := (List.range k.elems).any (fun j => k.poisoned i j)
      let v := if hit then poisonedResult k.isInt else bankResult k.isInt (k.rowTerms row)
      let k1 : BankCmd := if hit then { k with npois := k.npois + 1, first := min k.first i } else k
      (s2.updBank id (fun _ => k1)).gput k.part (k.rwin + 64 + 4 * i) (leBytes 4 v)
    else s2.updBank id (fun _ => { k with read := tset [] k.read i row })

/-- The row-weighted result of a bank and a column from the rows read (R343). -/
def State.weightedResult (s : State) (k : BankCmd) (b j : Nat) : Nat × Bool :=
  let rows := (s.bankRows k b).filter (fun i => k.read.any (fun x => x.1 == i))
  if rows.any (fun i => k.poisoned i j) then (poisonedResult k.isInt, true)
  else (bankResult k.isInt (rows.map (fun i =>
    let row := tget [] k.read i
    ((k.bcast i).mul (k.weight row j)).mul (k.scale row j))), false)

/-- Writes the row-weighted results of a command (R343, R344, R356). -/
def State.writeWeighted (s : State) (id : Nat) : State :=
  match s.bankOf id with
  | none => s
  | some k =>
    if k.mode ≠ 1 then s
    else
      let rs := (List.range 16).flatMap (fun b => (List.range k.elems).map (fun j => s.weightedResult k b j))
      let bad := ((rs.mapIdx (fun n r => (n, r.2))).filter Prod.snd).map Prod.fst
      let s1 := s.gput k.part (k.rwin + 64) (rs.flatMap (fun r => leBytes 4 r.1))
      s1.updBank id (fun k => { k with npois := k.npois + bad.length, first := bad.foldl min k.first })

/-- It is a command's turn on its slice (R346): none runs there; round-robin over the partitions, acceptance order within one. -/
def State.bankTurn (s : State) (k : BankCmd) : Bool :=
  let l := s.banks.filter (fun x => x.slice == k.slice && x.ready && !x.ended)
  let last := tget 0 s.dev.bankTurn k.slice
  let key (x : BankCmd) : Nat := (x.part + 64 - last) % 64
  !l.any (fun x => x.running || x.suspended) &&
  (match l.find? (fun x => x.part == k.part) with | some x => x.id == k.id | none => false) &&
  l.all (fun x => key k ≤ key x)

/-- The deferred reductions of a slice's closing step become ordinary requests in arrival order (R350). -/
def State.applyDeferred (s : State) (slice : Nat) : State :=
  let l := tget [] s.dev.deferred slice
  (s.updDev (fun d => { d with deferred := tset [] d.deferred slice [] })).pushFront (l.map (fun g =>
    { op := .reduce, arg := { dg := g, d := 1 }, due := s.clock }))

/-- What follows a step: the command ends, is suspended, or goes on (R347, R354, R356); in a partition reset it stops there (R357). -/
def State.afterStep (s : State) (k : BankCmd) : State :=
  if s.bankStops k then s
  else if k.code = 5 then s.bankEnds k 5 2
  else if k.cancelled then (s.writeWeighted k.id).bankEnds k 4 0
  else if s.bankSteps k ≤ k.step then
    let s1 := s.writeWeighted k.id
    match s1.bankOf k.id with
    | some k1 => if k1.npois = 0 then s1.bankEnds k1 1 0 else s1.bankEnds k1 3 5
    | none => s1
  else if s.bankYields k then
      ((s.updBank k.id (fun k => { k with
        running := false, suspended := true, handover := s.clock + 231, served := 0 })).setSlot k.crew k.slot ⟨k.step, 0, 0, 3⟩).push .bankResume
        { a := k.id, b := s.clock }
  else s.push .bankStep { a := k.id }

/-- A repack holds pages of the rows of a step (R379). -/
def State.rowsRepack (s : State) (k : BankCmd) (rows : List Nat) : Bool :=
  rows.any (fun i => (k.rowRanges i).any (fun r => (pagePieces r.1 r.2).any (fun x => match s.homeOf k.part x.1 with
    | some h => s.repackHolds h
    | none => false)))

/-- `BANK_STEP` (R342 to R351): command `a` takes its next step when it is its turn and the governor allows; with `d` 1 the step in
progress closes: its lease ends and the deferred reductions of its rows follow. -/
def execBankStep (s : State) : Host.Outcome State Fault Refusal :=
  let e := s.ctx.ev
  .next (match s.bankOf e.a with
    | none => s
    | some k =>
      if e.d = 1 then
        (match k.lease with
         | some t =>
           if s.clock < t then s.defer .bankStep
           else
             let k1 : BankCmd := { k with lease := none, step := k.step + 1 }
             let s1 := (s.updBank k.id (fun _ => k1)).setSlot k.crew k.slot ⟨k1.step, 0, 0, 2⟩
             (s1.applyDeferred k.slice).afterStep k1
         | none => s)
      else if s.bankStops k then s
      else if !k.running && !s.bankTurn k then s.defer .bankStep
      else if k.cancelled then s.afterStep k
      else
        let rows := s.stepRows k
        let cols := (rows.map (fun x => k.metered (s.bankRead k x.2))).foldl (· + ·) 0
        if (govBudget < s.dev.govCols + cols && s.dev.govCols != 0) || s.rowsRepack k (rows.map Prod.snd) then s.defer .bankStep
        else
          let s1 := (s.updBank k.id (fun k => { k with running := true, lease := some (s.clock + k.stepCycles) })).updDev (fun d =>
            { d with bankTurn := tset 0 d.bankTurn k.slice ((k.part + 1) % 64) })
          let s2 := s1.setSlot k.crew k.slot ⟨k.step, 0, 0, 2⟩
          (rows.foldl (fun s3 x => s3.bankRow k.id x.2) s2).push .bankStep { a := k.id, d := 1 })

/-- `BANK_RESUME` (R347): after the handover of 64 ns, suspended command `a` goes on when no request waits for its slice, 16 have been served,
or 464 ns have passed since its suspension in cycle `b`. -/
def execBankResume (s : State) : Host.Outcome State Fault Refusal :=
  let e := s.ctx.ev
  .next (match s.bankOf e.a with
    | none => s
    | some k =>
      if s.bankStops k || !k.suspended then s
      else if k.cancelled then s.afterStep k
      else if k.handover ≤ s.clock && (s.waitingAt k.slice == [] || 16 ≤ k.served || e.b + 1670 ≤ s.clock) then
        ((s.updBank k.id (fun k => { k with suspended := false, running := true })).setSlot k.crew k.slot ⟨k.step, 0, 0, 2⟩).push .bankStep
          { a := k.id }
      else s.defer .bankResume)

/-- `BANK_COUNT` (R345, R351): command `a` ends: status and `CLOCK` are written, the count is made, and a poisoned command sends its
record to NOTIFY. -/
def execBankCount (s : State) : Host.Outcome State Fault Refusal :=
  let e := s.ctx.ev
  .next (match s.bankOf e.a with
    | none => s
    | some k =>
      if !k.ended then s
      else
        let s1 : State := { s with banks := s.banks.filter (fun x => x.id != k.id) }
        let s2 := s1.gput k.part k.rwin (k.status k.code k.cause ++ leBytes 8 s.clock ++ List.replicate 48 0#8)
        let s3 := s2.setSlot k.crew k.slot ⟨k.step, k.cause, k.code, 4⟩
        let s4 := if k.barrier < 64 then s3.countBar k.crew k.barrier 0 k.declared (k.code != 1) else s3
        if k.npois = 0 then s4
        else
          let addr : Quad := BitVec.ofNat 64 (k.rwin + 64 + 4 * k.first)
          if k.notify = 0xFF then s4.sendAsync ⟨k.crew, 0⟩ 0x08 k.slot addr (some (ptrOf (ptrPc k.pc) 0))
          else s4.sendAsync ⟨k.crew, k.notify + 1⟩ 0x08 k.slot addr none)

/-- The commands of a resetting partition (R357): those that have begun get their status, CODE 4 and CAUSE 4 (log entry 12); the rest none. -/
def State.resetBanks (s : State) (p : Nat) : State :=
  (s.banks.filter (fun k => k.part == p && !k.ended && (k.running || k.suspended))).foldl (fun s1 k =>
    s1.gput p k.rwin (k.status 4 4)) s

/-- A step of a command of a partition is in progress. -/
def State.bankMidStep (s : State) (p : Nat) : Bool := s.banks.any (fun k => k.part == p && k.lease.isSome)

/-! ### Inspecting and cancelling -/

/-- `BKSTAT` d, a (R355): the state of slot a. -/
def execBkstat (x y : BitVec 6) (z : BitVec 4) (s : State) : Host.Outcome State Fault Refusal :=
  .next (if !s.evenG x then s.illegal
    else
      let v := s.uniNat y
      if bits v 63 4 ≠ 0 then s.trapHead 0x03 0 v
      else
        let b := tget BankSlot.blank s.crew.bankSlots v.toNat
        s.engResult (flagOf z) (s.wrAll x (BitVec.ofNat 64
          (b.step % 2 ^ 16 * 2 ^ 24 + b.cause % 256 * 2 ^ 16 + b.code % 256 * 2 ^ 8 + b.st % 256))))

/-- `BKCANCEL` a (R356): `kp7` tells whether a command was cancelled. Steward only. -/
def execBkcancel (y : BitVec 6) (s : State) : Host.Outcome State Fault Refusal :=
  .next (if !s.isSteward then s.illegal
    else
      let slot := (s.uni64 y).toNat % 16
      match s.banks.find? (fun k => k.crew == s.crew.id && k.slot == slot && !k.ended && !k.cancelled) with
      | none => s.engResult none [kp7 false]
      | some k =>
        let s1 := s.updBank k.id (fun k => { k with cancelled := true })
        (if k.running || k.suspended then s1 else s1.bankEnds { k with cancelled := true } 4 0).engResult none [kp7 true])

/-! ### The governor and `BERR` -/

/-- `GOVERNOR_WINDOW` (R14): a new 1 µs window opens. -/
def execGovernorWindow (s : State) : Host.Outcome State Fault Refusal :=
  .next (s.updDev (fun d => { d with govCols := 0 }))

/-- `BERR_CLEAR` (R352): writing 1 to UEV of bank `b` of slice `a` clears UEV, UECNT and CECNT. -/
def execBerrClear (s : State) : Host.Outcome State Fault Refusal :=
  let e := s.ctx.ev
  .next (if qbit e.q 63 then
      s.setBerr (16 * e.a + e.b) { tget Berr.blank s.dev.berr (16 * e.a + e.b) with uev := false, uecnt := 0, cecnt := 0 }
    else s)

end Sys2Proof.Machine
end

