-- ==== Sys2Proof/Machine/Copy.lean ====
section
/-! DEFINITION. Copy engines (R173, R174, R269 to R279, R318, R327): acceptance, the runs of each transform, parking, failure, counting.
A run is an aligned 64-byte piece of the source, in rising order of addresses (R174, log entry 19). Its bytes are held; an element, a
64-element block or a slot is written in the run that reads the last of its bytes. -/

namespace Sys2Proof.Machine

/-! ### Descriptors (R271) -/

/-- A copy descriptor as fields. -/
structure CopyDesc where
  xop : Nat
  rm : Nat
  sat : Bool
  srca : Bool
  dstk : Nat
  srct : Bool
  ctl7 : Bool
  afmt : Nat
  b3 : Nat
  rows : Nat
  cols : Nat
  src : Nat
  sorg : List Nat
  dst : Nat
  dorg : List Nat
  deriving DecidableEq, Repr

/-- The fields of a copy descriptor's bytes. -/
def copyDesc (d : List Byte) : CopyDesc :=
  let ctl := field d 1 1
  { xop := field d 0 1
    rm := ctl % 4
    sat := ctl / 4 % 2 == 1
    srca := ctl / 8 % 2 == 1
    dstk := ctl / 16 % 4
    srct := ctl / 64 % 2 == 1
    ctl7 := ctl / 128 % 2 == 1
    afmt := field d 2 1
    b3 := field d 3 1
    rows := field d 4 4
    cols := field d 8 4
    src := field d 0x10 8
    sorg := (List.range 4).map (fun i => field d (0x18 + 4 * i) 4)
    dst := field d 0x28 8
    dorg := (List.range 4).map (fun i => field d (0x30 + 4 * i) 4) }

/-- The rows and columns of the destination window. -/
def CopyDesc.dstRows (x : CopyDesc) : Nat := if x.xop = 1 then x.cols else x.rows
def CopyDesc.dstCols (x : CopyDesc) : Nat := if x.xop = 1 then x.rows else x.cols

/-! ### Sides -/

/-- One side of a copy. `scr` is the crew in whose share the addresses lie; they are virtual addresses where it is none. A row
begins at bit `org + step·r`; an element is found at index `i0 + c` of it; `n` is the length of its plane block. -/
structure Side where
  fmt : Nat
  comp : Bool
  scr : Option Nat
  org : Nat
  step : Nat
  i0 : Nat
  n : Nat
  deriving DecidableEq, Repr

/-- The bit address of row r. -/
def Side.row (x : Side) (r : Nat) : Nat := x.org + x.step * r

/-- A tensor side: the window's rows are counted in i1 from the origin. -/
def tensorSide (e : List Quad) (org : List Nat) : Side :=
  let t := tensorOfBytes (entBytes e)
  let o (i : Nat) : Nat := org.getD i 0
  { fmt := t.fmt
    comp := t.comp
    scr := none
    org := t.rowBit (o 0) (o 1) (o 2)
    step := (if t.comp then 8 * slotSize t.esize else if isBpn t.fmt then 8 else fmtBits t.fmt) * t.stride 2
    i0 := o 3
    n := t.extent 3 }

/-- The bytes of a dense row. -/
def denseRow (fmt cols : Nat) : Nat := divUp (fmtBits fmt * cols) 8

/-- A dense side from a byte address. -/
def denseSide (fmt : Nat) (scr : Option Nat) (addr pitch cols : Nat) : Side :=
  { fmt := fmt, comp := false, scr := scr, org := 8 * addr, step := 8 * (if pitch = 0 then denseRow fmt cols else pitch), i0 := 0, n := cols }

/-- The crew that a rank of a generic scratchpad address names for a crew (R151). -/
def State.crewByRank (s : State) (c : Crew) (rank : Nat) : Option Crew :=
  if rank = 15 then some c
  else s.allCrews.find? (fun x => x.task == c.task && x.span == c.span && x.rank == rank && !x.retired)

/-- A side given as a generic address. -/
def State.addrSide (s : State) (c : Crew) (fmt : Nat) (ea : Quad) (cols : Nat) : Side :=
  if qbit ea 63 then denseSide fmt ((s.crewByRank c (bits ea 59 56)).map Crew.id) (bits ea 19 0) 0 cols
  else denseSide fmt none (bits ea 56 0) 0 cols

/-- A side given as a tile. -/
def tileSide (c : Crew) (fmt i cols : Nat) : Side :=
  match c.tiles[i]? with
  | some t => denseSide fmt (some c.id) t.offset (16 * t.pitch) cols
  | none => denseSide fmt (some c.id) 0 0 cols

/-- The source side of a command. -/
def State.srcSide (s : State) (c : Crew) (k : CopyCmd) : Side :=
  let x := copyDesc k.desc
  if !x.srca then tensorSide k.srcEnt x.sorg
  else if x.srct then tileSide c (x.afmt % 32) x.src x.cols
  else s.addrSide c (x.afmt % 32) (BitVec.ofNat 64 x.src) x.cols

/-- The destination side of a command. -/
def State.dstSide (s : State) (c : Crew) (k : CopyCmd) : Side :=
  let x := copyDesc k.desc
  match x.dstk with
  | 0 => tensorSide k.dstEnt x.dorg
  | 1 => s.addrSide c (x.afmt % 32) (BitVec.ofNat 64 x.dst) x.dstCols
  | _ => tileSide c (x.afmt % 32) x.dst x.dstCols

/-- The slot of block q of row r of a COMP side. -/
def Side.slot (x : Side) (r q : Nat) : Nat := x.row r / 8 + slotSize (fmtBits x.fmt / 8) * (x.i0 / 64 + q)

/-- The byte ranges that `cols` elements of row r of a side lie in: one, or one in each plane for BPN (R140). -/
def Side.span (x : Side) (cols r : Nat) : List (Nat × Nat) :=
  if x.comp then [(x.slot r 0, slotSize (fmtBits x.fmt / 8) * (cols / 64))]
  else if isBpn x.fmt then
    (List.range 8).map (fun j => (x.row r / 8 + j * (x.n / 8) + x.i0 / 8, (x.i0 + cols - 1) / 8 + 1 - x.i0 / 8))
  else
    let a := x.row r + fmtBits x.fmt * x.i0
    [(a / 8, divUp (a + fmtBits x.fmt * cols) 8 - a / 8)]

/-! ### Acceptance (R272, R273, R275) -/

/-- A format that a cast takes (R273). -/
def castFmt (f : Nat) : Bool := f ≤ 15 || f == 22

/-- A window inside its tensor's extents. -/
def windowIn (e : List Quad) (org : List Nat) (rows cols : Nat) : Bool :=
  let t := tensorOfBytes (entBytes e)
  org.getD 0 0 < t.extent 0 && org.getD 1 0 < t.extent 1 && org.getD 2 0 + rows ≤ t.extent 2 && org.getD 3 0 + cols ≤ t.extent 3

/-- A registered entry. -/
def entValid (e : List Quad) : Bool := (tensorOfBytes (entBytes e)).valid

/-- A dense window inside a tile's bytes, where the tile exists. -/
def tileHolds (c : Crew) (i fmt rows cols : Nat) : Bool :=
  match c.tiles[i]? with
  | some t => (rows - 1) * (if t.pitch = 0 then denseRow fmt cols else 16 * t.pitch) + denseRow fmt cols ≤ t.bytes
  | none => true

/-- A generic address a copy side may have: a global or a scratchpad address with its reserved bits 0. -/
def copyAddrOk (ea : Quad) : Bool :=
  if qbit ea 63 then bits ea 63 60 == 0xA && bits ea 55 20 == 0 else bits ea 62 57 == 0

/-- Check 1 of R272. -/
def copyDescOk (c : Crew) (k : CopyCmd) : Bool :=
  let x := copyDesc k.desc
  let dense := x.srca || x.dstk != 0
  x.xop ≤ 6 && (k.xform || x.xop == 0) && !x.ctl7 && x.dstk != 3 && !(x.srct && !x.srca) && x.afmt < 32 && (!dense || fmtOk x.afmt) &&
  x.b3 == 0 && 1 ≤ x.rows && x.rows ≤ 2 ^ 24 && 1 ≤ x.cols && x.cols ≤ 2 ^ 24 &&
  (if !x.srca then x.src < 4096 && entValid k.srcEnt && windowIn k.srcEnt x.sorg x.rows x.cols
   else x.sorg.all (· == 0) &&
     (if x.srct then x.src < 256 && tileHolds c x.src x.afmt x.rows x.cols else copyAddrOk (BitVec.ofNat 64 x.src))) &&
  (if x.dstk = 0 then x.dst < 4096 && entValid k.dstEnt && windowIn k.dstEnt x.dorg x.dstRows x.dstCols
   else x.dorg.all (· == 0) &&
     (if x.dstk = 2 then x.dst < 256 && tileHolds c x.dst x.afmt x.dstRows x.dstCols else copyAddrOk (BitVec.ofNat 64 x.dst))) &&
  -- a dense side of BPN elements holds plane blocks, of a multiple of 8 elements (R140)
  (!(dense && isBpn x.afmt) || ((!x.srca || x.cols % 8 == 0) && (x.dstk == 0 || x.dstCols % 8 == 0)))

/-- The destination's tensor has scale arrays. -/
def CopyCmd.dstScaled (k : CopyCmd) : Bool := (copyDesc k.desc).dstk == 0 && (tensorOfBytes (entBytes k.dstEnt)).scl

/-- Check 2 of R272: what each transform accepts (R273). -/
def copyFmtOk (k : CopyCmd) (a b : Side) : Bool :=
  let x := copyDesc k.desc
  match x.xop with
  | 0 => a.fmt == b.fmt && !a.comp && !b.comp
  | 1 => a.fmt == b.fmt && !a.comp && !b.comp && !isBpn a.fmt && fmtBits a.fmt != 4
  | 2 => !a.comp && !b.comp && castFmt a.fmt && castFmt b.fmt
  | 3 => (a.fmt == 0 || a.fmt == 1 || a.fmt == 2) && !a.comp && (b.fmt == 3 || b.fmt == 4 || b.fmt == 5 || b.fmt == 10 || b.fmt == 12) &&
      k.dstScaled && !b.comp && b.i0 == 0 && (x.cols % 64 == 0 || x.cols == b.n)
  | 4 => a.fmt == b.fmt && !a.comp && b.comp && x.cols % 64 == 0 && b.i0 % 64 == 0
  | 5 => a.fmt == b.fmt && !a.comp && b.comp && x.cols % 64 == 0 && b.i0 % 64 == 0
  | _ => a.fmt == b.fmt && a.comp && !b.comp && x.cols % 64 == 0 && a.i0 % 64 == 0

/-- The byte ranges of a side's window. -/
def Side.runs (x : Side) (rows cols : Nat) : List (Nat × Nat) := (List.range rows).flatMap (x.span cols)

/-- The ordinal of the first row of the destination's window. -/
def CopyCmd.dstRow0 (k : CopyCmd) : Nat :=
  let x := copyDesc k.desc
  (tensorOfBytes (entBytes k.dstEnt)).rowOrd (x.dorg.getD 0 0) (x.dorg.getD 1 0) (x.dorg.getD 2 0)

/-- The row scales a quantise reads. -/
def CopyCmd.rowScales (k : CopyCmd) : Nat × Nat :=
  ((tensorOfBytes (entBytes k.dstEnt)).rowScaleAt k.dstRow0, 2 * (copyDesc k.desc).rows)

/-- The block scales a quantise writes. -/
def CopyCmd.blockScales (k : CopyCmd) : List (Nat × Nat) :=
  let x := copyDesc k.desc
  (List.range x.rows).map (fun r =>
    ((tensorOfBytes (entBytes k.dstEnt)).blockScaleAt (k.dstRow0 + r) 0, divUp x.cols 64))

/-- A cast reads a source tensor with scale arrays (R142). -/
def CopyCmd.srcScaled (k : CopyCmd) : Bool :=
  (copyDesc k.desc).xop == 2 && !(copyDesc k.desc).srca && (tensorOfBytes (entBytes k.srcEnt)).scl

/-- The ordinal of the first row of a source tensor's window. -/
def CopyCmd.srcRow0 (k : CopyCmd) : Nat :=
  let x := copyDesc k.desc
  (tensorOfBytes (entBytes k.srcEnt)).rowOrd (x.sorg.getD 0 0) (x.sorg.getD 1 0) (x.sorg.getD 2 0)

/-- The scale arrays a command reads before its source: the row scales of a quantise's destination (R273), and the scales of a cast's source
(R142). -/
def CopyCmd.scaleSpans (k : CopyCmd) : List (Nat × Nat) :=
  let x := copyDesc k.desc
  if x.xop = 3 then [k.rowScales]
  else if k.srcScaled then
    let t := tensorOfBytes (entBytes k.srcEnt)
    let i0 := x.sorg.getD 3 0
    (t.rowScaleAt k.srcRow0, 2 * x.rows) ::
      (List.range x.rows).map (fun r => (t.blockScaleAt (k.srcRow0 + r) (i0 / 64), (i0 + x.cols - 1) / 64 + 1 - i0 / 64))
  else []

/-- A page of a range of virtual addresses that is mapped and fails a test. -/
def State.anyPage (s : State) (part : Nat) (r : Nat × Nat) (bad : Quad → Bool) : Bool :=
  (List.range (divUp (r.1 % 65536 + r.2) 65536)).any (fun i =>
    match s.walk part ((r.1 / 65536 + i) * 65536) with
    | some (leaf, _) => bad leaf
    | none => false)

/-- Check 3 of R272. -/
def State.copyAccessOk (s : State) (c : Crew) (k : CopyCmd) (a b : Side) : Bool :=
  let x := copyDesc k.desc
  let shareOk : Side → Quad → Nat → Nat → Bool := fun sd ea rows cols =>
    if qbit ea 63 then (match s.crewByRank c (bits ea 59 56) with
      | some y => (sd.runs rows cols).all (fun r => r.1 + r.2 ≤ y.shareSize)
      | none => false)
    else true
  !(x.dstk == 0 && (tensorOfBytes (entBytes k.dstEnt)).derived) &&
  (if a.scr.isNone then !(a.runs x.rows x.cols).any (fun r => s.anyPage k.part r (fun l => pkrRefuses k.pkr l false)) else true) &&
  (if b.scr.isNone then
    !(b.runs x.dstRows x.dstCols).any (fun r => s.anyPage k.part r (fun l => !qbit l 57 || pkrRefuses k.pkr l true))
   else true) &&
  !k.scaleSpans.any (fun r => s.anyPage k.part r (fun l => pkrRefuses k.pkr l false)) &&
  (x.xop != 3 || !k.blockScales.any (fun r => s.anyPage k.part r (fun l => !qbit l 57 || pkrRefuses k.pkr l true))) &&
  (!(x.srca && !x.srct) || shareOk a (BitVec.ofNat 64 x.src) x.rows x.cols) &&
  (x.dstk != 1 || shareOk b (BitVec.ofNat 64 x.dst) x.dstRows x.dstCols)

/-- Two lists of byte runs share a byte. -/
def runsMeet (a b : List (Nat × Nat)) : Bool := a.any (fun x => b.any (fun y => x.1 < y.1 + y.2 && y.1 < x.1 + x.2))

/-- Source and destination bytes overlap, a transform's scale arrays included (R272, R276). -/
def copyOverlap (k : CopyCmd) (a b : Side) : Bool :=
  let x := copyDesc k.desc
  let src := a.runs x.rows x.cols
  (a.scr == b.scr && runsMeet src (b.runs x.dstRows x.dstCols)) ||
  (x.xop == 3 && a.scr.isNone && runsMeet src (k.rowScales :: k.blockScales)) ||
  (k.srcScaled && b.scr.isNone && runsMeet k.scaleSpans (b.runs x.dstRows x.dstCols))

/-- Check 5 of R272. -/
def copyTilesOk (c : Crew) (k : CopyCmd) : Bool :=
  let x := copyDesc k.desc
  (match copySrcTile k.desc with
   | some i => (match c.tiles[i]? with | some t => t.st != 0 | none => false)
   | none => true) &&
  (match copyDstTile k.desc with
   | some i => (match c.tiles[i]? with | some t => !(x.xop == 1 && t.st == 0) | none => false)
   | none => true)

/-- The cause for which a command is refused, in the order of R272; 0 when it is accepted. -/
def State.copyRefusal (s : State) (c : Crew) (k : CopyCmd) : Nat :=
  if !copyDescOk c k then 6
  else
    let a := s.srcSide c k
    let b := s.dstSide c k
    if !copyFmtOk k a b then 2
    else if !s.copyAccessOk c k a b then 3
    else if (copyDesc k.desc).xop ≠ 0 && copyOverlap k a b then 1
    else if !copyTilesOk c k then 7
    else 0

/-- The declared byte count (R275). -/
def CopyCmd.declared (k : CopyCmd) : Nat :=
  let x := copyDesc k.desc
  let e := tensorOfBytes (entBytes k.dstEnt)
  let fmt := if x.dstk = 0 then e.fmt else x.afmt % 32
  if 7 ≤ x.xop || x.dstk = 3 || !fmtOk fmt || (x.dstk == 0 && (4096 ≤ x.dst || !e.valid)) || x.rows = 0 || 2 ^ 24 < x.rows ||
      x.cols = 0 || 2 ^ 24 < x.cols then 2 ^ 32 - 1
  else match x.xop with
    | 3 => x.rows * denseRow fmt x.cols + x.rows * divUp x.cols 64
    | 4 => x.rows * (x.cols / 64) * (16 + 8 * fmtBits fmt)
    | 5 => x.rows * (x.cols / 64) * (16 + 8 * fmtBits fmt)
    | _ => x.dstRows * denseRow fmt x.dstCols

/-! ### Issue -/

/-- A copy word issues (R270): the descriptor is read, and the command waits for acceptance. -/
def State.copyIssue (s : State) (x y : BitVec 6) (xf : Bool) : State :=
  if !s.isSteward then s.illegal
  else
    let v := s.uni64 x
    match s.descTrap v 64 64 true with
    | some (c, a) => s.trapHead c 0 a
    | none =>
      let d := s.descBytes v 64
      let k : CopyCmd :=
        { id := s.nextId, part := s.crew.part, crew := s.crew.id, desc := d, off := bits v 31 0, barrier := y.toNat, xform := xf,
          pkr := s.me.pkr, upto := s.nextId, st := .issued, srcEnt := [], dstEnt := [], phase := .runs, run := 0,
          fetched := false, moved := false }
      ({ s with copies := s.copies ++ [k], nextId := s.nextId + 1 }).push .copyAccept { a := k.id }

/-- `COPY` kD, bN (R270). Steward only. -/
def execCopy (x y : BitVec 6) (s : State) : Host.Outcome State Fault Refusal := .next (s.copyIssue x y false)

/-- `XFORM` kD, bN (R270). Steward only. -/
def execXform (x y : BitVec 6) (s : State) : Host.Outcome State Fault Refusal := .next (s.copyIssue x y true)

/-! ### Ending -/

/-- A command. -/
def State.copyOf (s : State) (id : Nat) : Option CopyCmd := s.copies.find? (fun k => k.id == id)

/-- Updates a command. -/
def State.updCopy (s : State) (id : Nat) (f : CopyCmd → CopyCmd) : State :=
  { s with copies := updIf (fun k => k.id == id) f s.copies }

/-- Updates a tile of a crew. -/
def State.updTile (s : State) (crew i : Nat) (f : Tile → Tile) : State := s.updCrew crew (fun c => c.updTile i f)

/-- The count step of a command (R170, R272): STATUS and the count, in one step; the command is gone. -/
def State.copyEnd (s : State) (k : CopyCmd) (cause code : Nat) : State :=
  let s0 : State := { s with
    mem := s.mem.clear (fetchHome k.id 0) (fetchHome (k.id + 1) 0)
    copies := s.copies.filter (fun x => x.id != k.id)
    dev := { s.dev with msgs := s.dev.msgs.filter (fun m => m.cmd != some k.id) } }
  match s.crewOf k.crew with
  | none => s0
  | some c =>
    let s1 := s0.putHome (c.shareHome + k.off + 0xC) [BitVec.ofNat 8 code, BitVec.ofNat 8 cause, 0#8, 0#8]
    s1.countBar k.crew k.barrier 0 k.declared (code != 1)

/-- A command has started and has not moved its last run: its tiles are its own (R173, R279). -/
def CopyCmd.started (k : CopyCmd) : Bool := !k.moved && (k.st == .running || k.st == .parked || k.st == .failing)

/-- The tiles of a command that has moved its last run (R173). -/
def State.copyTilesDone (s : State) (k : CopyCmd) : State :=
  let s1 := match copySrcTile k.desc with | some i => s.updTile k.crew i Tile.endRead | none => s
  match copyDstTile k.desc with | some i => s1.updTile k.crew i (fun t => { t with st := 2 }) | none => s1

/-- The tiles of a command that fails after it has started (R279). -/
def State.copyTilesFailed (s : State) (k : CopyCmd) : State :=
  let s1 := match copySrcTile k.desc with | some i => s.updTile k.crew i Tile.endRead | none => s
  match copyDstTile k.desc with | some i => s1.updTile k.crew i (fun t => { t with st := 0 }) | none => s1

/-- `COPY_FAIL` (R278, R279): command `a` fails with cause `b`. -/
def execCopyFail (s : State) : Host.Outcome State Fault Refusal :=
  let e := s.ctx.ev
  .next (match s.copyOf e.a with
    | none => s
    | some k => (if k.started then s.copyTilesFailed k else s).copyEnd k e.b 3)

/-- A command is to fail with a cause. -/
def State.copyFails (s : State) (k : CopyCmd) (cause : Nat) : State :=
  (s.updCopy k.id (fun k => { k with st := .failing })).push .copyFail { a := k.id, b := cause }

/-- `COPY_COUNT` (R170, R272): command `a` has moved its last run and every peer has answered; it counts. -/
def execCopyCount (s : State) : Host.Outcome State Fault Refusal :=
  let e := s.ctx.ev
  .next (match s.copyOf e.a with
    | none => s
    | some k =>
      if k.st ≠ .ending then s
      else if s.dev.msgs.any (fun m => m.cmd == some k.id) then s.defer .copyCount
      else s.copyEnd k 0 1)

/-- `COPY_ACCEPT` (R269, R272): command `a` is checked, after the crew's earlier ones; a refused command counts in this step. -/
def execCopyAccept (s : State) : Host.Outcome State Fault Refusal :=
  let e := s.ctx.ev
  .next (match s.copyOf e.a with
    | none => s
    | some k0 =>
      if k0.st ≠ .issued then s
      else if s.copies.any (fun x => x.crew == k0.crew && x.id < k0.id && x.st == .issued) then s.defer .copyAccept
      else match s.crewOf k0.crew with
        | none => s
        | some c =>
          let x := copyDesc k0.desc
          let ent (n : Nat) : List Quad := tget [] (s.part k0.part).tensors n
          let k : CopyCmd := { k0 with
            srcEnt := if x.srca then [] else ent x.src
            dstEnt := if x.dstk = 0 then ent x.dst else [] }
          let cause := s.copyRefusal c k
          if cause ≠ 0 then s.copyEnd k cause 2
          else (s.updCopy k.id (fun _ => { k with st := .waiting })).push .copyStart { a := k.id })

/-! ### Where bytes are -/

/-- Where a byte of a side is. -/
inductive Place where
  | home (h : Nat)
  | host (h : Nat)
  | peer (pkg va : Nat)
  | missing (va : Nat)
  | lost

/-- The place of a byte address of a side (R277, R318, R30, R34). -/
def State.placeOf (s : State) (part : Nat) (scr : Option Nat) (a : Nat) : Place :=
  match scr with
  | some id => match s.crewOf id with
    | some c => .home (c.shareHome + a)
    | none => .lost
  | none => match s.walk part a with
    | none => .missing a
    | some (leaf, sh) =>
      if qbit leaf 59 then .missing a
      else
        let h := leafHome leaf sh a
        match bits leaf 61 60 with
        | 1 => .host h
        | 2 => .peer (bits leaf 15 0) (bits leaf 47 16 * 2 ^ 16 + a % 2 ^ sh)
        | _ =>
          if s.frameUp h then .home h
          else if s.dev.failedChans.contains (sliceOf h) || s.dev.failedStacks.contains (stackOfSlice (sliceOf h)) then .lost
          else .missing a

/-- The place of a byte that a command reads: device agents do not read host-mapped pages (R220, R413), which count as not resident (log
entry 54). -/
def State.readPlace (s : State) (part : Nat) (scr : Option Nat) (a : Nat) : Place :=
  match s.placeOf part scr a with
  | .host _ => .missing a
  | p => p

/-- A byte of the source that a command holds. -/
def State.heldByte (s : State) (k : CopyCmd) (a : Nat) : Byte := s.mem.get (fetchHome k.id a)

/-- Consecutive bytes of the source that a command holds. -/
def State.heldBytes (s : State) (k : CopyCmd) (a n : Nat) : List Byte := s.mem.bytes (fetchHome k.id a) n

/-- A number of the scale arrays that a command holds. -/
def State.heldScale (s : State) (k : CopyCmd) (a n : Nat) : Nat := leNat (s.mem.bytes (fetchHome k.id (scaleHold + a)) n)

/-! ### Elements -/

/-- The stored pattern of element c of row r of a side that is not COMP, from the bytes held. -/
def State.heldElem (s : State) (k : CopyCmd) (x : Side) (r c : Nat) : Nat :=
  if isBpn x.fmt then
    (List.range 8).foldl (fun v j =>
      v + (if (s.heldByte k (x.row r / 8 + j * (x.n / 8) + (x.i0 + c) / 8)).getLsbD ((x.i0 + c) % 8) then 2 ^ (7 - j) else 0)) 0
  else
    let a := x.row r + fmtBits x.fmt * (x.i0 + c)
    if fmtBits x.fmt = 4 then (s.heldByte k (a / 8)).toNat / 2 ^ (a % 8) % 16
    else leNat (s.heldBytes k (a / 8) (fmtBits x.fmt / 8))

/-- Masked bytes by address. -/
abbrev Bytes := List (Nat × Byte × Byte)

/-- Adds a masked byte. -/
def addByte (t : Bytes) (a : Nat) (b m : Byte) : Bytes :=
  let o := tget (0#8, 0#8) t a
  tset (0#8, 0#8) t a ((b &&& m) ||| (o.1 &&& ~~~m), o.2 ||| m)

/-- Adds whole bytes from an address upward. -/
def addBytes (t : Bytes) (a : Nat) (bs : List Byte) : Bytes :=
  (bs.mapIdx (fun i b => (a + i, b))).foldl (fun t x => addByte t x.1 x.2 0xFF#8) t

/-- Adds the pattern of element c of row r of a side that is not COMP. -/
def Side.addElem (x : Side) (r c v : Nat) (t : Bytes) : Bytes :=
  if isBpn x.fmt then
    (List.range 8).foldl (fun t j =>
      let bit : Byte := 1#8 <<< ((x.i0 + c) % 8)
      addByte t (x.row r / 8 + j * (x.n / 8) + (x.i0 + c) / 8) (if v / 2 ^ (7 - j) % 2 = 1 then bit else 0#8) bit) t
  else
    let a := x.row r + fmtBits x.fmt * (x.i0 + c)
    if fmtBits x.fmt = 4 then addByte t (a / 8) (BitVec.ofNat 8 (v % 16 * 2 ^ (a % 8))) (BitVec.ofNat 8 (15 * 2 ^ (a % 8)))
    else addBytes t (a / 8) (leBytes (fmtBits x.fmt / 8) v)

/-- The exact value of element c of row r of a cast's source (R273): BPN to 8 planes; with scale arrays the stored value times its row scale
and its block scale (R142, log entry 58). -/
def State.castVal (s : State) (k : CopyCmd) (x : Side) (r c : Nat) : FVal :=
  let v := codeVal (if isBpn x.fmt then 10 else x.fmt) (s.heldElem k x r c)
  if k.srcScaled then
    let t := tensorOfBytes (entBytes k.srcEnt)
    (v.mul (fBF16.decode (s.heldScale k (t.rowScaleAt (k.srcRow0 + r)) 2))).mul
      (fE5M3.decode (s.heldScale k (t.blockScaleAt (k.srcRow0 + r) ((x.i0 + c) / 64)) 1))
  else v

/-- The pattern of a cast's destination. -/
def castCode (md : RMode) (sat : Bool) (fmt : Nat) (v : FVal) : Nat := if isBpn fmt then codeOf md sat 10 v else codeOf md sat fmt v

/-! ### Runs -/

/-- The first aligned 64-byte piece at or above a multiple of 64 that has a byte of some range. -/
def nextPiece (lo : Nat) (l : List (Nat × Nat)) : Option Nat :=
  l.foldl (fun m x =>
    if x.1 + x.2 ≤ lo then m
    else
      let p := max lo x.1 / 64 * 64
      some (match m with | some q => min p q | none => p)) none

/-- The parts of ranges that lie in an aligned 64-byte piece. -/
def inPiece (p : Nat) (l : List (Nat × Nat)) : List (Nat × Nat) :=
  l.filterMap (fun x =>
    let lo := max p x.1
    let hi := min (p + 64) (x.1 + x.2)
    if lo < hi then some (lo, hi - lo) else none)

/-- The bytes of a slot that a transfer reads or writes (R274): 16 + LEN·e rounded up to 64, and never more than the slot (log entry 59). -/
def slotBytes (e len : Nat) : Nat := min (slotSize e) (64 * divUp (16 + len * e) 64)

/-- The bytes of a slot that a command reads, by the header it holds; 64 as long as it holds none. -/
def State.slotLen (s : State) (k : CopyCmd) (e at0 : Nat) : Nat :=
  let h := s.heldBytes k at0 16
  slotBytes e (if slotOk h then field h 8 2 else 0)

/-- Every slot of a COMP side's window: row and block. -/
def slotsOf (rows cols : Nat) : List (Nat × Nat) := (List.range rows).flatMap (fun r => (List.range (cols / 64)).map (fun q => (r, q)))

/-- The byte ranges that the runs of a phase go through. -/
def State.phaseSpans (s : State) (k : CopyCmd) (a b : Side) : List (Nat × Nat) :=
  let x := copyDesc k.desc
  match k.phase with
  | .scales => k.scaleSpans
  | .runs =>
    if a.comp then (slotsOf x.rows x.cols).map (fun u => (a.slot u.1 u.2, s.slotLen k (fmtBits a.fmt / 8) (a.slot u.1 u.2)))
    else a.runs x.rows x.cols
  | .writes => b.runs x.dstRows x.dstCols

/-- The columns of row r of a side that is not COMP whose last byte lies in a piece, first to last (excluded); the last byte of a BPN
element is that of its plane 7. -/
def Side.colsIn (x : Side) (cols r p : Nat) : Nat × Nat :=
  let first (lo : Nat) : Nat :=
    if isBpn x.fmt then 8 * (lo - (x.row r / 8 + 7 * (x.n / 8))) - x.i0
    else
      let o := x.row r + fmtBits x.fmt * x.i0
      divUp (8 * lo + 1 - o) (fmtBits x.fmt) - 1
  (min cols (first p), min cols (first (p + 64)))

/-- The elements of a side whose last byte lies in a piece: row and column. -/
def Side.elemsIn (x : Side) (rows cols p : Nat) : List (Nat × Nat) :=
  (List.range rows).flatMap (fun r =>
    let c := x.colsIn cols r p
    (List.range (c.2 - c.1)).map (fun i => (r, c.1 + i)))

/-- The 64-element blocks of a side whose last byte lies in a piece: row and block. -/
def Side.blocksIn (x : Side) (rows cols p : Nat) : List (Nat × Nat) :=
  (List.range rows).flatMap (fun r =>
    let c := x.colsIn cols r p
    ((List.range (divUp c.2 64 - c.1 / 64)).map (c.1 / 64 + ·)).filterMap (fun q =>
      let last := min cols (64 * q + 64) - 1
      if c.1 ≤ last && last < c.2 then some (r, q) else none))

/-- A plain copy whose ranges overlap reads every run before it writes any (R174, R276). -/
def holdsRuns (k : CopyCmd) (a b : Side) : Bool := (copyDesc k.desc).xop == 0 && copyOverlap k a b

/-- Consecutive columns of block q. -/
def blockCols (cols q : Nat) : List Nat := (List.range (min cols (64 * q + 64) - 64 * q)).map (64 * q + ·)

/-- A slot's bytes as a transfer writes them, from its address: up to a multiple of 64 within the slot, with bytes behind the values that the
spec leaves open (R274, log entry 59). -/
def slotWrite (e id at0 : Nat) (bs : List Byte) : Bytes :=
  addBytes [] at0 (bs ++ (List.range (slotBytes e (field bs 8 2) - bs.length)).map (fun i => Config.slotPad id (at0 + bs.length + i)))

/-- What a run writes, its bytes being held: the bytes of the destination, and the block scales of a quantise. -/
def State.runWrites (s : State) (k : CopyCmd) (a b : Side) (p : Nat) : Bytes × Bytes :=
  let x := copyDesc k.desc
  let e := fmtBits a.fmt / 8
  let put (u : List (Nat × Nat)) (f : Bytes → Nat × Nat → Bytes) : Bytes × Bytes := (u.foldl f [], [])
  let elems := a.elemsIn x.rows x.cols p
  let blocks := a.blocksIn x.rows x.cols p
  match k.phase with
  | .scales => ([], [])
  | .writes => put (b.elemsIn x.rows x.cols p) (fun t u => b.addElem u.1 u.2 (s.heldElem k a u.1 u.2) t)
  | .runs =>
    if holdsRuns k a b then ([], [])
    else match x.xop with
    | 0 => put elems (fun t u => b.addElem u.1 u.2 (s.heldElem k a u.1 u.2) t)
    | 1 => put elems (fun t u => b.addElem u.2 u.1 (s.heldElem k a u.1 u.2) t)
    | 2 => put elems (fun t u => b.addElem u.1 u.2 (castCode (rmode x.rm) x.sat b.fmt (s.castVal k a u.1 u.2)) t)
    | 3 =>
      let t := tensorOfBytes (entBytes k.dstEnt)
      blocks.foldl (fun w u =>
        let cs := blockCols x.cols u.2
        let q := quantBlock b.fmt (s.heldScale k (k.rowScales.1 + 2 * u.1) 2) (cs.map (fun c => codeVal a.fmt (s.heldElem k a u.1 c)))
        ((cs.zip q.1).foldl (fun t y => b.addElem u.1 y.1 y.2 t) w.1,
          addByte w.2 (t.blockScaleAt (k.dstRow0 + u.1) u.2) (BitVec.ofNat 8 q.2) 0xFF#8)) ([], [])
    | 4 => (blocks.flatMap (fun u =>
        slotWrite e k.id (b.slot u.1 u.2) (slotPacked e ((blockCols x.cols u.2).map (s.heldElem k a u.1)))), [])
    | 5 => (blocks.flatMap (fun u =>
        slotWrite e k.id (b.slot u.1 u.2) (slotElided e ((blockCols x.cols u.2).map (s.heldElem k a u.1)))), [])
    | _ => put ((slotsOf x.rows x.cols).filter (fun u =>
          let l := a.slot u.1 u.2 + s.slotLen k e (a.slot u.1 u.2)
          slotOk (s.heldBytes k (a.slot u.1 u.2) 16) && p < l && l ≤ p + 64)) (fun t u =>
        let sl := s.heldBytes k (a.slot u.1 u.2) (slotSize e)
        (List.range 64).foldl (fun t i => b.addElem u.1 (64 * u.2 + i) (slotElem sl e i) t) t)

/-- A slot whose header a run has read is not well-formed (R278). -/
def State.badSlot (s : State) (k : CopyCmd) (a : Side) (p : Nat) : Bool :=
  a.comp && k.phase == .runs && (slotsOf (copyDesc k.desc).rows (copyDesc k.desc).cols).any (fun u =>
    p ≤ a.slot u.1 u.2 && a.slot u.1 u.2 < p + 64 && !slotOk (s.heldBytes k (a.slot u.1 u.2) 16))

/-- The places a run reads, one for each of its ranges. -/
def State.readPlaces (s : State) (k : CopyCmd) (scr : Option Nat) (reads : List (Nat × Nat)) : List Place :=
  reads.map (fun x => s.readPlace k.part scr x.1)

/-- The places a run writes. -/
def State.writePlaces (s : State) (k : CopyCmd) (b : Side) (w : Bytes × Bytes) : List Place :=
  w.1.map (fun x => s.placeOf k.part b.scr x.1) ++ w.2.map (fun x => s.placeOf k.part none x.1)

/-- The first page that is missing among places. -/
def firstMissing (l : List Place) : Option Nat := l.findSome? (fun x => match x with | .missing a => some a | _ => none)

/-- A place that is lost. -/
def anyLost (l : List Place) : Bool := l.any (fun x => match x with | .lost => true | _ => false)

/-- Masked bytes by home, in aligned 64-byte pieces of consecutive bytes. -/
def homeRuns : Bytes → List (Nat × List (Byte × Byte))
  | [] => []
  | (a, x) :: t => match homeRuns t with
    | (b, l) :: r => if b = a + 1 && b % 64 ≠ 0 then (a, x :: l) :: r else (a, [x]) :: (b, l) :: r
    | [] => [(a, [x])]

/-- Masked bytes of a side by home. -/
def State.homeBytes (s : State) (k : CopyCmd) (scr : Option Nat) (w : Bytes) : Bytes :=
  w.foldl (fun t x => match s.placeOf k.part scr x.1 with
    | .home h => tset (0#8, 0#8) t h x.2
    | .host h => tset (0#8, 0#8) t h x.2
    | _ => t) []

/-- Runs of consecutive whole bytes that go to a peer: package, target address and bytes. -/
def State.peerRuns (s : State) (k : CopyCmd) (scr : Option Nat) : Bytes → List (Nat × Nat × List Byte)
  | [] => []
  | (a, b, _) :: t => match s.placeOf k.part scr a, s.peerRuns k scr t with
    | .peer pkg va, (p, v, l) :: r => if p = pkg && v = va + 1 then (pkg, va, b :: l) :: r else (pkg, va, [b]) :: (p, v, l) :: r
    | .peer pkg va, [] => [(pkg, va, [b])]
    | _, r => r

/-- Sends a message for a command on the data connection to a peer package (R20, R21; the partition there is
log entry 20's). -/
def State.sendFor (s : State) (k : CopyCmd) (pkg typ : Nat) (dst : Option Nat) (len : Nat) (payload : List Byte) : State :=
  let there := Config.peerPart k.part pkg (field payload 0 8 / 2 ^ 16) % 32
  let s1 := s.openConn pkg k.part there 0
  match s1.connFor pkg k.part there 0 with
  | none => s1
  | some c =>
    let id := s1.nextId
    let g := { dgMake typ id 0 payload with flags := 2#8 }
    let m : Msg := { id := id, conn := c.id, cmd := some k.id, dst := dst, len := len, sentAt := s1.clock, dg := g, backoff := 3600, retry := false }
    ((({ s1 with nextId := id + 1 }).updDev (fun d => { d with msgs := d.msgs ++ [m] })).pushOnce .peerTimeout { a := c.id }).sendOn c.id g

/-- Where the bytes of the phase's runs are held. -/
def CopyCmd.holdAt (k : CopyCmd) (a : Nat) : Nat := fetchHome k.id ((if k.phase = .scales then scaleHold else 0) + a)

/-- The peer bytes a run reads: package, where they are held, target address and length. -/
def State.peerReads (s : State) (k : CopyCmd) (scr : Option Nat) (reads : List (Nat × Nat)) : List (Nat × Nat × Nat × Nat) :=
  reads.filterMap (fun x => match s.readPlace k.part scr x.1 with
    | .peer pkg va => some (pkg, k.holdAt x.1, va, x.2)
    | _ => none)

/-- The bytes in the package that a run reads: their homes, where they are held, and their length. -/
def State.homeReads (s : State) (k : CopyCmd) (scr : Option Nat) (reads : List (Nat × Nat)) : List (Nat × Nat × Nat) :=
  reads.filterMap (fun x => match s.readPlace k.part scr x.1 with
    | .home h => some (h, k.holdAt x.1, x.2)
    | _ => none)

/-- The bytes a run reads are held. -/
def State.holdReads (s : State) (l : List (Nat × Nat × Nat)) : State :=
  l.foldl (fun s1 x => { s1 with mem := s1.mem.put x.2.1 (s.mem.bytes x.1 x.2.2) }) s

/-- The bytes of a run as pieces at their homes in the package. -/
def State.runPieces (s : State) (k : CopyCmd) (b : Side) (w : Bytes × Bytes) : List (Nat × List (Byte × Byte)) :=
  homeRuns (s.homeBytes k b.scr w.1) ++ homeRuns (s.homeBytes k none w.2)

/-- The bytes of a run that go to peers are sent (R20). -/
def State.sendPeers (s : State) (k : CopyCmd) (b : Side) (w : Bytes × Bytes) : State :=
  (s.peerRuns k b.scr w.1 ++ s.peerRuns k none w.2).foldl (fun s1 x =>
    s1.sendFor k x.1 1 none x.2.2.length (leBytes 8 x.2.1 ++ x.2.2)) s

/-! ### Starting -/

/-- The tiles of a command allow it to start (R266). -/
def copyTilesFree (c : Crew) (k : CopyCmd) : Bool :=
  (match copySrcTile k.desc with
   | some i => (match c.tiles[i]? with | some t => t.readable | none => false)
   | none => true) &&
  (match copyDstTile k.desc with
   | some i => (match c.tiles[i]? with | some t => t.writable | none => false)
   | none => true)

/-- The steward's earlier writes to ranges of bytes have drained (R174). -/
def State.srcDrained (s : State) (k : CopyCmd) (scr : Option Nat) (runs : List (Nat × Nat)) : Bool :=
  s.rangeDrained ⟨k.crew, 0⟩ k.part k.upto scr runs

/-- `COPY_START` (R173, R174, R266, R273): after the tile waits and the drains, command `a` starts. -/
def execCopyStart (s : State) : Host.Outcome State Fault Refusal :=
  let e := s.ctx.ev
  .next (match s.copyOf e.a with
    | none => s
    | some k =>
      if k.st ≠ .waiting then s
      else match s.crewOf k.crew with
        | none => s
        | some c =>
          let x := copyDesc k.desc
          let a := s.srcSide c k
          if !copyTilesFree c k || !s.srcDrained k a.scr (a.runs x.rows x.cols) || !s.srcDrained k none k.scaleSpans then s.defer .copyStart
          else
            let s1 := match copySrcTile k.desc with | some i => s.updTile k.crew i Tile.startRead | none => s
            let s2 := match copyDstTile k.desc with | some i => s1.updTile k.crew i (fun t => { t with st := 1 }) | none => s1
            (s2.updCopy k.id (fun k => { k with st := .running, phase := if k.scaleSpans = [] then .runs else .scales, run := 0 })).push
              .copyRun { a := k.id })

/-! ### Running -/

/-- The row scales of a quantise's window are positive normal BF16 values (R143, R273). -/
def State.rowScalesOk (s : State) (k : CopyCmd) : Bool :=
  (List.range (copyDesc k.desc).rows).all (fun r => bf16Normal (s.heldScale k (k.rowScales.1 + 2 * r) 2))

/-- The command goes on after the run of a piece (R173, R174, R273): with the next piece, or with the next phase; a quantise fails at a row
scale that is none, and after the last run the tiles are free. -/
def State.afterRun (s : State) (k : CopyCmd) (a b : Side) (p : Nat) : State :=
  let go (ph : CopyPhase) (n : Nat) : State :=
    (s.updCopy k.id (fun k => { k with phase := ph, run := n, fetched := false })).push .copyRun { a := k.id }
  let last : State :=
    ((s.copyTilesDone k).updCopy k.id (fun k => { k with st := .ending, moved := true, fetched := false })).push .copyCount { a := k.id }
  match nextPiece (p + 64) (s.phaseSpans k a b), k.phase with
  | some q, ph => go ph q
  | none, .scales => if (copyDesc k.desc).xop = 3 && !s.rowScalesOk k then s.copyFails k 2 else go .runs 0
  | none, .runs => if holdsRuns k a b then go .writes 0 else last
  | none, .writes => last

/-- The run of a piece, its pages being there and its source bytes held: what is complete is written, or waits (R371, R379), and a slot that is
not well-formed ends the command (R278). -/
def State.moveRun (s held : State) (k : CopyCmd) (a b : Side) (p : Nat) (from0 : List Nat) : State :=
  let w := held.runWrites k a b p
  let pl := held.writePlaces k b w
  if anyLost pl then s.copyFails k 5
  else if (firstMissing pl).isSome then s.updCopy k.id (fun k => { k with st := .parked })
  else match held.putRuns k.part (held.runPieces k b w) with
    | .error x => ({ s with ctx := { s.ctx with ev := { s.ctx.ev with d := 0 } } }).waitFor .copyRun x
    | .ok s1 =>
      let s2 := ((from0 ++ (held.runPieces k b w).map Prod.fst).foldl State.serveAt s1).sendPeers k b w
      if held.badSlot k a p then s2.copyFails k 2 else s2.afterRun k a b p

/-- `COPY_RUN` (R174, R273, R277, R278, R353, R409): command `a` moves its next run. It parks at a page that is missing, fails at a lost page,
an uncorrectable granule, a derived tile that could not be recomputed or a malformed slot, and fetches a peer's bytes first. -/
def execCopyRun (s : State) : Host.Outcome State Fault Refusal :=
  let e := s.ctx.ev
  .next (match s.copyOf e.a with
    | none => s
    | some k =>
      if k.st ≠ .running then s
      else match s.crewOf k.crew with
        | none => s
        | some c =>
          let a := s.srcSide c k
          let b := s.dstSide c k
          let p := (nextPiece k.run (s.phaseSpans k a b)).getD k.run
          let scr := if k.phase = .scales then none else a.scr
          let reads := if k.phase = .writes then [] else inPiece p (s.phaseSpans k a b)
          let pl := s.readPlaces k scr reads
          let peers := s.peerReads k scr reads
          let homes := s.homeReads k scr reads
          if anyLost pl then s.copyFails k 5
          else if (firstMissing pl).isSome then s.updCopy k.id (fun k => { k with st := .parked })
          else if !k.fetched && !peers.isEmpty then
            (if s.dev.msgs.any (fun m => m.cmd == some k.id && m.dst.isSome) then s.defer .copyRun
             else (peers.foldl (fun s1 x => s1.sendFor k x.1 2 (some x.2.1) x.2.2.2
                (leBytes 8 x.2.2.1 ++ leBytes 4 x.2.2.2 ++ leBytes 4 0)) s).defer .copyRun)
          else match homes.findSome? (fun x => s.readHold x.1) with
            | some x => s.waitFor .copyRun x
            | none =>
              let stale := (homes.flatMap (fun x => s.staleAt x.1)).eraseDups
              if stale ≠ [] && e.d = 0 then s.recomputeFirst .copyRun stale
              else if stale ≠ [] then s.copyFails k 5
              else match homes.findSome? (fun x => s.ueIn x.1 x.2.2) with
                | some _ => ((homes.flatMap (fun x => s.uesIn x.1 x.2.2)).eraseDups.foldl State.recordUe s).copyFails k 5
                | none => s.moveRun (s.holdReads homes) k a b p (homes.map Prod.fst))

/-- `COPY_RESUME` (R277): parked command `a` goes on at the run it stopped at. -/
def execCopyResume (s : State) : Host.Outcome State Fault Refusal :=
  let e := s.ctx.ev
  .next (match s.copyOf e.a with
    | some k =>
      if k.st = .parked then (s.updCopy k.id (fun k => { k with st := .running })).push .copyRun { a := k.id } else s
    | none => s)

/-- The page a parked command stopped at. -/
def State.parkedAt (s : State) (k : CopyCmd) : Option Nat :=
  match s.crewOf k.crew with
  | none => none
  | some c =>
    let a := s.srcSide c k
    let b := s.dstSide c k
    let p := (nextPiece k.run (s.phaseSpans k a b)).getD k.run
    let scr := if k.phase = .scales then none else a.scr
    let reads := if k.phase = .writes then [] else inPiece p (s.phaseSpans k a b)
    match firstMissing (s.readPlaces k scr reads) with
    | some x => some x
    | none =>
      let held := s.holdReads (s.homeReads k scr reads)
      firstMissing (held.writePlaces k b (held.runWrites k a b p))

/-- Parked commands of a partition try again. -/
def State.resumeCopies (s : State) (part : Nat) : State :=
  s.pushAll .copyResume ((s.copies.filter (fun k => k.part == part && k.st == .parked)).map (fun k => { a := k.id }))

/-- The address of the entry in which the leaf for a virtual address stands or would stand (R316). -/
def State.leafSlot (s : State) (va : Nat) : Nat → Nat → Nat
  | 0, tbl => tbl + 8 * (va / 2 ^ lvlShift 0 % lvlEntries 0)
  | lvl + 1, tbl =>
    let a := tbl + 8 * (va / 2 ^ lvlShift (lvl + 1) % lvlEntries (lvl + 1))
    let e := s.quadAt a
    if qbit e 63 && !qbit e 62 && nextOk e then s.leafSlot va lvl (bits e 47 12 * 4096) else a

/-- `PAGE_MIGRATION_DONE` (R318, R277): the migration service installs leaf `q` for the page of address `b` in partition `a`, after
which parked runs resume; a leaf with V 0 reports the page lost, and the commands parked at it fail with LOST. -/
def execPageMigrationDone (s : State) : Host.Outcome State Fault Refusal :=
  let e := s.ctx.ev
  .next (if qbit e.q 63 then
      ({ s with mem := s.mem.put (s.leafSlot e.b 4 (s.part e.a).conf.ptroot.toNat) (leBytes 8 e.q.toNat) }).resumeCopies e.a
    else
      (s.copies.filter (fun k => k.part == e.a && k.st == .parked &&
        (match s.parkedAt k with | some x => x / 65536 == e.b / 65536 | none => false))).foldl (fun s1 k => s1.copyFails k 5) s)

end Sys2Proof.Machine
end

