-- ==== Sys2Proof/Machine/Succinct.lean ====
section
/-! DEFINITION. Succinct regions (R358 to R380): registration and its checks, queries, insertion and deletion, the directory keeper's folds and
samples, and repacks. A query's answer is that of the region's logical string as it stands (R368, R373, R374). -/

namespace Sys2Proof.Machine

/-! ### The logical string (R359) -/

/-- The live bits of a block, in order. -/
def State.blockLive (s : State) (r : Region) (b : Nat) : List Bool :=
  let x := s.blockBits r b
  (List.range (s.bent r b).len).map (fun p => x / 2 ^ p % 2 == 1)

/-- The logical string of a region. -/
def State.liveBits (s : State) (r : Region) : List Bool := (List.range r.nblk).flatMap (s.blockLive r)

/-- The ones of a string. -/
def onesOf (l : List Bool) : Nat := (l.filter id).length

/-- The block and the offset of a position, from block `b` on; none where it lies past the end. -/
def locate (lens : List Nat) (b pos : Nat) : Option (Nat × Nat) :=
  match lens with
  | [] => none
  | n :: t => if pos < n then some (b, pos) else locate t (b + 1) (pos - n)

/-- The lengths of a region's blocks. -/
def State.blockLens (s : State) (r : Region) : List Nat := (List.range r.nblk).map (fun b => (s.bent r b).len)

/-! ### Queries (R366 to R370) -/

/-- REGION, CNT, RECA and POS of a query word. -/
def qwRegion (x : Quad) : Nat := bits x 61 52
def qwCnt (x : Quad) : Nat := bits x 47 42
def qwReca (x : Quad) : Bool := qbit x 41
def qwPos (x : Quad) : Nat := bits x 31 0

/-- The reserved bits of a query word are 0, with CNT where `cnt` and RECA where `reca`. -/
def qwOk (x : Quad) (cnt reca : Bool) : Bool :=
  bits x 63 62 == 0 && bits x 51 48 == 0 && bits x 40 32 == 0 && (cnt || qwCnt x == 0) && (reca || !qwReca x)

/-- The position of the j-th bit of a kind, j from 1, positions counted from `p`. -/
def selectBit (want : Bool) : List Bool → Nat → Nat → Option Nat
  | [], _, _ => none
  | b :: t, j, p => if b == want then (if j ≤ 1 then some p else selectBit want t (j - 1) (p + 1)) else selectBit want t j (p + 1)

/-- The first position, counted from `p`, after whose bit the excess, now `d` above the target, has come down to it. -/
def closeScan : List Bool → Nat → Nat → Option Nat
  | [], _, _ => none
  | true :: t, d, p => closeScan t (d + 1) (p + 1)
  | false :: t, d, p => if d ≤ 1 then some p else closeScan t (d - 1) (p + 1)

/-- Scanning back from position `p` over reversed bits: the greatest position whose excess is the target, `d` above which it is now. -/
def openScan : List Bool → Nat → Nat → Option Nat
  | [], _, _ => none
  | true :: t, d, p => if d ≤ 1 then some (p - 1) else openScan t (d - 1) (p - 1)
  | false :: t, d, p => openScan t (d + 1) (p - 1)

/-- What a query comes to: an answer, a refusal, or no match. -/
inductive Answer where
  | ok (x : Quad)
  | refused
  | noMatch
  deriving DecidableEq, Repr

/-- An answer that may find no match. -/
def Answer.found : Option Nat → Answer
  | some p => .ok (BitVec.ofNat 64 p)
  | none => .noMatch

/-- The result of a query form (fn of OP 0x3C) on a string (R368). -/
def succinctAnswer (l : List Bool) (fn i : Nat) : Answer :=
  let t := l.length
  let one := onesOf (l.take i)
  let nat (n : Nat) : Answer := .ok (BitVec.ofNat 64 n)
  match fn with
  | 0 => if i ≤ t then nat (i - one) else .refused
  | 1 => if i ≤ t then nat one else .refused
  | 2 => if 1 ≤ i then (match selectBit false l i 0 with | some p => nat p | none => .refused) else .refused
  | 3 => if 1 ≤ i then (match selectBit true l i 0 with | some p => nat p | none => .refused) else .refused
  | 4 => if i ≤ t then .ok (BitVec.ofInt 64 (2 * (one : Int) - i)) else .refused
  | 5 => if l[i]? = some true then .found (closeScan (l.drop (i + 1)) 1 (i + 1)) else .refused
  | 6 => if l[i]? = some false then .found (openScan (l.take i).reverse 1 i) else .refused
  | _ => if l[i]? = some true then .found (openScan (l.take i).reverse 1 i) else .refused

/-- A region of a partition. -/
def Part.region (p : Part) (h : Nat) : Option Region := p.regions.find? (fun r => r.handle == h)

/-- A query word that parks its lane (R367): a reserved bit, no such region, or its key. -/
def State.qwTrap (s : State) (x : Quad) (cnt reca wr : Bool) : Bool :=
  !qwOk x cnt reca || (match s.myPart.region (qwRegion x) with
    | some r => qbit s.me.pkr (2 * r.key) || (wr && qbit s.me.pkr (2 * r.key + 1))
    | none => true)

/-- Where a query's lane stands among the homes of requests. -/
def queryHome (lane : Nat) : Nat := 2 ^ 47 + lane

/-- A query or update word issues (R367): each head lane's query word is checked and asks for its step. `xr` holds the query word, `yr` an
operand, `d` takes the result. -/
def State.regionWord (s : State) (kind : ReqKind) (op : Instr) (cnt reca wr : Bool) (d xr yr : BitVec 6) (z : BitVec 4) : State :=
  if !s.evenG d || !s.evenG xr || !s.evenG yr then s.illegal
  else
    let word (l : Nat) : Quad := s.me.rd 64 xr.toNat l
    let fails := (s.headLanes.filter (fun l => s.qwTrap (word l) cnt reca wr)).map (fun l => (l, 0x03, 0, word l))
    if s.allFailed fails then s.trapFailed fails
    else
      let ls := s.headLanes.filter (fun l => !s.qwTrap (word l) cnt reca wr)
      let s1 := s.request (flagOf z) kind d.toNat true none (ls.map (fun l =>
        { lane := l, home := queryHome l, hi := false, x := word l, y := s.me.rd 64 yr.toNat l, dst := none, ea := word l, done := false }))
      let slice (l : Nat) : Nat := match s.myPart.region (qwRegion (word l)) with | some r => r.slice | none => 0
      (s1.pushAll op (ls.map (fun l => { r := s.self, a := s.nextId, b := l, c := slice l }))).trapFailed fails

/-- A query form (R367). -/
def State.queryWord (s : State) (fn : Nat) (x y : BitVec 6) (z : BitVec 4) : State :=
  s.regionWord (.succinct fn) .succinctQueryPerform false false false x y y z

/-- `RANK.0` d, a. -/
def execRank0 (x y : BitVec 6) (z : BitVec 4) (s : State) : Host.Outcome State Fault Refusal := .next (s.queryWord 0 x y z)
/-- `RANK.1` d, a. -/
def execRank1 (x y : BitVec 6) (z : BitVec 4) (s : State) : Host.Outcome State Fault Refusal := .next (s.queryWord 1 x y z)
/-- `SELB.0` d, a. -/
def execSelb0 (x y : BitVec 6) (z : BitVec 4) (s : State) : Host.Outcome State Fault Refusal := .next (s.queryWord 2 x y z)
/-- `SELB.1` d, a. -/
def execSelb1 (x y : BitVec 6) (z : BitVec 4) (s : State) : Host.Outcome State Fault Refusal := .next (s.queryWord 3 x y z)
/-- `EXC` d, a. -/
def execExc (x y : BitVec 6) (z : BitVec 4) (s : State) : Host.Outcome State Fault Refusal := .next (s.queryWord 4 x y z)
/-- `FCLOSE` d, a. -/
def execFclose (x y : BitVec 6) (z : BitVec 4) (s : State) : Host.Outcome State Fault Refusal := .next (s.queryWord 5 x y z)
/-- `FOPEN` d, a. -/
def execFopen (x y : BitVec 6) (z : BitVec 4) (s : State) : Host.Outcome State Fault Refusal := .next (s.queryWord 6 x y z)
/-- `ENCL` d, a. -/
def execEncl (x y : BitVec 6) (z : BitVec 4) (s : State) : Host.Outcome State Fault Refusal := .next (s.queryWord 7 x y z)

/-- `SADDR` d, a (R369). -/
def execSaddr (x y : BitVec 6) (z : BitVec 4) (s : State) : Host.Outcome State Fault Refusal :=
  .next (s.regionWord .saddr .saddrPerform false true false x y y z)
/-- `BINS` a, b (R376). -/
def execBins (x y : BitVec 6) (z : BitVec 4) (s : State) : Host.Outcome State Fault Refusal :=
  .next (s.regionWord .bins .binsPerform true false true y x y z)
/-- `BDEL` a, b (R376). -/
def execBdel (x y : BitVec 6) (z : BitVec 4) (s : State) : Host.Outcome State Fault Refusal :=
  .next (s.regionWord .bdel .bdelPerform true false true y x y z)

/-- An update of a region. -/
def ReqKind.updates : ReqKind → Bool
  | .bins => true
  | .bdel => true
  | _ => false

/-- A query or update of a region. -/
def ReqKind.asks : ReqKind → Bool
  | .succinct _ => true
  | .saddr => true
  | .bins => true
  | .bdel => true
  | _ => false

/-- What a step at a region waits for: a repack (R379), its channel (R346). -/
def State.regionHold (s : State) (g : Region) : Option Hold := if g.repacks.isEmpty then s.homeHold (g.home g.blk) else some .repack

/-- A lane's query or update may be performed as far as order goes (R156, R158, R376): its own older writes and requests at the region are
done, and of one update the lower lanes' have been performed. -/
def State.queryFree (s : State) (r : Ref) (part : Nat) (t : Stream) (q : Req) (l : LaneReq) (g : Region) : Bool :=
  !(s.writesOf r part).any (fun w => w.lane == l.lane && w.id < q.id && (g.vaOf w.home).isSome) &&
  !t.reqs.any (fun o => o.id < q.id && o.lanes.any (fun m => m.lane == l.lane && !m.done &&
    (if o.kind.asks then qwRegion m.x == g.handle else (g.vaOf m.home).isSome))) &&
  !(q.kind.updates && q.lanes.any (fun m => m.lane < l.lane && !m.done))

/-- The request, lane and region of a query step: request `a`, lane `b`. -/
def State.queryAt (s : State) : Option (Nat × Stream × Req × LaneReq × Region) :=
  let e := s.ctx.ev
  let part := s.partOf e.r.crew
  (s.streamOf e.r).bind (fun t => (t.reqs.find? (fun q => q.id == e.a)).bind (fun q =>
    (q.lanes.find? (fun l => l.lane == e.b && !l.done)).bind (fun l =>
      ((s.part part).region (qwRegion l.x)).map (fun g => (part, t, q, l, g)))))

/-- The lane's result and predicate 7 (R367). -/
def Stream.queryWrites (t : Stream) (d lane : Nat) (x : Quad) (ok : Bool) : List RegWrite :=
  t.wr 64 d lane x ++ [.p (32 * 7 + lane) ok]

/-- The directory pieces and the bits that a query of a block reads (R361, R370). -/
def Region.pieces (g : Region) (b : Nat) : List (Nat × Nat) :=
  [(g.gdir + 1024 * (b / 2 ^ 18), 1024), (g.sdir + 1024 * (b / 4096), 1024), (g.bdir + 512 * (b / 64), 512), (g.blk + 64 * b, 64)]

/-- The uncorrectable granules that a query form, or `SADDR` as 8, reads: in the pieces of the block of its position (of the last bit for a
position T), for a form that finds a position also of that, and in the stale blocks that a bracket query scans (log entry 22). -/
def State.queryUe (s : State) (g : Region) (fn pos : Nat) (ans : Answer) : List Nat :=
  let lens := s.blockLens g
  let prefixes := fn < 2 || fn == 4
  let here := if fn = 2 || fn = 3 then []
    else (locate lens 0 (if prefixes && pos = lens.foldl (· + ·) 0 then pos - 1 else pos)).toList
  let there := match ans with | .ok x => if prefixes || fn = 8 then [] else (locate lens 0 x.toNat).toList | _ => []
  let stale := if 5 ≤ fn && fn ≤ 7 then (List.range g.nblk).filter (fun b => (s.bent g b).stale) else []
  let read : List (Nat × Nat) := ((here ++ there).flatMap (fun x => g.pieces x.1)) ++ stale.map (fun b => (g.blk + 64 * b, 64))
  (read.flatMap (fun x => s.uesIn (g.home x.1) x.2)).eraseDups

/-- A granule of a region's directory. -/
def Region.dirGranule (g : Region) (u : Nat) : Bool := match g.vaOf u with | some va => g.isDir va | none => false

/-- A poisoned query (R353, R367): every granule it met is recorded, `DATA_POISON` with CODE 0x11 names the first, and the keeper rebuilds those of
the directory. -/
def State.poisonQuery (s : State) (r : Ref) (g : Region) (id : Nat) (us : List Nat) : State :=
  ((us.foldl State.recordUe s).sendAsync r 0x08 0x11 (BitVec.ofNat 64 (us.headD 0)) (s.wordOf r id)).updDev (fun d =>
    { d with ue := d.ue.filter (fun u => !(us.contains u && g.dirGranule u)) })

/-- A step of a lane at a region: it waits for its order and the region, and is then served (R346, R379). -/
def State.atRegion (s : State) (op : Instr) (f : Nat → Stream → Req → LaneReq → Region → State → State) : State :=
  match s.queryAt with
  | none => s
  | some (part, t, q, l, g) =>
    if !s.queryFree s.ctx.ev.r part t q l g then s.defer op
    else match s.regionHold g with
      | some x => s.waitFor op x
      | none => f part t q l g (s.serveAt (g.home g.blk))

/-- `SUCCINCT_QUERY_PERFORM` (R367, R368): lane `b` of request `a` is answered. -/
def execSuccinctQueryPerform (s : State) : Host.Outcome State Fault Refusal :=
  let r := s.ctx.ev.r
  .next (s.atRegion .succinctQueryPerform (fun _ t q l g s =>
    let fn := match q.kind with | .succinct f => f | _ => 0
    let ans := succinctAnswer (s.liveBits g) fn (qwPos l.x)
    let no : List RegWrite := t.queryWrites q.d l.lane 0xFFFFFFFFFFFFFFFF#64 false
    match s.queryUe g fn (qwPos l.x) ans with
    | u :: us => (s.poisonQuery r g q.id (u :: us)).performed r q.id [l] no
    | [] => match ans with
      | .ok x => s.performed r q.id [l] (t.queryWrites q.d l.lane x true)
      | .refused => s.performed r q.id [l] no
      | .noMatch =>
        let s1 := if g.trap then
            s.updStream r (fun t => { t with pend := updIf (fun p => p.id == q.id) (fun p =>
              { p with bracket := insertBy (fun a b => a.1 < b.1) (l.lane, BitVec.ofNat 64 (qwPos l.x)) p.bracket }) t.pend })
          else s
        s1.performed r q.id [l] no))

/-- The address of the record of slot k of block b (R363). -/
def Region.recordAt (g : Region) (b k : Nat) : Nat := g.recs + (256 * b + k) * g.recsz

/-- The result of a `SADDR` (R369): an address; none for a refusal. -/
def State.saddrOf (s : State) (g : Region) (x : Quad) : Option Quad :=
  match locate (s.blockLens g) 0 (qwPos x) with
  | none => none
  | some (b, o) =>
    if qwReca x then
      let l := s.blockLive g b
      if g.recsz = 0 || l.getD o false = false then none
      else some (BitVec.ofNat 64 (g.recordAt b (onesOf (l.take o))))
    else some (BitVec.ofNat 64 ((g.blk + 64 * b + o / 8) * 8 + o % 8))

/-- `SADDR_PERFORM` (R369). -/
def execSaddrPerform (s : State) : Host.Outcome State Fault Refusal :=
  let r := s.ctx.ev.r
  .next (s.atRegion .saddrPerform (fun _ t q l g s =>
    let ans : Answer := match s.saddrOf g l.x with | some x => .ok x | none => .refused
    let no : List RegWrite := t.queryWrites q.d l.lane 0xFFFFFFFFFFFFFFFF#64 false
    match s.queryUe g 8 (qwPos l.x) ans, ans with
    | u :: us, _ => (s.poisonQuery r g q.id (u :: us)).performed r q.id [l] no
    | [], .ok x => s.performed r q.id [l] (t.queryWrites q.d l.lane x true)
    | [], _ => s.performed r q.id [l] no))

/-! ### Blocks as items (R377 to R379) -/

/-- A live bit with the place of its record (block and slot); none for a 0 and for an inserted 1. -/
structure Item where
  bit : Bool
  src : Option (Nat × Nat)
  deriving DecidableEq, Repr

/-- The items of a list of bits of block b, `k` ones before them. -/
def itemsFrom (b : Nat) : List Bool → Nat → List Item
  | [], _ => []
  | true :: t, k => ⟨true, some (b, k)⟩ :: itemsFrom b t (k + 1)
  | false :: t, k => ⟨false, none⟩ :: itemsFrom b t k

/-- The items of a block. -/
def State.blockItems (s : State) (g : Region) (b : Nat) : List Item := itemsFrom b (s.blockLive g b) 0

/-- The longest prefix that fits `cap` bits and `ones` ones, and the rest. -/
def takeFit : Nat → Nat → List Item → List Item × List Item
  | 0, _, l => ([], l)
  | _, _, [] => ([], [])
  | cap + 1, ones, x :: t =>
    if x.bit && ones = 0 then ([], x :: t)
    else
      let r := takeFit cap (if x.bit then ones - 1 else ones) t
      (x :: r.1, r.2)

/-- The ones a block may hold (R358). -/
def Region.maxOnes (g : Region) : Nat := if g.recsz = 0 then 512 else 256

/-- Items pushed through blocks from c on, at most `fuel` of them (R377): the blocks with their new items; none when bits remain. -/
def State.cascade (s : State) (g : Region) : Nat → Nat → List Item → Option (List (Nat × List Item))
  | 0, _, _ => none
  | fuel + 1, c, items =>
    if g.nblk ≤ c then none
    else
      let r := takeFit 512 g.maxOnes items
      if r.2 = [] then some [(c, r.1)]
      else (s.cascade g fuel (c + 1) (r.2 ++ (if c + 1 < g.nblk then s.blockItems g (c + 1) else []))).map (fun l => (c, r.1) :: l)

/-- Bits as a number, the first at bit 0. -/
def bitsNat : List Bool → Nat
  | [] => 0
  | b :: t => (if b then 1 else 0) + 2 * bitsNat t

/-- The least prefix excess of bits (R360), above `m` and from excess `e` on. -/
def minExcess : List Bool → Int → Int → Int
  | [], _, m => m
  | b :: t, e, m =>
    let e1 := if b then e + 1 else e - 1
    minExcess t e1 (min m e1)

/-- The block entry of a string of live bits, not stale. -/
def bentOfBits (l : List Bool) : BEnt :=
  { stale := false, exmin := minExcess l 0 0, extot := 2 * (onesOf l : Int) - l.length, len := l.length, ones := onesOf l }

/-- The bytes of a companion record, which may cross a page. -/
def State.recordBytes (s : State) (g : Region) (b k : Nat) : List Byte :=
  (List.range g.recsz).map (fun i => s.mem.get (g.home (g.recordAt b k + i)))

/-- Writes bytes of a region's pages at their home, within one page, with fresh ECC (R353) and the marks of R406. -/
def State.putPiece (s : State) (g : Region) (va : Nat) (bs : List Byte) : State :=
  let h := g.home va
  let data := bs.map (fun b => (b, 0xFF#8))
  ({ s with
    mem := s.mem.put h bs
    dev := { s.dev with ue := clearUe s.dev.ue h data, ce := clearUe s.dev.ce h data } }).markStale h bs.length

/-- Writes bytes of a region's pages at their homes, at most two pages of them. -/
def State.putRegion (s : State) (g : Region) (va : Nat) (bs : List Byte) : State :=
  let k := 65536 - va % 65536
  let s1 := s.putPiece g va (bs.take k)
  if bs.length ≤ k then s1 else s1.putPiece g (va + k) (bs.drop k)

/-- Writes a block with new items: bits, gap 0, entry, records; `s0` is the state the records are read in. Slots that held a record of the block
and hold none any more are 0 (R363, R378, log entry 63). -/
def State.putBlock (s s0 : State) (g : Region) (b : Nat) (items : List Item) : State :=
  let l := items.map Item.bit
  let s1 := (s.putRegion g (g.blk + 64 * b) (leBytes 64 (bitsNat l))).setBent g b (bentOfBits l)
  if g.recsz = 0 then s1
  else ((items.filter Item.bit).mapIdx (fun k x => (k, x))).foldl (fun s2 x =>
    s2.putRegion g (g.recordAt b x.1) (match x.2.src with
      | some (c, j) => s0.recordBytes g c j
      | none => List.replicate g.recsz 0#8)) ((List.range (onesOf (s0.blockLive g b))).foldl (fun s2 k =>
        if onesOf l ≤ k then s2.putRegion g (g.recordAt b k) (List.replicate g.recsz 0#8) else s2) s1)

/-- The delta records of changed blocks: one for each superblock whose totals changed, with its first changed block (R378). -/
def State.deltasOf (s : State) (g : Region) (l : List (Nat × List Item)) : List Delta :=
  ((l.map (fun x => x.1 / 64)).eraseDups).filterMap (fun sb =>
    let mine := l.filter (fun x => x.1 / 64 == sb)
    let d1 := mine.foldl (fun (a : Int) x => a + (onesOf (x.2.map Item.bit) : Int) - (s.bent g x.1).ones) 0
    let dl := mine.foldl (fun (a : Int) x => a + (x.2.length : Int) - (s.bent g x.1).len) 0
    if d1 = 0 && dl = 0 then none else some ⟨sb, (mine.head?.map Prod.fst).getD 0, d1, dl⟩)

/-- The logs have room for records. -/
def Region.room (g : Region) (l : List Delta) : Bool :=
  (l.map (fun d => d.sb / 4096)).all (fun x =>
    (tget [] g.logs x).length + (l.filter (fun d => d.sb / 4096 == x)).length ≤ 16)

/-- An update in effect: blocks, records and delta records. -/
def State.applyBlocks (s : State) (part : Nat) (g : Region) (l : List (Nat × List Item)) : State :=
  let ds := s.deltasOf g l
  let s1 := l.foldl (fun s1 x => s1.putBlock s g x.1 x.2) s
  ds.foldl (fun s2 d => (s2.updRegion part g.handle (fun r => r.append d)).pushFold part g.handle (d.sb / 4096)) s1

/-- The blocks after an insertion of n bits at POS (R377): a refusal code, or the changed blocks. -/
def State.insertBits (s : State) (g : Region) (pos n : Nat) (x : Quad) : Nat × List (Nat × List Item) :=
  let lens := s.blockLens g
  let t := lens.foldl (· + ·) 0
  if t < pos || 2 ^ 32 - 1 < t + n then (2, [])
  else
    let at0 := if pos = 0 then some (0, 0) else (locate lens 0 (pos - 1)).map (fun y => (y.1, y.2 + 1))
    match at0 with
    | none => (2, [])
    | some (b0, o) =>
      let items := s.blockItems g b0
      let new := (List.range n).map (fun k => (⟨qbit x k, none⟩ : Item))
      match s.cascade g 5 b0 (items.take o ++ new ++ items.drop o) with
      | some l => (0, l)
      | none => (1, [])

/-- `BINS_PERFORM` (R376 to R378): lane `b` of request `a` inserts its bits. -/
def execBinsPerform (s : State) : Host.Outcome State Fault Refusal :=
  .next (s.atRegion .binsPerform (fun part t q l g s1 =>
    let r := s1.insertBits g (qwPos l.x) (qwCnt l.x + 1) l.y
    if r.1 = 0 && !g.room (s1.deltasOf g r.2) then s.defer .binsPerform
    else
      (if r.1 = 0 then s1.applyBlocks part g r.2 else s1).performed s.ctx.ev.r q.id [l]
        (t.queryWrites q.d l.lane (BitVec.ofNat 64 r.1) (r.1 == 0))))

/-- The blocks after a deletion of n bits from POS (R377): a refusal code, or the changed blocks and the deleted bits. -/
def State.deleteBits (s : State) (g : Region) (pos n : Nat) : Nat × List (Nat × List Item) × List Bool :=
  let lens := s.blockLens g
  match locate lens 0 pos, locate lens 0 (pos + n - 1) with
  | some (b0, o0), some (b1, o1) =>
    if 5 < b1 + 1 - b0 then (2, [], [])
    else
      let cut (b : Nat) (l : List Item) : List Item × List Item :=
        let lo := if b = b0 then o0 else 0
        let hi := if b = b1 then o1 + 1 else l.length
        (l.take lo ++ l.drop hi, (l.take hi).drop lo)
      let bs := ((List.range (b1 + 1 - b0)).map (· + b0)).map (fun b => (b, cut b (s.blockItems g b)))
      (0, (bs.filter (fun x => x.2.2 != [])).map (fun x => (x.1, x.2.1)), bs.flatMap (fun x => x.2.2.map Item.bit))
  | _, _ => (2, [], [])

/-- `BDEL_PERFORM` (R376 to R378): lane `b` of request `a` removes its bits and receives them. -/
def execBdelPerform (s : State) : Host.Outcome State Fault Refusal :=
  .next (s.atRegion .bdelPerform (fun part t q l g s1 =>
    let r := s1.deleteBits g (qwPos l.x) (qwCnt l.x + 1)
    if r.1 = 0 && !g.room (s1.deltasOf g r.2.1) then s.defer .bdelPerform
    else
      (if r.1 = 0 then s1.applyBlocks part g r.2.1 else s1).performed s.ctx.ev.r q.id [l] (t.queryWrites q.d l.lane
        (BitVec.ofNat 64 (if r.1 = 0 then bitsNat r.2.2 else r.1)) (r.1 == 0))))

/-! ### The directory (R361, R362, R372) -/

/-- The least prefix excess over blocks lo to hi - 1 from their entries. -/
def State.unitMin (s : State) (g : Region) (lo hi : Nat) : Int :=
  ((List.range (hi - lo)).foldl (fun (a : Int × Int) i =>
    let e := s.bent g (lo + i)
    (a.1 + e.extot, min a.2 (a.1 + e.exmin))) (0, 0)).2

/-- Ones and live bits of blocks lo to hi - 1 from their entries. -/
def State.unitSums (s : State) (g : Region) (lo hi : Nat) : Nat × Nat :=
  (List.range (hi - lo)).foldl (fun a i =>
    let e := s.bent g (lo + i)
    (a.1 + e.ones, a.2 + e.len)) (0, 0)

/-- The 16 bytes of a superblock or group entry (R361). -/
def cumEntry (ones len : Int) (xmin : Int) : List Byte :=
  leBytes 4 (BitVec.ofInt 32 ones).toNat ++ leBytes 4 (BitVec.ofInt 32 len).toNat ++ leBytes 4 (BitVec.ofInt 32 xmin).toNat ++ leBytes 4 0

/-- Writes directory bytes. -/
def State.putDir (s : State) (g : Region) (va : Nat) (bs : List Byte) : State := { s with mem := s.mem.put (g.home va) bs }

/-- Builds every superblock entry, group entry and the sector table from the block entries (R364, R379). -/
def State.buildDir (s : State) (g : Region) : State × List (Int × Int × Int) :=
  let nsb := divUp g.nblk 64
  let ngr := divUp nsb 64
  let nse := divUp ngr 64
  let s1 := (List.range nsb).foldl (fun s1 i =>
    let a := s.unitSums g (i / 4096 * 2 ^ 18) (64 * i)
    s1.putDir g (g.sdir + 16 * i) (cumEntry a.1 a.2 (s.unitMin g (64 * i) (min g.nblk (64 * i + 64))))) s
  let s2 := (List.range ngr).foldl (fun s2 i =>
    let a := s.unitSums g (i / 64 * 2 ^ 18) (4096 * i)
    s2.putDir g (g.gdir + 16 * i) (cumEntry a.1 a.2 (s.unitMin g (4096 * i) (min g.nblk (4096 * i + 4096))))) s1
  (s2, (List.range nse).map (fun i =>
    let a := s.unitSums g 0 (2 ^ 18 * i)
    ((a.1 : Int), (a.2 : Int), s.unitMin g (2 ^ 18 * i) (min g.nblk (2 ^ 18 * i + 2 ^ 18)))))

/-- Adds deltas to the two cumulative values of an entry. -/
def State.addCum (s : State) (g : Region) (va : Nat) (d : Delta) : State :=
  let b := s.mem.bytes (g.home va) 16
  s.putDir g va (cumEntry ((field b 0 4 : Int) + d.d1) ((field b 4 4 : Int) + d.dlen) (lowInt 32 true (field b 8 4)))

/-- Sets XMIN of an entry. -/
def State.setXmin (s : State) (g : Region) (va : Nat) (x : Int) : State :=
  s.putDir g (va + 8) (leBytes 4 (BitVec.ofInt 32 x).toNat)

/-- The oldest record of a sector's log is folded (R372). -/
def State.foldOne (s : State) (part : Nat) (g : Region) (sector : Nat) : State :=
  match tget [] g.logs sector with
  | [] => s
  | d :: rest =>
    let nsb := divUp g.nblk 64
    let ngr := divUp nsb 64
    let sbs := ((List.range 4096).map (· + 4096 * sector)).filter (fun i => d.sb < i && i < nsb)
    let grs := ((List.range 64).map (· + 64 * sector)).filter (fun i => d.sb / 64 < i && i < ngr)
    let s1 := sbs.foldl (fun s1 i => s1.addCum g (g.sdir + 16 * i) d) s
    let s2 := grs.foldl (fun s2 i => s2.addCum g (g.gdir + 16 * i) d) s1
    let e := s2.bent g d.blk
    let s3 := if e.stale then
        s2.setBent g d.blk { e with
          exmin := minExcess (s2.blockLive g d.blk) 0 0
          stale := rest.any (fun x => x.blk == d.blk) }
      else s2
    let sb := d.sb
    let s4 := s3.setXmin g (g.sdir + 16 * sb) (s3.unitMin g (64 * sb) (min g.nblk (64 * sb + 64)))
    let gr := sb / 64
    let s5 := s4.setXmin g (g.gdir + 16 * gr) (s4.unitMin g (4096 * gr) (min g.nblk (4096 * gr + 4096)))
    s5.updRegion part g.handle (fun r => { r with
      logs := tset [] r.logs sector rest
      sect := r.sect.mapIdx (fun i x =>
        (if sector < i then x.1 + d.d1 else x.1, if sector < i then x.2.1 + d.dlen else x.2.1,
         if i = sector then s5.unitMin g (2 ^ 18 * i) (min g.nblk (2 ^ 18 * i + 2 ^ 18)) else x.2.2)) })

/-- `DELTA_FOLD` (R372, R324): the keeper folds the oldest record of the log of sector `c` of region `b` in partition `a`; a region that a
reset waits to clear is gone with its last record. The keeper's reads wait for the channel (R346). -/
def execDeltaFold (s : State) : Host.Outcome State Fault Refusal :=
  let e := s.ctx.ev
  .next (match (s.part e.a).region e.b with
    | some g => if s.channelHolds (g.home g.sdir) then s.deferAt .deltaFold g.slice else (s.foldOne e.a g e.c).updPart e.a (fun q => { q with regions := q.regions.filter (fun r => !(r.dying && r.logs == [])) })
    | none => s)

/-- All pending records of a region are folded. -/
def State.foldAll (s : State) (part handle : Nat) : Nat → State
  | 0 => s
  | fuel + 1 =>
    match (s.part part).region handle with
    | none => s
    | some g => match g.logs with
      | [] => s
      | (x, _) :: _ => (s.foldOne part g x).foldAll part handle fuel

/-- `DKSTAT_SAMPLE` (R375). -/
def execDkstatSample (s : State) : Host.Outcome State Fault Refusal :=
  .next (s.updPart s.ctx.ev.a (fun q =>
    let lens := q.regions.flatMap (fun r => r.logs.map (fun l => l.2.length))
    { q with dkstat := BitVec.ofNat 64 (q.regions.length % 2 ^ 11 * 2 ^ 53 + min 65535 (lens.foldl (· + ·) 0) * 2 ^ 32 +
        q.dkHeld % 2 ^ 16 * 2 ^ 16 + q.dkDirwr % 2 ^ 11 * 2 ^ 5 + lens.foldl max 0 % 32) }))

/-! ### Registration (R363 to R365) -/

/-- `ACCESS` or `MISALIGNED` of the address of a descriptor that the keeper reads: it is no global address, not aligned, or refused by the
steward's `PKR` (R364). -/
def State.globalTrap (s : State) (v : Quad) (n : Nat) : Option (Nat × Quad) :=
  if bits v 63 57 ≠ 0 then some (0x03, v)
  else if v.toNat % n ≠ 0 then some (0x04, v)
  else match s.walk s.crew.part v.toNat with
    | some (leaf, _) => if pkrRefuses s.me.pkr leaf false then some (0x03, v) else none
    | none => none

/-- `SREG` kX, kY (R364). Steward only. -/
def execSreg (x y : BitVec 6) (s : State) : Host.Outcome State Fault Refusal :=
  .next (if !s.isSteward then s.illegal
    else
      let v := s.uni64 x
      match s.globalTrap v 64 with
      | some (c, a) => s.trapHead c 0 a
      | none => (s.post none none []).push .sregDone { r := s.self, a := s.nextId, q := v, b := y.toNat })

/-- The region a descriptor describes. -/
def regionOf (d : List Byte) (desc : Nat) : Region :=
  { handle := 0
    desc := desc
    nblk := field d 0 4
    recsz := field d 4 2
    trap := field d 6 1 % 2 == 1
    blk := field d 8 8
    bdir := field d 0x10 8
    sdir := field d 0x18 8
    gdir := field d 0x20 8
    recs := field d 0x28 8
    pages := []
    slice := 0
    key := 0
    logs := []
    sect := []
    repacks := []
    dying := false }

/-- The areas of a region with their sizes (R358); true where the page must be writable. -/
def Region.areas (g : Region) : List (Nat × Nat × Bool) :=
  [(g.blk, 64 * g.nblk, true), (g.bdir, 8 * g.nblk, false), (g.sdir, 16 * divUp g.nblk 64, false),
   (g.gdir, 1024 * divUp g.nblk (2 ^ 18), false)] ++ (if g.recsz = 0 then [] else [(g.recs, 256 * g.recsz * g.nblk, true)])

/-- Every element before another of a list passes a test with it. -/
def pairwise {α : Type} (p : α → α → Bool) : List α → Bool
  | [] => true
  | x :: t => t.all (p x) && pairwise p t

/-- Check 1 of R364. -/
def regionDescOk (d : List Byte) (g : Region) : Bool :=
  field d 6 1 / 2 == 0 && zeroAt d 7 1 && zeroAt d 0x34 12 && 1 ≤ g.nblk && g.nblk ≤ 2 ^ 23 &&
  (g.recsz == 0 || (g.recsz % 16 == 0 && g.recsz ≤ 768)) && (g.recsz != 0 || g.recs == 0) &&
  g.areas.all (fun a => a.1 % 4096 == 0) && pairwise (fun a b => a.1 + a.2.1 ≤ b.1 || b.1 + b.2.1 ≤ a.1) g.areas

/-- The 64 KiB pages of a range. -/
def pagesOf (r : Nat × Nat) : List Nat :=
  if r.2 = 0 then [] else (List.range ((r.1 + r.2 - 1) / 65536 + 1 - r.1 / 65536)).map (fun i => (r.1 / 65536 + i) * 65536)

/-- A region with its pages; none where one is not mapped in package memory. -/
def State.withPages (s : State) (part : Nat) (g : Region) : Option Region :=
  let ps := (((g.desc, 64) :: g.areas.map (fun a => (a.1, a.2.1))).flatMap pagesOf).eraseDups
  (ps.mapM (fun p => (s.homeOf part p).map (fun h => (p, h)))).map (fun l =>
    { g with
      pages := l
      slice := match l with | x :: _ => sliceOf x.2 | [] => 0
      key := match s.walk part g.desc with | some (leaf, _) => bits leaf 55 51 | none => 0 })

/-- Check 2 of R364. -/
def State.regionLayoutOk (s : State) (part : Nat) (g : Region) : Bool :=
  let e (b : Nat) : BEnt := bentOf (leNat (s.gbytes part (g.bdir + 8 * b) 8))
  (List.range g.nblk).all (fun b => (e b).len ≤ 512 && (g.recsz == 0 ||
    popcount 512 (leNat (s.gbytes part (g.blk + 64 * b) 64) % 2 ^ (e b).len) ≤ 256)) &&
  (List.range g.nblk).foldl (fun n b => n + (e b).len) 0 < 2 ^ 32

/-- Check 3 of R364, with R29; a page that is migrating is not core-accessible (R317). -/
def State.regionPlaceOk (s : State) (part : Nat) (g : Region) : Bool :=
  let wr (p : Nat) : Bool := g.areas.any (fun a => a.2.2 && (pagesOf (a.1, a.2.1)).contains p)
  g.pages.all (fun p =>
    match s.walk part p.1 with
    | none => false
    | some (leaf, _) =>
      qbit leaf 58 && !qbit leaf 59 && qbit leaf 56 && (!wr p.1 || qbit leaf 57) && bits leaf 55 51 == g.key && p.2 < 2 ^ 46 && sliceOf p.2 == g.slice &&
      s.frameUp p.2 && (!s.dev.reduced || stackOfSlice g.slice == 0 || stackOfSlice g.slice == 6) && (s.regionAt p.2).isNone)

/-- The cause for which a registration is refused; 0 for none. -/
def State.sregCause (s : State) (part : Nat) (d : List Byte) (g : Region) (pages : Option Region) : Nat :=
  if !regionDescOk d g then 1
  else if !s.regionLayoutOk part g then 2
  else match pages with
    | none => 3
    | some r =>
      if !s.regionPlaceOk part r then 3
      else if 64 ≤ (s.parts.flatMap (fun p => p.2.regions.filter (fun x => x.slice == r.slice))).length ||
        1024 ≤ (s.part part).regions.length then 4
      else 0

/-- STATUS of a descriptor: CODE and CAUSE (R363). -/
def regionStatus (code cause : Nat) : List Byte := [BitVec.ofNat 8 code, BitVec.ofNat 8 cause, 0#8, 0#8]

/-- A registered region's directory is built and the region stands in the partition (R364). -/
def State.register (s : State) (part : Nat) (g : Region) : State :=
  let s1 := (List.range g.nblk).foldl (fun s1 b => s1.setBent g b (bentOfBits (s.blockLive g b))) s
  let r := s1.buildDir g
  r.1.updPart part (fun q => { q with regions := q.regions ++ [{ g with sect := r.2 }] })

/-- What the keeper's read of a descriptor waits for (R346, R379). -/
def State.descHold (s : State) (part va : Nat) : Option Hold := (s.homeOf part va).bind s.homeHold

/-- `SREG_DONE` (R364): the keeper checks the descriptor at `q` and registers the region, or refuses it. -/
def execSregDone (s : State) : Host.Outcome State Fault Refusal :=
  let e := s.ctx.ev
  let part := s.partOf e.r.crew
  .next (match s.streamOf e.r with
    | none => s
    | some _ =>
      let va := e.q.toNat
      let d := s.gbytes part va 64
      let g := regionOf d va
      let pages := s.withPages part g
      let cause := s.sregCause part d g pages
      match s.descHold part va, (if cause = 0 then pages else none) with
      | some x, _ => s.waitFor .sregDone x
      | none, some r =>
        let h := s.freeNumber 0 1024 ((s.part part).regions.map Region.handle)
        (match s.gputTry part (va + 0x30) (regionStatus 1 0) with
         | .error x => s.waitFor .sregDone x
         | .ok s1 => (s1.register part { r with handle := h }).arrive e.r e.a [.k e.b (BitVec.ofNat 64 h), kp7 true])
      | none, none =>
        (match s.gputTry part (va + 0x30) (regionStatus 2 cause) with
         | .error x => s.waitFor .sregDone x
         | .ok s1 => s1.arrive e.r e.a [.k e.b 0xFFFFFFFFFFFFFFFF#64, kp7 false]))

/-- `SUNREG` kX (R365). Steward only. -/
def execSunreg (x : BitVec 6) (s : State) : Host.Outcome State Fault Refusal :=
  .next (if !s.isSteward then s.illegal
    else (s.post none none []).push .sunregDone { r := s.self, a := s.nextId, q := s.uni64 x })

/-- A query or update of a region has been issued and not performed. -/
def State.regionAsked (s : State) (part handle : Nat) : Bool :=
  s.allCrews.any (fun c => c.part == part && (s.streamsOf c).any (fun t => t.reqs.any (fun q =>
    q.kind.asks && q.lanes.any (fun l => !l.done && qwRegion l.x == handle))))

/-- `SUNREG_DONE` (R365): after the queries and updates accepted before it, the pending records are folded and the region is no longer
registered. -/
def execSunregDone (s : State) : Host.Outcome State Fault Refusal :=
  let e := s.ctx.ev
  let part := s.partOf e.r.crew
  let h := bits e.q 61 52
  .next (match (s.part part).region h with
    | none => s.arrive e.r e.a [kp7 false]
    | some g =>
      if (s.part part).trees.any (fun t => t.region == h && !s.dev.failedWalkers.contains t.walker) then s.arrive e.r e.a [kp7 false]
      else if s.regionAsked part h || !g.repacks.isEmpty then s.defer .sunregDone
      else
        let s1 := s.foldAll part h 512
        (s1.updPart part (fun q => { q with regions := q.regions.filter (fun r => r.handle != h) })).arrive e.r e.a [kp7 true])

/-! ### Repacks (R379) -/

/-- `SREPACK` kX, bN (R379). Steward only. -/
def execSrepack (x y : BitVec 6) (s : State) : Host.Outcome State Fault Refusal :=
  .next (if !s.isSteward then s.illegal
    else
      let v := s.uni64 x
      match s.myPart.region (bits v 61 52) with
      | none => s.trapHead 0x03 0 v
      | some _ => s.push .srepackAccept { r := s.self, q := v, a := y.toNat, b := s.crew.part })

/-- Items filled into blocks of `cap` bits and at most `ones` ones (R363). -/
def fillBlocks (cap ones : Nat) : Nat → List Item → List (List Item)
  | 0, _ => []
  | fuel + 1, l =>
    let r := takeFit cap ones l
    if r.2 = [] then [r.1] else r.1 :: fillBlocks cap ones fuel r.2

/-- The relaid blocks of a region under a slack. -/
def State.relaid (s : State) (g : Region) (slack : Nat) : List (List Item) :=
  let l := (List.range g.nblk).flatMap (s.blockItems g)
  fillBlocks (512 - slack) g.maxOnes (l.length + 1) l

/-- The cause for which a repack is refused; 0 for none. -/
def State.repackCause (s : State) (g : Region) (x : Quad) : Nat :=
  if 448 < bits x 8 0 || bits x 63 62 != 0 || bits x 51 9 != 0 then 1
  else if g.nblk < (s.relaid g (bits x 8 0)).length then 5
  else 0

/-- A repack ends: STATUS is written and 64 bytes are counted, with the error bit when it is refused (R170, R379). -/
def State.repackEnd (s : State) (part : Nat) (g : Region) (k : Repack) (cause : Nat) : State :=
  (s.gput part (g.desc + 0x30) (if cause = 0 then regionStatus 1 0 else regionStatus 2 cause)).countBar k.crew k.barrier 0 64 (cause != 0)

/-- `SREPACK_ACCEPT` (R379): the repack is refused, or from now on the region's accesses wait; a second one waits for its turn. -/
def execSrepackAccept (s : State) : Host.Outcome State Fault Refusal :=
  let e := s.ctx.ev
  let part := e.b
  .next (match (s.part part).region (bits e.q 61 52) with
    | none => s
    | some g =>
      let k : Repack := ⟨s.nextId, e.r.crew, e.a, e.q⟩
      let cause := s.repackCause g e.q
      if g.repacks.isEmpty && cause ≠ 0 then s.repackEnd part g k cause
      else
        let s1 := { s with nextId := s.nextId + 1 }.updRegion part g.handle (fun r => { r with repacks := r.repacks ++ [k] })
        if g.repacks.isEmpty then s1.push .srepackDone e else s1)

/-- The relay in effect: every block, its entry and its records, and the whole directory; the delta logs are empty. -/
def State.relay (s : State) (part : Nat) (g : Region) (slack : Nat) : State :=
  let bs := s.relaid g slack
  let s1 := (List.range g.nblk).foldl (fun s1 b => s1.putBlock s g b (bs.getD b [])) s
  let r := s1.buildDir g
  r.1.updRegion part g.handle (fun x => { x with logs := [], sect := r.2 })

/-- `SREPACK_DONE` (R379): the relay of the region's first repack ends; the next one has its turn. -/
def execSrepackDone (s : State) : Host.Outcome State Fault Refusal :=
  let e := s.ctx.ev
  let part := e.b
  .next (match (s.part part).region (bits e.q 61 52) with
    | none => s
    | some g => match g.repacks with
      | [] => s
      | k :: rest =>
        let cause := s.repackCause g k.x
        let s1 := if cause = 0 then s.relay part g (bits k.x 8 0) else s
        let s2 := (s1.repackEnd part g k cause).updRegion part g.handle (fun r => { r with repacks := rest })
        match rest with
        | n :: _ => s2.push .srepackDone { r := ⟨n.crew, 0⟩, q := n.x, a := n.barrier, b := part }
        | [] => s2)

end Sys2Proof.Machine
end

