-- ==== Sys2Proof/Machine/Walker.lean ====
section
/-! DEFINITION. The cluster walkers (R29, R34, R148, R381 to R397): binding trees, queries, appends and samples. Each visit and each append is
one step at the region's home, which waits while a repack runs (R379, R394). -/

namespace Sys2Proof.Machine

/-! ### Arithmetic (R148, R388, R392) -/

/-- A BF16 pattern widened to F32. -/
def widen (x : Nat) : Nat := x % 2 ^ 16 * 2 ^ 16

/-- F32 x - y, RNE. -/
def fsub (x y : Nat) : Nat := fF32.add .rne x (y ^^^ 2 ^ 31)

/-- A finite pattern of a format. -/
def Fmt.finite (f : Fmt) (x : Nat) : Bool := match f.decode x with | .num _ _ _ => true | _ => false

/-- An exact value added to an F32 sum, rounded by a mode. -/
def faddVal (md : RMode) (v : Nat) (x : FVal) : Nat := fF32.ofVal md false ((fF32.decode v).add md x)

/-- The dot product of BF16 vectors: exact products, each addition RNE (R148). -/
def wdot (q c : List Nat) : Nat :=
  (q.zip c).foldl (fun v x => faddVal .rne v ((fBF16.decode x.1).mul (fBF16.decode x.2))) 0

/-- The norm of F32 values: squares and sums RU, square root RU (R388, R392). -/
def wnorm (l : List Nat) : Nat := fF32.sqrt .ru (l.foldl (fun v x => fF32.add .ru v (fF32.mul .ru x x)) 0)

/-- unorm(x - y) of F32 vectors (R392). -/
def unorm (x y : List Nat) : Nat := wnorm ((x.zip y).map (fun a => fsub a.1 a.2))

/-- dist2(x, y) of F32 vectors, all RNE (R392). -/
def dist2 (x y : List Nat) : Nat :=
  (x.zip y).foldl (fun v a => fF32.add .rne v (let d := fsub a.1 a.2; fF32.mul .rne d d)) 0

/-- x < y in F32. -/
def flt (x y : Nat) : Bool := (fF32.decode x).lt (fF32.decode y)

/-- rne(c + (x - c) / n, BF16) of BF16 patterns, exact with one rounding (R392). -/
def wtoward (c x n : Nat) : Nat :=
  match fBF16.decode c with
  | .num _ _ _ =>
    let v := dyAdd (dyMul ((n : Int) - 1, 0) (fBF16.decode c).toInt) (fBF16.decode x).toInt
    fBF16.round .rne false (decide (v.1 < 0)) v.1.natAbs n v.2
  | .inf _ => fBF16.nan
  | .nan => (fBF16.firstNan [c]).getD fBF16.nan

/-- The mean of component j of rows of BF16 patterns (R393): the F32 sum in order, over their number, then to BF16, each RNE. -/
def wmean (rows : List (List Nat)) (j : Nat) : Nat :=
  let sum := rows.foldl (fun v r => fF32.add .rne v (widen (r.getD j 0))) 0
  let avg := match fF32.decode sum with
    | .num neg m e => fF32.round .rne false neg m rows.length e
    | _ => sum
  fBF16.ofVal .rne false (fF32.decode avg)

/-! ### Trees and records (R381, R382) -/

/-- A node's record. -/
structure NodeRec where
  c : List Nat
  mv : List Nat
  rad : Nat
  n : Nat
  tok : List Nat
  deriving DecidableEq, Repr

/-- The patterns of a list of elements of `n` bytes. -/
def patterns (bs : List Byte) (off n k : Nat) : List Nat := (List.range k).map (fun i => field bs (off + n * i) n)

/-- A record of a tree of dimension d. -/
def nodeOf (d : Nat) (bs : List Byte) : NodeRec :=
  ⟨patterns bs 0 2 d, patterns bs (2 * d) 2 d, field bs (4 * d) 4, field bs (4 * d + 4) 4, patterns bs (4 * d + 16) 4 16⟩

/-- The bytes of a record up to the end of TOK. -/
def NodeRec.bytes (r : NodeRec) : List Byte :=
  r.c.flatMap (leBytes 2) ++ r.mv.flatMap (leBytes 2) ++ leBytes 4 r.rad ++ leBytes 4 r.n ++ leBytes 8 0 ++ r.tok.flatMap (leBytes 4)

/-- A bound tree's handle record in a partition (R34: also when its walker has failed). -/
def Part.tree (p : Part) (h : Nat) : Option Tree := p.trees.find? (fun t => t.handle == h)

/-- The walker of a tree has failed. -/
def State.treeDead (s : State) (t : Tree) : Bool := s.dev.failedWalkers.contains t.walker

/-- Updates a tree. -/
def State.updTree (s : State) (part h : Nat) (f : Tree → Tree) : State :=
  s.updPart part (fun q => { q with trees := updIf (fun t => t.handle == h) f q.trees })

/-- The address of the record of the "(" at a position. -/
def State.nodeAt (s : State) (g : Region) (p : Nat) : Nat :=
  match locate (s.blockLens g) 0 p with
  | some (b, o) => g.recordAt b (onesOf ((s.blockLive g b).take o))
  | none => g.recs

/-- The record of the "(" at a position. -/
def State.node (s : State) (g : Region) (d p : Nat) : NodeRec :=
  nodeOf d ((List.range (4 * d + 80)).map (fun i => s.mem.get (g.home (s.nodeAt g p + i))))

/-- Writes the record of the "(" at a position. -/
def State.putNode (s : State) (g : Region) (p : Nat) (r : NodeRec) : State := s.putRegion g (s.nodeAt g p) r.bytes

/-- The string is one tree (R381): one balanced bracket string. -/
def oneTree : List Bool → Nat → Bool → Bool
  | [], d, started => d == 0 && started
  | true :: t, d, started => (d != 0 || !started) && oneTree t (d + 1) true
  | false :: t, d, started => d != 0 && oneTree t (d - 1) started

/-- The greatest excess of a string, 0 or more: the depth of a tree (R381). -/
def maxExcess : List Bool → Int → Int → Int
  | [], _, m => m
  | b :: t, e, m =>
    let e1 := if b then e + 1 else e - 1
    maxExcess t e1 (max m e1)

/-- The positions of the leaves. -/
def leavesFrom : List Bool → Nat → List Nat
  | true :: false :: t, p => p :: leavesFrom (false :: t) (p + 1)
  | _ :: t, p => leavesFrom t (p + 1)
  | [], _ => []

/-- The position of the ")" of a "(". -/
def closeOf (l : List Bool) (p : Nat) : Option Nat := closeScan (l.drop (p + 1)) 1 (p + 1)

/-- The children of a node, from position q on; none where the string is not balanced. -/
def childrenFrom (l : List Bool) : Nat → Nat → Option (List Nat)
  | 0, _ => some []
  | fuel + 1, q =>
    match l[q]? with
    | none => none
    | some false => some []
    | some true => (closeOf l q).bind (fun c => (childrenFrom l fuel (c + 1)).map (fun t => q :: t))

/-- The children of the node at p. -/
def childrenOf (l : List Bool) (p : Nat) : Option (List Nat) := childrenFrom l l.length (p + 1)

/-- Row t of a tensor of rank 2 of BF16 elements as patterns, read at its home. -/
def State.bf16Row (s : State) (part : Nat) (t : Tensor) (i d : Nat) : List Nat :=
  let bs := s.gbytes part (t.rowBit 0 0 i / 8) t.rowBytes
  if t.comp then (List.range d).map (fun j => slotElem (bs.drop (slotSize 2 * (j / 64))) 2 (j % 64)) else patterns bs 0 2 d

/-! ### Binding (R383, R384) -/

/-- `WTREE` kX, kY (R29, R383). Steward only. -/
def execWtree (x y : BitVec 6) (s : State) : Host.Outcome State Fault Refusal :=
  .next (if !s.isSteward then s.illegal
    else if s.dev.reduced then s.trapHead 0x0C 0 0#64
    else
      let v := s.uni64 x
      (s.post none none []).push (if qbit v 63 then .wtreeUnbindDone else .wtreeBindDone) { r := s.self, a := s.nextId, q := v, b := y.toNat })

/-- A tensor that a tree may use. -/
def treeTensorOk (t : Tensor) (d : Nat) : Bool := t.valid && !t.derived && t.fmt == 2 && t.rank == 2 && t.extent 3 == d

/-- Every page that a tensor's rows lie in is on a memory stack. -/
def State.tensorOnStack (s : State) (part : Nat) (t : Tensor) (stack : Nat) : Bool :=
  (List.range (t.extent 2)).all (fun i => (pagesOf (t.rowBit 0 0 i / 8, t.rowBytes)).all (fun p =>
    match s.homeOf part p with
    | some h => stackOfSlice (sliceOf h) == stack
    | none => false))

/-- The shape of a tree (check 2 of R384). -/
def State.treeShapeOk (s : State) (g : Region) (d : Nat) : Bool :=
  let l := s.liveBits g
  oneTree l 0 false && decide (maxExcess l 0 0 ≤ 32) && g.recsz == 6 * d &&
  (leavesFrom l 0).all (fun p => let n := (s.node g d p).n; n ≤ 16 && (n != 0 || l.length == 2))

/-- The cause for which a tree is not bound; 0 for none (R384). -/
def State.bindCause (s : State) (part : Nat) (v : Quad) : Nat :=
  let q := s.part part
  let d := if qbit v 24 then 128 else 64
  let kt := q.tensor (bits v 51 40)
  let vt := q.tensor (bits v 39 28)
  match q.region (bits v 61 52) with
  | none => 1
  | some g =>
    let stack := stackOfSlice g.slice
    if qbit v 62 || bits v 27 26 != 0 || bits v 23 0 != 0 || !treeTensorOk kt d || !treeTensorOk vt d || kt.ext != vt.ext then 1
    else if !s.treeShapeOk g d then 2
    else if !s.tensorOnStack part kt stack || !s.tensorOnStack part vt stack then 3
    else
      let w := 2 * stack + (if qbit v 25 then 1 else 0)
      let bound (p : Part) : List Tree := p.trees.filter (fun t => !s.treeDead t)
      if 16 ≤ (s.parts.flatMap (fun p => (bound p.2).filter (fun t => t.walker == w))).length || 256 ≤ (bound q).length then 4
      else if (bound q).any (fun t => t.region == g.handle) then 5
      else 0

/-- The refusal that kY receives (R384). -/
def treeRefused (cause : Nat) : Quad := 0xFFFFFFFFFFFFFF00#64 + BitVec.ofNat 64 cause

/-- The handle a new tree takes: a free one, else the first of a tree whose walker has failed. -/
def State.treeHandle (s : State) (q : Part) : Nat :=
  let h := s.freeNumber 0 256 (q.trees.map Tree.handle)
  if h < 256 then h else ((q.trees.find? s.treeDead).map Tree.handle).getD 0

/-- `WTREE_BIND_DONE` (R384): the walker checks and binds the tree of word `q`, or refuses it. -/
def execWtreeBindDone (s : State) : Host.Outcome State Fault Refusal :=
  let e := s.ctx.ev
  let part := s.partOf e.r.crew
  let v := e.q
  .next (match s.streamOf e.r with
    | none => s
    | some _ =>
      match ((s.part part).region (bits v 61 52)).bind s.regionHold with
      | some x => s.waitFor .wtreeBindDone x
      | none =>
        let cause := s.bindCause part v
        match (s.part part).region (bits v 61 52), cause with
        | some g, 0 =>
          let h := s.treeHandle (s.part part)
          let t : Tree :=
            { handle := h, region := g.handle, ktid := bits v 51 40, vtid := bits v 39 28, d := if qbit v 24 then 128 else 64,
              walker := 2 * stackOfSlice g.slice + (if qbit v 25 then 1 else 0), epoch := 0 }
          (s.updPart part (fun q => { q with trees := q.trees.filter (fun x => x.handle != h) ++ [t] })).arrive e.r e.a
            [.k e.b (BitVec.ofNat 64 h), kp7 true]
        | _, c => s.arrive e.r e.a [.k e.b (treeRefused c), kp7 false])

/-- An append of a tree of a partition waits. -/
def State.appendWaits (s : State) (part h : Nat) : Bool :=
  s.agenda.any (fun x => x.op == .wappendStep && bits x.arg.q 7 0 == h && s.partOf x.arg.r.crew == part)

/-- A query has been accepted and has not ended, on a tree of a partition. -/
def State.queryRuns (s : State) (part h : Nat) : Bool := s.queries.any (fun k => k.accepted && k.part == part && k.tree == h)

/-- The reserved bits of an unbinding tree word, and the fields that it leaves 0 (R383). -/
def unbindOk (v : Quad) : Bool := bits v 62 26 == 0 && bits v 23 8 == 0

/-- `WTREE_UNBIND_DONE` (R384): after the tree's accepted commands have ended its handle is free. A tree whose walker has failed is answered
`ENGINE` (R34, log entry 64). -/
def execWtreeUnbindDone (s : State) : Host.Outcome State Fault Refusal :=
  let e := s.ctx.ev
  let part := s.partOf e.r.crew
  let h := bits e.q 7 0
  .next (match s.streamOf e.r with
    | none => s
    | some _ =>
      match (s.part part).tree h with
      | some t =>
        if !unbindOk e.q then s.arrive e.r e.a [.k e.b (treeRefused 1), kp7 false]
        else if s.treeDead t then s.arrive e.r e.a [.k e.b (treeRefused 6), kp7 false]
        else if s.queryRuns part h || s.appendWaits part h then s.defer .wtreeUnbindDone
        else
          (s.updPart part (fun q => { q with trees := q.trees.filter (fun x => x.handle != h) })).arrive e.r e.a
            [.k e.b (BitVec.ofNat 64 h), kp7 true]
      | none => s.arrive e.r e.a [.k e.b (treeRefused 1), kp7 false])

/-! ### Queries (R385, R386) -/

def WQuery.wl (k : WQuery) : Nat := field k.desc 0 1
def WQuery.tile (k : WQuery) : Nat := field k.desc 1 1
def WQuery.barrier (k : WQuery) : Nat := field k.desc 2 1
def WQuery.handle (k : WQuery) : Nat := field k.desc 3 1
def WQuery.cap (k : WQuery) : Nat := field k.desc 4 4
def WQuery.entry (k : WQuery) : Nat := field k.desc 8 8

/-- A query of a number. -/
def State.wqueryOf (s : State) (id : Nat) : Option WQuery := s.queries.find? (fun k => k.id == id)

/-- Updates a query. -/
def State.updQuery (s : State) (id : Nat) (f : WQuery → WQuery) : State :=
  { s with queries := updIf (fun k => k.id == id) f s.queries }

/-- `WQUERY` kX, kY (R29, R385): a query from the 32-byte descriptor, with the registers as they stand (R208). Steward only. -/
def execWquery (x y : BitVec 6) (s : State) : Host.Outcome State Fault Refusal :=
  .next (if !s.isSteward then s.illegal
    else if s.dev.reduced then s.trapHead 0x0C 0 0#64
    else
      let v := s.uni64 x
      match s.descTrap v 32 32 true with
      | some (c, a) => s.trapHead c 0 a
      | none =>
        let k : WQuery :=
          { id := s.nextId, part := s.crew.part, crew := s.crew.id, task := s.crew.task, qid := s.uni32 y, desc := s.descBytes v 32,
            pkr := s.me.pkr, theta := s.crew.wtheta, tau := s.crew.wtau, seed := s.crew.wseed, upto := s.nextId, accepted := false,
            sending := false, tree := 0, walker := none, q := [], qn := 0#32, m := s.crew.wseed, count := 0, vis := 0, root := true, path := [],
            last := none, code := 0, cause := 0 }
        { s with queries := s.queries ++ [k], nextId := s.nextId + 1 }.push .wqueryAccept { a := k.id })

/-- A query ends with a code and a cause. -/
def State.queryEnds (s : State) (id code cause : Nat) : State :=
  (s.updQuery id (fun k => { k with code := code, cause := cause })).push .wquerySummary { a := id }

/-- A page that may take entries: LOC 0, W and CA set, allowed by the key rights as at issue. -/
def State.entryPage (s : State) (k : WQuery) (va : Nat) : Bool :=
  va < 2 ^ 57 && (match s.walk k.part va with
    | some (leaf, _) => bits leaf 61 60 = 0 && qbit leaf 57 && qbit leaf 58 && !pkrRefuses k.pkr leaf true
    | none => false)

/-- The pages of entries 0 to CAP. -/
def State.entriesOk (s : State) (k : WQuery) : Bool :=
  (pagesOf (k.entry, 32 * (k.cap + 1))).all (s.entryPage k)

/-- Check 1 of R386. -/
def wqueryDescOk (c : Crew) (k : WQuery) (d : Nat) : Bool :=
  k.wl < 16 && zeroAt k.desc 0x10 16 && (k.barrier < 64 || k.barrier == 0xFF) && 1 ≤ k.cap && k.cap ≤ 2 ^ 20 && k.entry % 32 == 0 &&
  (match c.tiles[k.tile]? with | some t => t.st != 0 && 2 * d ≤ t.bytes | none => false)

/-- Takes a place at the tree's walker, if one is free and it is the query's turn (R386, R394). -/
def State.wqueryTurn (s : State) (k : WQuery) (t : Tree) : Bool :=
  0 < tget 64 s.dev.walkFree t.walker &&
  !s.queries.any (fun x => !x.accepted && x.id < k.id && x.code == 0 &&
    (match (s.part x.part).tree x.handle with | some y => y.walker == t.walker | none => false)) &&
  !((s.part k.part).conf.det && s.appendWaits k.part t.handle)

/-- The first checks of an accepted query; 0 for none failed (R386). -/
def State.wqueryCause (s : State) (c : Crew) (k : WQuery) (t : Tree) : Nat :=
  if !wqueryDescOk c k t.d then 1
  else if s.treeDead t then 6
  else if !s.entriesOk k then 3
  else 0

/-- The bytes of a query's tile have been read (R386): the vector is checked, and the walk begins. -/
def State.queryVector (s : State) (k : WQuery) (q : List Nat) : State :=
  if q.any (fun x => !fBF16.finite x) then s.queryEnds k.id 2 2
  else if (match s.taskOf k.task with | some t => t.quiet | none => false) then s.queryEnds k.id 2 5
  else
    let qn := fF32.sqrt .ru (q.foldl (fun v x => faddVal .ru v ((fBF16.decode x).mul (fBF16.decode x))) 0)
    (s.updQuery k.id (fun k => { k with q := q.map (BitVec.ofNat 32), qn := BitVec.ofNat 32 qn, m := k.seed })).push .walkerVisit { a := k.id }

/-- A tile of a crew as a query's transfer out of it starts or ends (R173). -/
def State.updQtile (s : State) (k : WQuery) (f : Tile → Tile) : State := s.updCrew k.crew (fun c => c.updTile k.tile f)

/-- `WQUERY_ACCEPT` (R173, R386): query `a` takes a place and is checked; once the steward's earlier writes to its tile have drained and the tile
can be read, the tile is draining while it is read; then the query vector is checked and the walk begins. -/
def execWqueryAccept (s : State) : Host.Outcome State Fault Refusal :=
  let e := s.ctx.ev
  .next (match s.wqueryOf e.a with
    | none => s
    | some k => match s.crewOf k.crew, (s.part k.part).tree k.handle with
      | none, _ => s
      | some _, none => s.queryEnds k.id 2 1
      | some c, some t =>
        if !k.accepted then
          (if !s.wqueryTurn k t then s.defer .wqueryAccept
           else
             let s1 := ((s.updQuery k.id (fun k => { k with accepted := true, tree := t.handle, walker := some t.walker })).updTask k.task
               (fun t => { t with inflight := t.inflight + 1 })).updDev (fun d =>
                 { d with walkFree := tset 64 d.walkFree t.walker (tget 64 d.walkFree t.walker - 1) })
             let cause := s.wqueryCause c k t
             if cause ≠ 0 then s1.queryEnds k.id 2 cause else s1.push .wqueryAccept e)
        else
          match c.tiles[k.tile]? with
          | none => s.queryEnds k.id 2 1
          | some tile =>
            if k.sending then
              ((s.updQuery k.id (fun k => { k with sending := false })).updQtile k Tile.endRead).queryVector k
                (patterns (s.mem.bytes (c.shareHome + tile.offset) (2 * t.d)) 0 2 t.d)
            else if !tile.readable || !s.rangeDrained ⟨k.crew, 0⟩ k.part k.upto (some k.crew) [(tile.offset, 2 * t.d)] then s.defer .wqueryAccept
            else ((s.updQuery k.id (fun k => { k with sending := true })).updQtile k Tile.startRead).push .wqueryAccept e)

/-! ### The walk (R387 to R389) -/

/-- Where the walk goes next. -/
inductive Goes where
  | visit (p : Nat) (path : List Nat)
  | ended
  | malformed
  deriving DecidableEq, Repr

/-- The next position under entered nodes, after child `last` of the innermost (R387). -/
def walkNext (l : List Bool) : List Nat → Option Nat → Goes
  | [], _ => .ended
  | p :: up, none => if l[p + 1]? = some true then .visit (p + 1) (p :: up) else .malformed
  | p :: up, some c =>
    match closeOf l c with
    | none => .malformed
    | some e => match l[e + 1]? with
      | none => .malformed
      | some true => .visit (e + 1) (p :: up)
      | some false => walkNext l up (some p)

/-- Where a query goes next, from the bits as they stand. -/
def WQuery.goes (k : WQuery) (l : List Bool) : Goes :=
  if k.root then (if l[0]? = some true then .visit 0 [] else .malformed) else walkNext l k.path k.last

/-- A query emits an entry (R389), or ends with OVERFLOW: the state, and whether the walk goes on. -/
def State.emit (s : State) (k : WQuery) (t : Tree) (kind p sv dl n : Nat) : Except Hold (State × Bool) :=
  if k.count = k.cap then .ok (s.queryEnds k.id 3 0, false)
  else
    let at0 := k.entry + 32 * (k.count + 1)
    let bs := leBytes 4 k.qid.toNat ++ leBytes 4 p ++ leBytes 4 sv ++ leBytes 4 dl ++ [BitVec.ofNat 8 kind, 0#8, 0#8, 0#8] ++ leBytes 4 n ++
      leBytes 4 t.epoch ++ leBytes 4 0
    match s.gputTry k.part at0 bs with
    | .error x => .error x
    | .ok s1 =>
      .ok ((s1.updQuery k.id (fun k => { k with count := k.count + 1 })).updTask k.task (fun t => { t with
        lists := tset [] t.lists k.wl (t.list k.wl ++ [BitVec.ofNat 64 at0]), pushed := t.pushed + 1, room := t.room - 1 }), true)

/-- The opening test of a visit (R387, R388). The visit waits where its entry cannot be written yet. -/
def State.openTest (s : State) (k : WQuery) (t : Tree) (l : List Bool) (p : Nat) (path : List Nat) (r : NodeRec) : Except Hold State :=
  let sv := wdot (k.q.map BitVec.toNat) r.c
  let dl := fF32.mul .ru k.qn.toNat r.rad
  let done : WQuery → WQuery := fun k => { k with vis := k.vis + 1, root := false, path := path, last := some p }
  let s1 := s.updQuery k.id done
  if fcmp 3 (fF32.decode dl) (fF32.decode k.theta.toNat) then
    let lo := fsub sv dl
    (s1.emit k t 0 p sv dl r.n).map (fun r1 =>
      if r1.2 then
        (r1.1.updQuery k.id (fun k => { k with m := if flt k.m.toNat lo then BitVec.ofNat 32 lo else k.m })).push .walkerVisit { a := k.id }
      else r1.1)
  else if flt (fF32.add .ru sv dl) (fsub k.m.toNat k.tau.toNat) then .ok (s1.push .walkerVisit { a := k.id })
  else if l[p + 1]? ≠ some true then
    (s1.emit k t 1 p sv dl r.n).map (fun r1 => if r1.2 then r1.1.push .walkerVisit { a := k.id } else r1.1)
  else .ok ((s1.updQuery k.id (fun k => { k with path := p :: path, last := none })).push .walkerVisit { a := k.id })

/-- `WALKER_VISIT` (R387 to R389): query `a` visits its next node; with no node left it ends. A query whose walker has failed is cancelled (R34). -/
def execWalkerVisit (s : State) : Host.Outcome State Fault Refusal :=
  let e := s.ctx.ev
  .next (match s.wqueryOf e.a with
    | none => s
    | some k =>
      match (s.part k.part).tree k.tree with
      | none => s.queryEnds k.id 4 6
      | some t =>
        if s.treeDead t then s.queryEnds k.id 4 6
        else match (s.part k.part).region t.region with
          | none => s.queryEnds k.id 5 2
          | some g => match s.regionHold g with
            | some x => s.waitFor .walkerVisit x
            | none =>
              let l := s.liveBits g
              match k.goes l with
              | .ended => s.queryEnds k.id 1 0
              | .malformed => s.queryEnds k.id 5 2
              | .visit p path => match (s.serveAt (g.home g.blk)).openTest k t l p path (s.node g t.d p) with
                | .error x => s.waitFor .walkerVisit x
                | .ok s1 => s1)

/-- The summary (R389). -/
def State.summary (s : State) (k : WQuery) : List Byte :=
  let epoch := match (s.part k.part).tree k.handle with | some t => t.epoch | none => 0
  leBytes 4 k.qid.toNat ++ [BitVec.ofNat 8 k.code, BitVec.ofNat 8 k.cause, 0#8, 0#8] ++ leBytes 4 k.count ++ leBytes 4 k.m.toNat ++
    leBytes 4 k.vis ++ leBytes 4 epoch ++ leBytes 8 s.clock

/-- `WQUERY_SUMMARY` (R386, R390): query `a` ends: the summary is written, except a refusal's where entry 0 cannot take it, the count is
made and the place is free. -/
def execWquerySummary (s : State) : Host.Outcome State Fault Refusal :=
  let e := s.ctx.ev
  .next (match s.wqueryOf e.a with
    | none => s
    | some k =>
      match (if k.code = 2 && (k.entry % 32 != 0 || !s.entryPage k k.entry) then .ok s else s.gputTry k.part k.entry (s.summary k)) with
      | .error x => s.waitFor .wquerySummary x
      | .ok s0 =>
        let s1 : State := { s0 with queries := s0.queries.filter (fun x => x.id != k.id) }
        let s2 := if k.barrier < 64 then s1.countBar k.crew k.barrier 0 32 (k.code != 1) else s1
        match k.walker with
        | some w =>
          ((s2.updTask k.task (fun t => { t with inflight := t.inflight - 1 })).updDev (fun d =>
            { d with walkFree := freePlace w d.walkFree })).push .slackwaterReport { a := k.task }
        | none => s2)

/-! ### Appends (R391 to R393) -/

/-- `WAPPEND` kX, kY (R29, R391). Steward only. -/
def execWappend (x y : BitVec 6) (s : State) : Host.Outcome State Fault Refusal :=
  .next (if !s.isSteward then s.illegal
    else if s.dev.reduced then s.trapHead 0x0C 0 0#64
    else (s.post none none []).push .wappendStep { r := s.self, a := s.nextId, q := s.uni64 x, b := y.toNat })

/-- The path of an append: positions and records from the root to a leaf (R392); none where the string is not balanced. -/
def State.appendPath (s : State) (g : Region) (d : Nat) (l : List Bool) (k : List Nat) : Nat → Nat → Option (List Nat)
  | 0, _ => none
  | fuel + 1, p =>
    match childrenOf l p with
    | none => none
    | some [] => some [p]
    | some (c0 :: cs) =>
      let dist (c : Nat) : Nat := dist2 k ((s.node g d c).c.map widen)
      let best := cs.foldl (fun (b : Nat × Nat) c => if flt (dist c) b.1 then (dist c, c) else b) (dist c0, c0)
      (s.appendPath g d l k fuel best.2).map (fun t => p :: t)

/-- A record after the append of key k and value v (R392). -/
def NodeRec.append (r : NodeRec) (k v : List Nat) : NodeRec :=
  if r.n = 0 then { r with n := 1, c := k, mv := v, rad := 0 }
  else
    let n := r.n + 1
    let c := (r.c.zip k).map (fun a => wtoward a.1 a.2 n)
    let cw := c.map widen
    { r with
      n := n % 2 ^ 32
      c := c
      mv := (r.mv.zip v).map (fun a => wtoward a.1 a.2 n)
      rad := fF32.minmax true (fF32.add .ru r.rad (unorm cw (r.c.map widen))) (unorm (k.map widen) cw) }

/-- The slot, of those that a test allows, whose measure is greatest, ties to the lowest. -/
def greatestSlot (f : Nat → Nat) (ok : Nat → Bool) (n : Nat) : Nat :=
  match (List.range n).filter ok with
  | [] => 0
  | i :: t => t.foldl (fun b j => if flt (f b) (f j) then j else b) i

/-- The slots of group a of a split (R393). -/
def splitA (keys : List (List Nat)) (c : List Nat) : List Nat :=
  let key (i : Nat) : List Nat := (keys.getD i []).map widen
  let a := greatestSlot (fun i => dist2 (key i) c) (fun _ => true) 17
  let b := greatestSlot (fun i => dist2 (key i) (key a)) (fun i => i != a) 17
  (List.range 17).filter (fun i => i == a || (i != b && !flt (dist2 (key i) (key b)) (dist2 (key i) (key a))))

/-- The record of a group of slots (R393). -/
def groupRec (keys vals : List (List Nat)) (toks : List Nat) (d : Nat) (g : List Nat) : NodeRec :=
  let ks := g.map (fun i => keys.getD i [])
  let c := (List.range d).map (wmean ks)
  { c := c
    mv := (List.range d).map (wmean (g.map (fun i => vals.getD i [])))
    rad := ks.foldl (fun r k => fF32.minmax true r (unorm (k.map widen) (c.map widen))) 0
    n := g.length
    tok := ((g.map (fun i => toks.getD i 0)) ++ List.replicate 16 0).take 16 }

/-- What an append comes to: a code, and for codes 0 and 1 the position that received the token, with the state. -/
structure Appended where
  code : Nat
  pos : Nat
  st : State

/-- The records of a path written. -/
def State.putPath (s : State) (g : Region) (l : List (Nat × NodeRec)) : State := l.foldl (fun s1 x => s1.putNode g x.1 x.2) s

/-- Running queries of a tree are carried across a split at p (R394). -/
def State.carry (s : State) (part h p : Nat) : State :=
  let up (x : Nat) : Nat := if p < x then x + 4 else x
  { s with queries := updIf (fun k => k.accepted && k.part == part && k.tree == h) (fun k =>
      { k with path := k.path.map up, last := k.last.map up }) s.queries }

/-- The split of a full leaf at p (R393); `path` holds the updated records, the leaf's last. -/
def State.splitLeaf (s : State) (part : Nat) (g : Region) (t : Tree) (kt vt : Tensor) (path : List (Nat × NodeRec)) (p : Nat) (leaf : NodeRec)
    (tok : Nat) : Appended :=
  let toks := leaf.tok ++ [tok]
  if 32 < path.length + 1 then ⟨4, 0, s⟩
  else if toks.any (fun x => kt.rows ≤ x) then ⟨3, 0, s⟩
  else
    let keys := toks.map (fun x => s.bf16Row part kt x t.d)
    let vals := toks.map (fun x => s.bf16Row part vt x t.d)
    let ga := splitA keys (leaf.c.map widen)
    let gb := (List.range 17).filter (fun i => !ga.contains i)
    let s1 := (s.putPath g path).putNode g p { leaf with tok := List.replicate 16 0 }
    let r := s1.insertBits g (p + 1) 4 0b0101#64
    if r.1 ≠ 0 then ⟨2, 0, s⟩
    else
      let s2 := s1.applyBlocks part g r.2
      let s3 := (s2.putNode g (p + 1) (groupRec keys vals toks t.d ga)).putNode g (p + 3) (groupRec keys vals toks t.d gb)
      ⟨1, if ga.contains 16 then p + 1 else p + 3, s3.carry part t.handle p⟩

/-- The append of token `tok` to a tree (R391, R392). -/
def State.appendTo (s : State) (part : Nat) (g : Region) (t : Tree) (tok : Nat) : Appended :=
  let q := s.part part
  let kt := q.tensor t.ktid
  let vt := q.tensor t.vtid
  let k := s.bf16Row part kt tok t.d
  let v := s.bf16Row part vt tok t.d
  if !kt.valid || !vt.valid || kt.rows ≤ tok || (k ++ v).any (fun x => !fBF16.finite x) then ⟨3, 0, s⟩
  else
    let l := s.liveBits g
    match (if l[0]? = some true then s.appendPath g t.d l (k.map widen) (l.length + 1) 0 else none) with
    | none => ⟨3, 0, s⟩
    | some ps =>
      let path := ps.map (fun p => (p, (s.node g t.d p).append k v))
      match path.getLast? with
      | none => ⟨3, 0, s⟩
      | some (p, leaf) =>
        let old := (s.node g t.d p).n
        if old < 16 then ⟨0, p, (s.putPath g path).putNode g p { leaf with tok := setNth leaf.tok old tok }⟩
        else s.splitLeaf part g t kt vt path p leaf tok

/-- The status of an append that changes nothing (R391). -/
def appendRefused (code : Nat) : Quad := 0xFFFFFFFF00000000#64 + BitVec.ofNat 64 code

/-- What an append waits for: its region, and the homes of the key and value rows it reads (R346, R379). -/
def State.appendHold (s : State) (part : Nat) (g : Region) (t : Tree) (tok : Nat) : Option Hold :=
  let row (i : Nat) : List (Nat × Nat) := let x := (s.part part).tensor i; pagePieces (x.rowBit 0 0 tok / 8) x.rowBytes
  match s.regionHold g with
  | some x => some x
  | none => (row t.ktid ++ row t.vtid).findSome? (fun x => (s.homeOf part x.1).bind s.homeHold)

/-- `WAPPEND_STEP` (R391 to R394): once the steward's earlier writes have drained, and after its earlier appends, the append of word `q`
takes effect; it waits for a repack, for room in every delta log, and in deterministic mode for the tree's queries. -/
def execWappendStep (s : State) : Host.Outcome State Fault Refusal :=
  let e := s.ctx.ev
  let part := s.partOf e.r.crew
  let h := bits e.q 7 0
  .next (match s.streamOf e.r with
    | none => s
    | some _ =>
      if !s.allDrained e.r part e.a [0] || s.agenda.any (fun x => x.op == .wappendStep && x.arg.r == e.r && x.arg.a < e.a) then
        s.defer .wappendStep
      else
        let refused (c : Nat) : State := s.arrive e.r e.a [.k e.b (appendRefused c), kp7 false]
        match (s.part part).tree h with
        | none => refused 3
        | some t =>
          if bits e.q 31 8 ≠ 0 then refused 3
          else if s.treeDead t then refused 5
          else match (s.part part).region t.region with
            | none => refused 3
            | some g =>
              if g.logs.any (fun x => 14 < x.2.length) || ((s.part part).conf.det && s.queryRuns part h) then s.defer .wappendStep
              else match s.appendHold part g t (bits e.q 63 32) with
              | some x => s.waitFor .wappendStep x
              | none =>
                let r := s.appendTo part g t (bits e.q 63 32)
                if 1 < r.code then refused r.code
                else ((r.st.serveAt (g.home g.blk)).updTree part h (fun t => { t with epoch := (t.epoch + 1) % 2 ^ 32 })).arrive e.r e.a
                  [.k e.b (BitVec.ofNat 64 (r.pos % 2 ^ 32 * 2 ^ 32 + r.code)), kp7 true])

/-! ### Samples (R395) -/

/-- `WSTAT` d, a (R395): a sample of tree a. -/
def execWstat (x y : BitVec 6) (z : BitVec 4) (s : State) : Host.Outcome State Fault Refusal :=
  .next (if !s.evenG x then s.illegal
    else
      let v := s.uniNat y
      if bits v 63 8 ≠ 0 then s.trapHead 0x03 0 v
      else
        let w : Nat := match s.myPart.tree v.toNat with
          | none => 0
          | some t =>
            if s.treeDead t then 2
            else
              let depth := match s.myPart.region t.region with | some g => (maxExcess (s.liveBits g) 0 0).toNat | none => 0
              let infl := (s.queries.filter (fun k => k.walker == some t.walker)).length
              t.epoch * 2 ^ 32 + depth % 2 ^ 6 * 2 ^ 26 + infl % 2 ^ 8 * 2 ^ 16 + t.walker % 2 ^ 8 * 2 ^ 8 + 1
        s.engResult (flagOf z) (s.wrAll x (BitVec.ofNat 64 w)))

end Sys2Proof.Machine
end

