-- ==== Sys2Proof/Machine/Derived.lean ====
section
/-! DEFINITION. Derived tensors (R29, R398 to R412): registration and its checks, recompute, unregistration, `DQUERY`. -/

namespace Sys2Proof.Machine

/-! ### The descriptor (R401) -/

/-- A derived descriptor as fields. -/
structure DerDesc where
  rule : Nat
  ctl : Nat
  dfmt : Nat
  id : Nat
  a : Nat
  b : Nat
  ok : Bool
  deriving DecidableEq, Repr

/-- A format that a rule's DFMT may name (R399). -/
def derFmtOk (rule dfmt : Nat) : Bool :=
  match rule with
  | 1 => dfmt ≤ 13
  | 2 => dfmt == 3 || dfmt == 4 || dfmt == 5 || dfmt == 10 || dfmt == 12
  | _ => dfmt == 0

/-- The fields of a descriptor, and whether R399 and the reserved fields allow them. -/
def derDesc (d : List Byte) : DerDesc :=
  let rule := field d 0 1
  let ctl := field d 1 1
  { rule := rule % 4
    ctl := ctl
    dfmt := field d 2 1 % 32
    id := field d 4 2 % 4096
    a := field d 6 2 % 4096
    b := field d 8 2 % 4096
    ok := rule < 4 && (if rule = 1 then ctl < 8 else ctl == 0) && field d 2 1 < 32 && derFmtOk rule (field d 2 1) && zeroAt d 3 1 &&
      field d 4 2 < 4096 && field d 6 2 < 4096 && field d 8 2 < 4096 && (rule == 2 || field d 8 2 == 0) && zeroAt d 0xA 22 }

/-! ### Registration (R398 to R403) -/

/-- A derived registration of a tensor ID. -/
def Part.derived (p : Part) (id : Nat) : Option Derived := p.deriveds.find? (fun d => d.id == id)

/-- The address and the length of base tile t, counted a·TC + b (R398). -/
def Tensor.tile (t : Tensor) (i : Nat) : Nat × Nat := (t.rowBit (i / t.extent 1) (i % t.extent 1) 0 / 8, 4096 * t.esize)

/-- The tiles of a base. -/
def Tensor.tileCount (t : Tensor) : Nat := t.extent 0 * t.extent 1

/-- A format a rule takes for base A (R399). -/
def baseFmtOk (rule fmt : Nat) : Bool :=
  if rule = 0 then !isBpn fmt && (fmtBits fmt == 8 || fmtBits fmt == 16 || fmtBits fmt == 32) else fmt ≤ 2

/-- Base A is tile-major and of a format of the rule (R398, R399). -/
def baseAOk (rule : Nat) (t : Tensor) : Bool :=
  t.rank == 4 && t.extent 2 == 64 && t.extent 3 == 64 && t.stride 2 == 64 && t.stride 3 == 1 && !t.comp && baseFmtOk rule t.fmt &&
  (List.range t.tileCount).all (fun i => let r := t.tile i; r.1 / 65536 == (r.1 + r.2 - 1) / 65536)

/-- Base B holds the row scales of base A (R398). -/
def baseBOk (a b : Tensor) : Bool :=
  b.fmt == 2 && !b.comp && !b.derived && b.ext == [a.extent 0, a.extent 1, 64, 1] && b.str == [64 * a.extent 1, 64, 1, 1]

/-- The bytes of base B: address and length. -/
def baseBRange (a b : Tensor) : Nat × Nat := (b.base, 128 * a.tileCount)

/-- The slices of addresses in package memory; none where one is not mapped there. -/
def State.slicesAt (s : State) (part : Nat) (l : List Nat) : Option (List Nat) := l.mapM (fun va => (s.homeOf part va).map sliceOf)

/-- The slices of the tiles of base A, in tile order, and of the pages of base B; none unless all are on one stack (check 3 of R402). -/
def State.derPlace (s : State) (part : Nat) (x : DerDesc) (a b : Tensor) : Option (List Nat × List Nat) :=
  if !a.derived && a.place != 1 then none
  else
    match s.slicesAt part ((List.range a.tileCount).map (fun i => (a.tile i).1)),
        s.slicesAt part (if x.rule = 2 then pagesOf (baseBRange a b) else []) with
    | some la, some lb => if ((la ++ lb).map stackOfSlice).eraseDups.length == 1 then some (la, lb) else none
    | _, _ => none

/-- The slices that hold a dependence-table entry of a registration (R402). -/
def State.depSlices (s : State) (part : Nat) (d : Derived) : List Nat :=
  let q := s.part part
  ((d.homes.take d.tiles).map sliceOf ++
    (if d.rule = 2 then (s.slicesAt part (pagesOf (baseBRange (q.tensor d.a) (q.tensor d.b)))).getD [] else [])).eraseDups

/-- A free page of a partition's pool in a slice (R400). -/
def State.poolPage (s : State) (part slice : Nat) (used : List Nat) : Option Nat :=
  let free (k : Nat) : Bool := k < (s.part part).conf.pool && !used.contains (poolHome part slice k)
  (((List.range (s.part part).conf.pool).find? free).map (fun k => s.choose free k)).map (poolHome part slice)

/-- Pool pages for tiles in given slices, one after another. -/
def State.poolPages (s : State) (part : Nat) : List Nat → List Nat → Option (List Nat)
  | [], used => some used
  | x :: t, used => (s.poolPage part x used).bind (fun h => s.poolPages part t (used ++ [h]))

/-- A pool page in any slice of the stack of a slice, that slice first. -/
def State.stackPage (s : State) (part slice : Nat) (used : List Nat) : Option Nat :=
  (slice :: (List.range 32).map (· + stackOfSlice slice * 32)).findSome? (fun x => s.poolPage part x used)

/-- Scale pages, `n` of them. -/
def State.scalePages (s : State) (part slice : Nat) : Nat → List Nat → Option (List Nat)
  | 0, used => some used
  | n + 1, used => (s.stackPage part slice used).bind (fun h => s.scalePages part slice n (used ++ [h]))

/-- The base tile that derived tile t reads, of a rule on a base of TR by TC tiles. -/
def srcTile (rule tr tc t : Nat) : Nat := if rule = 0 then t % tr * tc + t / tr else t

/-- The pool pages of a new registration in address order; none where the pool is short (check 4 of R402). -/
def State.derHomes (s : State) (part : Nat) (x : DerDesc) (a : Tensor) (la : List Nat) : Option (List Nat) :=
  let used := (s.part part).deriveds.flatMap Derived.homes
  let n := a.tileCount
  let want := (List.range n).map (fun t => la.getD (srcTile x.rule (a.extent 0) (a.extent 1) t) 0)
  ((s.poolPages part want used).bind (fun l =>
    s.scalePages part (la.headD 0) (if x.rule = 2 then divUp (64 * n) 65536 else 0) l)).map (fun l => l.drop used.length)

/-- The other parts of check 4. -/
def State.derRoom (s : State) (part : Nat) (la lb : List Nat) : Bool :=
  let q := s.part part
  q.deriveds.length < 4096 && q.bindings.length < 4096 &&
  (la ++ lb).eraseDups.all (fun x =>
    (s.parts.flatMap (fun p => p.2.deriveds.filter (fun d => (s.depSlices p.1 d).contains x))).length < 1024)

/-- The 4 KiB pages of a range. -/
def pages4k (r : Nat × Nat) : List Nat :=
  if r.2 = 0 then [] else (List.range ((r.1 + r.2 - 1) / 4096 + 1 - r.1 / 4096)).map (fun i => r.1 / 4096 + i)

/-- The sync object to which every page of the bases is bound (check 5 of R402). -/
def Part.derSync (p : Part) (x : DerDesc) (a b : Tensor) : Option Nat :=
  let pages := ((List.range a.tileCount).flatMap (fun i => pages4k (a.tile i))) ++ (if x.rule = 2 then pages4k (baseBRange a b) else [])
  let syncs := pages.map (fun g => (p.bindings.find? (fun y => y.page ≤ g && g < y.page + y.pages)).map Binding.sync)
  match syncs with
  | some o :: t => if t.all (· == some o) then some o else none
  | _ => none

/-- The bases of a registration. -/
def Derived.bases (d : Derived) : List Nat := if d.rule = 2 then [d.a, d.b] else [d.a]

/-- The IDs among the bases of IDs, followed to a depth (R403). -/
def Part.basesOf (p : Part) : Nat → List Nat → List Nat
  | 0, l => l
  | n + 1, l => l ++ p.basesOf n (l.flatMap (fun i => match p.derived i with | some d => d.bases | none => []))

/-- The registration closes a cycle (R403): chains that stand are at most 3 deep. -/
def Part.closes (p : Part) (x : DerDesc) : Bool := (p.basesOf 4 (if x.rule = 2 then [x.a, x.b] else [x.a])).contains x.id

/-- The depth of a tensor. -/
def Part.depthOf (p : Part) (id : Nat) : Nat := match p.derived id with | some d => d.depth | none => 0

/-- Depths carried to the tensors that use IDs (R403): IDs with their new depths. -/
def Part.carryDepth (p : Part) : Nat → List (Nat × Nat) → List (Nat × Nat)
  | 0, l => l
  | n + 1, l => l ++ p.carryDepth n (l.flatMap (fun x =>
      (p.deriveds.filter (fun d => d.bases.contains x.1)).map (fun d => (d.id, max d.depth (x.2 + 1)))))

/-- The new depths of a registration that closes no cycle. -/
def Part.newDepths (p : Part) (x : DerDesc) : List (Nat × Nat) :=
  p.carryDepth 4 [(x.id, 1 + max (p.depthOf x.a) (if x.rule = 2 then p.depthOf x.b else 0))]

/-- The greatest of the depths an ID takes. -/
def depthIn (l : List (Nat × Nat)) (id old : Nat) : Nat := (l.filter (fun x => x.1 == id)).foldl (fun m x => max m x.2) old

/-- The cause for which a registration is refused; 0 for none (R402). -/
def State.derCause (s : State) (part : Nat) (x : DerDesc) : Nat :=
  let q := s.part part
  let a := q.tensor x.a
  let b := q.tensor x.b
  if !x.ok || !a.valid || (x.rule == 2 && !b.valid) then 1
  else if !baseAOk x.rule a || (x.rule == 2 && !baseBOk a b) then 2
  else match s.derPlace part x a b with
    | none => 3
    | some (la, lb) =>
      if (s.derHomes part x a la).isNone || !s.derRoom part la lb then 4
      else if (q.derSync x a b).isNone then 5
      else if q.closes x then 8
      else if (q.newDepths x).any (fun y => 3 < y.2) then 6
      else if (q.derived x.id).isSome then 7
      else 0

/-- The first address of the range in which derived pages are mapped (R400). -/
def derRange : Nat := 0xF * 2 ^ 52

/-- A run of derived pages at an address is free. -/
def Part.derFree (p : Part) (n base : Nat) : Bool :=
  base % 65536 == 0 && derRange ≤ base && base + 65536 * n ≤ derRange + 2 ^ 52 &&
  p.deriveds.all (fun d => base + 65536 * n ≤ d.base || d.base + 65536 * d.homes.length ≤ base)

/-- The BASE that the control complex chooses (R400, log entry 15). -/
def State.derBase (s : State) (part n : Nat) : Nat :=
  let p := s.part part
  let cands := derRange :: p.deriveds.map (fun d => d.base + 65536 * d.homes.length)
  s.choose (p.derFree n) ((cands.find? (p.derFree n)).getD derRange)

/-- The format of a derived tensor (R399). -/
def DerDesc.fmt (x : DerDesc) (a : Tensor) : Nat := match x.rule with | 0 => a.fmt | 3 => 0 | _ => x.dfmt

/-- The entry of a derived tensor (R399, R400, R402), placed as a tiled tensor. -/
def derEntry (x : DerDesc) (a b : Tensor) (base scales : Nat) : List Byte :=
  let tr := if x.rule = 0 then a.extent 1 else a.extent 0
  let tc := if x.rule = 0 then a.extent 0 else a.extent 1
  let str1 := 65536 * 8 / fmtBits (x.fmt a)
  [BitVec.ofNat 8 (x.fmt a), BitVec.ofNat 8 (3 + 4 * 1), BitVec.ofNat 8 (4 + (if x.rule = 2 then 8 else 0)), 1#8] ++ leBytes 4 0 ++
  leBytes 8 base ++ leBytes 4 tr ++ leBytes 4 tc ++ leBytes 4 64 ++ leBytes 4 (if x.rule = 3 then 1 else 64) ++
  leBytes 4 (tc * str1) ++ leBytes 4 str1 ++ leBytes 4 (if x.rule = 3 then 1 else 64) ++ leBytes 4 1 ++
  leBytes 8 (if x.rule = 2 then b.base else 0) ++ leBytes 8 (if x.rule = 2 then scales else 0)

/-- The cached translations of the pages of a registration, absences among them, are gone (R319, R400). -/
def State.dropPages (s : State) (part base n : Nat) : State :=
  let keep (e : TlbEnt) : Bool := !(e.part == part && e.base < base + 65536 * n && base < e.base + e.size)
  { s with tlb1 := s.tlb1.filter keep, tlb2 := s.tlb2.filter keep }

/-- A registration in effect (R402): entry, binding, depths, and every tile stale, with the tiles that read them. -/
def State.derEnter (s : State) (part : Nat) (x : DerDesc) (homes : List Nat) (o : Nat) : State × Nat :=
  let q := s.part part
  let a := q.tensor x.a
  let b := q.tensor x.b
  let n := a.tileCount
  let base := s.derBase part homes.length
  let ds := q.newDepths x
  let d : Derived :=
    { id := x.id, rule := x.rule, rm := x.ctl % 4, sat := x.ctl / 4 % 2 == 1, a := x.a, b := x.b, depth := depthIn ds x.id 1, sync := o,
      base := base, scales := base + 65536 * n, tr := a.extent 0, tc := a.extent 1,
      key := match s.walk part a.base with | some (leaf, _) => bits leaf 55 51 | none => 0
      stale := List.range n, homes := homes }
  let s1 := s.updPart part (fun q => { q with
    tensors := tset [] q.tensors x.id (entWords (derEntry x a b base d.scales))
    bindings := q.bindings ++ [⟨o, base / 4096, 16 * homes.length, some x.id⟩]
    deriveds := q.deriveds.map (fun y => { y with depth := depthIn ds y.id y.depth }) ++ [d] })
  ((s1.updPart part (fun q => q.mark (q.closure 3 ((List.range n).map (fun t => (x.id, t)))))).dropPages part base homes.length, base)

/-- `DREG` kX, kY (R29, R401): a registration from the 32-byte descriptor. Steward only. -/
def execDreg (x y : BitVec 6) (s : State) : Host.Outcome State Fault Refusal :=
  .next (if !s.isSteward then s.illegal
    else if s.dev.reduced then s.trapHead 0x0C 0 0#64
    else
      let v := s.uni64 x
      match s.descTrap v 32 32 true with
      | some (c, a) => s.trapHead c 0 a
      | none => (s.post none none []).push .dregDone { r := s.self, a := s.nextId, bytes := s.descBytes v 32, b := y.toNat })

/-- An arrived result writes back at once, with its writes. -/
def State.writeNow (s : State) (r : Ref) (id : Nat) (ws : List RegWrite) : State :=
  s.updStream r (fun t => match t.pend.find? (fun p => p.id == id) with
    | some p => t.writeback s.clock { p with writes := p.writes ++ ws }
    | none => t)

/-- `DREG_DONE` (R402, R403): the registration of descriptor `bytes` is checked and entered, or refused; after the writeback of a refused
cycle `DERIVE_CYCLE` is recorded. -/
def execDregDone (s : State) : Host.Outcome State Fault Refusal :=
  let e := s.ctx.ev
  let part := s.partOf e.r.crew
  .next (match s.streamOf e.r with
    | none => s
    | some t =>
      let x := derDesc e.bytes
      let q := s.part part
      let a := q.tensor x.a
      let cause := s.derCause part x
      let place := (s.derPlace part x a (q.tensor x.b)).bind (fun l => s.derHomes part x a l.1)
      match cause, place, q.derSync x a (q.tensor x.b) with
      | 0, some homes, some o =>
        let r := s.derEnter part x homes o
        r.1.arrive e.r e.a [.k e.b (BitVec.ofNat 64 r.2), kp7 true]
      | c, _, _ =>
        let ws : List RegWrite := [.k e.b (0xFFFFFFFFFFFFFF00#64 + BitVec.ofNat 64 c), kp7 false]
        if c = 8 then
          (s.writeNow e.r e.a ws).sendAsync e.r 0x0A 0 (BitVec.ofNat 64 x.id)
            ((t.pend.find? (fun p => p.id == e.a)).map (fun p => ptrOf (ptrPc p.pc) 0))
        else s.arrive e.r e.a ws)

/-! ### Unregistration (R404) -/

/-- `DUNREG` kX (R404). Steward only. -/
def execDunreg (x : BitVec 6) (s : State) : Host.Outcome State Fault Refusal :=
  .next (if !s.isSteward then s.illegal
    else
      let v := s.uni64 x
      if bits v 63 12 ≠ 0 then s.trapHead 0x03 0 v
      else (s.post none none []).push .dunregDone { r := s.self, a := s.nextId, q := v })

/-- A home in a page of a registration. -/
def Derived.holds (d : Derived) (h : Nat) : Bool := d.homes.contains (h / 65536 * 65536)

/-- An access to the pages of a registration has been accepted and is not complete: a lane of a request, or a copy that reads there. -/
def State.derUsed (s : State) (part : Nat) (d : Derived) : Bool :=
  s.allCrews.any (fun c => c.part == part && (s.streamsOf c).any (fun t => t.reqs.any (fun q => q.lanes.any (fun l => !l.done && d.holds l.home)))) ||
  s.copies.any (fun k => k.part == part && k.st != .issued && k.st != .ending && (match s.crewOf k.crew with
    | some c =>
      let a := s.srcSide c k
      a.scr.isNone && d.base ≤ a.org / 8 && a.org / 8 < d.base + 65536 * d.homes.length
    | none => false))

/-- The registration is gone (R404): entry, dependences, stale bits, binding, pages and cached translations. -/
def State.derClear (s : State) (part : Nat) (d : Derived) : State :=
  (s.updPart part (fun q => { q with
      tensors := tset [] q.tensors d.id []
      bindings := q.bindings.filter (fun b => b.derived != some d.id)
      deriveds := q.deriveds.filter (fun x => x.id != d.id) })).dropPages part d.base d.homes.length

/-- `DUNREG_DONE` (R404): after the accepted accesses to its pages, registration `q` is cleared, unless another uses it as a base. -/
def execDunregDone (s : State) : Host.Outcome State Fault Refusal :=
  let e := s.ctx.ev
  let part := s.partOf e.r.crew
  .next (match s.streamOf e.r with
    | none => s
    | some _ => match (s.part part).derived (bits e.q 11 0) with
      | none => s.arrive e.r e.a [kp7 false]
      | some d =>
        if (s.part part).deriveds.any (fun x => x.bases.contains d.id) then s.arrive e.r e.a [kp7 false]
        else if s.derUsed part d then s.defer .dunregDone
        else (s.derClear part d).arrive e.r e.a [kp7 true])

/-! ### Recompute (R399, R407, R409) -/

/-- The elements of a row under its format as exact values. -/
def rowVals (fmt : Nat) (bs : List Byte) (i : Nat) : List FVal :=
  (List.range 64).map (fun j => codeVal fmt (field bs (fmtBits fmt / 8 * (64 * i + j)) (fmtBits fmt / 8)))

/-- Patterns of `n` bits packed densely, the lower index in the lower bits (R3). -/
def packBits (n : Nat) : List Nat → List Byte
  | [] => []
  | [x] => leBytes (divUp n 8) (x % 2 ^ n)
  | x :: y :: t =>
    if n = 4 then BitVec.ofNat 8 (x % 16 + y % 16 * 16) :: packBits n t else leBytes (n / 8) (x % 2 ^ n) ++ leBytes (n / 8) (y % 2 ^ n) ++ packBits n t

/-- An element widened to F32, exactly: an F32 element is itself, and a NaN of another format becomes the canonical NaN (R132, R137). -/
def toF32 (fmt x : Nat) : Nat := if fmt = 0 then x else fF32.ofVal .rne false (codeVal fmt x)

/-- The sum of a row's elements under their format: exact widening, ascending from +0, each addition RNE, the first NaN kept (R132, R399). -/
def rowSum (fmt : Nat) (bs : List Byte) (i : Nat) : Nat :=
  (List.range 64).foldl (fun v j => fF32.add .rne v (toF32 fmt (field bs (fmtBits fmt / 8 * (64 * i + j)) (fmtBits fmt / 8)))) 0

/-- The patterns of a recomputed tile in row order, and its block scales, from the bytes of base A's tile and base B's piece. -/
def derTile (d : Derived) (afmt dfmt : Nat) (bs sc : List Byte) : List Nat × List Nat :=
  let n := fmtBits afmt / 8
  match d.rule with
  | 0 => ((List.range 64).flatMap (fun i => (List.range 64).map (fun j => field bs (n * (64 * j + i)) n)), [])
  | 1 => ((List.range 64).flatMap (fun i => (rowVals afmt bs i).map (codeOf (rmode d.rm) d.sat dfmt)), [])
  | 2 =>
    let rows := (List.range 64).map (fun i =>
      let r := field sc (2 * i) 2
      if bf16Normal r then quantBlock dfmt r (rowVals afmt bs i) else (List.replicate 64 0, 0xFF))
    (rows.flatMap Prod.fst, rows.map Prod.snd)
  | _ => ((List.range 64).map (fun i => rowSum afmt bs i), [])

/-- Writes bytes of a derived page at its home: nothing is marked (R406). -/
def State.putDerived (s : State) (h : Nat) (bs : List Byte) : State :=
  { s with
    mem := s.mem.put h bs
    dev := { s.dev with
      ue := clearUe s.dev.ue h (bs.map (fun b => (b, 0xFF#8)))
      ce := clearUe s.dev.ce h (bs.map (fun b => (b, 0xFF#8))) } }

/-- Tile t of a registration is recomputed: its bytes, its block scales, its stale bit. -/
def State.recompute (s : State) (part : Nat) (d : Derived) (t : Nat) : State :=
  let q := s.part part
  let ar := d.aRange q t
  let br := d.bRange q t
  let fmt := (q.tensor d.id).fmt
  let r := derTile d (q.tensor d.a).fmt fmt (s.gbytes part ar.1 ar.2) (s.gbytes part br.1 br.2)
  let s1 := s.putDerived (d.homes.getD t 0) (packBits (fmtBits fmt) r.1)
  let s2 := if d.rule = 2 then
      s1.putDerived (d.homes.getD (d.tiles + 64 * t / 65536) 0 + 64 * t % 65536) (r.2.map (BitVec.ofNat 8))
    else s1
  s2.updPart part (fun q => { q with
    deriveds := updIf (fun x => x.id == d.id) (fun x => { x with stale := x.stale.filter (· != t) }) q.deriveds })

/-- The derived tile that tile t of a registration reads, where its base is derived. -/
def Part.innerTile (p : Part) (d : Derived) (t : Nat) : Option (Derived × Nat) :=
  (p.derived d.a).map (fun base =>
    let x := d.baseTile t
    (base, x.1 * (if base.rule = 0 then base.tr else base.tc) + x.2))

/-- The recompute of a tile is still to come. -/
def State.recomputing (s : State) (part : Nat) (x : Derived × Nat) : Bool :=
  s.agenda.any (fun v => v.op == .derivedRecompute && v.arg.a == part && v.arg.b == x.1.id && v.arg.c == x.2)

/-- `DERIVED_RECOMPUTE` (R407, R409): tile `c` of registration `b` of partition `a` is recomputed from its bases; an uncorrectable granule
among them, or a base tile that stayed stale, leaves it stale. Asked for by a `DQUERY` (`d` 1), it waits for what holds its bases, and the
stream then takes `DATA_POISON` for the granule. -/
def execDerivedRecompute (s : State) : Host.Outcome State Fault Refusal :=
  let e := s.ctx.ev
  .next (match (s.part e.a).derived e.b with
    | none => s
    | some d =>
      let inner := ((s.part e.a).innerTile d e.c).filter (fun x => x.1.stale.contains x.2)
      if !d.stale.contains e.c then s
      else if inner.isSome then if inner.any (s.recomputing e.a) then s.defer .derivedRecompute else s
      else match s.tileHold e.a d e.c with
        | some h => s.waitFor .derivedRecompute h
        | none => match s.tileUe e.a d e.c with
          | some g =>
            let s1 := s.recordUe g
            if e.d = 1 then s1.sendAsync e.r 0x08 0x12 (BitVec.ofNat 64 g) (some (lo32 e.q)) else s1
          | none => s.recompute e.a d e.c)

/-! ### `DQUERY` (R412) -/

/-- `DQUERY` d, a (R412): a sample of a registration, after which FRESH has a stale tile recomputed (R407, R409). -/
def execDquery (x y : BitVec 6) (z : BitVec 4) (s : State) : Host.Outcome State Fault Refusal :=
  .next (if !s.evenG x || !s.evenG y then s.illegal
    else
      let v := s.uni64 y
      let tile := bits v 63 32
      let none' := tile == 2 ^ 32 - 1
      match s.myPart.derived (bits v 11 0) with
      | none => if bits v 31 13 ≠ 0 then s.trapHead 0x03 0 v else s.engResult (flagOf z) (s.wrAll x 0#64)
      | some d =>
        if bits v 31 13 ≠ 0 || (!none' && d.tiles ≤ tile) then s.trapHead 0x03 0 v
        else
          let ts := !none' && d.stale.contains tile
          let w := d.stale.length * 2 ^ 32 + d.rule * 2 ^ 30 + d.depth % 4 * 2 ^ 28 + (if ts then 2 ^ 27 else 0) + 1
          let s1 := s.engResult (flagOf z) (s.wrAll x (BitVec.ofNat 64 w))
          if ts && qbit v 12 then
            s1.pushFront ((s.myPart.staleChain 4 d tile).map (fun c =>
              { op := .derivedRecompute, arg := { a := s.crew.part, b := c.1, c := c.2, r := s.self, q := s.here.setWidth 64, d := 1 }, due := s.clock }))
          else s1)

end Sys2Proof.Machine
end

