-- ==== Sys2Proof/Machine/Issue.lean ====
section
/-! DEFINITION. Issue (R103 to R122): what makes a stream eligible, which candidate a port picks, how a chain runs, and what
happens as the clock advances. `Machine/Step.lean` only puts these together with `exec`. -/

namespace Sys2Proof.Machine

/-! ### Waiting words (R113) -/

/-- Another stream of the crew that waits on the flag and comes first: the steward, then the lowest group (R102). -/
def State.xfAhead (s : State) (n : Nat) : Bool :=
  s.crew.streams.any (fun t => t.sid < s.me.sid && !t.gone && !t.stopped &&
    (s.headInstrs s.crew t).any (fun i => match i with | .xfwait x => x.toNat == n | _ => false))

/-- The word waits: the condition it waits for does not hold yet (R113). -/
def State.waits (s : State) (i : Instr) : Bool :=
  match i with
  | .bwait x _ => !s.barFlipped x.toNat
  | .qpush x y => (s.pushTrap x.toNat y).isNone && (s.crew.queue x.toNat).allow == 0
  | .qpop x _ => (s.popTrap x.toNat).isNone && (s.crew.queue x.toNat).handles.isEmpty
  | .tkwait d a g => s.evenG a && !s.me.ticketsDone && d == d && g == g
  | .lqsend x y => s.evenG y && !s.lqsendReady x.toNat
  | .lqrecv x y => s.evenG y && (if s.isSteward then s.lqUp x.toNat else s.lqDown x.toNat).isNone
  | .xfwait x => !s.flagSeen x.toNat || s.xfAhead x.toNat
  | .wlpop x y _ => s.evenG y && !s.wlpopReady x.toNat
  | .acq x z => z.toNat < 2 && !s.acqReady x (z == 1#3)
  | .phase => s.isSteward && !s.crew.phaseGo
  | _ => false

/-- The word enters its arrival when a stream first stands at it (R125, R235, R245, R255). -/
def arrivesAt (i : Instr) : Bool :=
  match i with
  | .tkwait _ _ _ | .wlpop _ _ _ | .acq _ _ | .phase => true
  | _ => false

/-! ### Conditions of the pipes (R112, R221, R222) -/

/-- Whether a word is a `.G` access that reaches memory, and whether of 4 bits (R88, R218). -/
def gForm (w : Word) : Option Bool :=
  let op := (opOf w).toNat
  let fn := wbits w 2 1
  match op with
  | 0x24 | 0x28 | 0x2C | 0x2D | 0x2E | 0x36 => some false
  | 0x25 | 0x29 => if fn = 0 then some true else if fn = 1 then some false else none
  | 0x27 => if fn = 1 then some true else if fn = 2 then none else some false
  | 0x2F => if fn = 3 then none else some false
  | 0x3B => if fn < 2 then some false else none
  | _ => none

/-- A storing word: its bytes and whether its address is `.S` (R88, R222). -/
def storeForm (w : Word) : Option (Nat × Bool) :=
  let fn := wbits w 2 1
  match (opOf w).toNat with
  | 0x28 => some (2 ^ fn, false)
  | 0x2A => some (2 ^ fn, true)
  | 0x29 => some (if fn % 2 = 0 then 1 else 16, 2 ≤ fn)
  | 0x36 => if 2 ≤ fn then some (4 * 2 ^ (fn - 2), false) else none
  | _ => none

/-- The register fields of a format-M word. -/
def wordA (w : Word) : BitVec 6 := w.extractLsb' 7 6
/-- The pages of a word's global accesses that its core's L1 TLB does not hold (R221); every lane of the head counts (R74). -/
def State.missPages (s : State) (w : Word) : List Nat :=
  match gForm w with
  | none => []
  | some nib =>
    ((s.headLanes.filterMap (fun l =>
      let ea := s.eaG (wordA w) l
      if qbit ea 63 || bits ea 62 58 ≠ 0 || (!nib && qbit ea 57) then none else some (bits ea 56 16)))).eraseDups.filter
        (fun p => (tlbFind s.tlb1 s.crew.core s.crew.part (p * 65536)).isNone)

/-- The write-buffer entries in use: one for each word and aligned 64-byte piece (R222). -/
def Stream.bufferUsed (t : Stream) : Nat := ((t.wb.map (fun w => (w.rid, w.home / 64))).eraseDups).length

/-- The write-buffer entries a word needs (R222); every lane of the head counts (R74). -/
def State.bufferNeed (s : State) (w : Word) : Nat :=
  match storeForm w with
  | none => 0
  | some (bytes, sp) =>
    let nib := (opOf w).toNat == 0x29 && bytes == 1
    ((s.accesses sp (wordA w) 0#1 bytes nib .write).filterMap (fun a => match a.target with
      | .ok _ h _ => some (h / 64)
      | .trap _ _ => none)).eraseDups.length

/-- The flag a word names (R71): the F4 field of format M, or of the E words that have one (R90). -/
def flagField (w : Word) : Option Nat :=
  let op := (opOf w).toNat
  let fn := wbits w 2 0
  if (0x24 ≤ op && op < 0x30) || op = 0x36 || op = 0x3B then flagOf (w.extractLsb' 3 4)
  else if (op = 0x37 && fn = 1) || (op = 0x39 && fn = 0) || op = 0x3A || op = 0x3C || (op = 0x3D && 3 ≤ fn) ||
      (op = 0x3E && (fn = 1 || fn = 6)) || (op = 0x3F && fn = 2) then flagOf (w.extractLsb' 3 4)
  else none

/-- No counter would pass 63 (R117). -/
def State.flagsRoom (s : State) (ws : List Word) : Bool :=
  let fs := ws.filterMap flagField
  fs.all (fun f => s.me.cfGet f + (fs.filter (· == f)).length ≤ 63)

/-! ### Eligibility (R112, R113, R119) -/

/-- The port of a stream: four schedulers and the steward port for each core (R94, R112, R114). -/
def portOf (core slot sid : Nat) : Nat := if sid = 0 then 5 * core + 4 else 5 * core + (slot + (sid - 1)) % 4

/-- The port of the issuing stream. -/
def State.myPort (s : State) : Nat := portOf s.crew.core s.crew.slot s.me.sid

/-- The flags a wait-table entry selects in the issuing stream's table (R71, R118). -/
def State.waitMask (s : State) (w : Nat) : Nat :=
  if w = 0 then 0
  else match s.myTask with
    | some t => (if s.isSteward then t.kernel.swait else t.kernel.gwait).getD (w - 1) 0
    | none => 0

/-- The distance a D field names (R70). -/
def distOf (d : Nat) : Nat := match d with | 0 => 1 | 1 => 2 | 2 => 4 | _ => 6

/-- The switch marker holds the stream (R119). -/
def Stream.marked (t : Stream) : Bool := t.ymark && (t.pend.any Pend.reg || t.cf != [])

/-- The stream could issue but for its head's words: it is live and placed, its partition runs, nothing blocks it. -/
def State.live (s : State) : Bool :=
  s.crew.id != 0 && !s.crew.saved && s.crew.stopAt.isNone && !s.crew.retired && !s.me.stopped && !s.me.retired && !s.myPart.halted && !s.myPart.suspended &&
  !s.myPart.resetting && s.dev.level != 4 && s.me.blocked.isNone && s.me.yieldUntil ≤ s.clock &&
  (match s.me.head with | some e => !e.spilled | none => false)

/-- Each word of the chain with the slot it has in it and the literal before it, its context set. -/
def State.inChain (s : State) (len slot : Nat) (h : Hdr) (lit : Option (BitVec 19)) : State :=
  { s with ctx := { s.ctx with slot := slot, len := len, imm := h.imm, lit := lit } }

/-- The contexts of the words of a decoded chain. -/
def State.contexts (s : State) (l : List (Word × Hdr × Instr)) : List (State × Word × Instr) :=
  l.mapIdx (fun i x =>
    let lit := if i = 0 then none else (l[i - 1]?).bind (fun y => match y.2.2 with | .imx => some y.2.1.imm | _ => none)
    (s.inChain l.length i x.2.1 lit, x.1, x.2.2))

/-- The pipes and their conditions let the words of the chain issue. -/
def State.pipesFree (s : State) (ws : List Word) : Bool :=
  ws.all (fun w => pipeOf w = .none || tget 0 s.pipeFree (8 * s.myPort + (pipeOf w).num) ≤ s.clock)

/-- The conditions of R112 that the first word's D, W and the stream's marker set. -/
def State.headFree (s : State) (w : Word) : Bool :=
  (match s.me.lastIssue with | some t => t + distOf (wbits w 29 28) ≤ s.clock | none => true) &&
  (List.range 12).all (fun f => s.waitMask (wbits w 27 25) / 2 ^ f % 2 == 0 || s.me.cfGet f == 0) &&
  !s.me.marked

end Sys2Proof.Machine
end

