-- ==== Sys2Proof/Machine/Sched.lean ====
section
/-! DEFINITION. Steps of the schedulers and the control complex about streams: phases (R125, R126), the frontier (R108 to R110),
promotion and `YIELD` (R120, R206), parties that can no longer answer (R103), trap records, handler entry and escalation (R307 to
R310), pre-emption and restore (R312 to R315), the debugger (R328), the Beagle (R256). -/

namespace Sys2Proof.Machine

/-! ### Phases -/

/-- `PHASE` (R125, R126, R251): the steward arrives, its busy time being kept; once its phase is released it goes on. Steward only. -/
def execPhase (s : State) : Host.Outcome State Fault Refusal :=
  .next (if !s.isSteward then s.illegal
    else if s.crew.phaseGo then { s with crew := { s.crew with phaseGo := false } }
    else if s.crew.phaseBusy.isSome then s
    else ({ s with crew := { s.crew with phaseBusy := some (s.clock - s.crew.phaseStart) } }).push .phaseRelease
      { a := s.crew.task, b := s.crew.span })

/-- The ratio of a crew in a schedule (R57). -/
def ratioOf (sch : List Nat) (i : Nat) : Nat := sch.getD i 0

/-- The distance of a schedule times Bsum and its Tsum, and Tsum (R126). -/
def schedDist (busy : List Nat) (sch : List Nat) : Nat × Nat :=
  let bsum := busy.foldl (· + ·) 0
  let tsum := ((List.range busy.length).map (ratioOf sch)).foldl (· + ·) 0
  (((busy.mapIdx (fun i b => absDiff (b * tsum) (ratioOf sch i * bsum))).foldl (· + ·) 0), tsum)

/-- The lowest schedule of least distance, compared exactly (R126). -/
def bestSched (busy : List Nat) : List (List Nat) → Nat → Option (Nat × Nat × Nat) → Nat
  | [], _, best => match best with | some b => b.1 | none => 0
  | sch :: t, i, best =>
    let d := schedDist busy sch
    let better : Bool := match best with
      | some (_, n, m) => decide (d.1 * m < n * d.2)
      | none => true
    bestSched busy t (i + 1) (if better then some (i, d.1, d.2) else best)

/-- The selector (R126). -/
def selectSched (scheds : List (List Nat)) (busy : List Nat) (cur : Nat) : Nat :=
  if scheds = [] || busy.foldl (· + ·) 0 = 0 then cur else bestSched busy scheds 0 none

/-- The steward of a crew has exited. -/
def State.stewardGone (s : State) (c : Crew) : Bool :=
  match (s.streamsOf c).find? (fun t => t.sid == 0) with | some t => t.gone | none => true

/-- The crews of a span by rank. -/
def State.spanCrews (s : State) (task span : Nat) : List Crew :=
  sortBy (fun a b => a.rank < b.rank) (s.allCrews.filter (fun c => c.task == task && c.span == span))

/-- `PHASE_RELEASE` (R126): every steward of span `b` of task `a` has arrived: the selector sets `SCHEDSEL` in all of them and they
go on. A partition's frozen schedule stands in for the selector; a lockstep follower copies its leader's (R325). -/
def execPhaseRelease (s : State) : Host.Outcome State Fault Refusal :=
  let e := s.ctx.ev
  let cs := s.spanCrews e.a e.b
  .next (match s.taskOf e.a, cs with
    | some t, c0 :: _ =>
      let o := orderPhase t.taskId e.b
      let follows := (s.part t.part).conf.frozen.isNone && s.isLockstep t.part
      if !cs.all (fun c => c.phaseBusy.isSome) || cs.all (fun c => s.stewardGone c) then s
      else if follows && s.isFollower t.part && !(s.part t.part).order.any (fun x => x.1 == o) then s.defer .phaseRelease
      else
        let own := selectSched t.kernel.sched (cs.map (fun c => c.phaseBusy.getD 0)) c0.schedsel
        let sel := match (s.part t.part).conf.frozen with
          | some f => f
          | none =>
            if follows && s.isFollower t.part then
              (match (s.part t.part).order.find? (fun x => x.1 == o) with | some x => x.2.1 | none => own)
            else own
        let s1 := cs.foldl (fun s1 c => s1.updCrew c.id (fun x =>
          { x with
            schedsel := sel
            phaseStart := s.clock
            phaseBusy := if s.stewardGone c then some 0 else none
            phaseGo := !s.stewardGone c })) s
        if follows then s1.orderDone t.part o sel else s1
    | _, _ => s)

/-! ### The frontier -/

/-- An entry whose waiting lanes are all the expected ones (R109). -/
def Stream.releasable (t : Stream) (e : Entry) : Bool := e.st == .joinWait && (t.expected &&& ~~~e.mask) == 0#32

/-- `JOIN_RELEASE` (R109): the waiting entry stands at the word after its `JOIN` and is ready from the next cycle. -/
def execJoinRelease (s : State) : Host.Outcome State Fault Refusal :=
  .next (s.updStream s.ctx.ev.r (fun t =>
    if !t.frontier.any t.releasable then t
    else { t with
      frontier := normFrontier (t.frontier.map (fun e =>
        if t.releasable e then { e with pc := e.pc.succ, st := .resuming } else e)) }))

/-- The deadlock of R110: no entry ready, spilled or parked, lanes waiting at more than one `JOIN`, and none releasable. -/
def Stream.converges (t : Stream) : Bool :=
  t.frontier.all (fun e => e.st == .joinWait && !e.spilled) && 2 ≤ t.frontier.length && !t.frontier.any t.releasable

/-- The waiting entries of a stream that R110 parks: all but those of the lowest PC. -/
def Stream.losers (t : Stream) : List Entry :=
  t.frontier.filter (fun e => t.frontier.any (fun x => x.pc.lt e.pc))

/-- `CONVERGENCE_PARK` (R110): the lanes at every `JOIN` but the lowest are parked with `ILLEGAL_CONVERGENCE`, one record each. -/
def execConvergencePark (s : State) : Host.Outcome State Fault Refusal :=
  let r := s.ctx.ev.r
  .next (match s.streamOf r with
    | none => s
    | some t =>
      if !t.converges then s
      else
        let l := t.losers
        let s1 := s.updStream r (fun t => { t with
          frontier := t.frontier.map (fun e => if l.contains e then { e with st := .parked 0x02 } else e) })
        l.foldl (fun s2 e => s2.record r.crew ⟨false, r.sid - 1, 0, 0x02, ptrOf e.pc e.prio, e.mask, 0#64, false, false⟩) s1)

/-- A spilled entry may be refilled (R108). -/
def Stream.canRefill (t : Stream) : Bool :=
  t.refill.isNone && t.frontier.any Entry.spilled && (t.frontier.filter (fun e => !e.spilled)).length < 8

/-- `FRONTIER_REFILL_START` (R108): the highest spilled entry starts to refill, which takes 40 cycles. -/
def execFrontierRefillStart (s : State) : Host.Outcome State Fault Refusal :=
  let r := s.ctx.ev.r
  .next (match s.streamOf r with
    | none => s
    | some t =>
      if t.canRefill then
        (s.updStream r (fun t => { t with refill := some (s.clock + 40) })).push .frontierRefillDone { r := r }
      else s)

/-- The highest spilled entry comes on chip. -/
def unspillFirst : List Entry → List Entry
  | [] => []
  | e :: t => if e.spilled then { e with spilled := false } :: t else e :: unspillFirst t

/-- `FRONTIER_REFILL_DONE` (R108). -/
def execFrontierRefillDone (s : State) : Host.Outcome State Fault Refusal :=
  let r := s.ctx.ev.r
  .next (match (s.streamOf r).bind Stream.refill with
    | none => s
    | some c =>
      if s.clock < c then s.defer .frontierRefillDone
      else s.updStream r (fun t => { t with refill := none, frontier := normFrontier (unspillFirst t.frontier) }))

/-! ### Promotion and `YIELD` -/

/-- `PROMOTION` (R120): a stream that has stayed eligible for 64 cycles without issuing is promoted. -/
def execPromotion (s : State) : Host.Outcome State Fault Refusal :=
  .next (s.updStream s.ctx.ev.r (fun t =>
    if 64 < t.eligFor && t.promoted.isNone then { t with promoted := some s.clock } else t))

/-- `YIELD_EXPIRY` (R206): the stream may be eligible again. -/
def execYieldExpiry (s : State) : Host.Outcome State Fault Refusal :=
  let r := s.ctx.ev.r
  .next (match s.streamOf r with
    | none => s
    | some t => if s.clock < t.yieldUntil then s.defer .yieldExpiry else s.updStream r (fun t => { t with yieldUntil := 0 }))

/-! ### Dead parties (R103, R242) -/

/-- Every other stream of the issuing crew that passes a test has exited. -/
def State.othersGone (s : State) (p : Stream → Bool) : Bool := s.crew.streams.all (fun t => !p t || t.gone)

/-- No group remains that could serve a waiting push or pop of a queue (R242). -/
def State.queueDead (s : State) (q : Nat) (push : Bool) : Bool :=
  let x := s.crew.queue q
  s.othersGone (fun t => t.sid != 0 && (!x.decl || t.stage == (if push then x.cons else x.prod)))

/-- The word waits on a party that can no longer answer (R103). -/
def State.deadWord (s : State) (i : Instr) : Bool :=
  match i with
  | .lqrecv x _ =>
    if s.isSteward then (s.crew.lq x.toNat).up.isEmpty && s.othersGone (fun t => t.sid != 0)
    else (s.lqDown x.toNat).isNone && (s.crew.lq x.toNat).base + (s.crew.lq x.toNat).down.length ≤ s.me.lqAt x.toNat &&
      s.othersGone (fun t => t.sid == 0)
  | .lqsend x _ => !s.isSteward && s.othersGone (fun t => t.sid == 0) && !s.lqsendReady x.toNat
  | .xfwait x => (tget none s.crew.flags x.toNat).isNone && s.othersGone (fun _ => true)
  | .qpop x _ => (s.crew.queue x.toNat).inflight == 0 && s.queueDead x.toNat false
  | .qpush x _ => s.queueDead x.toNat true
  | _ => false

/-- The issuing stream waits on a party that can no longer answer. -/
def State.deadWait (s : State) : Bool :=
  s.live && (match (s.headChain s.crew s.me).bind decodeChain with
    | some l => (s.contexts l).any (fun c => c.1.waits c.2.2 && c.1.deadWord c.2.2)
    | none => false)

/-- `DEAD_PARTY_ESCALATION` (R103): the task is aborted with cause `QUEUE`. -/
def execDeadPartyEscalation (s : State) : Host.Outcome State Fault Refusal :=
  let f := s.focus s.ctx.ev.r
  .next (if f.self = s.ctx.ev.r && f.deadWait then
      (match s.taskOf f.crew.task with
       | some t => s.whenReport .deadPartyEscalation t.part t.reportTo (s.abortTask t 0x0F)
       | none => s)
    else s)

/-! ### Trap records (R307 to R310) -/

/-- A `BRACKET` parks its lanes where they stand (R367): one entry and one record for each entry that holds some of them, in the order
of the entries, `TRAPADDR` the POS of the lowest lane of each. -/
def State.parkBracket (s : State) (r : Ref) (x : AsyncTrap) : State :=
  match s.streamOf r with
  | none => s
  | some t =>
    let m := maskOf (x.lanes.map Prod.fst)
    let es := t.frontier.filter (fun e => e.mask &&& m != 0#32)
    let parked := es.map (fun e => { e with mask := e.mask &&& m, st := .parked 0x09, spilled := false })
    let rest := t.frontier.map (fun e => { e with mask := e.mask &&& ~~~m })
    parked.foldl (fun s1 e =>
      let pos := ((x.lanes.filter (fun l => e.mask.getLsbD l.1)).head?.map Prod.snd).getD 0#64
      s1.record r.crew ⟨false, r.sid - 1, 0, 0x09, ptrOf (ptrPc (x.pc.getD 0#32)) e.prio, e.mask, pos, false, false⟩)
      (s.updStream r (fun t => { t with frontier := normFrontier (rest ++ parked) }))

/-- `ASYNC_TRAP_PARK` (R307): with `a` 1, in place of the group's next issue its whole head is parked, and a record is made. The
traps of a group that has exited are sent with MASK 0. -/
def execAsyncTrapPark (s : State) : Host.Outcome State Fault Refusal :=
  let e := s.ctx.ev
  .next (match s.streamOf e.r with
    | none => s
    | some t => match t.asyncs with
      | [] => s
      | x :: rest =>
        let s1 := s.updStream e.r (fun t => { t with asyncs := rest })
        let mk (prio : Nat) (m : Word) (at0 : Word) : TrapRec :=
          ⟨false, e.r.sid - 1, x.code, x.cause, (match x.pc with | some p => ptrOf (ptrPc p) prio | none => at0), m, x.addr, false, false⟩
        if t.gone then
          t.asyncs.foldl (fun s2 x => s2.record e.r.crew
            ⟨false, e.r.sid - 1, x.code, x.cause, x.pc.getD 0, 0#32, x.addr, false, false⟩) (s.updStream e.r (fun t => { t with asyncs := [] }))
        else if e.a = 0 then s
        else if x.lanes ≠ [] then s1.parkBracket e.r x
        else match t.head with
          | none => s
          | some h =>
            let s2 := s1.updStream e.r (fun t => t.moveHead h.mask [{ h with st := .parked x.cause, spilled := false }])
            s2.record e.r.crew (mk h.prio h.mask (ptrOf h.pc h.prio)))

/-- `TRAP_RECORD_ENQUEUE` (R308): records that wait enter the queue of crew `a`, at most 64, in the order in which they were raised. -/
def execTrapRecordEnqueue (s : State) : Host.Outcome State Fault Refusal :=
  let a := s.ctx.ev.a
  .next ((((s.updCrew a (fun c =>
    let n := 64 - c.records.length
    { c with records := c.records ++ c.recWait.take n, recWait := c.recWait.drop n })).push .trapEscalation { a := a })).push
      .handlerEntry { a := a })

/-- A handler can be entered at TVEC (R209, R310). -/
def State.handlerOk (s : State) (c : Crew) (t : Stream) : Bool :=
  t.tvec.getLsbD 31 && (match s.taskOf c.task with | some k => wbits t.tvec 25 0 < k.kernel.spkts | none => false)

/-- `HANDLER_ENTRY` (R309, R210): the steward of crew `a` enters its handler for the oldest record. -/
def execHandlerEntry (s : State) : Host.Outcome State Fault Refusal :=
  let a := s.ctx.ev.a
  .next (match s.crewOf a, s.streamOf ⟨a, 0⟩ with
    | some c, some t => match c.records with
      | [] => s
      | rec :: _ =>
        if t.handler.isSome || t.gone || rec.esc || !s.handlerOk c t then s
        else if c.saved then s.defer .handlerEntry
        else
          let s1 := s.updStream ⟨a, 0⟩ (fun t => { t.enterHandler rec with arrived := none })
          { s1 with watch := s1.watch.filter (fun w => w.2.1 != ⟨a, 0⟩) }
    | _, _ => s)

/-- The record that escalates now (R310): one raised in handler mode, else the oldest when no handler can take it. -/
def State.escalates (s : State) (c : Crew) (t : Stream) : Option TrapRec :=
  match (c.records ++ c.recWait).find? TrapRec.esc with
  | some r => some r
  | none => match c.records with
    | r :: _ => if t.gone || (t.handler.isNone && !s.handlerOk c t) then some r else none
    | [] => none

/-- Lanes that a `BKPT` parked stand ready after it again, their stream stopped for the debugger (R211, R310, log entry 18). -/
def Stream.handToDebugger (t : Stream) : Stream :=
  { t with
    stopped := true
    frontier := normFrontier (t.frontier.map (fun e => if e.st = .parked 0x0D then { e with st := .ready } else e)) }

/-- `TRAP_ESCALATION` (R310, R211): the task of crew `a` is aborted with the record's cause; a `BREAKPOINT` with a session attached
stops its stream instead. -/
def execTrapEscalation (s : State) : Host.Outcome State Fault Refusal :=
  let a := s.ctx.ev.a
  .next (match s.crewOf a, s.streamOf ⟨a, 0⟩ with
    | some c, some t => match s.escalates c t with
      | none => s
      | some rec =>
        if rec.cause = 0x0D && (s.part c.part).session then
          let r : Ref := ⟨a, if rec.src then 0 else rec.group + 1⟩
          ((s.updCrew a (fun c => { c with records := c.records.erase rec, recWait := c.recWait.erase rec })).updStream r
            Stream.handToDebugger).push .trapRecordEnqueue { a := a }
        else match s.taskOf c.task with
          | some k => s.whenReport .trapEscalation k.part k.reportTo (s.abortTask k rec.cause)
          | none => s
    | _, _ => s)

/-! ### Pre-emption (R312 to R315) -/

/-- `PREEMPT_REQUEST` (R312): the streams of every crew of span `b` of task `a` stop at their next issue slot. -/
def execPreemptRequest (s : State) : Host.Outcome State Fault Refusal :=
  let e := s.ctx.ev
  let cs := (s.spanCrews e.a e.b).filter (fun c => !c.saved && !c.retired && c.stopAt.isNone)
  .next (if cs = [] then s
    else
      let s1 := cs.foldl (fun s1 c => s1.updCrew c.id (fun c => { c with stopAt := some s.clock })) s
      (s1.pushAll .preemptResultTimeout (cs.map (fun c => { a := c.id }))).push .preemptSaveDone { a := e.a, b := e.b })

/-- `PREEMPT_RESULT_TIMEOUT` (R312): 5,400 cycles after the stop, results still outstanding stay pending writebacks. -/
def execPreemptResultTimeout (s : State) : Host.Outcome State Fault Refusal :=
  .next (match (s.crewOf s.ctx.ev.a).bind Crew.stopAt with
    | some c => if s.clock < c + 5400 then s.defer .preemptResultTimeout else s
    | none => s)

/-- The sequencer of a crew stands at a boundary (R304): no entry is in its time, but a step of passes may wait for its next pass. -/
def State.seqStands (s : State) (c : Crew) : Bool :=
  match c.matrix with
  | none => true
  | some m => match m.queue with
    | [] => true
    | e :: _ => !e.done && (e.pass == 0 || (match e.kind with | .mma _ _ _ _ => decide (e.endAt ≤ s.clock) | _ => false))

/-- A crew may be saved (R304, R312): its results are back or 5,400 cycles have passed, its fixed-latency and delayed effects are done, its
write buffers are empty, and its sequencer stands at a boundary. -/
def State.saveReady (s : State) (c : Crew) : Bool :=
  match c.stopAt with
  | none => false
  | some t0 =>
    c.late.isEmpty && s.seqStands c && (s.streamsOf c).all (fun t =>
      t.wb.isEmpty && t.pend.all (fun p => p.due.isNone) && t.reqs.all (fun q => q.lanes.all (fun l => l.done || l.home < 2 ^ 48)) &&
      (t.pend.all (fun p => !p.reg) || t0 + 5400 ≤ s.clock))

/-- Moves a run of memory. -/
def Memory.move (m : Memory) (a b n : Nat) : Memory :=
  let run := m.filter (fun c => a ≤ c.1 && c.1 < a + n)
  let rest := m.filter (fun c => !((a ≤ c.1 && c.1 < a + n) || (b ≤ c.1 && c.1 < b + n)))
  run.foldl (fun m c => m.set (b + (c.1 - a)) c.2) rest

/-- Scratchpad bytes that pending `LDPF` runs and `DRAIN` rows fill move with the share. -/
def Stream.moveShare (t : Stream) (a b n : Nat) : Stream :=
  let moved (d : Nat) : Nat := if a ≤ d && d < a + n then b + (d - a) else d
  { t with
    direct := t.direct.map (fun w => { w with home := moved w.home })
    reqs := t.reqs.map (fun q => { q with lanes := q.lanes.map (fun l => { l with dst := l.dst.map moved }) }) }

/-- A stream in its image (R312, R313, R315): a word it waits in will issue again; its arrival at a waiting word, its promotion and its watcher places are gone. -/
def Stream.saved (t : Stream) : Stream := { t.rewind with arrived := none, promoted := none, eligFor := 0, tkServed := false }

/-- A crew goes into its image (R313): its share and its stack windows move out of the core. -/
def State.saveCrew (s : State) (c : Crew) : State :=
  let b := savedHome c.id
  let m := (s.mem.move c.shareHome b c.shareSize).move (stackHome c.part c.core c.slot 0 0) (savedStack c.id) stackRun
  let s1 : State := { s with mem := m, watch := s.watch.filter (fun w => w.2.1.crew != c.id) }
  (s1.updStreams c.id (fun t => (t.moveShare c.shareHome b c.shareSize).saved)).updCrew c.id (fun c =>
    { c with saved := true, stopAt := none, shareHome := b })

/-- `PREEMPT_SAVE_DONE` (R312, R313): the crews of span `b` of task `a` are in their images, and what they held on their cores is
free. -/
def execPreemptSaveDone (s : State) : Host.Outcome State Fault Refusal :=
  let e := s.ctx.ev
  let cs := (s.spanCrews e.a e.b).filter (fun c => c.stopAt.isSome)
  .next (if cs = [] then s
    else if cs.all (fun c => s.saveReady c) then cs.foldl (fun s1 c => s1.saveCrew c) s
    else s.defer .preemptSaveDone)

/-- A crew is placed again (R314). -/
def State.loadCrew (s : State) (c : Crew) (x : Nat × Nat × Nat) : State :=
  let b := scratchHome x.1 + x.2.2
  let m := (s.mem.move c.shareHome b c.shareSize).move (savedStack c.id) (stackHome c.part x.1 x.2.1 0 0) stackRun
  (({ s with mem := m }).updStreams c.id (fun t => t.moveShare c.shareHome b c.shareSize)).updCrew c.id (fun c =>
    { c with saved := false, shareHome := b, core := x.1, slot := x.2.1, placedAt := s.clock })

/-- `RESTORE` (R314): the saved crews of span `b` of task `a` are placed at once, on cluster `c` (any cluster of the partition when
`c` is 16 or above); a restore that does not fit waits under R96. -/
def execRestore (s : State) : Host.Outcome State Fault Refusal :=
  let e := s.ctx.ev
  let cs := (s.spanCrews e.a e.b).filter (fun c => !c.retired)
  .next (match s.taskOf e.a with
    | none => s
    | some t =>
      if !cs.any Crew.saved then s
      else if !cs.all Crew.saved || !(s.part t.part).places || s.othersFirst t || t.restoresBefore e.b then s.defer .restore
      else
        let last := cs.foldl (fun m c => max m (c.rank + 1)) 0
        let grants := (List.range last).map (fun i => cs.any (fun c => c.rank == i && c.matrix.isSome))
        let cl := if e.c < 16 then [e.c] else List.range 16
        match cl.findSome? (fun c => s.spanFits t.part c last t.groups t.scratch t.kernel.tiles.length grants) with
        | some l => (cs.foldl (fun s1 c => s1.loadCrew c (l.getD c.rank (0, 0, 0))) s).updTask t.id (fun t =>
            { t with waitSince := none, blocking := false, restoring := t.restoring.filter (· != e.b) })
        | none => (s.spanWaits t (some e.b)).defer .restore)

/-! ### The debugger (R328) -/

/-- A stream the debugger may reach. -/
def State.sqdbReach (s : State) (r : Ref) : Option (Crew × Stream) :=
  match s.crewOf r.crew, s.streamOf r with
  | some c, some t => if (s.part c.part).conf.debug then some (c, t) else none
  | _, _ => none

/-- `SQDB_STOP` (R328): the stream is not eligible. -/
def execSqdbStop (s : State) : Host.Outcome State Fault Refusal :=
  let r := s.ctx.ev.r
  .next (match s.sqdbReach r with
    | some (c, _) => (s.updStream r (fun t => { t with stopped := true })).updPart c.part (fun q => { q with session := true })
    | none => s)

/-- `SQDB_RESUME` (R328): the stream may be eligible again, and counts as waiting again where it waits in a `WLPOP` (R255). -/
def execSqdbResume (s : State) : Host.Outcome State Fault Refusal :=
  let r := s.ctx.ev.r
  .next (match s.sqdbReach r with
    | some (c, _) => (s.updStream r (fun t => { t with stopped := false })).push .slackwaterReport { a := c.task }
    | none => s)

/-- The value a debugger selector names (R328): the selector of `GRD` (R213), and for a steward k INDEX, `kp0` to `kp7`, its PC. -/
def Stream.sqdbValue (t : Stream) (sel : Quad) : Quad :=
  if t.sid = 0 then
    (match selKind sel with
     | 0 => t.rdK (selIndex sel)
     | 1 => BitVec.ofNat 64 ((List.range 8).foldl (fun a i => a + if t.rdP i 0 then 2 ^ i else 0) 0)
     | _ => t.groupRead sel)
  else t.groupRead sel

/-- `SQDB_READ` (R328): the debugger is handed a whole value; it goes out as a management reply. -/
def execSqdbRead (s : State) : Host.Outcome State Fault Refusal :=
  let e := s.ctx.ev
  .next (match s.sqdbReach e.r with
    | some (_, t) => s.updDev (fun d => { d with replies := d.replies ++ [leBytes 8 (t.sqdbValue e.q).toNat] })
    | none => s)

/-- The register or predicate write a debugger selector names. -/
def Stream.sqdbWrites (t : Stream) (sel val : Quad) : List RegWrite :=
  match selKind sel with
  | 0 => if t.sid = 0 then [.k (selIndex sel) val] else [.v (32 * selIndex sel + selLane sel) (lo32 val)]
  | 1 => (List.range 8).map (fun i => .p (32 * i + (if t.sid = 0 then 0 else selLane sel)) (qbit val i))
  | _ => []

/-- A pending use may write one of the registers or predicates of some writes: it lists such a write, its request has the register as its
destination, or its result has not come and what it writes is not known before. -/
def Stream.mayWrite (t : Stream) (p : Pend) (ws : List RegWrite) : Bool :=
  let hits : List RegWrite → Bool := fun l => l.any (fun a => ws.any a.same)
  hits p.writes || (p.reg && !p.arrived && match t.reqs.find? (fun q => q.id == p.id) with
    | some q => match q.kind with
      | .load bytes nib sx => q.lanes.any (fun l => hits (t.loadWrites q.d l.lane bytes nib sx 0))
      | .atomic _ bytes ret => ret && q.lanes.any (fun l => hits (t.wr (8 * bytes) q.d l.lane 0))
      | .tkget => q.lanes.any (fun l => hits (t.wr 32 q.d l.lane 0))
      | .tknext => q.lanes.any (fun l => hits (t.wr 32 q.d l.lane 0))
      | .ldpf => false
      | _ => true
    | none => p.due.isNone || p.writes == [])

/-- A register of the writes has a pending writeback (R328). -/
def Stream.writePending (t : Stream) (ws : List RegWrite) : Bool := t.pend.any (fun p => t.mayWrite p ws)

/-- `SQDB_WRITE` (R328): a register or predicate of a stopped stream is written once it has no pending writeback, or at once when
forced (`a` 1); refused in a lockstep partition. -/
def execSqdbWrite (s : State) : Host.Outcome State Fault Refusal :=
  let e := s.ctx.ev
  .next (match s.sqdbReach e.r with
    | none => s
    | some (c, t) =>
      if !t.stopped || s.isLockstep c.part then s
      else if e.a = 0 && t.writePending (t.sqdbWrites e.q e.q2) then s.defer .sqdbWrite
      else s.updStream e.r (fun t => t.writes (t.sqdbWrites e.q e.q2)))

/-! ### The Beagle (R256) -/

/-- The audit of one connection: permits and datagrams in flight make up its total. -/
def State.auditConn (s : State) (c : Conn) : State :=
  let total := permitsOf c.cls
  if c.permits + c.unacked.length = total then s
  else ((s.updConn c.id (fun c => { c with permits := total - c.unacked.length })).irq c.myPart 0).pfEvent 2

/-- The audit of one walker's queue: free places and queries in flight make up 64. A repair is told to every partition with a tree there (log
entry 65). -/
def State.auditWalker (s : State) (w : Nat) : State :=
  let used := (s.queries.filter (fun k => k.walker == some w)).length
  if tget 64 s.dev.walkFree w + used = 64 then s
  else
    let s1 := s.updDev (fun d => { d with walkFree := tset 64 d.walkFree w (64 - used) })
    ((s1.parts.filter (fun p => p.2.trees.any (fun t => t.walker == w))).foldl (fun s2 p => s2.irq p.1 0) s1).pfEvent 2

/-- `BEAGLE_AUDIT` (R256): every declared queue of every placed crew, every fabric connection and the queue of each of the 24 walkers is
checked and repaired. -/
def execBeagleAudit (s : State) : Host.Outcome State Fault Refusal :=
  let s1 := s.dev.conns.foldl (fun s1 c => s1.auditConn c) (s.allCrews.foldl (fun s1 c => s1.auditCrew c) s)
  .next ((List.range 24).foldl (fun s2 w => s2.auditWalker w) s1)

end Sys2Proof.Machine
end

