-- ==== Sys2Proof/Machine/Host.lean ====
section
/-! DEFINITION. The host interface (R7, R8, R16, R36, R319, R320, R323, R324, R329 to R335, R347): registers of BAR0, invalidations, command
queues, event counters, the mailbox and its commands, suspension, logs and the partition reset. A function number 0 is the physical
function, p + 1 the virtual function of partition p. -/

namespace Sys2Proof.Machine

/-- The partition of a virtual function. -/
def vfPart (fn : Nat) : Option Nat := if 1 ≤ fn && fn ≤ 32 then some (fn - 1) else none

/-! ### Reading BAR0 (R329, R330, R334 to R336) -/

/-- `SVCSTAT` (R36). -/
def Dev.svcstat (d : Dev) : Quad :=
  BitVec.ofNat 64 ((if d.serviceReq then 2 ^ 63 else 0) + d.level % 8 * 2 ^ 60 + d.bootst % 16 * 2 ^ 56 + d.chan % 512 * 2 ^ 47 +
    d.walk % 32 * 2 ^ 42 + d.cpe % 64 * 2 ^ 36 + d.cores % 256 * 2 ^ 28 + d.spare0 % 16 * 2 ^ 24 + d.spare1 % 16 * 2 ^ 20 +
    d.stacked % 16 * 2 ^ 16 + d.tempc % 256 * 2 ^ 8)

/-- `MBSTAT` (R334). -/
def Mailbox.stat (m : Mailbox) : Nat := (if m.busy then 2 ^ 31 else 0) + m.cmd % 256 * 2 ^ 8 + m.result % 256

/-- `QCTL` (R330). -/
def CmdQueue.ctl (q : CmdQueue) : Nat := (if q.en then 2 ^ 31 else 0) + q.log2n % 32

/-- `QSTAT` (R330). -/
def CmdQueue.stat (q : CmdQueue) : Nat := (if q.err then 2 ^ 31 else 0) + q.cause % 256 * 2 ^ 8

/-- `ILOGPTR` (R335). -/
def Part.ilogPtr (p : Part) : Nat := (if p.ilogOvf then 2 ^ 31 else 0) + p.ilogCount % 512 * 2 ^ 8 + p.ilogHead % 256

/-- `IFPTR` (R335). -/
def Part.ifPtr (p : Part) : Nat := (if p.ifOvf then 2 ^ 31 else 0) + p.ifUnread % 512 * 2 ^ 16 + p.ifWr % 256 * 2 ^ 8 + p.ifRd % 256

/-- A command queue of a partition. -/
def Part.cq (p : Part) (n : Nat) : CmdQueue := tget CmdQueue.blank p.queues n

/-- A mailbox. -/
def State.mbox (s : State) (fn : Nat) : Mailbox := tget Mailbox.blank s.dev.mboxes fn

/-- A 32-bit half of a 64-bit register. -/
def halfOf (x : Quad) (off : Nat) : Nat := if off % 8 = 0 then bits x 31 0 else bits x 63 32

/-- The partition that a function's `XLINV` acts on (R319). -/
def State.xlPart (s : State) (fn : Nat) : Nat := match vfPart fn with | some p => p | none => s.dev.xlpart % 32

/-- 32 bits of a virtual function's own areas at an offset. -/
def Part.vfReg (p : Part) (off : Nat) : Nat :=
  if 0x1000 ≤ off && off < 0x1400 then
    let q := p.cq ((off - 0x1000) / 64)
    (match off % 64 with
     | 0 => halfOf q.qbase 0
     | 4 => halfOf q.qbase 4
     | 8 => q.ctl
     | 12 => q.head.toNat
     | 16 => q.tail.toNat
     | 20 => q.stat
     | _ => 0)
  else if 0x4000 ≤ off && off < 0x5000 then field (tget [] p.ilog ((off - 0x4000) / 16)) (off % 16) 4
  else if 0x5000 ≤ off && off < 0x7000 then field (tget [] p.iflog ((off - 0x5000) / 32)) (off % 32) 4
  else if off = 0x7000 then p.ilogPtr
  else if off = 0x7008 then p.ifPtr
  else if 0x8000 ≤ off && off < 0x10000 then halfOf (tget 0 p.events ((off - 0x8000) / 8)) off
  else 0

/-- 32 bits of BAR0 of a function at an offset that is a multiple of 4; an offset not listed reads as 0 (R329), and so does `MBCMD`, whose read
the spec leaves open (R334, log entry 62). -/
def State.reg32 (s : State) (fn off : Nat) : Nat :=
  if off = 0x100 || off = 0x104 then halfOf s.dev.svcstat off
  else if off = 0x204 then (if (s.part (s.xlPart fn)).xlBusy then 2 ^ 31 else 0)
  else if 0x3000 ≤ off && off < 0x3200 then
    (if off = 0x3004 then (s.mbox fn).stat else if 0x3100 ≤ off then field (s.mbox fn).buf (off - 0x3100) 4 else 0)
  else match vfPart fn with
    | some p => (s.part p).vfReg off
    | none =>
      if off = 0x208 then s.dev.xlpart % 32
      else if 0x100000 ≤ off && off < 0x100000 + 4096 * 384 then
        leNat (s.mem.bytes (regPageHome ((off - 0x100000) / 4096) + off % 4096) 4)
      else 0

/-! ### Invalidations (R319) -/

/-- A write to `XLINV` of a function; ignored while one runs, and for SIZE 3. -/
def State.xlinv (s : State) (fn : Nat) (q : Quad) : State :=
  let p := s.xlPart fn
  if (s.part p).xlBusy || (!qbit q 57 && bits q 1 0 == 3) then s
  else (s.updPart p (fun x => { x with xlBusy := true, xlPend := some q })).push .xlinvDone { a := p }

/-- `XLINV_PAGE` (R319). -/
def execXlinvPage (s : State) : Host.Outcome State Fault Refusal :=
  .next (s.xlinv s.ctx.ev.a (s.ctx.ev.q &&& ~~~(1#64 <<< 57)))

/-- `XLINV_ALL` (R319). -/
def execXlinvAll (s : State) : Host.Outcome State Fault Refusal :=
  .next (s.xlinv s.ctx.ev.a (s.ctx.ev.q ||| (1#64 <<< 57)))

/-- A cached translation that an invalidation removes. -/
def TlbEnt.hit (e : TlbEnt) (part : Nat) (q : Quad) : Bool :=
  let size := 2 ^ lvlShift (bits q 1 0)
  let va := bits q 56 16 * 65536 / size * size
  e.part == part && (qbit q 57 || (e.base < va + size && va < e.base + e.size))

/-- `XLINV_DONE` (R319): the invalidation of partition `a` is complete. -/
def execXlinvDone (s : State) : Host.Outcome State Fault Refusal :=
  let p := s.ctx.ev.a
  .next (match (s.part p).xlPend with
    | none => s
    | some q => { s.updPart p (fun x => { x with xlBusy := false, xlPend := none }) with
        tlb1 := s.tlb1.filter (fun e => !e.hit p q)
        tlb2 := s.tlb2.filter (fun e => !e.hit p q) })

/-! ### Command queues (R330, R331) -/

/-- Updates a command queue. -/
def State.updCq (s : State) (p n : Nat) (f : CmdQueue → CmdQueue) : State :=
  s.updPart p (fun x => { x with queues := tset CmdQueue.blank x.queues n (f (x.cq n)) })

/-- The launch unit takes entries of a queue of a partition now. -/
def State.cqLive (s : State) (p : Nat) (q : CmdQueue) : Bool :=
  q.en && !q.halted && q.wait.isNone && q.head != q.tail && s.dev.level != 0 && s.dev.level != 4 && (s.part p).configured &&
  !(s.part p).halted && !(s.part p).resetting

/-- The entry a queue takes next, read through the partition's translation; none where its page is not mapped with R set. -/
def State.cqEntry (s : State) (p : Nat) (q : CmdQueue) : Option (List Byte) :=
  let va := q.qbase.toNat + 256 * (q.head.toNat % 2 ^ q.log2n)
  match s.walk p va with
  | some (leaf, sh) =>
    if qbit leaf 56 && (bits leaf 61 60 = 0 || bits leaf 61 60 = 1) then some (s.mem.bytes (leafHome leaf sh va) 256) else none
  | none => none

/-- The geometry of an entry. -/
def entryGeom (d : List Byte) : Geom :=
  ⟨field d 0x24 4, field d 0x21 1, field d 0x22 1, field d 0x28 4, (List.range 8).map (fun i => field d (0x30 + i) 1)⟩

/-- An entry whose fields R331 allows. -/
def entryOk (d : List Byte) : Bool :=
  let op := field d 0 1
  let launch := op == 1
  op < 4 && field d 1 1 < 4 && field d 2 2 < 4096 && (op == 2 || op == 3 || field d 2 2 == 0) && zeroAt d 4 4 && field d 0x18 8 % 16 == 0 &&
  field d 0x20 1 < 4 && zeroAt d 0x23 1 && zeroAt d 0x2C 4 && zeroAt d 0x38 8 && zeroAt d 0xC0 64 &&
  (!launch || (field d 0x10 8 % 512 == 0 && (field d 0x20 1 % 2 == 0 || (entryGeom d).inRange)))

/-- The step that takes an entry. -/
def entryStep (d : List Byte) : Instr :=
  if !entryOk d then .cqEntryRefused else match field d 0 1 with | 0 => .cqNop | 1 => .cqLaunch | 2 => .cqSignal | _ => .cqWait

/-- A step that takes an entry of a queue waits on the agenda. -/
def State.cqAsked (s : State) (p n : Nat) : Bool :=
  s.agenda.any (fun (x : Event) => x.arg.a == p && x.arg.b == n &&
    (x.op == .cqNop || x.op == .cqLaunch || x.op == .cqSignal || x.op == .cqWait || x.op == .cqEntryRefused))

/-- Asks for the step that takes a queue's next entry; an entry that cannot be read stops the queue. -/
def State.cqNext (s : State) (p n : Nat) : State :=
  let q := (s.part p).cq n
  if !s.cqLive p q || s.cqAsked p n then s
  else match s.cqEntry p q with
    | none => s.updCq p n (fun q => { q with err := true, cause := 2, halted := true })
    | some d => s.push (entryStep d) { a := p, b := n }

/-- The queue a step names takes its next entry: the entry, when its step is the one named. -/
def State.cqTake (s : State) (op : Instr) : Option (List Byte) :=
  let e := s.ctx.ev
  let q := (s.part e.a).cq e.b
  if !s.cqLive e.a q then none
  else match s.cqEntry e.a q with
    | some d => if entryStep d == op then some d else none
    | none => none

/-- QHEAD advances, and the next entry is asked for. -/
def State.cqAdvance (s : State) (p n : Nat) : State := (s.updCq p n (fun q => { q with head := q.head + 1 })).cqNext p n

/-- The report that an entry's own step may have to write: that of a launch refused, or of an entry refused (R331). -/
def cqReport (op : Instr) (d : List Byte) : Nat :=
  if (op == .cqLaunch || op == .cqEntryRefused) && field d 0x18 8 % 16 = 0 then field d 0x18 8 else 0

/-- An entry's step: its effect when it is the queue's next entry, once its report can be written, else the right step is asked for. -/
def State.cqStep (s : State) (op : Instr) (f : List Byte → State → State) : State :=
  let e := s.ctx.ev
  match s.cqTake op with
  | some d => s.whenReport op e.a (cqReport op d) ((f d s).cqAdvance e.a e.b)
  | none => s.cqNext e.a e.b

/-- The vector of an entry with IRQ set. -/
def entryVec (d : List Byte) (n : Nat) : Option Nat := if field d 1 1 % 2 = 1 then some (n + 1) else none

/-- A new tail for a queue (R330): ignored, with CAUSE 1, when it is behind QHEAD or too far ahead. -/
def State.doorbell (s : State) (p n : Nat) (v : Word) : State :=
  let q := (s.part p).cq n
  if 2 ^ q.log2n < (v - q.head).toNat then s.updCq p n (fun q => { q with err := true, cause := 1 })
  else (s.updCq p n (fun q => { q with tail := v })).cqNext p n

/-- `QTAIL_DOORBELL` (R177, R330). -/
def execQtailDoorbell (s : State) : Host.Outcome State Fault Refusal :=
  let e := s.ctx.ev
  .next (if e.b < 16 then s.doorbell e.a e.b (lo32 e.q) else s)

/-- A write to QCTL (R330): LOG2N is kept while EN is 1; EN from 0 to 1 restarts the queue at QTAIL. -/
def State.qctl (s : State) (p n : Nat) (v : Quad) : State :=
  let q := (s.part p).cq n
  let q1 : CmdQueue := { q with en := qbit v 31, log2n := if q.en then q.log2n else bits v 4 0 }
  if qbit v 31 && !q.en then (s.updCq p n (fun _ => { q1 with head := q.tail, halted := false, wait := none })).cqNext p n
  else s.updCq p n (fun _ => q1)

/-- `QCTL_WRITE` (R330). -/
def execQctlWrite (s : State) : Host.Outcome State Fault Refusal :=
  let e := s.ctx.ev
  .next (if e.b < 16 then s.qctl e.a e.b e.q else s)

/-- `CQ_NOP` (R331). -/
def execCqNop (s : State) : Host.Outcome State Fault Refusal := .next (s.cqStep .cqNop (fun _ s => s))

/-- A LAUNCH entry starts its task, or is refused (R331, R93, R250). -/
def State.launchEntry (s : State) (p n : Nat) (d : List Byte) : State :=
  let k := s.readKernel p (field d 0x10 8)
  let ctrl := field d 0x20 1
  let g := if ctrl % 2 = 1 then some (entryGeom d) else k.bind (fun k => if k.hasLaunch then some (geomOf k.lgeom) else none)
  let args := if ctrl / 2 % 2 = 1 then (List.range 16).map (fun i => BitVec.ofNat 64 (field d (0x40 + 8 * i) 8))
    else match k with | some k => if k.hasLaunch then k.largs else [] | none => []
  let early := if field d 1 1 / 2 % 2 = 1 then ((s.part p).cq n).last else none
  let id := s.nextId
  (({ s with nextId := id + 1 }).startTask id p k g args (BitVec.ofNat 64 (field d 0x18 8)) none (some n) (field d 1 1 % 2 == 1) early).updCq p n
    (fun q => { q with last := some id })

/-- `CQ_LAUNCH` (R331). -/
def execCqLaunch (s : State) : Host.Outcome State Fault Refusal :=
  .next (s.cqStep .cqLaunch (fun d s => s.launchEntry s.ctx.ev.a s.ctx.ev.b d))

/-- A SIGNAL entry waits for the live tasks of its queue. -/
def State.signalEntry (s : State) (p n : Nat) (d : List Byte) : State :=
  let x : Signal :=
    { id := s.nextId, event := field d 2 2, value := BitVec.ofNat 64 (field d 8 8), report := BitVec.ofNat 64 (field d 0x18 8),
      irq := field d 1 1 % 2 == 1, tasks := (s.tasks.filter (fun t => t.part == p && t.queue == some n)).map Task.id }
  (({ s with nextId := s.nextId + 1 }).updCq p n (fun q => { q with signals := q.signals ++ [x] })).push .signalApply { a := p, b := n, c := x.id }

/-- `CQ_SIGNAL` (R331). -/
def execCqSignal (s : State) : Host.Outcome State Fault Refusal :=
  .next (s.cqStep .cqSignal (fun d s => s.signalEntry s.ctx.ev.a s.ctx.ev.b d))

/-- The queues of a partition that wait look at their events again. -/
def State.askWaits (s : State) (p : Nat) : State :=
  s.pushAll .waitRelease (((s.part p).queues.filter (fun q => q.2.wait.isSome)).map (fun q => { a := p, b := q.1 }))

/-- Sets an event counter (R332). -/
def State.setEvent (s : State) (p e : Nat) (v : Quad) : State := (s.updPart p (fun x => { x with events := tset 0 x.events e v })).askWaits p

/-- `SIGNAL_APPLY` (R331): signal `c` of queue `b` takes effect once the launches before it have ended. -/
def execSignalApply (s : State) : Host.Outcome State Fault Refusal :=
  let e := s.ctx.ev
  .next (match ((s.part e.a).cq e.b).signals.find? (fun x => x.id == e.c) with
    | none => s
    | some x =>
      if x.tasks.any (fun t => (s.taskOf t).isSome) then s
      else s.whenReport .signalApply e.a x.report.toNat (
        let s1 := (s.outcome e.a x.report.toNat none (if x.irq then some (e.b + 1) else none) 0 0 1).updCq e.a e.b (fun q =>
          { q with signals := q.signals.filter (fun y => y.id != x.id) })
        let old : Quad := tget 0 (s.part e.a).events x.event
        if old.toNat < x.value.toNat then s1.setEvent e.a x.event x.value else s1))

/-- `CQ_WAIT` (R331): the queue is held. -/
def execCqWait (s : State) : Host.Outcome State Fault Refusal :=
  .next (s.cqStep .cqWait (fun d s =>
    let e := s.ctx.ev
    (s.updCq e.a e.b (fun q => { q with
      wait := some (field d 2 2, BitVec.ofNat 64 (field d 8 8), BitVec.ofNat 64 (field d 0x18 8), field d 1 1 % 2 == 1) })).push .waitRelease
        { a := e.a, b := e.b }))

/-- `WAIT_RELEASE` (R331): queue `b` goes on when its event has reached VALUE. -/
def execWaitRelease (s : State) : Host.Outcome State Fault Refusal :=
  let e := s.ctx.ev
  .next (match ((s.part e.a).cq e.b).wait with
    | none => s
    | some (ev, v, report, irq) =>
      if ((tget 0 (s.part e.a).events ev : Quad)).toNat < v.toNat then s
      else s.whenReport .waitRelease e.a report.toNat
        (((s.outcome e.a report.toNat none (if irq then some (e.b + 1) else none) 0 0 1).updCq e.a e.b (fun q =>
          { q with wait := none })).cqNext e.a e.b))

/-- `CQ_ENTRY_REFUSED` (R331): the entry is skipped, with ERR and CAUSE 3 and a report of STATUS 2, CAUSE 5 where REPORT is valid. -/
def execCqEntryRefused (s : State) : Host.Outcome State Fault Refusal :=
  .next (s.cqStep .cqEntryRefused (fun d s =>
    let e := s.ctx.ev
    (s.outcome e.a (cqReport .cqEntryRefused d) none (entryVec d e.b) 0 5 2).updCq e.a e.b (fun q => { q with err := true, cause := 3 })))

/-- `EVENT_COUNTER_WRITE` (R332). -/
def execEventCounterWrite (s : State) : Host.Outcome State Fault Refusal :=
  let e := s.ctx.ev
  .next (if e.b < 4096 then s.setEvent e.a e.b e.q else s)

/-! ### The mailbox (R334) -/

/-- Updates a mailbox. -/
def State.updMbox (s : State) (fn : Nat) (f : Mailbox → Mailbox) : State :=
  s.updDev (fun d => { d with mboxes := tset Mailbox.blank d.mboxes fn (f (tget Mailbox.blank d.mboxes fn)) })

/-- A command has been performed with a result: MBSTAT follows. -/
def State.mbDone (s : State) (fn result : Nat) : State := s.push .mailboxDone { a := fn, b := result }

/-- A command of the physical function runs; another function's is not allowed. -/
def State.mbPf (s : State) (f : State → State) : State := if s.ctx.ev.a = 0 then f s else s.mbDone s.ctx.ev.a 3

/-- A command of a virtual function runs on its partition; the physical function's is not allowed. -/
def State.mbVf (s : State) (f : Nat → State) : State :=
  match vfPart s.ctx.ev.a with
  | some p => f p
  | none => s.mbDone s.ctx.ev.a 3

/-- The buffer of the mailbox of the step. -/
def State.mbBuf (s : State) : List Byte := (s.mbox s.ctx.ev.a).buf

/-- Bytes put into a mailbox's buffer at an offset. -/
def State.mbPut (s : State) (fn off : Nat) (bs : List Byte) : State :=
  s.updMbox fn (fun m => { m with buf := (m.buf.take off ++ bs ++ m.buf.drop (off + bs.length)).take 256 })

/-- The command of a number: its step, and whether it is the physical function's and a virtual function's. -/
def mbCommand (n : Nat) : Option (Instr × Bool × Bool) :=
  match n with
  | 0x01 => some (.config, true, false)
  | 0x02 => some (.readcfg, true, false)
  | 0x03 => some (.suspend, true, false)
  | 0x04 => some (.resume, true, false)
  | 0x05 => some (.reset, true, false)
  | 0x06 => some (.setwin, true, false)
  | 0x07 => some (.attest, true, true)
  | 0x10 => some (.tensor, false, true)
  | 0x11 => some (.tidread, false, true)
  | 0x12 => some (.syncnew, false, true)
  | 0x13 => some (.syncfree, false, true)
  | _ => none

/-- A write to MBCMD (R334): ignored while BUSY is 1. -/
def State.mbWrite (s : State) (fn v : Nat) : State :=
  if (s.mbox fn).busy then s
  else
    let s1 := s.updMbox fn (fun m => { m with busy := true, cmd := v % 256 })
    match mbCommand v with
    | some (op, pf, vf) => if (if fn = 0 then pf else vf) then s1.push op { a := fn } else s1.push .mbUnknownCommand { a := fn, b := v }
    | none => s1.push .mbUnknownCommand { a := fn, b := v }

/-- `MB_UNKNOWN_COMMAND` (R334): RESULT 2, or 3 for a command that the function may not use. -/
def execMbUnknownCommand (s : State) : Host.Outcome State Fault Refusal :=
  let e := s.ctx.ev
  .next (s.mbDone e.a (if (mbCommand e.b).isSome then 3 else 2))

/-- What a finished command still waits for: 1 a partition's spans being saved, 2 its log being sent, 3 its reset. -/
def State.mbWaits (s : State) (p kind : Nat) : Bool :=
  match kind with
  | 1 => (s.part p).suspended && s.allCrews.any (fun c => c.part == p && !c.saved && !c.retired)
  | 2 => !(s.part p).suspended && (s.part p).ilogCount != 0
  | 3 => (s.part p).resetting
  | _ => false

/-- `MAILBOX_DONE` (R334): MBSTAT of function `a` shows RESULT `b`; kind `d` of wait on partition `c`. -/
def execMailboxDone (s : State) : Host.Outcome State Fault Refusal :=
  let e := s.ctx.ev
  .next (if s.mbWaits e.c e.d then s.defer .mailboxDone
    else s.updMbox e.a (fun m => { m with busy := false, result := e.b }))

/-! ### Configuration (R320, R334) -/

/-- A configuration record as fields. -/
def confOf (d : List Byte) : Conf :=
  let fl := field d 1 1
  { det := fl % 2 == 1
    debug := fl / 2 % 2 == 1
    mate := if fl / 4 % 2 = 1 then some (field d 0x28 2, field d 0x2A 1) else none
    frozen := if fl / 8 % 2 = 1 then some (field d 2 1) else none
    eddyW := field d 3 1
    weight := field d 4 2
    pool := field d 6 2
    clusters := BitVec.ofNat 32 (field d 8 4)
    peerTo := field d 0xC 4
    ptroot := BitVec.ofNat 64 (field d 0x10 8)
    saveBase := BitVec.ofNat 64 (field d 0x18 8)
    saveSize := BitVec.ofNat 64 (field d 0x20 8)
    cpe0 := field d 0x2C 1
    cpe1 := field d 0x2D 1
    fabric := (List.range 18).map (fun i => field d (0x30 + i) 1) }

/-- The record of a configuration. -/
def Conf.bytes (c : Conf) (part : Nat) : List Byte :=
  [BitVec.ofNat 8 part,
   BitVec.ofNat 8 ((if c.det then 1 else 0) + (if c.debug then 2 else 0) + (if c.mate.isSome then 4 else 0) + (if c.frozen.isSome then 8 else 0)),
   BitVec.ofNat 8 (c.frozen.getD 0), BitVec.ofNat 8 c.eddyW] ++ leBytes 2 c.weight ++ leBytes 2 c.pool ++ leBytes 4 c.clusters.toNat ++
  leBytes 4 c.peerTo ++ leBytes 8 c.ptroot.toNat ++ leBytes 8 c.saveBase.toNat ++ leBytes 8 c.saveSize.toNat ++
  leBytes 2 ((c.mate.map Prod.fst).getD 0) ++ leBytes 1 ((c.mate.map Prod.snd).getD 0) ++ [0#8] ++
  [BitVec.ofNat 8 c.cpe0, BitVec.ofNat 8 c.cpe1, 0#8, 0#8] ++ c.fabric.map (BitVec.ofNat 8) ++ List.replicate 190 0#8

/-- The configuration a partition has or takes at its next reset. -/
def Part.nextConf (p : Part) : Conf := p.pending.getD p.conf

/-- The halves of clusters as R320 allows them: whole clusters, or one half of a cluster with 12 cores in service. -/
def State.clustersOk (s : State) (m : Word) : Bool :=
  let lower (c : Nat) : Bool := m.getLsbD (2 * c)
  let upper (c : Nat) : Bool := m.getLsbD (2 * c + 1)
  m != 0#32 && ((List.range 16).all (fun c => lower c == upper c) ||
    (popcount 32 m.toNat == 1 && (List.range 16).all (fun c =>
      !(lower c || upper c) || (s.halfCores (2 * c)).length + (s.halfCores (2 * c + 1)).length == 12)))

/-- The cores of a set of halves. -/
def State.coresOf (s : State) (m : Word) : Nat :=
  ((List.range 32).filter (fun h => m.getLsbD h)).foldl (fun n h => n + (s.halfCores h).length) 0

/-- A sum over the other configured partitions. -/
def State.otherSum (s : State) (p : Nat) (f : Conf → Nat) : Nat :=
  (s.parts.filter (fun x => x.1 != p && (x.2.configured || x.2.pending.isSome))).foldl (fun n x => n + f x.2.nextConf) 0

/-- The limits of R320. -/
def State.confOk (s : State) (p : Nat) (d : List Byte) : Bool :=
  let c := confOf d
  p < 32 && field d 1 1 < 16 && field d 2 1 < 4 && c.eddyW ≤ 64 && 1 ≤ c.weight && c.weight ≤ 1000 && c.pool ≤ 4096 &&
  10 ≤ c.peerTo && c.peerTo ≤ 10000 && c.ptroot.toNat % 4096 == 0 && c.ptroot.toNat < 2 ^ 48 && zeroAt d 0x2B 1 && zeroAt d 0x2E 2 &&
  zeroAt d 0x42 190 && c.cpe0 ≤ 16 && c.cpe1 ≤ 16 && c.fabric.all (· ≤ 100) && (!c.det || c.mate.isSome) && field d 0x2A 1 < 32 &&
  s.clustersOk c.clusters &&
  s.parts.all (fun x => x.1 == p || (x.2.conf.clusters &&& c.clusters == 0#32 && x.2.nextConf.clusters &&& c.clusters == 0#32)) &&
  s.otherSum p Conf.weight + c.weight ≤ 1000 && s.otherSum p Conf.cpe0 + c.cpe0 ≤ 16 && s.otherSum p Conf.cpe1 + c.cpe1 ≤ 16 &&
  (List.range 18).all (fun i => s.otherSum p (fun x => x.fabric.getD i 0) + c.fabric.getD i 0 ≤ 100) &&
  s.coresOf c.clusters * 4 * (3 * 2 ^ 19) ≤ c.saveSize.toNat

/-- `CONFIG` (R320, R334): the record of the buffer takes effect at the partition's next reset, or is refused. -/
def execConfig (s : State) : Host.Outcome State Fault Refusal :=
  .next (s.mbPf (fun s =>
    let d := s.mbBuf
    let p := field d 0 1
    if s.confOk p d then (s.updPart p (fun x => { x with pending := some (confOf d) })).mbDone 0 0 else s.mbDone 0 1))

/-- The partition in byte 0 of the buffer. -/
def State.mbPart (s : State) : Nat := field s.mbBuf 0 1

/-- A partition that a command may name. -/
def State.partOk (s : State) (p : Nat) : Bool := p < 32 && ((s.part p).configured || (s.part p).pending.isSome)

/-- `READCFG` (R334): the record of the configuration in effect. -/
def execReadcfg (s : State) : Host.Outcome State Fault Refusal :=
  .next (s.mbPf (fun s =>
    let p := s.mbPart
    if p < 32 then (s.mbPut 0 0 ((s.part p).conf.bytes p)).mbDone 0 0 else s.mbDone 0 1))

/-! ### Suspension (R323) -/

/-- The spans of a partition whose crews pass a test: task and span. -/
def State.spansOf (s : State) (p : Nat) (f : Crew → Bool) : List (Nat × Nat) :=
  ((s.allCrews.filter (fun c => c.part == p && !c.retired && f c)).map (fun c => (c.task, c.span))).eraseDups

/-- `SUSPEND` (R323): every span of the partition is pre-empted, and its interrupts go to the log. -/
def execSuspend (s : State) : Host.Outcome State Fault Refusal :=
  .next (s.mbPf (fun s =>
    let p := s.mbPart
    if !s.partOk p then s.mbDone 0 1
    else
      let l := s.spansOf p (fun c => !c.saved)
      ((s.updPart p (fun x => { x with suspended := true })).pushAll .preemptRequest (l.map (fun x => { a := x.1, b := x.2 }))).push .mailboxDone
        { a := 0, b := 0, c := p, d := 1 }))

/-- `RESUME` (R323): the partition's spans are restored, and the log is delivered. -/
def execResume (s : State) : Host.Outcome State Fault Refusal :=
  .next (s.mbPf (fun s =>
    let p := s.mbPart
    if !s.partOk p then s.mbDone 0 1
    else
      let l := s.spansOf p Crew.saved
      let s1 := (s.updPart p (fun x => { x with suspended := false })).pushAll .restore (l.map (fun x => { a := x.1, b := x.2, c := 16 }))
      (s1.push .interruptLogDelivery { a := p }).push .mailboxDone { a := 0, b := 0, c := p, d := 2 }))

/-- `INTERRUPT_LOG_DELIVERY` (R323, R335): the oldest logged interrupt of partition `a` is sent; the others follow. -/
def execInterruptLogDelivery (s : State) : Host.Outcome State Fault Refusal :=
  let p := s.ctx.ev.a
  .next (let q := s.part p
    if q.suspended || q.ilogCount = 0 then s
    else
      let v := field (tget [] q.ilog q.ilogHead) 8 1
      let s1 := s.updPart p (fun x => { x with ilogHead := (x.ilogHead + 1) % 256, ilogCount := x.ilogCount - 1 })
      (s1.egressOut p (.irq v)).push .interruptLogDelivery { a := p })

/-! ### The partition reset (R324) -/

/-- A reset of a partition starts: issue stops. -/
def State.startReset (s : State) (p : Nat) : State :=
  if 32 ≤ p || (s.part p).resetting then s
  else (s.updPart p (fun x => { x with resetting := true })).push .partitionResetDone { a := p }

/-- `RESET` (R324). -/
def execReset (s : State) : Host.Outcome State Fault Refusal :=
  .next (s.mbPf (fun s =>
    let p := s.mbPart
    if !s.partOk p then s.mbDone 0 1 else (s.startReset p).push .mailboxDone { a := 0, b := 0, c := p, d := 3 }))

/-- `FUNCTION_LEVEL_RESET` (R16): of the virtual function of partition `a`. -/
def execFunctionLevelReset (s : State) : Host.Outcome State Fault Refusal := .next (s.startReset s.ctx.ev.a)

/-- `LOCKSTEP_MATE_RESET` (R324): the mate of partition `a` has been reset. -/
def execLockstepMateReset (s : State) : Host.Outcome State Fault Refusal :=
  .next (if s.isLockstep s.ctx.ev.a then s.startReset s.ctx.ev.a else s)

/-- What a reset leaves of a partition (R324, R332, R335): its configuration, the new one in effect, and its registered regions, which
are cleared once their delta logs are empty. The registers of its virtual function are at their reset values, and the counts of `DKSTAT` are
0 (R375); its last sample stands until the next. -/
def Part.afterReset (p : Part) : Part :=
  { Part.blank with
    conf := p.nextConf
    configured := p.configured || p.pending.isSome
    regions := (p.regions.filter (fun r => r.logs != [])).map (fun r => { r with dying := true, repacks := [] })
    dkstat := p.dkstat
    xlBusy := p.xlBusy
    xlPend := p.xlPend }

/-- What the reports of a partition's unfinished tasks wait for. -/
def State.resetHold (s : State) (p : Nat) : Option Hold :=
  (s.tasks.filter (fun t => t.part == p && t.launch.isNone)).findSome? (fun t => s.reportHold p t.reportTo)

/-- `PARTITION_RESET_DONE` (R324, R357): once no step of a bank command of partition `a` is in progress, the crews are discarded with all their commands, its
tasks are reported as aborted with cause 0, its objects are cleared, its cached translations dropped, and vector 0 is raised. -/
def execPartitionResetDone (s : State) : Host.Outcome State Fault Refusal :=
  let p := s.ctx.ev.a
  .next (if !(s.part p).resetting then s
    else if s.bankMidStep p then s.defer .partitionResetDone
    else match s.resetHold p with
    | some x => s.waitFor .partitionResetDone x
    | none =>
      let s1 := (s.resetBanks p).discardCrews p (fun c => c.part == p)
      let ts := s1.tasks.filter (fun t => t.part == p)
      let s2 := ts.foldl (fun s2 t => if t.launch.isSome then { s2 with tasks := s2.tasks.filter (fun x => x.id != t.id) } else s2.endTask t 0 4) s1
      let s3 := s2.updPart p Part.afterReset
      let s4 : State := { s3 with
        tlb1 := s3.tlb1.filter (fun e => e.part != p)
        tlb2 := s3.tlb2.filter (fun e => e.part != p)
        dev := { s3.dev with
          msgs := s3.dev.msgs.filter (fun m => match m.cmd with | some c => s3.copies.any (fun k => k.id == c) | none => true)
          mboxes := tset Mailbox.blank s3.dev.mboxes (p + 1) Mailbox.blank } }
      s4.irq p 0)

/-! ### The other commands -/

/-- `SETWIN` (R347): the arbitration window, 0 to 336 ns. -/
def execSetwin (s : State) : Host.Outcome State Fault Refusal :=
  .next (s.mbPf (fun s =>
    let w := field s.mbBuf 0 2
    if w ≤ 336 then (s.updDev (fun d => { d with arbW := w })).mbDone 0 0 else s.mbDone 0 1))

/-- The attested part of a report: nonce, its length, measurements and `SVCSTAT` (R27, R334). -/
def Dev.attested (d : Dev) (nonce : List Byte) : List Byte :=
  (nonce ++ List.replicate 64 0#8).take 64 ++ [BitVec.ofNat 8 nonce.length] ++ List.replicate 7 0#8 ++ leBytes 48 d.measRom.toNat ++
  leBytes 48 d.measImage.toNat ++ leBytes 48 d.measConf.toNat ++ leBytes 8 d.svcstat.toNat

/-- The signed report. -/
def Dev.report (d : Dev) (nonce : List Byte) : List Byte :=
  let x := d.attested nonce
  x ++ (List.range 384).map (Config.rsaSign x) ++ (List.range 16224).map (Config.slhSign x)

/-- Bytes of the device written by a mailbox command at a package address, or at a virtual address of a partition: host memory where its page is
host-mapped. -/
def State.mbStore (s : State) (vf : Option Nat) (at0 : Nat) (bs : List Byte) : Except Hold State :=
  match vf with
  | none => s.putRuns 0 (piecesOf at0 (bs.length + 1) bs)
  | some p => s.gputTry p at0 bs

/-- `ATTEST` (R27, R334): the report goes to the given buffer: in a virtual function's partition, or at a package address for the physical
function. -/
def execAttest (s : State) : Host.Outcome State Fault Refusal :=
  let fn := s.ctx.ev.a
  .next (let d := s.mbBuf
    let n := field d 64 1
    let at0 := field d 72 8
    if 64 < n then s.mbDone fn 1
    else
      let r := s.dev.report (d.take n)
      if (vfPart fn).isNone && (fn != 0 || dramSize < at0 + r.length) then s.mbDone fn 1
      else match s.mbStore (vfPart fn) at0 r with
        | .error x => s.waitFor .attest x
        | .ok s1 => s1.mbDone fn 0)

/-- `TENSOR` (R262, R334). -/
def execTensor (s : State) : Host.Outcome State Fault Refusal :=
  let fn := s.ctx.ev.a
  .next (s.mbVf (fun p =>
    let id := field s.mbBuf 0 2
    let d := (s.mbBuf.drop 64).take 64
    if 4096 ≤ id then s.mbDone fn 1
    else if (s.part p).tensorRefuses id d then (s.mbPut fn 0 [0#8]).mbDone fn 0
    else ((s.setTensor p id (entryOf d)).mbPut fn 0 [1#8]).mbDone fn 0))

/-- `TIDREAD` (R334). -/
def execTidread (s : State) : Host.Outcome State Fault Refusal :=
  let fn := s.ctx.ev.a
  .next (s.mbVf (fun p =>
    let id := field s.mbBuf 0 2
    if 4096 ≤ id then s.mbDone fn 1
    else (s.mbPut fn 64 ((entBytes (tget [] (s.part p).tensors id) ++ List.replicate 64 0#8).take 64)).mbDone fn 0))

/-- `SYNCNEW` (R334): a new sync object, its number as the control complex picks it. -/
def execSyncnew (s : State) : Host.Outcome State Fault Refusal :=
  let fn := s.ctx.ev.a
  .next (s.mbVf (fun p =>
    let ids := (s.part p).syncs.map SyncObj.id
    if 4096 ≤ ids.length then (s.mbPut fn 0 (leBytes 2 0xFFFF)).mbDone fn 0
    else
      let id := s.freeNumber 0 4096 ids
      ((s.updPart p (fun x => { x with syncs := x.syncs ++ [⟨id, none, [], [], []⟩] })).mbPut fn 0 (leBytes 2 id)).mbDone fn 0))

/-- `SYNCFREE` (R334): refused while the object has a binding or a holder; its captured writes drain first. -/
def execSyncfree (s : State) : Host.Outcome State Fault Refusal :=
  let fn := s.ctx.ev.a
  .next (s.mbVf (fun p =>
    let id := field s.mbBuf 0 2
    match (s.part p).syncs.find? (fun o => o.id == id) with
    | none => s.mbDone fn 1
    | some o =>
      if (s.part p).bindings.any (fun b => b.sync == id) || o.excl.isSome || !o.shared.isEmpty then s.mbDone fn 1
      else if !o.rs.isEmpty then s.defer .syncfree
      else (s.updPart p (fun x => { x with syncs := x.syncs.filter (fun o => o.id != id) })).mbDone fn 0))

/-! ### Writing BAR0 (R7, R329) -/

/-- A driver's write to IFPTR (R335): RD advances, UNREAD falls, OVF clears by 1. -/
def State.ifptr (s : State) (p : Nat) (v : Quad) : State :=
  s.updPart p (fun x =>
    let rd := bits v 7 0
    { x with ifRd := rd, ifUnread := x.ifUnread - (rd + 256 - x.ifRd) % 256, ifOvf := x.ifOvf && !qbit v 31 })

/-- `IFPTR_WRITE` (R335). -/
def execIfptrWrite (s : State) : Host.Outcome State Fault Refusal := .next (s.ifptr s.ctx.ev.a s.ctx.ev.q)

/-- A 64-bit value with a 32-bit half replaced. -/
def setHalf (x : Quad) (off v : Nat) : Quad :=
  if off % 8 = 0 then BitVec.ofNat 64 (bits x 63 32 * 2 ^ 32 + v) else BitVec.ofNat 64 (v * 2 ^ 32 + bits x 31 0)

/-- A 32-bit write to a virtual function's own areas. -/
def State.vfWrite (s : State) (p off v : Nat) : State :=
  let x : Quad := BitVec.ofNat 64 v
  if 0x1000 ≤ off && off < 0x1400 then
    let n := (off - 0x1000) / 64
    (match off % 64 with
     | 0 | 4 => s.updCq p n (fun q => if q.en then q else { q with qbase := setHalf q.qbase off v })
     | 8 => s.qctl p n x
     | 16 => s.doorbell p n (lo32 x)
     | 20 => s.updCq p n (fun q => { q with err := q.err && !qbit x 31 })
     | _ => s)
  else if off = 0x7000 then s.updPart p (fun y => { y with ilogOvf := y.ilogOvf && !qbit x 31 })
  else if off = 0x7008 then s.ifptr p x
  else if 0x8000 ≤ off && off < 0x10000 then
    s.setEvent p ((off - 0x8000) / 8) (setHalf (tget 0 (s.part p).events ((off - 0x8000) / 8)) off v)
  else s

/-- Writing 1 to UEV (R352). -/
def State.berrWrite (s : State) (slice bank : Nat) (v : Quad) : State :=
  if qbit v 63 then s.setBerr (16 * slice + bank) { tget Berr.blank s.dev.berr (16 * slice + bank) with uev := false, uecnt := 0, cecnt := 0 }
  else s

/-- A 32-bit write to BAR0 of a function. -/
def State.write32 (s : State) (fn off v : Nat) : State :=
  if off = 0x200 then s.xlinv fn (BitVec.ofNat 64 v)
  else if off = 0x204 then s.xlinv fn (BitVec.ofNat 64 (v * 2 ^ 32))
  else if off = 0x3000 then s.mbWrite fn v
  else if 0x3100 ≤ off && off < 0x3200 then s.mbPut fn (off - 0x3100) (leBytes 4 v)
  else match vfPart fn with
    | some p => s.vfWrite p off v
    | none =>
      if off = 0x208 then s.updDev (fun d => { d with xlpart := v % 32 })
      else if 0x100000 ≤ off && off < 0x100000 + 4096 * 384 && off % 4096 < 128 && off % 8 = 4 then
        s.berrWrite ((off - 0x100000) / 4096) (off % 4096 / 8) (BitVec.ofNat 64 (v * 2 ^ 32))
      else s

/-- An event counter's offset of a virtual function. -/
def eventOff (off : Nat) : Bool := 0x8000 ≤ off && off < 0x10000

/-- A write to BAR0 of a function: aligned, 4 or 8 bytes; an 8-byte one to a 64-bit register is one write, else its halves are written in
order. -/
def State.barWrite (s : State) (fn off len : Nat) (q : Quad) : State :=
  if len = 4 then s.write32 fn off (bits q 31 0)
  else if off = 0x200 then s.xlinv fn q
  else match vfPart fn, eventOff off with
    | some p, true => s.setEvent p ((off - 0x8000) / 8) q
    | _, _ => (s.write32 fn off (bits q 31 0)).write32 fn (off + 4) (bits q 63 32)

/-- An aligned request of 4 or 8 bytes (R329). -/
def requestOk (off len : Nat) : Bool := (len == 4 || len == 8) && off % len == 0

/-- `REGISTER_WRITE` (R7, R8, R329): a write of `c` bytes of `q` at offset `b` of function `a`. -/
def execRegisterWrite (s : State) : Host.Outcome State Fault Refusal :=
  let e := s.ctx.ev
  .next (if requestOk e.b e.c && e.a ≤ 32 then s.barWrite e.a e.b e.c e.q else s)

/-- `BAR0_UNSUPPORTED` (R329): the request completes with Unsupported Request and changes nothing. -/
def execBar0Unsupported (s : State) : Host.Outcome State Fault Refusal := .next s

/-- `HOST_MEMORY_WRITE` (R177): bytes that the host writes at virtual address `b` of partition `a`, one aligned 64-byte piece after another; a
piece waits at its home as any write does (R346, R371, R379). -/
def execHostMemoryWrite (s : State) : Host.Outcome State Fault Refusal :=
  let e := s.ctx.ev
  .next (if e.bytes = [] then s
    else
      let k := min e.bytes.length (64 - e.b % 64)
      let now := e.bytes.take k
      let rest (s : State) : State :=
        if e.bytes.length ≤ k then s
        else s.pushFront [{ op := .hostMemoryWrite, arg := { e with b := e.b + k, bytes := e.bytes.drop k }, due := s.clock }]
      match s.walk e.a e.b with
      | some (leaf, sh) =>
        let h := leafHome leaf sh e.b
        if bits leaf 61 60 = 0 then
          (match s.putRuns e.a [(h, now.map (fun b => (b, 0xFF#8)))] with
           | .error x => s.waitFor .hostMemoryWrite x
           | .ok s1 => rest (s1.serveAt h))
        else if bits leaf 61 60 = 1 then rest { s with mem := s.mem.put h now }
        else rest s
      | none => rest s)

end Sys2Proof.Machine
end

