-- ==== Sys2Proof/Machine/Fabric.lean ====
section
/-! DEFINITION. The receiving side of the Horoux transport (R17 to R21), the target side of peer access (R327), deferred reductions (R350),
lockstep orders and digests (R325, R326), and the timers of connections. -/

namespace Sys2Proof.Machine

/-! ### Receiving (R19, R21) -/

/-- Sent on a lockstep pair link (R19). -/
def dgPair (g : Datagram) : Bool := g.flags.getLsbD 2

/-- A datagram that is dropped and counted: its CRC, version or destination package is wrong (R19), or its type is none of R20 (log entry 66). -/
def dgBad (g : Datagram) (pkg : Nat) : Bool :=
  g.crc != dgCrc g || g.ver != 1#8 || g.dstPkg.toNat != pkg || g.typ.toNat = 0 || 14 ≤ g.typ.toNat

/-- A pair link carries `DIGEST`, `ORDER`, permits and acknowledgements only, and no other link carries the first two (R21). A datagram that does
not suit this, or whose DSTPART is no partition, is dropped and not counted (log entry 66). -/
def dgLinkOk (g : Datagram) : Bool :=
  let t := g.typ.toNat
  t == 8 || t == 9 || dgPair g == (t == 12 || t == 13)

/-- Message fields of the payload. -/
def dgF (g : Datagram) (off n : Nat) : Nat := field g.payload off n

/-- The state in which the reverse connection of a datagram stands, and that connection. -/
def State.connOf (s : State) (g : Datagram) : Option (State × Conn) :=
  let s1 := s.openConn g.srcPkg.toNat g.dstPart.toNat g.srcPart.toNat g.cls.toNat
  (s1.connFor g.srcPkg.toNat g.dstPart.toNat g.srcPart.toNat g.cls.toNat).map (fun c => (s1, c))

/-- A sequence number that an acknowledgement covers. -/
def ackCovers (ack seq : Word) : Bool := (ack - seq).toNat < 2 ^ 31

/-- A message that acknowledgement ends: a write or a reduction that no `RETRY` has refused (R21). -/
def Msg.endsByAck (m : Msg) : Bool := (m.dg.typ == 1#8 || m.dg.typ == 6#8) && !m.retry

/-- Egress of a partition that lockstep holds carries a message on a connection (R326). -/
def Part.holdsMsg (p : Part) (conn msg : Nat) : Bool :=
  p.pieces.any (fun x => x.acts.any (fun e => match e with | .net id g => id == conn && g.msgId.toNat == msg | _ => false))

/-- An acknowledgement (R21): each datagram it covers returns its permit, its message ends when none of it is left, and waiting
datagrams go out. -/
def State.takeAck (s : State) (id : Nat) (ack : Word) : State :=
  match s.dev.conns.find? (fun c => c.id == id) with
  | none => s
  | some c =>
    let done := c.unacked.filter (fun x => ackCovers ack x.1.seq)
    if done = [] then s
    else
      let rest := c.unacked.filter (fun x => !ackCovers ack x.1.seq)
      let finished (m : Msg) : Bool := m.conn == id && m.endsByAck && done.any (fun x => x.1.msgId.toNat == m.id) &&
        !(s.part c.myPart).holdsMsg id m.id && !(rest.map Prod.fst ++ c.queue).any (fun g => g.msgId.toNat == m.id)
      ((s.updConn id (fun c => { c with unacked := rest, permits := c.permits + done.length })).updDev (fun d =>
        { d with msgs := d.msgs.filter (fun m => !finished m) })).pump id 65536

/-- An `ACK` of a connection is sent where one is due and its port is not paused (R17, R21). -/
def State.sendAck (s : State) (id : Nat) : State :=
  match s.dev.conns.find? (fun c => c.id == id && c.ackDue) with
  | none => s
  | some c =>
    if s.paused (s.sendPort c 9 c.nextSeq) c.cls then s
    else (s.updConn id (fun c => { c with ackDue := false })).sendBare c (dgMake 9 0 0 [])

/-- A bad datagram is counted in the error counter of the port it came through, operand `a` of its step (R19). -/
def State.countBad (s : State) : State :=
  s.updDev (fun d => { d with portErr := tset 0 d.portErr s.ctx.ev.a (tget 0 d.portErr s.ctx.ev.a + 1) })

/-- The datagram in `ctx` is received (R19, R21): a bad one is counted; a datagram out of its turn delivers nothing; the next one in order
delivers by `f`, or waits for what `f` says. Either is acknowledged. -/
def State.receive (s : State) (typ : Nat) (op : Instr) (f : Conn → State → Except Hold State) : State :=
  let g := s.ctx.ev.dg
  if dgBad g s.pkgNum then s.countBad
  else if g.typ.toNat != typ || !dgLinkOk g || 32 ≤ g.dstPart.toNat then s
  else match s.connOf g with
    | none => s
    | some (s1, c) =>
      let next := g.seq == c.recvSeq + 1
      let s2 := s1.updConn c.id (fun c => { c with ackDue := true, recvSeq := if next then g.seq else c.recvSeq })
      match (if next then f c s2 else .ok s2) with
      | .error x => s.waitFor op x
      | .ok s3 =>
        let s4 := s3.takeAck c.id g.ack
        if g.flags.getLsbD 0 then s4.sendAck c.id else s4.pushOnce .ackTimer { a := c.id, b := s.clock }

/-- The datagram in `ctx` is the next one of its connection, and of a type. -/
def State.accepts (s : State) (typ : Nat) : Bool :=
  let g := s.ctx.ev.dg
  !(dgBad g s.pkgNum || g.typ.toNat != typ || !dgLinkOk g || 32 ≤ g.dstPart.toNat) &&
    (match s.connOf g with | some (_, c) => g.seq == c.recvSeq + 1 | none => false)

/-- Answers a datagram with a message of its own number on the reverse connection. -/
def State.answer (s : State) (c : Conn) (typ off : Nat) (last : Bool) (payload : List Byte) : State :=
  s.sendOn c.id { dgMake typ s.ctx.ev.dg.msgId.toNat off payload with flags := if last then 2#8 else 0#8 }

/-! ### The target of peer access (R20, R327) -/

/-- The refusal of one page of a target range: 1 unmapped, 2 not writable, 3 key refused, 4 lost page; 0 for none. A page that may not be read, R
being 0 or the page host-mapped (R220, R413), counts as unmapped to a read (log entry 67). -/
def State.pageWhy (s : State) (p : Nat) (rights : Quad) (va : Nat) (rd wr : Bool) : Nat :=
  match s.walk p va with
  | none => 1
  | some (leaf, _) =>
    if rd && !qbit leaf 56 then 1
    else if wr && !qbit leaf 57 then 2
    else if pkrRefuses rights leaf wr || (rd && pkrRefuses rights leaf false) then 3
    else match s.placeOf p none va with
      | .home _ => 0
      | .host _ => if rd then 1 else 0
      | .lost => 4
      | _ => 1

/-- The refusal of a target range that is read, written or both (R20, R327). -/
def State.ingressWhy (s : State) (g : Datagram) (va n : Nat) (rd wr : Bool) : Nat :=
  let p := g.dstPart.toNat
  let rights := Config.peerRights p g.srcPkg.toNat g.srcPart.toNat
  if (s.part p).resetting then 5
  else if 2 ^ 57 < va + n then 1
  else (((List.range (divUp (va % 65536 + max 1 n) 65536)).map (fun i =>
    s.pageWhy p rights (if i = 0 then va else (va / 65536 + i) * 65536) rd wr)).find? (· != 0)).getD 0

/-- A refusal at the target (R327, R335): an entry of the ingress fault log, vector 0, and a `FAULT` to the sender. -/
def State.refuseIngress (s : State) (c : Conn) (why va : Nat) : State :=
  let g := s.ctx.ev.dg
  let slot := leBytes 2 g.srcPkg.toNat ++ [g.srcPart, BitVec.ofNat 8 why] ++ leBytes 4 0 ++ leBytes 8 va ++ leBytes 8 s.clock ++ leBytes 8 0
  let s1 := s.updPart g.dstPart.toNat (fun q =>
    if 256 ≤ q.ifUnread then { q with ifOvf := true }
    else { q with iflog := tset [] q.iflog q.ifWr slot, ifWr := (q.ifWr + 1) % 256, ifUnread := q.ifUnread + 1 })
  (s1.irq g.dstPart.toNat 0).answer c 11 0 true ([BitVec.ofNat 8 why] ++ leBytes 3 0 ++ leBytes 8 va)

/-- The homes of a target range, byte by byte. -/
def State.targetHome (s : State) (p va : Nat) : Nat :=
  match s.placeOf p none va with | .home h => h | .host h => h | _ => 0

/-- A range of addresses as aligned 64-byte pieces: address and length. -/
def vaPieces : Nat → Nat → Nat → List (Nat × Nat)
  | 0, _, _ => []
  | fuel + 1, va, n =>
    if n = 0 then []
    else
      let k := min n (64 - va % 64)
      (va, k) :: vaPieces fuel (va + k) (n - k)

/-- The aligned 64-byte pieces of a target range at their homes. -/
def State.targetRuns (s : State) (p va n : Nat) : List (Nat × Nat) := (vaPieces (n + 1) va n).map (fun x => (s.targetHome p x.1, x.2))

/-- A write of bytes at a target, piece by piece (R154, R159); it waits where one of its pieces does. -/
def State.targetPut (s : State) (p va : Nat) (bs : List Byte) : Except Hold State :=
  let ws := (vaPieces (bs.length + 1) va bs.length).map (fun x =>
    (s.targetHome p x.1, ((bs.drop (x.1 - va)).take x.2).map (fun b => (b, 0xFF#8))))
  (s.putRuns p ws).map (fun s1 => ws.foldl (fun s2 w => s2.serveAt w.1) s1)

/-- The bytes of a target range. -/
def State.targetGet (s : State) (p va n : Nat) : List Byte := (s.targetRuns p va n).flatMap (fun x => s.mem.bytes x.1 x.2)

/-- The uncorrectable granules among the bytes of a target range. -/
def State.targetUes (s : State) (p va n : Nat) : List Nat := ((s.targetRuns p va n).flatMap (fun x => s.uesIn x.1 x.2)).eraseDups

/-- What a read of a target range waits for. -/
def State.targetHold (s : State) (p va n : Nat) : Option Hold := (s.targetRuns p va n).findSome? (fun x => s.readHold x.1)

/-- The stale derived tiles to recompute before a read of a target range (R407). -/
def State.targetStale (s : State) (p va n : Nat) : List (Nat × Nat × Nat) := ((s.targetRuns p va n).flatMap (fun x => s.staleAt x.1)).eraseDups

/-- `WRITE` (R20, R327): the data is written at the target address, or refused. -/
def execWrite (s : State) : Host.Outcome State Fault Refusal :=
  let g := s.ctx.ev.dg
  let p := g.dstPart.toNat
  let va := dgF g 0 8
  let bs := g.payload.drop 8
  let why := s.ingressWhy g va bs.length false true
  .next (s.receive 1 .write (fun c s1 => if why ≠ 0 then .ok (s1.refuseIngress c why va) else s1.targetPut p va bs))

/-- The pieces in which read data is sent: offset and length (R19, log entry 9). -/
def dataPieces : Nat → Nat → Nat → List (Nat × Nat)
  | 0, _, _ => []
  | fuel + 1, off, n => if n ≤ 8192 then [(off, n)] else (off, 8192) :: dataPieces fuel (off + 8192) (n - 8192)

/-- The bytes of the source of a `READ` are sent, or the read is refused as of a lost page: an uncorrectable granule, or a derived tile that could
not be recomputed (R353, R409). -/
def State.sendData (s : State) (c : Conn) (p va n : Nat) : State :=
  match s.targetUes p va n with
  | x :: xs => ((x :: xs).foldl State.recordUe s).refuseIngress c 4 va
  | [] =>
    if s.targetStale p va n != [] then s.refuseIngress c 4 va
    else (dataPieces (n / 8192 + 1) 0 n).foldl (fun s2 x =>
      s2.answer c 3 x.1 (x.1 + x.2 == n) (s.targetGet p (va + x.1) x.2)) ((s.targetRuns p va n).foldl (fun s1 x => s1.serveAt x.1) s)

/-- `READ` (R20, R327): the bytes of the source are sent as `DATA`, or the read is refused; stale derived tiles are recomputed first (R407). -/
def execRead (s : State) : Host.Outcome State Fault Refusal :=
  let e := s.ctx.ev
  let g := e.dg
  let p := g.dstPart.toNat
  let va := dgF g 0 8
  let n := dgF g 8 4
  let why := if 2 ^ 24 < n then 1 else s.ingressWhy g va n true false
  let hold := if why = 0 then s.targetHold p va n else none
  let stale := if why = 0 then s.targetStale p va n else []
  .next (if e.d = 0 && stale != [] && s.accepts 2 && hold.isNone then s.recomputeFirst .read stale
    else s.receive 2 .read (fun c s1 => match hold with
      | some x => .error x
      | none => .ok (if why ≠ 0 then s1.refuseIngress c why va else s1.sendData c p va n)))

/-- The operations of an `ATOMIC` (R20). -/
def ingressOp (n : Nat) : Option AtomOp := [AtomOp.add, .min, .max, .exch, .and, .or, .xor, .cas][n]?

/-- `ATOMIC` (R20): the operation is performed at its home and its old value sent. One that is not aligned, or whose operation or width
R20 does not list, is not performed. -/
def execAtomic (s : State) : Host.Outcome State Fault Refusal :=
  let g := s.ctx.ev.dg
  let p := g.dstPart.toNat
  let va := dgF g 0 8
  let w := dgF g 9 1
  let why := s.ingressWhy g va w true true
  let v := leNat (s.targetGet p va w)
  .next (match ingressOp (dgF g 8 1) with
    | none => s.receive 4 .atomic (fun _ s1 => .ok s1)
    | some op =>
      let new := leBytes w (atomStep op (8 * w) v (dgF g 16 8 % 2 ^ (8 * w)) (dgF g 24 8 % 2 ^ (8 * w)))
      if (w != 4 && w != 8) || va % w != 0 then s.receive 4 .atomic (fun _ s1 => .ok s1)
      else s.receive 4 .atomic (fun c s1 =>
        if why ≠ 0 then .ok (s1.refuseIngress c why va)
        else (((s1.targetUes p va w).foldl State.recordUe s1).targetPut p va new).map (fun s2 => s2.answer c 5 0 true (leBytes 8 v))))

/-! ### Reductions (R20, R350) -/

/-- Row `h` / 2048 of package memory is leased by a step in progress (R350). -/
def State.rowLeased (s : State) (h : Nat) : Bool :=
  h < 2 ^ 46 && s.banks.any (fun k => k.lease.isSome && k.slice == sliceOf h && (s.stepRows k).any (fun x =>
    (k.rowRanges x.2).any (fun r => match s.homeOf k.part r.1 with
      | some y => y / 2048 ≤ h / 2048 && h / 2048 ≤ (y + r.2 - 1) / 2048
      | none => false)))

/-- The operations of a `REDUCE` (R20). -/
def reduceOp (n : Nat) : Option AtomOp := [AtomOp.add, .min, .max, .addF32][n]?

/-- The operation, width, address and operands of a `REDUCE`; none where R20 does not list its operation or width, it is not aligned, or
its operands are not all there. -/
def reduceOf (g : Datagram) : Option (AtomOp × Nat × Nat × List Nat) :=
  let w := dgF g 9 1
  let n := dgF g 10 2
  match reduceOp (dgF g 8 1) with
  | none => none
  | some op =>
    if (w != 4 && w != 8) || (op == .addF32 && w != 4) || dgF g 0 8 % w != 0 || g.payload.length < 16 + w * n then none
    else some (op, w, dgF g 0 8, (List.range n).map (fun i => dgF g (16 + w * i) w))

/-- The bytes the operands of a reduction leave, each applied to what those before it have left. -/
def State.reduced (s : State) (p : Nat) (op : AtomOp) (w va : Nat) (xs : List Nat) : List Byte :=
  (xs.foldl (fun (acc : Memory × List Byte) x =>
    let h := s.targetHome p (va + acc.2.length)
    let b := leBytes w (atomStep op (8 * w) (leNat (acc.1.bytes h w)) x 0)
    (acc.1.put h b, acc.2 ++ b)) (s.mem, [])).2

/-- A reduction is applied at its homes (R154). -/
def State.applyReduce (s : State) (p : Nat) (op : AtomOp) (w va : Nat) (xs : List Nat) : Except Hold State :=
  ((s.targetUes p va (w * xs.length)).foldl State.recordUe s).targetPut p va (s.reduced p op w va xs)

/-- A reduction is applied in the close of a step, on the open row, before the channel goes on (R350). -/
def State.closeReduce (s : State) (p : Nat) (op : AtomOp) (w va : Nat) (xs : List Nat) : Except Hold State :=
  (({ s with banks := [] } : State).applyReduce p op w va xs).map (fun s1 => { s1 with banks := s.banks })

/-- The slice of the first leased row that a reduction reaches. -/
def State.leasedSlice (s : State) (p w va : Nat) (xs : List Nat) : Option Nat :=
  ((List.range xs.length).map (fun i => s.targetHome p (va + w * i))).findSome? (fun h => if s.rowLeased h then some (sliceOf h) else none)

/-- `REDUCE` (R20, R350): the operands are applied in ascending order. At a leased row the packet joins the slice's deferred queue of 32;
with that full it is refused with `RETRY` and changes nothing. With `d` 1 it is a deferred packet, which is applied. -/
def execReduce (s : State) : Host.Outcome State Fault Refusal :=
  let e := s.ctx.ev
  let g := e.dg
  let p := g.dstPart.toNat
  .next (match reduceOf g with
    | none => s.receive 6 .reduce (fun _ s1 => .ok s1)
    | some (op, w, va, xs) =>
      let why := s.ingressWhy g va (w * xs.length) true true
      if e.d = 1 then
        (if why ≠ 0 then (match s.connOf g with | some (s1, c) => s1.refuseIngress c why va | none => s)
         else match s.closeReduce p op w va xs with
           | .error x => s.waitFor .reduce x
           | .ok s1 => s1)
      else
        let lease := s.leasedSlice p w va xs
        s.receive 6 .reduce (fun c s1 =>
          if why ≠ 0 then .ok (s1.refuseIngress c why va)
          else match lease with
            | none => s1.applyReduce p op w va xs
            | some sl =>
              let l := tget [] s1.dev.deferred sl
              .ok (if 32 ≤ l.length then s1.answer c 10 0 true (leBytes 4 g.msgId.toNat ++ leBytes 4 g.offset.toNat)
                else s1.updDev (fun d => { d with deferred := tset [] d.deferred sl (l ++ [g]) }))))

/-! ### Arrivals and permits -/

/-- `ARRIVE` (R20, R315): arrivals and bytes are counted at a barrier of a crew, live or saved. -/
def execArrive (s : State) : Host.Outcome State Fault Refusal :=
  let g := s.ctx.ev.dg
  .next (s.receive 7 .arrive (fun _ s1 => .ok (match s1.allCrews.find? (fun c => c.part == g.dstPart.toNat && c.taskId == dgF g 0 2 && c.span == dgF g 4 4 && c.rank == dgF g 8 1) with
    | some c => if dgF g 9 1 < 64 then s1.countBar c.id (dgF g 9 1) (dgF g 10 2) (dgF g 12 4) false else s1
    | none => s1)))

/-- `PERMIT` (R20): send permits come back to the connection. -/
def execPermit (s : State) : Host.Outcome State Fault Refusal :=
  let g := s.ctx.ev.dg
  .next (s.receive 8 .permit (fun c s1 =>
    .ok ((s1.updConn c.id (fun c => { c with permits := c.permits + dgF g 0 4 })).pump c.id 65536)))

/-- `ACK` (R19, R21): an acknowledgement without data, which is itself not acknowledged; a bad one is counted. -/
def execAck (s : State) : Host.Outcome State Fault Refusal :=
  let g := s.ctx.ev.dg
  .next (if dgBad g s.pkgNum then s.countBad
    else if g.typ.toNat != 9 || 32 ≤ g.dstPart.toNat then s
    else match s.connOf g with | some (s1, c) => s1.takeAck c.id g.ack | none => s)

/-! ### Answers to what this package sent -/

/-- The message of a connection that a datagram answers. -/
def State.msgOf (s : State) (c : Conn) (id : Nat) : Option Msg := s.dev.msgs.find? (fun m => m.conn == c.id && m.id == id)

/-- A message is over. -/
def State.endMsg (s : State) (id : Nat) : State := s.updDev (fun d => { d with msgs := d.msgs.filter (fun m => m.id != id) })

/-- A message fails, and its command with TIMEOUT (R21, R278). -/
def State.failMsg (s : State) (m : Msg) : State :=
  let s1 := (s.endMsg m.id).updConn m.conn (fun c => { c with queue := c.queue.filter (fun g => g.msgId.toNat != m.id) })
  match m.cmd.bind s1.copyOf with
  | some k => if k.st = .failing then s1 else s1.copyFails k 4
  | none => s1

/-- `DATA` (R20): read data comes back; with the last of it the message ends, and with the last message of a run its bytes are there. -/
def execData (s : State) : Host.Outcome State Fault Refusal :=
  let g := s.ctx.ev.dg
  .next (s.receive 3 .data (fun c s1 => .ok (match s1.msgOf c g.msgId.toNat with
    | none => s1
    | some m => match m.dst with
      | none => s1
      | some h =>
        let bs := g.payload.take (m.len - g.offset.toNat)
        let s2 : State := { s1 with mem := s1.mem.put (h + g.offset.toNat) bs }
        if !g.flags.getLsbD 1 then s2
        else
          let s3 := s2.endMsg m.id
          match m.cmd with
          | none => s3
          | some k =>
            if s3.dev.msgs.any (fun x => x.cmd == some k && x.dst.isSome) then s3 else s3.updCopy k (fun k => { k with fetched := true }))))

/-- `OLD` (R20): the old value of an atomic comes back, and its message ends. -/
def execOld (s : State) : Host.Outcome State Fault Refusal :=
  let g := s.ctx.ev.dg
  .next (s.receive 5 .old (fun c s1 =>
    .ok (match s1.msgOf c g.msgId.toNat with | some m => s1.endMsg m.id | none => s1)))

/-- `RETRY` (R21, R350): the refused reduction is sent again later; the wait does not count toward the peer timeout. -/
def execRetry (s : State) : Host.Outcome State Fault Refusal :=
  let g := s.ctx.ev.dg
  .next (s.receive 10 .retry (fun c s1 => .ok (match s1.msgOf c (dgF g 0 4) with
    | none => s1
    | some m => (s1.updDev (fun d => { d with msgs := updIf (fun x => x.id == m.id) (fun x =>
        { x with retry := true, sentAt := s.clock }) d.msgs })).push .retryBackoffTimer { a := c.id, b := m.id })))

/-- `FAULT` (R21, R327): the message ends at once, and its command fails with TIMEOUT. -/
def execFault (s : State) : Host.Outcome State Fault Refusal :=
  let g := s.ctx.ev.dg
  .next (s.receive 11 .fault (fun c s1 =>
    .ok (match s1.msgOf c g.msgId.toNat with | some m => s1.failMsg m | none => s1)))

/-! ### Lockstep (R325, R326) -/

/-- A partition halts for inspection: vector 0, which no piece holds, but which goes to the log of a suspended partition (R323), and the
management event of `LOCKSTEP_MISMATCH`. -/
def State.mismatch (s : State) (p : Nat) : State :=
  if (s.part p).halted then s
  else
    let s1 := s.updPart p (fun q => { q with halted := true })
    (if (s.part p).suspended then s1.irq p 0 else s1.release p (.irq 0)).pfEvent 1

/-- A piece whose digests are both there is released where they match, else the partition halts (R326). The last piece of a class stays
listed for its number. -/
def State.settle (s : State) (p cls num : Nat) : State :=
  let is (x : Piece) : Bool := x.cls == cls && x.num == num
  match (s.part p).pieces.find? is with
  | some x => match x.mine, x.theirs with
    | some a, some b =>
      if a ≠ b then s.mismatch p
      else
        let s1 := x.acts.foldl (fun s1 e => s1.release p e) s
        s1.updPart p (fun q => { q with pieces :=
          (updIf is (fun x => { x with bytes := [], acts := [] }) q.pieces).filter (fun y => !(y.cls == cls && y.num < num)) })
    | _, _ => s
  | none => s

/-- `DIGEST` (R326): the mate's digest of a piece, which may come before the piece here. -/
def execDigest (s : State) : Host.Outcome State Fault Refusal :=
  let g := s.ctx.ev.dg
  let p := g.dstPart.toNat
  let num := dgF g 0 8
  let cls := dgF g 8 2
  let dg := BitVec.ofNat 384 (dgF g 16 48)
  .next (s.receive 12 .digest (fun _ s1 =>
    .ok (if !s1.isLockstep p then s1
    else
      let s2 := s1.updPart p (fun q =>
        if q.pieces.any (fun x => x.cls == cls && x.num == num) then
          { q with pieces := updIf (fun x => x.cls == cls && x.num == num) (fun x => { x with theirs := some dg }) q.pieces }
        else { q with pieces := q.pieces ++ [⟨num, cls, [], [], false, none, some dg, s.clock⟩] })
      s2.settle p cls num)))

/-- `LOCKSTEP_PIECE_CLOSE` (R326): piece `b` of class `c` of partition `a` closes at 4 KiB, or 2 µs after its last byte, and its digest goes to
the mate. -/
def execLockstepPieceClose (s : State) : Host.Outcome State Fault Refusal :=
  let e := s.ctx.ev
  let is (x : Piece) : Bool := x.cls == e.c && x.num == e.b
  .next (match (s.part e.a).pieces.find? is with
    | none => s
    | some x =>
      if x.closed then s
      else if x.bytes.length < 4096 && s.clock < x.since + 7200 then s.defer .lockstepPieceClose
      else
        let s1 := s.updPart e.a (fun q => { q with pieces := updIf is (fun x => { x with closed := true, mine := some x.digest }) q.pieces })
        let s2 := s1.sendPair e.a (dgMake 12 0 0 (leBytes 8 e.b ++ leBytes 2 e.c ++ leBytes 6 0 ++ leBytes 48 x.digest.toNat))
        s2.settle e.a e.c e.b)

/-- `LOCKSTEP_LINK_LOSS` (R326): the pair link of partition `a` has been lost for more than 100 µs. -/
def execLockstepLinkLoss (s : State) : Host.Outcome State Fault Refusal :=
  let e := s.ctx.ev
  .next (if s.isLockstep e.a then s.mismatch e.a else s)

/-- Order records of a payload: address, source stream, position (R20). -/
def orderRecs (b : List Byte) : List (Nat × Nat × Nat) :=
  (List.range (b.length / 16)).map (fun i => (field b (16 * i) 8, field b (16 * i + 8) 4, field b (16 * i + 12) 4))

/-- `ORDER` (R325): the leader's records join the follower's. -/
def execOrder (s : State) : Host.Outcome State Fault Refusal :=
  let g := s.ctx.ev.dg
  let p := g.dstPart.toNat
  .next (s.receive 13 .order (fun _ s1 =>
    .ok (if s1.isFollower p then s1.updPart p (fun q => { q with order := q.order ++ orderRecs g.payload }) else s1)))

/-! ### Drops, timers, flow control -/

/-- `DATAGRAM_DROP` (R19): a bad datagram is counted at port `a`. -/
def execDatagramDrop (s : State) : Host.Outcome State Fault Refusal :=
  .next (if dgBad s.ctx.ev.dg s.pkgNum then s.countBad else s)

/-- `ACK_TIMER` (R21): within 2 µs of receipt, here at the latest, an `ACK` goes out where no datagram has carried the acknowledgement. -/
def execAckTimer (s : State) : Host.Outcome State Fault Refusal := .next (s.sendAck s.ctx.ev.a)

/-- A datagram is sent again, with the acknowledgement of now (R21). -/
def State.resend (s : State) (c : Conn) (g : Datagram) : State :=
  let g1 : Datagram := { g with ack := c.recvSeq }
  s.transmit (s.sendPort c g.typ.toNat g.seq) { g1 with crc := dgCrc g1 }

/-- `RETRANSMIT_TIMER` (R21): the datagrams of connection `a` whose wait has passed are sent again, oldest first, and their waits double up
to 160 µs; one whose port is paused waits for its port (R17). -/
def execRetransmitTimer (s : State) : Host.Outcome State Fault Refusal :=
  .next (match s.dev.conns.find? (fun c => c.id == s.ctx.ev.a) with
    | none => s
    | some c =>
      if c.unacked = [] then s
      else
        let due (x : Datagram × Nat × Nat) : Bool :=
          x.2.1 + x.2.2 ≤ s.clock && !s.paused (s.sendPort c x.1.typ.toNat x.1.seq) c.cls
        let s1 := s.updConn c.id (fun c => { c with
          unacked := updIf due (fun x => (x.1, s.clock, min 576000 (2 * x.2.2))) c.unacked
          ackDue := c.ackDue && !c.unacked.any due })
        (((c.unacked.filter due).map Prod.fst).foldl (fun s2 g => s2.resend c g) s1).defer .retransmitTimer)

/-- `PEER_TIMEOUT` (R21, R327): the messages of connection `a` that the peer timeout has passed over fail. -/
def execPeerTimeout (s : State) : Host.Outcome State Fault Refusal :=
  let id := s.ctx.ev.a
  .next (match s.dev.conns.find? (fun c => c.id == id) with
    | none => s
    | some c =>
      let late (m : Msg) : Bool := m.conn == id && !m.retry && m.sentAt + 3600 * (s.part c.myPart).conf.peerTo ≤ s.clock
      let s1 := (s.dev.msgs.filter late).foldl (fun s1 m => s1.failMsg m) s
      if s1.dev.msgs.any (fun m => m.conn == id) then s1.defer .peerTimeout else s1)

/-- `RETRY_BACKOFF_TIMER` (R21, R350): message `b` of connection `a` is sent again after 1 µs, and then after twice the wait, up to 16 µs. -/
def execRetryBackoffTimer (s : State) : Host.Outcome State Fault Refusal :=
  let e := s.ctx.ev
  .next (match s.dev.msgs.find? (fun m => m.conn == e.a && m.id == e.b && m.retry) with
    | none => s
    | some m =>
      if s.clock < m.sentAt + m.backoff then s.defer .retryBackoffTimer
      else
        (s.updDev (fun d => { d with msgs := updIf (fun x => x.id == m.id) (fun x =>
          { x with retry := false, sentAt := s.clock, backoff := min 57600 (2 * x.backoff) }) d.msgs })).sendOn m.conn m.dg)

/-- `PRIORITY_FLOW_CONTROL` (R17): priority `b` of port `a` is paused, or with `c` 0 goes on, and what waited for it goes out. -/
def execPriorityFlowControl (s : State) : Host.Outcome State Fault Refusal :=
  let e := s.ctx.ev
  .next (if 18 ≤ e.a || 2 ≤ e.b then s
    else
      let s1 := s.updDev (fun d => { d with pause := tset false d.pause (2 * e.a + e.b) (e.c != 0) })
      if e.c ≠ 0 then s1
      else (s1.dev.conns.filter (fun c => min 1 c.cls == e.b)).foldl (fun s2 c => (s2.pump c.id 65536).sendAck c.id) s1)

end Sys2Proof.Machine
end

