-- ==== Sys2Proof/Machine/Boot.lean ====
section
/-! DEFINITION. The control complex: boot (R23 to R27), service levels (R28 to R31), failures (R32 to R34), temperature (R15), the host link
(R16) and the management interface (R22). -/

namespace Sys2Proof.Machine

/-! ### Figures (R33, R36, R37) -/

/-- The halves of clusters in service: those of clusters 0 and 1 of each die in reduced service (R28), else all 32. -/
def Dev.halves (d : Dev) : List Nat := if d.reduced then [0, 1, 2, 3, 16, 17, 18, 19] else List.range 32

/-- The figures of `SVCSTAT` from the units in service. A stack has 32 channels and 2 walkers. -/
def Dev.publish (d : Dev) : Dev :=
  { d with
    cores := (d.halves.map (fun h => tget 6 d.halfSize h)).foldl (· + ·) 0
    stacked := d.trained.length
    chan := 32 * d.trained.length - (d.failedChans.filter (fun c => d.trained.contains (stackOfSlice c))).length
    walk := 2 * d.trained.length - (d.failedWalkers.filter (fun w => d.trained.contains (w / 2))).length
    cpe := 32 - d.failedCpe.length }

/-- Degraded operation (R33): the reduced figures, `SERVICE_REQ`, and `LEVEL` 3, in reduced service too; a device that does not serve yet
shows it when it does, and a halted one stays halted (log entry 27). -/
def State.degrade (s : State) : State :=
  let s1 := s.updDev (fun d => Dev.publish { d with serviceReq := true, level := if d.level = 1 || d.level = 2 then 3 else d.level })
  let ps := (s1.parts.filter (fun p => p.2.configured)).map Prod.fst
  (ps.foldl (fun s2 p => s2.irq p 0) s1).pfEvent 3

/-! ### Boot (R23 to R27) -/

/-- The configuration store holds 64 KiB, the last 4 bytes being its CRC-32C (R23, log entry 8). -/
def storeSize : Nat := 65536

/-- All bytes of the store: those past the list read 0. -/
def fullStore (b : List Byte) : List Byte := b ++ List.replicate (storeSize - b.length) 0#8

/-- The store passes its CRC; one that nothing has written does not. -/
def storeOk (b : List Byte) : Bool :=
  b.length == storeSize && field b (storeSize - 4) 4 == (crc32c (b.take (storeSize - 4))).toNat

/-- The boot servers of the store in effect, at most 8 (R23, R26, log entry 8). -/
def Dev.servers (d : Dev) : Nat := min 8 (field d.storeLive 2 1)

/-- `n` bytes of the store in effect. -/
def Dev.storeBytes (d : Dev) (off n : Nat) : List Byte := (List.range n).map (fun i => d.storeLive.getD (off + i) 0#8)

/-- A string of the store in effect, which ends at its first zero byte. -/
def Dev.storeName (d : Dev) (off n : Nat) : List Byte := (d.storeBytes off n).takeWhile (· != 0#8)

/-- The connection to boot server `i` (R23, R24; the layout in log entry 8): through the boot port, to the server's address and TCP port, 443
where none is given, with the host name its certificate is checked for and the path of the image. -/
def Dev.bootTo (d : Dev) (i : Nat) : BootConn :=
  let at0 := 64 + 1024 * i
  let tcp := field d.storeLive (at0 + 16) 2
  { port := let n := field d.storeLive 3 1; if n < 18 then n else 0
    own := if field d.storeLive 6 1 = 1 then some (d.storeBytes 8 16, field d.storeLive 7 1, d.storeBytes 24 16) else none
    server := { addr := d.storeBytes at0 16, tcp := if tcp = 0 then 443 else tcp, name := d.storeName (at0 + 32) 256,
                path := d.storeName (at0 + 288) 736 } }

/-- The image is fetched from server `i` (R24, R26). -/
def Dev.fetchFrom (d : Dev) (i : Nat) : Dev :=
  { d with bootst := 1, bootWait := false, fetching := true, server := i, bootConn := some (d.bootTo i) }

/-- Every server has failed, or there is none: the boot waits (R23, R26). -/
def Dev.bootStops (d : Dev) : Dev := { d with bootst := 4, bootWait := true, fetching := false, bootConn := none }

/-- The boot starts from the first server; without servers the device waits (R23). -/
def Dev.fetch (d : Dev) : Dev := if d.servers = 0 then d.bootStops else d.fetchFrom 0

/-- The device after a reset with some memory (R23, R24, R27): the configuration store takes effect, ROM and configuration are measured,
and the boot fetches its image. -/
def State.bootWith (s : State) (m : Memory) : State :=
  { State.reset with
    mem := m
    nextId := s.nextId
    dev := Dev.fetch { Dev.reset with
      store := s.dev.store
      storeLive := if storeOk s.dev.store then s.dev.store else []
      measRom := Config.sha384 Config.rom
      measConf := Config.sha384 (fullStore s.dev.store)
      linkWidth := s.dev.linkWidth
      linkSpeed := s.dev.linkSpeed
      irqs := s.dev.irqs
      hostWrites := s.dev.hostWrites
      replies := s.dev.replies
      netOut := s.dev.netOut } }

/-- `POWER_ON` (R24): only the configuration store outlives the loss of power. -/
def execPowerOn (s : State) : Host.Outcome State Fault Refusal := .next (s.bootWith [])

/-- `DEVICE_RESET` (R23, R24): memory keeps its bytes (log entry 28); the register pages read as the registers they show, which are reset
(R338, R352). -/
def execDeviceReset (s : State) : Host.Outcome State Fault Refusal := .next (s.bootWith (s.mem.clear (2 ^ 46 + 2 ^ 44) (2 ^ 46 + 2 ^ 45)))

/-- The boot goes on with the next server; after the last it waits (R26). -/
def State.nextServer (s : State) : State :=
  if s.dev.server + 1 < s.dev.servers then s.updDev (fun d => d.fetchFrom (d.server + 1))
  else (s.updDev Dev.bootStops).push .bootRetryWait { b := s.clock }

/-- `IMAGE_FETCH_DONE` (R25, R26, R27): the image has arrived and is being verified (`BOOTST` 2); after that (`d` 1) one that both signatures
verify is measured and runs, and any other is discarded. -/
def execImageFetchDone (s : State) : Host.Outcome State Fault Refusal :=
  let e := s.ctx.ev
  .next (if !s.dev.fetching then s
    else if s.dev.bootst = 1 && e.d = 0 then (s.updDev (fun d => { d with bootst := 2 })).push .imageFetchDone { e with d := 1 }
    else if s.dev.bootst ≠ 2 || e.d = 0 then s
    else if Config.rsaVerify e.bytes && Config.slhVerify e.bytes then
      s.updDev (fun d => { d with bootst := 3, fetching := false, bootConn := none, measImage := Config.sha384 e.bytes })
    else s.nextServer)

/-- `BOOT_SERVER_FAILURE` (R26): the connection or its certificate failed. -/
def execBootServerFailure (s : State) : Host.Outcome State Fault Refusal :=
  .next (if s.dev.fetching && s.dev.bootst = 1 then s.nextServer else s)

/-- `BOOT_RETRY_WAIT` (R26): 30 s after every server has failed the boot starts again; `b` is the cycle of the failure. -/
def execBootRetryWait (s : State) : Host.Outcome State Fault Refusal :=
  let e := s.ctx.ev
  .next (if !s.dev.bootWait || s.dev.servers = 0 then s
    else if s.clock < e.b + 108000000000 then s.defer .bootRetryWait
    else s.updDev Dev.fetch)

/-! ### Service levels (R28 to R31) -/

/-- `REDUCED_SERVICE_ENTRY` (R28, R37): stacks 0 and 6 have trained. -/
def execReducedServiceEntry (s : State) : Host.Outcome State Fault Refusal :=
  .next (if s.dev.level = 0 && s.dev.bootst = 3 then
      s.updDev (fun d => Dev.publish { d with level := if d.serviceReq then 3 else 1, reduced := true, trained := [0, 6] })
    else s)

/-- The spans of every partition whose crews pass a test. -/
def State.allSpans (s : State) (f : Crew → Bool) : List (Nat × Nat) :=
  ((s.allCrews.filter (fun c => !c.retired && f c)).map (fun c => (c.task, c.span))).eraseDups

/-- Full service begins (R31, R33): a stack that has not trained is handled as failed. -/
def State.enterFull (s : State) (trained : List Nat) : State :=
  let s1 := s.updDev (fun d => Dev.publish { d with
    level := if d.serviceReq then 3 else 2
    reduced := false
    trained := (List.range 12).filter (fun x => trained.contains x)
    failedStacks := (List.range 12).filter (fun x => !trained.contains x) })
  let s2 := if trained.length < 12 || s1.dev.level = 3 then s1.degrade else s1
  let back := s2.allSpans (fun c => c.saved && !(s2.part c.part).suspended)
  let s3 := s2.pushAll .restore (back.map (fun x => { a := x.1, b := x.2, c := 16 }))
  (s3.parts.map Prod.fst).foldl (fun s4 p => s4.resumeCopies p) s3

/-- `FULL_SERVICE_ENTRY` (R31): the control complex pre-empts every crew; when all are saved (`d` 1) it adds the other stacks and cores and
restores the crews. `bytes` lists the stacks that have trained. -/
def execFullServiceEntry (s : State) : Host.Outcome State Fault Refusal :=
  let e := s.ctx.ev
  .next (if !s.dev.reduced || s.dev.level = 4 then s
    else if e.d = 0 then
      (s.pushAll .preemptRequest ((s.allSpans (fun c => !c.saved)).map (fun x => { a := x.1, b := x.2 }))).push .fullServiceEntry { e with d := 1 }
    else if s.allCrews.any (fun c => !c.retired && !c.saved) then s.defer .fullServiceEntry
    else s.enterFull (0 :: 6 :: (e.bytes.map (fun b => b.toNat)).filter (fun x => x != 0 && x != 6 && x < 12)).eraseDups)

/-! ### Temperature, failures (R15, R32 to R34) -/

/-- `TEMP_SAMPLE` (R15, R36): the temperature `a` in °C; an alarm from 95 °C, a halt from 110 °C. -/
def execTempSample (s : State) : Host.Outcome State Fault Refusal :=
  let t := s.ctx.ev.a
  .next (
    let s1 := s.updDev (fun d => { d with tempc := t % 256 })
    let s2 := if 95 ≤ t && s.dev.tempc < 95 then s1.pfEvent 4 else s1
    if t < 110 || s.dev.level = 4 then s2
    else ((s2.parts.filter (fun p => p.2.configured)).map Prod.fst).foldl (fun s3 p => s3.startReset p)
      (s2.updDev (fun d => { d with level := 4 })))

/-- The partition that owns a half of a cluster. -/
def State.ownerOf (s : State) (h : Nat) : Option Nat :=
  (s.parts.find? (fun p => p.2.conf.clusters.getLsbD h)).map Prod.fst

/-- `CORE_FAILURE` (R32, R33): the partition that owns core `a` is reset; a spare of the die takes the core's place, or without one the
cluster shrinks. -/
def execCoreFailure (s : State) : Host.Outcome State Fault Refusal :=
  let c := s.ctx.ev.a
  .next (if 192 ≤ c then s
    else
      let h := c / 6
      let s1 := match s.ownerOf h with | some p => s.startReset p | none => s
      if c < 96 then
        (if 0 < s.dev.spare0 then s1.updDev (fun d => { d with spare0 := d.spare0 - 1 })
         else (s1.updDev (fun d => { d with halfSize := tset 6 d.halfSize h (tget 6 d.halfSize h - 1) })).degrade)
      else if 0 < s.dev.spare1 then s1.updDev (fun d => { d with spare1 := d.spare1 - 1 })
      else (s1.updDev (fun d => { d with halfSize := tset 6 d.halfSize h (tget 6 d.halfSize h - 1) })).degrade)

/-- `DRAM_ROW_FAILURE` (R32): a spare row takes the row's place, invisibly to programs. -/
def execDramRowFailure (s : State) : Host.Outcome State Fault Refusal := .next s

/-- `CHANNEL_FAILURE` (R33, R34): the channel of slice `a` leaves service; copies parked at its pages meet a lost page. -/
def execChannelFailure (s : State) : Host.Outcome State Fault Refusal :=
  let c := s.ctx.ev.a
  .next (if 384 ≤ c || s.dev.failedChans.contains c then s
    else
      let s1 := (s.updDev (fun d => { d with failedChans := d.failedChans ++ [c] })).degrade
      (s1.parts.map Prod.fst).foldl (fun s2 p => s2.resumeCopies p) s1)

/-- `WALKER_FAILURE` (R33, R34): walker `a` leaves service, and every tree bound to it is unbound. -/
def execWalkerFailure (s : State) : Host.Outcome State Fault Refusal :=
  let w := s.ctx.ev.a
  .next (if 24 ≤ w || s.dev.failedWalkers.contains w then s
    else (s.updDev (fun d => { d with failedWalkers := d.failedWalkers ++ [w] })).degrade)

/-- `COPY_ENGINE_FAILURE` (R33): copy engine `a` leaves service. -/
def execCopyEngineFailure (s : State) : Host.Outcome State Fault Refusal :=
  let x := s.ctx.ev.a
  .next (if 32 ≤ x || s.dev.failedCpe.contains x then s
    else (s.updDev (fun d => { d with failedCpe := d.failedCpe ++ [x] })).degrade)

/-- `BANK_SPARE_EXHAUSTED` (R33): a bank has run out of spare rows. -/
def execBankSpareExhausted (s : State) : Host.Outcome State Fault Refusal := .next s.degrade

/-! ### The host link and the management interface (R16, R22) -/

/-- `HOST_LINK_TRAIN` (R16): the link trains at width `a` and `b` GT/s a lane. -/
def execHostLinkTrain (s : State) : Host.Outcome State Fault Refusal :=
  let e := s.ctx.ev
  .next (s.updDev (fun d => { d with linkWidth := e.a, linkSpeed := e.b }))

/-- A management reply. -/
def State.reply (s : State) (b : List Byte) : State := s.updDev (fun d => { d with replies := d.replies ++ [b] })

/-- A completion with data: completion code 0 (log entry 26). -/
def completion (b : List Byte) : List Byte := 0#8 :: b
/-- The error completion of a request with bad parameters: 2 (log entry 26). -/
def invalidReply : List Byte := [2#8]
/-- The error completion of an unsupported command: 5 (R22, log entry 26). -/
def unsupportedReply : List Byte := [5#8]

/-- The sensors of PLDM (R22): 0 to 10 the fields of `SVCSTAT` from the top, of which 10 is `TEMPC`, and 11 to 14 the power of the four
domains of R13 (log entry 26). -/
def State.sensor (s : State) (n : Nat) : Option Nat :=
  let d := s.dev
  match n with
  | 0 => some (if d.serviceReq then 1 else 0)
  | 1 => some d.level
  | 2 => some d.bootst
  | 3 => some d.chan
  | 4 => some d.walk
  | 5 => some d.cpe
  | 6 => some d.cores
  | 7 => some d.spare0
  | 8 => some d.spare1
  | 9 => some d.stacked
  | 10 => some d.tempc
  | n => if n < 15 then some (Config.domainPower (n - 11) s.nextId).toNat else none

/-- `PLDM_SENSOR_READ` (R22): sensor `a`. -/
def execPldmSensorRead (s : State) : Host.Outcome State Fault Refusal :=
  .next (match s.sensor s.ctx.ev.a with
    | some v => (s.reply (completion (leBytes 4 v))).fresh
    | none => s.reply unsupportedReply)

/-- `CONFIG_STORE_WRITE` (R22, R23): bytes at offset `a`; they take effect at the next device reset. -/
def execConfigStoreWrite (s : State) : Host.Outcome State Fault Refusal :=
  let e := s.ctx.ev
  .next (if storeSize < e.a + e.bytes.length then s.reply invalidReply
    else
      (s.updDev (fun d =>
        let b := (d.store ++ List.replicate (storeSize - d.store.length) 0#8)
        { d with store := b.take e.a ++ e.bytes ++ b.drop (e.a + e.bytes.length) })).reply (completion []))

/-- `CONFIG_STORE_READ` (R22, R23): `b` bytes at offset `a`. -/
def execConfigStoreRead (s : State) : Host.Outcome State Fault Refusal :=
  let e := s.ctx.ev
  .next (if storeSize < e.a + e.b then s.reply invalidReply
    else s.reply (completion ((List.range e.b).map (fun i => s.dev.store.getD (e.a + i) 0#8))))

/-- `ATTESTATION_REQUEST` (R27): the signed report for a nonce of up to 64 bytes. -/
def execAttestationRequest (s : State) : Host.Outcome State Fault Refusal :=
  let b := s.ctx.ev.bytes
  .next (if 64 < b.length then s.reply invalidReply else s.reply (completion (s.dev.report b)))

/-- `DEVICE_RESET_REQUEST` (R22). -/
def execDeviceResetRequest (s : State) : Host.Outcome State Fault Refusal := .next ((s.reply (completion [])).push .deviceReset {})

/-- `UNSUPPORTED_COMMAND` (R22): the error completion, and nothing changes. -/
def execUnsupportedCommand (s : State) : Host.Outcome State Fault Refusal := .next (s.reply unsupportedReply)

end Sys2Proof.Machine
end

