-- ==== Sys2Proof/Machine/Flags.lean ====
section
/-! DEFINITION. The predicate computations (R87, R195, R199, R201, R202): compares, predicate logic, votes. Predicates and
completion flags are the flags of this machine; the counters of the latter are in Machine/Ops.lean (R117). -/

namespace Sys2Proof.Machine

/-- The relation of cc 0 to 5 (R87) over two numbers. -/
def relation (cc : Nat) (x y : Int) : Bool :=
  match cc with
  | 0 => decide (x = y)
  | 1 => decide (x ≠ y)
  | 2 => decide (x < y)
  | 3 => decide (x ≤ y)
  | 4 => decide (x > y)
  | _ => decide (x ≥ y)

/-- Writes a predicate in each active lane, 2 cycles after issue. -/
def State.predWrite (s : State) (g : BitVec 1) (pd : BitVec 3) (f : Nat → Bool) : State :=
  s.post1 2 ((s.lanes g).map (fun l => .p (32 * pd.toNat + l) (f l)))

/-- A compare at the natural width (R195), signed or natural. -/
def State.compare (s : State) (signed : Bool) (pd cc : BitVec 3) (a b : BitVec 6) (g : BitVec 1) : State :=
  let w := s.width false
  let num : Quad → Int := fun x => if signed then (x.setWidth w).toInt else ((x.setWidth w).toNat : Int)
  if cc.toNat < 6 then
    s.predWrite g pd (fun l => relation cc.toNat (num (s.me.rd w a.toNat l)) (num (s.me.rd w b.toNat l)))
  else s.illegal

/-- A predicate operand with its negation bit (R201). -/
def State.predIn (s : State) (p : BitVec 3) (n : BitVec 1) (l : Nat) : Bool := s.me.rdP p.toNat l != (n == 1#1)

/-- Predicate logic (R201): pd := f(A, B) in each active lane. -/
def State.predLogic (s : State) (f : Bool → Bool → Bool) (pd pa : BitVec 3) (na : BitVec 1) (pb : BitVec 3) (nb : BitVec 1)
    (g : BitVec 1) : State :=
  s.predWrite g pd (fun l => f (s.predIn pa na l) (s.predIn pb nb l))

/-- A vote (R202): the participants' values decide one value, which each participant receives. Group only. -/
def State.vote (s : State) (f : List Bool → Bool) (pd pa : BitVec 3) (na : BitVec 1) (g : BitVec 1) : State :=
  if s.isSteward then s.illegal
  else s.predWrite g pd (fun _ => f ((s.lanes g).map (s.predIn pa na)))

/-- Every value of a list is the same. -/
def allSame : List Bool → Bool
  | [] => true
  | b :: t => t.all (· == b)

end Sys2Proof.Machine
end

