-- ==== Sys2Proof/Machine/FloatOps.lean ====
section
/-! DEFINITION. Floating-point words (R196 to R200): OPs 0x14 to 0x1F. Latencies are those of R183. -/

namespace Sys2Proof.Machine

/-- A binary operation of a format on words. -/
def onWords (f : Nat → Nat → Nat) (x y : Word) : Word := BitVec.ofNat 32 (f x.toNat y.toNat)

/-- A three-address F32 or packed form: d := f(a, b, d), 4 cycles (R196, R197). -/
def State.fpRrr (s : State) (f : Word → Word → Word → Word) (d a b : BitVec 6) (g : BitVec 1) : State := s.op32 4 f d a b g

/-- A two-address SFU form: d := f(d, a), 6 cycles (R198). -/
def State.sfu2 (s : State) (f : Word → Word → Word) (d a : BitVec 6) (g : BitVec 1) : State :=
  s.op32 6 (fun x y _ => f x y) d d a g

/-- The F32 pattern of a floating immediate (R79): the 25-bit combined value supplies bits [31:7]. -/
def State.fimm (s : State) (i : BitVec 6) : Word := (s.imm i).extractLsb' 0 25 ++ 0#7

/-- An F32 form with an immediate (R79, R196): d := f(a, imm), 4 cycles. -/
def State.fpImm (s : State) (f : Word → Word → Word) (d a i : BitVec 6) (g : BitVec 1) : State :=
  s.op32u 4 (fun x => f x (s.fimm i)) d a g

/-- `FADD.F32` d, a, b (R196). -/
def execFaddF32 (d a b : BitVec 6) (g : BitVec 1) (s : State) : Host.Outcome State Fault Refusal :=
  .next (s.fpRrr (fun x y _ => onWords (fF32.add .rne) x y) d a b g)

/-- `FMUL.F32` d, a, b (R196). -/
def execFmulF32 (d a b : BitVec 6) (g : BitVec 1) (s : State) : Host.Outcome State Fault Refusal :=
  .next (s.fpRrr (fun x y _ => onWords (fF32.mul .rne) x y) d a b g)

/-- `FMA.F32` d, a, b, d: one rounding (R196). -/
def execFmaF32 (d a b : BitVec 6) (g : BitVec 1) (s : State) : Host.Outcome State Fault Refusal :=
  .next (s.fpRrr (fun x y z => BitVec.ofNat 32 (fF32.fma .rne x.toNat y.toNat z.toNat)) d a b g)

/-- `FADD.F32` d, a, imm (R196). -/
def execFaddF32Imm (d a i : BitVec 6) (g : BitVec 1) (s : State) : Host.Outcome State Fault Refusal :=
  .next (s.fpImm (onWords (fF32.add .rne)) d a i g)

/-- `FMUL.F32` d, a, imm (R196). -/
def execFmulF32Imm (d a i : BitVec 6) (g : BitVec 1) (s : State) : Host.Outcome State Fault Refusal :=
  .next (s.fpImm (onWords (fF32.mul .rne)) d a i g)

/-- `FMA.F16` d, a, b, d on halves (R197). -/
def execFmaF16 (d a b : BitVec 6) (g : BitVec 1) (s : State) : Host.Outcome State Fault Refusal :=
  .next (s.fpRrr (halves3 (fF16.fma .rne)) d a b g)

/-- `FMA.BF16` d, a, b, d on halves (R197). -/
def execFmaBf16 (d a b : BitVec 6) (g : BitVec 1) (s : State) : Host.Outcome State Fault Refusal :=
  .next (s.fpRrr (halves3 (fBF16.fma .rne)) d a b g)

/-- `FADD.F16` d, a, b on halves (R197). -/
def execFaddF16 (d a b : BitVec 6) (g : BitVec 1) (s : State) : Host.Outcome State Fault Refusal :=
  .next (s.fpRrr (fun x y _ => halves (fF16.add .rne) x y) d a b g)

/-- `FCMP.cc.F32` pd, a, b (R199). -/
def execFcmp (p c : BitVec 3) (a b : BitVec 6) (g : BitVec 1) (s : State) : Host.Outcome State Fault Refusal :=
  .next (s.predWrite g p (fun l =>
    fcmp c.toNat (fF32.decode (s.me.rd 32 a.toNat l).toNat) (fF32.decode (s.me.rd 32 b.toNat l).toNat)))

/-- `FMIN.F32` d, d, a (R135, R198). -/
def execFminF32 (d a : BitVec 6) (g : BitVec 1) (s : State) : Host.Outcome State Fault Refusal :=
  .next (s.sfu2 (onWords (fF32.minmax false)) d a g)

/-- `FMIN.F16` on halves (R135, R198). -/
def execFminF16 (d a : BitVec 6) (g : BitVec 1) (s : State) : Host.Outcome State Fault Refusal :=
  .next (s.sfu2 (halves (fF16.minmax false)) d a g)

/-- `FMIN.BF16` on halves (R135, R198). -/
def execFminBf16 (d a : BitVec 6) (g : BitVec 1) (s : State) : Host.Outcome State Fault Refusal :=
  .next (s.sfu2 (halves (fBF16.minmax false)) d a g)

/-- `FMAX.F32` d, d, a (R135, R198). -/
def execFmaxF32 (d a : BitVec 6) (g : BitVec 1) (s : State) : Host.Outcome State Fault Refusal :=
  .next (s.sfu2 (onWords (fF32.minmax true)) d a g)

/-- `FMAX.F16` on halves (R135, R198). -/
def execFmaxF16 (d a : BitVec 6) (g : BitVec 1) (s : State) : Host.Outcome State Fault Refusal :=
  .next (s.sfu2 (halves (fF16.minmax true)) d a g)

/-- `FMAX.BF16` on halves (R135, R198). -/
def execFmaxBf16 (d a : BitVec 6) (g : BitVec 1) (s : State) : Host.Outcome State Fault Refusal :=
  .next (s.sfu2 (halves (fBF16.minmax true)) d a g)

/-- `FRCP.F32` (R136, R198). -/
def execFrcp (d a : BitVec 6) (g : BitVec 1) (s : State) : Host.Outcome State Fault Refusal :=
  .next (s.op32u 6 frcp d a g)

/-- `FRSQ.F32` (R136, R198). -/
def execFrsq (d a : BitVec 6) (g : BitVec 1) (s : State) : Host.Outcome State Fault Refusal :=
  .next (s.op32u 6 frsq d a g)

/-- `FSQRT.F32` (R136, R198). -/
def execFsqrt (d a : BitVec 6) (g : BitVec 1) (s : State) : Host.Outcome State Fault Refusal :=
  .next (s.op32u 6 (fun x => BitVec.ofNat 32 (fF32.sqrt .rne x.toNat)) d a g)

/-- `FEX2.F32` (R136, R198). -/
def execFex2 (d a : BitVec 6) (g : BitVec 1) (s : State) : Host.Outcome State Fault Refusal :=
  .next (s.op32u 6 fex2 d a g)

/-- `FLG2.F32` (R136, R198). -/
def execFlg2 (d a : BitVec 6) (g : BitVec 1) (s : State) : Host.Outcome State Fault Refusal :=
  .next (s.op32u 6 flg2 d a g)

/-- `FADD.BF16` on halves (R198). -/
def execFaddBf16 (d a : BitVec 6) (g : BitVec 1) (s : State) : Host.Outcome State Fault Refusal :=
  .next (s.sfu2 (halves (fBF16.add .rne)) d a g)

/-- `FMUL.BF16` on halves (R198). -/
def execFmulBf16 (d a : BitVec 6) (g : BitVec 1) (s : State) : Host.Outcome State Fault Refusal :=
  .next (s.sfu2 (halves (fBF16.mul .rne)) d a g)

/-- `FMUL.F16` on halves (R198). -/
def execFmulF16 (d a : BitVec 6) (g : BitVec 1) (s : State) : Host.Outcome State Fault Refusal :=
  .next (s.sfu2 (halves (fF16.mul .rne)) d a g)

/-- `FADD.F32.RZ` d, d, a (R198). -/
def execFaddF32Rz (d a : BitVec 6) (g : BitVec 1) (s : State) : Host.Outcome State Fault Refusal :=
  .next (s.sfu2 (onWords (fF32.add .rz)) d a g)

/-- `FADD.F32.RU` d, d, a (R198). -/
def execFaddF32Ru (d a : BitVec 6) (g : BitVec 1) (s : State) : Host.Outcome State Fault Refusal :=
  .next (s.sfu2 (onWords (fF32.add .ru)) d a g)

/-- `FADD.F32.RD` d, d, a (R198). -/
def execFaddF32Rd (d a : BitVec 6) (g : BitVec 1) (s : State) : Host.Outcome State Fault Refusal :=
  .next (s.sfu2 (onWords (fF32.add .rd)) d a g)

/-- `FMUL.F32.RZ` d, d, a (R198). -/
def execFmulF32Rz (d a : BitVec 6) (g : BitVec 1) (s : State) : Host.Outcome State Fault Refusal :=
  .next (s.sfu2 (onWords (fF32.mul .rz)) d a g)

/-- `FMUL.F32.RU` d, d, a (R198). -/
def execFmulF32Ru (d a : BitVec 6) (g : BitVec 1) (s : State) : Host.Outcome State Fault Refusal :=
  .next (s.sfu2 (onWords (fF32.mul .ru)) d a g)

/-- `FMUL.F32.RD` d, d, a (R198). -/
def execFmulF32Rd (d a : BitVec 6) (g : BitVec 1) (s : State) : Host.Outcome State Fault Refusal :=
  .next (s.sfu2 (onWords (fF32.mul .rd)) d a g)

/-- `CVT` from F32 (R86, R137, R138, R200). -/
def execCvtFromF32 (d a : BitVec 6) (m : BitVec 2) (c : BitVec 4) (g : BitVec 1) (s : State) : Host.Outcome State Fault Refusal :=
  .next (s.op32u 4 (cvtFrom (rmode m.toNat) c.toNat) d a g)

/-- `CVT` to F32 (R86, R137, R138, R200); codes 13 and 14 read 64 bits. -/
def execCvtToF32 (d a : BitVec 6) (m : BitVec 2) (c : BitVec 4) (g : BitVec 1) (s : State) : Host.Outcome State Fault Refusal :=
  .next (if c.toNat = 15 then s.illegal
    else if 13 ≤ c.toNat then
      (if s.evenG a then s.aluWrite 4 32 g d (fun l => zext (cvtTo (rmode m.toNat) c.toNat (s.me.rd 64 a.toNat l)))
       else s.illegal)
    else s.aluWrite 4 32 g d (fun l => zext (cvtTo (rmode m.toNat) c.toNat (s.me.rd 32 a.toNat l))))

end Sys2Proof.Machine
end

