-- ==== Sys2Proof/Machine/Integer.lean ====
section
/-! DEFINITION. Integer words (R190 to R195): OPs 0x08 to 0x13, 0x20 and 0x21, at both widths. Latencies are those of R183. -/

namespace Sys2Proof.Machine

/-! ### The functions of R190 -/

/-- `MOV`. -/
def fMov : AluFn := fun _ x _ _ => x
/-- `NOT`. -/
def fNot : AluFn := fun _ x _ _ => ~~~x
/-- `IABS`: the most negative value gives itself. -/
def fIabs : AluFn := fun _ x _ _ => if x.msb then 0 - x else x
/-- `POPC`. -/
def fPopc : AluFn := fun w x _ _ => BitVec.ofNat w (popcount w x.toNat)
/-- `CLZ`: the width for 0. -/
def fClz : AluFn := fun w x _ _ => BitVec.ofNat w (if x.toNat = 0 then w else w - 1 - Nat.log2 x.toNat)
/-- The bits of `x` from bit `w - 1` down, read upward. -/
def revBits : Nat → Nat → Nat → Nat
  | 0, _, acc => acc
  | n + 1, x, acc => revBits n (x / 2) (2 * acc + x % 2)
/-- `BREV`: bit i moves to bit W - 1 - i. -/
def fBrev : AluFn := fun w x _ _ => BitVec.ofNat w (revBits w x.toNat 0)
/-- `IADD`. -/
def fIadd : AluFn := fun _ x y _ => x + y
/-- `ISUB`. -/
def fIsub : AluFn := fun _ x y _ => x - y
/-- `IMUL`, the low half. -/
def fImul : AluFn := fun _ x y _ => x * y
/-- `IMAD`: x·y + d. -/
def fImad : AluFn := fun _ x y z => x * y + z
/-- `IMULH.I`: the high half of the signed product. -/
def fImulhI : AluFn := fun w x y _ => BitVec.ofInt w (x.toInt * y.toInt / 2 ^ w)
/-- `IMULH.N`: the high half of the unsigned product. -/
def fImulhN : AluFn := fun w x y _ => BitVec.ofNat w (x.toNat * y.toNat / 2 ^ w)
/-- `AND`. -/
def fAnd : AluFn := fun _ x y _ => x &&& y
/-- `OR`. -/
def fOr : AluFn := fun _ x y _ => x ||| y
/-- `XOR`. -/
def fXor : AluFn := fun _ x y _ => x ^^^ y
/-- `IMIN.I`. -/
def fIminI : AluFn := fun _ x y _ => if x.slt y then x else y
/-- `IMIN.N`. -/
def fIminN : AluFn := fun _ x y _ => if x.ult y then x else y
/-- `IMAX.I`. -/
def fImaxI : AluFn := fun _ x y _ => if x.slt y then y else x
/-- `IMAX.N`. -/
def fImaxN : AluFn := fun _ x y _ => if x.ult y then y else x
/-- `MOVI`: the value of the immediate form. -/
def fMovi : AluFn := fun _ _ y _ => y
/-- `SHL` by a count (R191). -/
def fShl (w : Nat) (x : BitVec w) (c : Nat) : BitVec w := x <<< c
/-- `SHR` by a count (R191). -/
def fShr (w : Nat) (x : BitVec w) (c : Nat) : BitVec w := x >>> c
/-- `SAR` by a count (R191). -/
def fSar (w : Nat) (x : BitVec w) (c : Nat) : BitVec w := x.sshiftRight c
/-- `BFE` (R193): position b[7:0], length b[15:8], sign flag b[16]. -/
def fBfe : AluFn := fun w a b _ =>
  let pos := b.toNat % 256
  let n := min (b.toNat / 256 % 256) w
  let field := if w ≤ pos then 0 else a.toNat / 2 ^ pos % 2 ^ n
  if b.toNat / 65536 % 2 = 1 ∧ 0 < n ∧ field / 2 ^ (n - 1) % 2 = 1 then BitVec.ofNat w (field + (2 ^ w - 2 ^ n))
  else BitVec.ofNat w field
/-- `BFI` (R193): inserts the low bits of a into d. -/
def fBfi : AluFn := fun w a b d =>
  let pos := b.toNat % 256
  let n := min (b.toNat / 256 % 256) w
  let m : BitVec w := if w ≤ pos then 0 else BitVec.ofNat w ((2 ^ n - 1) * 2 ^ pos)
  (d &&& ~~~m) ||| ((if w ≤ pos then 0 else BitVec.ofNat w (a.toNat * 2 ^ pos)) &&& m)

/-! ### The words -/

/-- `IADD` d, a, b (R190): 2 cycles. -/
def execIadd (d a b : BitVec 6) (g : BitVec 1) (s : State) : Host.Outcome State Fault Refusal :=
  .next (s.rrr 2 fIadd d a b g)

/-- `ISUB` d, a, b (R190): 2 cycles. -/
def execIsub (d a b : BitVec 6) (g : BitVec 1) (s : State) : Host.Outcome State Fault Refusal :=
  .next (s.rrr 2 fIsub d a b g)

/-- `IMUL` d, a, b (R190): 4 cycles. -/
def execImul (d a b : BitVec 6) (g : BitVec 1) (s : State) : Host.Outcome State Fault Refusal :=
  .next (s.rrr 4 fImul d a b g)

/-- `IMAD` d, a, b (R190): 4 cycles. -/
def execImad (d a b : BitVec 6) (g : BitVec 1) (s : State) : Host.Outcome State Fault Refusal :=
  .next (s.rrr 4 fImad d a b g)

/-- `AND` d, a, b (R190): 2 cycles. -/
def execAnd (d a b : BitVec 6) (g : BitVec 1) (s : State) : Host.Outcome State Fault Refusal :=
  .next (s.rrr 2 fAnd d a b g)

/-- `OR` d, a, b (R190): 2 cycles. -/
def execOr (d a b : BitVec 6) (g : BitVec 1) (s : State) : Host.Outcome State Fault Refusal :=
  .next (s.rrr 2 fOr d a b g)

/-- `XOR` d, a, b (R190): 2 cycles. -/
def execXor (d a b : BitVec 6) (g : BitVec 1) (s : State) : Host.Outcome State Fault Refusal :=
  .next (s.rrr 2 fXor d a b g)

/-- `CSEL` d, a, b (R194): a where `p0` holds, else b, in every head lane. -/
def execCsel (d a b : BitVec 6) (s : State) : Host.Outcome State Fault Refusal :=
  .next (s.aluWrite 2 (s.width false) 0#1 d (fun l =>
    if s.me.rdP 0 l then s.me.rd (s.width false) a.toNat l else s.me.rd (s.width false) b.toNat l))

/-- `MOV` d, a at the natural width (R190). -/
def execMov (d a : BitVec 6) (g : BitVec 1) (s : State) : Host.Outcome State Fault Refusal :=
  .next (s.unary 2 false fMov d a g)

/-- `MOV` d, a at the other width (R190). -/
def execMovOw (d a : BitVec 6) (g : BitVec 1) (s : State) : Host.Outcome State Fault Refusal :=
  .next (s.unary 2 true fMov d a g)

/-- `NOT` d, a at the natural width (R190). -/
def execNot (d a : BitVec 6) (g : BitVec 1) (s : State) : Host.Outcome State Fault Refusal :=
  .next (s.unary 2 false fNot d a g)

/-- `NOT` d, a at the other width (R190). -/
def execNotOw (d a : BitVec 6) (g : BitVec 1) (s : State) : Host.Outcome State Fault Refusal :=
  .next (s.unary 2 true fNot d a g)

/-- `IABS` d, a at the natural width (R190). -/
def execIabs (d a : BitVec 6) (g : BitVec 1) (s : State) : Host.Outcome State Fault Refusal :=
  .next (s.unary 2 false fIabs d a g)

/-- `IABS` d, a at the other width (R190). -/
def execIabsOw (d a : BitVec 6) (g : BitVec 1) (s : State) : Host.Outcome State Fault Refusal :=
  .next (s.unary 2 true fIabs d a g)

/-- `POPC` d, a at the natural width (R190). -/
def execPopc (d a : BitVec 6) (g : BitVec 1) (s : State) : Host.Outcome State Fault Refusal :=
  .next (s.unary 2 false fPopc d a g)

/-- `POPC` d, a at the other width (R190). -/
def execPopcOw (d a : BitVec 6) (g : BitVec 1) (s : State) : Host.Outcome State Fault Refusal :=
  .next (s.unary 2 true fPopc d a g)

/-- `CLZ` d, a at the natural width (R190). -/
def execClz (d a : BitVec 6) (g : BitVec 1) (s : State) : Host.Outcome State Fault Refusal :=
  .next (s.unary 2 false fClz d a g)

/-- `CLZ` d, a at the other width (R190). -/
def execClzOw (d a : BitVec 6) (g : BitVec 1) (s : State) : Host.Outcome State Fault Refusal :=
  .next (s.unary 2 true fClz d a g)

/-- `BREV` d, a at the natural width (R190). -/
def execBrev (d a : BitVec 6) (g : BitVec 1) (s : State) : Host.Outcome State Fault Refusal :=
  .next (s.unary 2 false fBrev d a g)

/-- `BREV` d, a at the other width (R190). -/
def execBrevOw (d a : BitVec 6) (g : BitVec 1) (s : State) : Host.Outcome State Fault Refusal :=
  .next (s.unary 2 true fBrev d a g)

/-- `SHL` d, d, a at the natural width (R191). -/
def execShl (d a : BitVec 6) (g : BitVec 1) (s : State) : Host.Outcome State Fault Refusal :=
  .next (s.shiftReg false fShl d a g)

/-- `SHL` d, d, count at the natural width (R191). -/
def execShlImm (d i : BitVec 6) (g : BitVec 1) (s : State) : Host.Outcome State Fault Refusal :=
  .next (s.shiftImm false fShl d i g)

/-- `SHL` d, d, a at the other width (R191). -/
def execShlOw (d a : BitVec 6) (g : BitVec 1) (s : State) : Host.Outcome State Fault Refusal :=
  .next (s.shiftReg true fShl d a g)

/-- `SHL` d, d, count at the other width (R191). -/
def execShlImmOw (d i : BitVec 6) (g : BitVec 1) (s : State) : Host.Outcome State Fault Refusal :=
  .next (s.shiftImm true fShl d i g)

/-- `SHR` d, d, a at the natural width (R191). -/
def execShr (d a : BitVec 6) (g : BitVec 1) (s : State) : Host.Outcome State Fault Refusal :=
  .next (s.shiftReg false fShr d a g)

/-- `SHR` d, d, count at the natural width (R191). -/
def execShrImm (d i : BitVec 6) (g : BitVec 1) (s : State) : Host.Outcome State Fault Refusal :=
  .next (s.shiftImm false fShr d i g)

/-- `SHR` d, d, a at the other width (R191). -/
def execShrOw (d a : BitVec 6) (g : BitVec 1) (s : State) : Host.Outcome State Fault Refusal :=
  .next (s.shiftReg true fShr d a g)

/-- `SHR` d, d, count at the other width (R191). -/
def execShrImmOw (d i : BitVec 6) (g : BitVec 1) (s : State) : Host.Outcome State Fault Refusal :=
  .next (s.shiftImm true fShr d i g)

/-- `SAR` d, d, a at the natural width (R191). -/
def execSar (d a : BitVec 6) (g : BitVec 1) (s : State) : Host.Outcome State Fault Refusal :=
  .next (s.shiftReg false fSar d a g)

/-- `SAR` d, d, count at the natural width (R191). -/
def execSarImm (d i : BitVec 6) (g : BitVec 1) (s : State) : Host.Outcome State Fault Refusal :=
  .next (s.shiftImm false fSar d i g)

/-- `SAR` d, d, a at the other width (R191). -/
def execSarOw (d a : BitVec 6) (g : BitVec 1) (s : State) : Host.Outcome State Fault Refusal :=
  .next (s.shiftReg true fSar d a g)

/-- `SAR` d, d, count at the other width (R191). -/
def execSarImmOw (d i : BitVec 6) (g : BitVec 1) (s : State) : Host.Outcome State Fault Refusal :=
  .next (s.shiftImm true fSar d i g)

/-- `IMINI` d, d, a (R190). -/
def execIminI (d a : BitVec 6) (g : BitVec 1) (s : State) : Host.Outcome State Fault Refusal :=
  .next (s.twoAddr 2 false fIminI d a g)

/-- `IMINI` d, d, a at the other width (R190). -/
def execIminIOw (d a : BitVec 6) (g : BitVec 1) (s : State) : Host.Outcome State Fault Refusal :=
  .next (s.twoAddr 2 true fIminI d a g)

/-- `IMINN` d, d, a (R190). -/
def execIminN (d a : BitVec 6) (g : BitVec 1) (s : State) : Host.Outcome State Fault Refusal :=
  .next (s.twoAddr 2 false fIminN d a g)

/-- `IMINN` d, d, a at the other width (R190). -/
def execIminNOw (d a : BitVec 6) (g : BitVec 1) (s : State) : Host.Outcome State Fault Refusal :=
  .next (s.twoAddr 2 true fIminN d a g)

/-- `IMAXI` d, d, a (R190). -/
def execImaxI (d a : BitVec 6) (g : BitVec 1) (s : State) : Host.Outcome State Fault Refusal :=
  .next (s.twoAddr 2 false fImaxI d a g)

/-- `IMAXI` d, d, a at the other width (R190). -/
def execImaxIOw (d a : BitVec 6) (g : BitVec 1) (s : State) : Host.Outcome State Fault Refusal :=
  .next (s.twoAddr 2 true fImaxI d a g)

/-- `IMAXN` d, d, a (R190). -/
def execImaxN (d a : BitVec 6) (g : BitVec 1) (s : State) : Host.Outcome State Fault Refusal :=
  .next (s.twoAddr 2 false fImaxN d a g)

/-- `IMAXN` d, d, a at the other width (R190). -/
def execImaxNOw (d a : BitVec 6) (g : BitVec 1) (s : State) : Host.Outcome State Fault Refusal :=
  .next (s.twoAddr 2 true fImaxN d a g)

/-- `IMULHI` d, d, a (R190). -/
def execImulhI (d a : BitVec 6) (g : BitVec 1) (s : State) : Host.Outcome State Fault Refusal :=
  .next (s.twoAddr 4 false fImulhI d a g)

/-- `IMULHI` d, d, a at the other width (R190). -/
def execImulhIOw (d a : BitVec 6) (g : BitVec 1) (s : State) : Host.Outcome State Fault Refusal :=
  .next (s.twoAddr 6 true fImulhI d a g)

/-- `IMULHN` d, d, a (R190). -/
def execImulhN (d a : BitVec 6) (g : BitVec 1) (s : State) : Host.Outcome State Fault Refusal :=
  .next (s.twoAddr 4 false fImulhN d a g)

/-- `IMULHN` d, d, a at the other width (R190). -/
def execImulhNOw (d a : BitVec 6) (g : BitVec 1) (s : State) : Host.Outcome State Fault Refusal :=
  .next (s.twoAddr 6 true fImulhN d a g)

/-- `IADD` d, d, a at the other width (R190). -/
def execIaddOw (d a : BitVec 6) (g : BitVec 1) (s : State) : Host.Outcome State Fault Refusal :=
  .next (s.twoAddr 2 true fIadd d a g)

/-- `ISUB` d, d, a at the other width (R190). -/
def execIsubOw (d a : BitVec 6) (g : BitVec 1) (s : State) : Host.Outcome State Fault Refusal :=
  .next (s.twoAddr 2 true fIsub d a g)

/-- `IMUL` d, d, a at the other width (R190). -/
def execImulOw (d a : BitVec 6) (g : BitVec 1) (s : State) : Host.Outcome State Fault Refusal :=
  .next (s.twoAddr 6 true fImul d a g)

/-- `AND` d, d, a at the other width (R190). -/
def execAndOw (d a : BitVec 6) (g : BitVec 1) (s : State) : Host.Outcome State Fault Refusal :=
  .next (s.twoAddr 2 true fAnd d a g)

/-- `OR` d, d, a at the other width (R190). -/
def execOrOw (d a : BitVec 6) (g : BitVec 1) (s : State) : Host.Outcome State Fault Refusal :=
  .next (s.twoAddr 2 true fOr d a g)

/-- `XOR` d, d, a at the other width (R190). -/
def execXorOw (d a : BitVec 6) (g : BitVec 1) (s : State) : Host.Outcome State Fault Refusal :=
  .next (s.twoAddr 2 true fXor d a g)

/-- `IADD` d, d, value (R190). -/
def execIaddImm (d i : BitVec 6) (g : BitVec 1) (s : State) : Host.Outcome State Fault Refusal :=
  .next (s.immForm 2 false fIadd d i g)

/-- `IADD` d, d, value at the other width (R190). -/
def execIaddImmOw (d i : BitVec 6) (g : BitVec 1) (s : State) : Host.Outcome State Fault Refusal :=
  .next (s.immForm 2 true fIadd d i g)

/-- `IMUL` d, d, value (R190). -/
def execImulImm (d i : BitVec 6) (g : BitVec 1) (s : State) : Host.Outcome State Fault Refusal :=
  .next (s.immForm 4 false fImul d i g)

/-- `IMUL` d, d, value at the other width (R190). -/
def execImulImmOw (d i : BitVec 6) (g : BitVec 1) (s : State) : Host.Outcome State Fault Refusal :=
  .next (s.immForm 6 true fImul d i g)

/-- `AND` d, d, value (R190). -/
def execAndImm (d i : BitVec 6) (g : BitVec 1) (s : State) : Host.Outcome State Fault Refusal :=
  .next (s.immForm 2 false fAnd d i g)

/-- `AND` d, d, value at the other width (R190). -/
def execAndImmOw (d i : BitVec 6) (g : BitVec 1) (s : State) : Host.Outcome State Fault Refusal :=
  .next (s.immForm 2 true fAnd d i g)

/-- `OR` d, d, value (R190). -/
def execOrImm (d i : BitVec 6) (g : BitVec 1) (s : State) : Host.Outcome State Fault Refusal :=
  .next (s.immForm 2 false fOr d i g)

/-- `OR` d, d, value at the other width (R190). -/
def execOrImmOw (d i : BitVec 6) (g : BitVec 1) (s : State) : Host.Outcome State Fault Refusal :=
  .next (s.immForm 2 true fOr d i g)

/-- `XOR` d, d, value (R190). -/
def execXorImm (d i : BitVec 6) (g : BitVec 1) (s : State) : Host.Outcome State Fault Refusal :=
  .next (s.immForm 2 false fXor d i g)

/-- `XOR` d, d, value at the other width (R190). -/
def execXorImmOw (d i : BitVec 6) (g : BitVec 1) (s : State) : Host.Outcome State Fault Refusal :=
  .next (s.immForm 2 true fXor d i g)

/-- `IMINI` d, d, value (R190). -/
def execIminIImm (d i : BitVec 6) (g : BitVec 1) (s : State) : Host.Outcome State Fault Refusal :=
  .next (s.immForm 2 false fIminI d i g)

/-- `IMINI` d, d, value at the other width (R190). -/
def execIminIImmOw (d i : BitVec 6) (g : BitVec 1) (s : State) : Host.Outcome State Fault Refusal :=
  .next (s.immForm 2 true fIminI d i g)

/-- `IMAXI` d, d, value (R190). -/
def execImaxIImm (d i : BitVec 6) (g : BitVec 1) (s : State) : Host.Outcome State Fault Refusal :=
  .next (s.immForm 2 false fImaxI d i g)

/-- `IMAXI` d, d, value at the other width (R190). -/
def execImaxIImmOw (d i : BitVec 6) (g : BitVec 1) (s : State) : Host.Outcome State Fault Refusal :=
  .next (s.immForm 2 true fImaxI d i g)

/-- `IMINN` d, d, value (R190). -/
def execIminNImm (d i : BitVec 6) (g : BitVec 1) (s : State) : Host.Outcome State Fault Refusal :=
  .next (s.immForm 2 false fIminN d i g)

/-- `IMINN` d, d, value at the other width (R190). -/
def execIminNImmOw (d i : BitVec 6) (g : BitVec 1) (s : State) : Host.Outcome State Fault Refusal :=
  .next (s.immForm 2 true fIminN d i g)

/-- `IMAXN` d, d, value (R190). -/
def execImaxNImm (d i : BitVec 6) (g : BitVec 1) (s : State) : Host.Outcome State Fault Refusal :=
  .next (s.immForm 2 false fImaxN d i g)

/-- `IMAXN` d, d, value at the other width (R190). -/
def execImaxNImmOw (d i : BitVec 6) (g : BitVec 1) (s : State) : Host.Outcome State Fault Refusal :=
  .next (s.immForm 2 true fImaxN d i g)

/-- `MOVI` d, value (R192). -/
def execMovi (d i : BitVec 6) (g : BitVec 1) (s : State) : Host.Outcome State Fault Refusal :=
  .next (s.immForm 2 false fMovi d i g)

/-- `MOVI` d, value at the other width (R192). -/
def execMoviOw (d i : BitVec 6) (g : BitVec 1) (s : State) : Host.Outcome State Fault Refusal :=
  .next (s.immForm 2 true fMovi d i g)

/-- `BFE` d, a, b (R193). -/
def execBfe (d a b : BitVec 6) (g : BitVec 1) (s : State) : Host.Outcome State Fault Refusal :=
  .next (s.rrr 2 fBfe d a b g)

/-- `BFI` d, a, b (R193). -/
def execBfi (d a b : BitVec 6) (g : BitVec 1) (s : State) : Host.Outcome State Fault Refusal :=
  .next (s.rrr 2 fBfi d a b g)

/-- `ICMP.cc` pd, a, b, signed (R195). -/
def execIcmp (p c : BitVec 3) (a b : BitVec 6) (g : BitVec 1) (s : State) : Host.Outcome State Fault Refusal :=
  .next (s.compare true p c a b g)

/-- `ICMP.cc` pd, a, b, natural (R195). -/
def execIcmpN (p c : BitVec 3) (a b : BitVec 6) (g : BitVec 1) (s : State) : Host.Outcome State Fault Refusal :=
  .next (s.compare false p c a b g)

end Sys2Proof.Machine
end

