-- ==== Sys2Proof/Machine/Lanes.lean ====
section
/-! DEFINITION. Predicate and lane words (R201 to R203): OPs 0x22 and 0x23. -/

namespace Sys2Proof.Machine

/-- `PAND` pd, A, B (R201). -/
def execPand (p a : BitVec 3) (n : BitVec 1) (b : BitVec 3) (m g : BitVec 1) (s : State) : Host.Outcome State Fault Refusal :=
  .next (s.predLogic (fun x y => x && y) p a n b m g)

/-- `POR` pd, A, B (R201). -/
def execPor (p a : BitVec 3) (n : BitVec 1) (b : BitVec 3) (m g : BitVec 1) (s : State) : Host.Outcome State Fault Refusal :=
  .next (s.predLogic (fun x y => x || y) p a n b m g)

/-- `PXOR` pd, A, B (R201). -/
def execPxor (p a : BitVec 3) (n : BitVec 1) (b : BitVec 3) (m g : BitVec 1) (s : State) : Host.Outcome State Fault Refusal :=
  .next (s.predLogic (fun x y => x != y) p a n b m g)

/-- `PNOT` pd, A (R201). -/
def execPnot (p a : BitVec 3) (n g : BitVec 1) (s : State) : Host.Outcome State Fault Refusal :=
  .next (s.predWrite g p (fun l => !s.predIn a n l))

/-- `PMOV` pd, A (R201). -/
def execPmov (p a : BitVec 3) (n g : BitVec 1) (s : State) : Host.Outcome State Fault Refusal :=
  .next (s.predWrite g p (fun l => s.predIn a n l))

/-- `VOTE.ALL` pd, A (R202). -/
def execVoteAll (p a : BitVec 3) (n g : BitVec 1) (s : State) : Host.Outcome State Fault Refusal :=
  .next (s.vote (fun bs => bs.all id) p a n g)

/-- `VOTE.ANY` pd, A (R202). -/
def execVoteAny (p a : BitVec 3) (n g : BitVec 1) (s : State) : Host.Outcome State Fault Refusal :=
  .next (s.vote (fun bs => bs.any id) p a n g)

/-- `VOTE.EQ` pd, A (R202). -/
def execVoteEq (p a : BitVec 3) (n g : BitVec 1) (s : State) : Host.Outcome State Fault Refusal :=
  .next (s.vote allSame p a n g)

/-- `BALLOT` d, A (R202): the participants with A, as a mask. Group only. -/
def execBallot (d : BitVec 6) (a : BitVec 3) (n g : BitVec 1) (s : State) : Host.Outcome State Fault Refusal :=
  .next (if s.isSteward then s.illegal
    else s.aluWrite 2 32 g d (fun _ => zext (maskOf ((s.lanes g).filter (s.predIn a n)))))

/-- `MATCH` d, a (R202): for each participant, the participants with an equal 32-bit value. Group only; 4 cycles. -/
def execMatchLanes (d a : BitVec 6) (g : BitVec 1) (s : State) : Host.Outcome State Fault Refusal :=
  .next (if s.isSteward then s.illegal
    else s.aluWrite 4 32 g d (fun l =>
      zext (maskOf ((s.lanes g).filter (fun k => s.me.rdV a.toNat k == s.me.rdV a.toNat l)))))

/-- The source lane of `SHFL` (R203): IDX, UP, DOWN, XOR. -/
def shflSource (m n l : Nat) : Option Nat :=
  match m with
  | 0 => some n
  | 1 => if n ≤ l then some (l - n) else none
  | 2 => some (l + n)
  | _ => some (l ^^^ n)

/-- `SHFL` d, a, n (R203): each head lane reads a of its source lane if that is a head lane, else its own. Group only. -/
def execShfl (d a : BitVec 6) (m : BitVec 2) (n : BitVec 5) (s : State) : Host.Outcome State Fault Refusal :=
  .next (if s.isSteward then s.illegal
    else s.aluWrite 4 32 0#1 d (fun l =>
      match shflSource m.toNat n.toNat l with
      | some k => if s.headLanes.contains k then zext (s.me.rdV a.toNat k) else zext (s.me.rdV a.toNat l)
      | none => zext (s.me.rdV a.toNat l)))

end Sys2Proof.Machine
end

