-- ==== Sys2Proof/Machine/Matrix.lean ====
section
/-! DEFINITION. The matrix engine (R111, R144, R145, R281 to R304): the words of its groups, the checks at issue, batches and pins, and the steps
of the macro-op sequencer. An entry has its effect when it, or one of its passes, begins, and ends after its duration. -/

namespace Sys2Proof.Machine

/-! ### Weight types, shapes and layouts -/

/-- The weight types of two bytes, F16 and BF16 (R89). -/
def wide16 (typ : Nat) : Bool := typ == 3 || typ == 4
/-- The weight types P2 to P8. -/
def planesOf (typ : Nat) : Bool := 5 ≤ typ && typ ≤ 11
/-- The bytes of an element. -/
def typBytes (typ : Nat) : Nat := if wide16 typ then 2 else 1
/-- The tensor format code of a weight type's elements (R257); activations of BPN weights are I8. -/
def typFmt (typ : Nat) : Nat := match typ with | 0 => 3 | 1 => 4 | 2 => 10 | 3 => 1 | 4 => 2 | _ => 10

/-- M of a shape code (R284). -/
def shapeM (s : Nat) : Nat := 16 * (s / 8 + 1)

/-- N and K of a shape code under a weight type and a sparsity (R284). -/
def shapeNK (s typ spar : Nat) : Nat × Nat :=
  let i := s % 8
  if wide16 typ then
    ([(32, 16), (64, 16), (80, 24), (128, 24), (32, 32), (128, 32), (32, 64), (64, 64)] : List (Nat × Nat)).getD i (0, 0)
  else
    let k := if i % 2 = 0 then 32 else 64
    (32 * (i / 2 + 1), k * (if 5 ≤ typ && typ ≤ 7 then 2 else if spar = 1 then 2 else if spar = 2 then 4 else 1))

/-- Cycles for each activation row (R283). -/
def rowCycles (typ spar : Nat) : Nat := if wide16 typ || spar = 2 then 2 else 1

/-- The stored K and N a plane can hold for KS (R283). -/
def planeCap (typ ks : Nat) : Nat × Nat :=
  if 5 ≤ typ && typ ≤ 7 then (128, 128) else if wide16 typ then (64, if ks ≤ 32 then 128 else 64) else (64, 128)

/-- The effective depth (R286). -/
def keffOf (ks spar : Nat) : Nat := if spar = 1 then 2 * ks else if spar = 2 then 4 * ks else ks

/-- The layout of a weight tile (R286): where column scales, block scales and metadata begin, and its end. -/
structure WLay where
  pitch : Nat
  scales : Nat
  blocks : Nat
  pos : Nat
  mlen : Nat
  fin : Nat

/-- The layout of R286. -/
def wlay (tpitch typ spar ks n : Nat) (sc : Bool) : WLay :=
  let p := if tpitch = 0 then roundUp (ks * typBytes typ) 16 else 16 * tpitch
  let stored := p * (n - 1) + ks * typBytes typ
  let blocks := roundUp (n * p + 2 * n) 16
  let e1 := if sc then blocks + n * divUp (keffOf ks spar) 64 else stored
  let m := roundUp (if sc then e1 else n * p) 16
  let mlen := 2 * divUp ks 4
  { pitch := p, scales := n * p, blocks := blocks, pos := m, mlen := mlen, fin := if spar = 0 then e1 else m + n * mlen }

/-- The layout of an activation tile of M rows (R289): the pitch, where row scales and block scales begin, and the end. -/
def alay (tpitch typ m k : Nat) (sc comp : Bool) : Nat × Nat × Nat × Nat :=
  let row := if comp then k / 64 * slotSize (typBytes typ) else k * typBytes typ
  let p := if tpitch = 0 then (if comp then row else roundUp row 16) else 16 * tpitch
  let b := roundUp (m * p + 2 * m) 16
  (p, m * p, b, if sc then b + m * divUp k 64 else p * (m - 1) + row)

/-! ### The grant, tiles and holds -/

/-- Another crew holds the engine of the issuing crew's core (R281). -/
def State.grantTaken (s : State) : Bool := s.crew.matrix.isNone && (s.crewsOn s.crew.core).any (fun c => c.matrix.isSome)

/-- The engine state of the issuing crew; that at the grant where it does not hold the engine yet. -/
def State.mx (s : State) : Matrix := s.crew.matrix.getD Matrix.grant

/-- Sets the engine state of the issuing crew; it then holds the engine. -/
def State.setMx (s : State) (m : Matrix) : State := { s with crew := { s.crew with matrix := some m } }

/-- The head holds fewer than 32 lanes (R111, R282); lanes that the chain leaves out because they trap count as held. -/
def State.notAll (s : State) : Bool := s.headMask ||| s.ctx.skip != 0xFFFFFFFF#32

/-- The tile of the issuing crew that an operand names. -/
def State.opTile (s : State) (x : Quad) : Option Tile := s.crew.tiles[bits x 7 0]?

/-- The tensor of a tile's contents. -/
def Part.tileTensor (p : Part) (t : Tile) : Option Tensor := if t.tv then some (p.tensor t.tid) else none

/-- The tile's tensor has COMP set. -/
def Part.tileComp (p : Part) (t : Tile) : Bool := match p.tileTensor t with | some x => x.comp | none => false

/-- A matrix word does not issue now (R266, R281, R294, R301): another crew holds the engine, the sequencer is full, its tile is filling,
or four committed batches are unfinished. -/
def State.matrixHolds (s : State) (i : Instr) : Bool :=
  let full := 32 ≤ s.mx.queue.length
  let filling (x : Quad) : Bool := match s.opTile x with | some t => t.st == 1 | none => false
  match i with
  | .mma _ _ _ r => s.grantTaken || full || filling (zext (s.uni32 r))
  | .ldstat x _ => s.grantTaken || full || filling (s.uni64 x)
  | .swap | .aclr _ => s.grantTaken || full
  | .drainPlain _ _ _ | .drainConvert _ _ _ | .drainQuantise _ _ _ | .drainPack _ _ _ | .drainElide _ _ _ => s.grantTaken || full
  | .commit _ => s.grantTaken || 4 ≤ (s.mx.batches.filter (fun b => b.committed && !b.finished)).length
  | .mwait _ => s.grantTaken
  | _ => false

/-- The forms of a matrix word that its group may issue: group only, 32 lanes (R111, R282), and in reduced service FP8 and P2 to P4 (R29). -/
def State.matrixForm (s : State) (typ : Option Nat) (go : State) : State :=
  if s.isSteward then s.illegal
  else if s.notAll then s.trapHead 0x02 0 0#64
  else if s.dev.reduced && (match typ with | some t => !(t < 2 || (5 ≤ t && t ≤ 7)) | none => false) then s.trapHead 0x0C 0 0#64
  else go

/-! ### The sequencer's queue (R301) -/

/-- The device step of an entry. -/
def SeqKind.op : SeqKind → Instr
  | .ldstat => .seqLdstat
  | .swap => .seqSwap
  | .mma _ _ _ _ => .seqMmaStep
  | .drain _ _ => .seqDrain
  | .aclr _ => .seqAclr

/-- A new entry of the issuing group. -/
def State.seqEntry (s : State) (id : Nat) (kind : SeqKind) (x : Quad) : SeqEntry :=
  { id := id, kind := kind, group := s.me.sid - 1, pc := s.here, x := x, batch := 0, index := 0, pass := 0, bad := false, done := false,
    endAt := 0, held := [] }

/-- An entry goes to the end of the queue; it starts at once when the queue was empty. -/
def State.enqueue (s : State) (e : SeqEntry) : State :=
  let s1 := s.setMx { s.mx with queue := s.mx.queue ++ [e] }
  if s.mx.queue = [] then s1.push e.kind.op { a := s.crew.id } else s1

/-- A tile with PIN set or cleared (R293): a pinned tile that is read stays ready, and one that is unpinned while it is read is draining. -/
def Tile.setPin (t : Tile) (p : Bool) : Tile :=
  { t with pin := p, st := if p && t.st == 3 then 2 else if t.pin && !p && t.st == 2 && 0 < t.readers then 3 else t.st }

/-- PIN of every tile follows the pins (R293). -/
def Crew.repin (c : Crew) : Crew :=
  match c.matrix with
  | none => c
  | some m => { c with tiles := c.tiles.mapIdx (fun i t => t.setPin (m.pins.any (fun p => p.tile == i))) }

/-- A pin is made. -/
def State.addPin (s : State) (p : Pin) : State :=
  let s1 := s.setMx { s.mx with pins := s.mx.pins ++ [p] }
  { s1 with crew := s1.crew.repin }

/-! ### LDSTAT and SWAP -/

/-- The fields of an `LDSTAT` operand (R285). -/
def ldType (x : Quad) : Nat := bits x 29 26
def ldSpar (x : Quad) : Nat := bits x 25 24
def ldN (x : Quad) : Nat := bits x 23 16
def ldKs (x : Quad) : Nat := bits x 15 8
def ldSc (x : Quad) : Bool := qbit x 30

/-- The plane shape an `LDSTAT` records (R287). -/
def ldShape (x : Quad) : PlaneShape := ⟨ldType x, ldSpar x, ldKs x, keffOf (ldKs x) (ldSpar x), ldN x⟩

/-- The layout of an `LDSTAT`'s tile. -/
def ldLay (t : Tile) (x : Quad) : WLay := wlay t.pitch (ldType x) (ldSpar x) (ldKs x) (ldN x) (ldSc x)

/-- The FORMAT checks of R287 before the layout. -/
def ldFormatBad (x : Quad) : Bool :=
  let typ := ldType x
  let cap := planeCap typ (ldKs x)
  12 ≤ typ || ldSpar x == 3 || (ldSpar x != 0 && 3 ≤ typ) || (ldSc x && wide16 typ) || ldKs x == 0 || cap.1 < ldKs x || ldN x == 0 ||
  cap.2 < ldN x || (planesOf typ && ldKs x % 8 != 0) || (ldSpar x == 1 && ldKs x % 2 != 0) || bits x 63 31 != 0

/-- `TILE` of the whole head, `TRAPADDR` the index (R265). -/
def State.tileTrap (s : State) (x : Quad) : State := s.trapHead 0x06 0 (BitVec.ofNat 64 (bits x 7 0))

/-- `LDSTAT` a (R285, R287): checked, then entered in the sequencer; its tile is pinned. -/
def execLdstat (x : BitVec 6) (z : BitVec 4) (s : State) : Host.Outcome State Fault Refusal :=
  let v := s.uni64 x
  .next (if s.matrixHolds (.ldstat x z) then s
    else if !s.evenG x then s.illegal
    else s.matrixForm (some (ldType v)) (match s.opTile v with
      | none => s.tileTrap v
      | some t =>
        if t.st = 0 then s.tileTrap v
        else if ldFormatBad v then s.trapHead 0x07 0 0#64
        else if t.bytes < (ldLay t v).fin then s.tileTrap v
        else if s.myPart.tileComp t then s.trapHead 0x07 0 0#64
        else
          let s1 := (s.post none (flagOf z) [] false).enqueue (s.seqEntry s.nextId .ldstat v)
          let s2 := s1.setMx { s1.mx with predS := some (ldShape v) }
          s2.addPin ⟨bits v 7 0, s.nextId, none, false⟩))

/-- `SWAP` (R288). -/
def execSwap (s : State) : Host.Outcome State Fault Refusal :=
  .next (if s.matrixHolds .swap then s
    else s.matrixForm none (
      let s1 := { s with nextId := s.nextId + 1 }.enqueue (s.seqEntry s.nextId .swap 0#64)
      s1.setMx { s1.mx with predA := s1.mx.predS, predS := s1.mx.predA }))

/-! ### MMA -/

/-- The formats of an `MMA` that R290 refuses, given its tile. -/
def State.mmaFormatBad (s : State) (typ shape : Nat) (v : Quad) (t : Tile) : Bool :=
  match s.mx.predA with
  | none => true
  | some p =>
    let nk := shapeNK shape typ p.spar
    let comp := s.myPart.tileComp t
    p.typ != typ || p.keff != nk.2 || p.n != nk.1 || (qbit v 8 && wide16 typ) || bits v 31 9 != 0 || (comp && nk.2 % 64 != 0) ||
    t.bytes < (alay t.pitch typ (shapeM shape) nk.2 (qbit v 8) comp).2.2.2

/-- The accumulators an `MMA` of N columns writes (R291). -/
def mmaAccs (acc n : Nat) : List Nat := if 64 < n then [acc, acc + 1] else [acc]

/-- A step joins the open batch, the last of the list (R290, R294). -/
def Matrix.join (m : Matrix) (accs : List Nat) : Matrix :=
  { m with batches := updIf (fun b => !b.committed) (fun b =>
      { b with steps := b.steps + 1, left := b.left + 1, accs := b.accs ++ accs }) m.batches }

/-- Steps in the open batch. -/
def Matrix.openSteps (m : Matrix) : Nat := match m.batches.find? (fun b => !b.committed) with | some b => b.steps | none => 0

/-- `MMA` (R89, R289, R290): checked against the plane it will use, then entered in the sequencer; its tile is pinned, and it joins the
open batch. -/
def execMma (e : BitVec 4) (s5 : BitVec 5) (t : BitVec 4) (r : BitVec 6) (s : State) : Host.Outcome State Fault Refusal :=
  let v := zext (s.uni32 r)
  let typ := t.toNat
  let n := (shapeNK s5.toNat typ 0).1
  .next (if s.matrixHolds (.mma e s5 t r) then s
    else if 12 ≤ typ || (64 < n && e == 15#4) then s.illegal
    else s.matrixForm (some typ) (match s.opTile v with
      | none => s.tileTrap v
      | some tl =>
        if tl.st = 0 then s.tileTrap v
        else if s.mmaFormatBad typ s5.toNat v tl then s.trapHead 0x07 0 0#64
        else
          let spar := match s.mx.predA with | some p => p.spar | none => 0
          let x : SeqEntry := { s.seqEntry s.nextId (.mma typ spar s5.toNat e.toNat) v with batch := s.mx.serial, index := s.mx.openSteps }
          let s1 := { s with nextId := s.nextId + 1 }.enqueue x
          let s2 := s1.setMx (s1.mx.join (mmaAccs e.toNat n))
          s2.addPin ⟨bits v 7 0, s.nextId, some s.mx.serial, false⟩))

/-! ### Batches -/

/-- The numbers a counter takes before it repeats: 1 to 2^32 - 1 (R294). -/
def batchPeriod : Nat := 2 ^ 32 - 1

/-- The number of a batch of a serial (R294). -/
def batchNum (serial : Nat) : Nat := serial % batchPeriod + 1

/-- The serial of the last committed batch of a number; none where there is none (R295). -/
def Matrix.serialOf (m : Matrix) (b : Nat) : Option Nat :=
  if b = 0 || m.serial < b then
    (if b = 0 || m.serial < batchPeriod then none else some (m.serial - 1 - (m.serial - 1 + batchPeriod - (b - 1)) % batchPeriod))
  else some (m.serial - 1 - (m.serial - 1 + batchPeriod - (b - 1)) % batchPeriod)

/-- Committed batches without steps to end finish, in commit order (R295). -/
def finishBatches : List Batch → List Batch
  | [] => []
  | b :: t => if b.finished then b :: finishBatches t
    else if b.committed && b.left == 0 then { b with finished := true } :: finishBatches t
    else b :: t

/-- Pins of steps that have fetched their last row and whose batch is committed end (R293). -/
def Matrix.dropPins (m : Matrix) : Matrix :=
  { m with pins := m.pins.filter (fun p => !(p.fetched && (match p.batch with | some b => b < m.serial | none => true))) }

/-- `COMMIT` d (R294): the open batch is closed; its number goes to d 4 cycles after issue. -/
def execCommit (x : BitVec 6) (s : State) : Host.Outcome State Fault Refusal :=
  .next (if s.matrixHolds (.commit x) then s
    else if !s.evenG x then s.illegal
    else s.matrixForm none (
      let m := s.mx
      let bs := (m.batches.map (fun b => { b with committed := true })) ++ [⟨m.serial + 1, false, 0, 0, [], false⟩]
      let m1 : Matrix := { m with serial := m.serial + 1, batches := finishBatches bs }
      let s1 := s.setMx m1.dropPins
      { s1 with crew := s1.crew.repin }.post1 4 (s.wrAll x (BitVec.ofNat 64 (batchNum m.serial)))))

/-- `MWAIT` a (R113, R295): the group issues nothing until batch b and every earlier one have finished. -/
def execMwait (x : BitVec 6) (s : State) : Host.Outcome State Fault Refusal :=
  let b := s.uni32 x
  .next (if s.matrixHolds (.mwait x) then s
    else s.matrixForm none (match s.mx.serialOf b.toNat with
      | none => s.trapHead 0x0C 0 (zext b)
      | some _ =>
        let s1 := s.setMx s.mx
        { s1 with me := { s1.me with blocked := some (.mwait b), blockAt := some s.waitPlace } }.push .mwaitComplete { r := s.self }))

/-- `MWAIT_COMPLETE` (R295): the wait of a group ends, and every batch up to its own is covered. -/
def execMwaitComplete (s : State) : Host.Outcome State Fault Refusal :=
  let r := s.ctx.ev.r
  .next (match s.streamOf r, s.crewOf r.crew with
    | some t, some c => match t.blocked, c.matrix with
      | some (.mwait b), some m => match m.serialOf b.toNat with
        | none => s
        | some n =>
          if m.batches.any (fun x => x.serial ≤ n && !x.finished) then s.defer .mwaitComplete
          else
            (s.updCrew c.id (fun c => { c with
              matrix := c.matrix.map (fun m => { m with batches := m.batches.filter (fun x => n < x.serial) }) })).updStream r
                (fun t => { t with blocked := none, blockAt := none })
      | _, _ => s
    | _, _ => s)

/-- An accumulator is in flight (R296). -/
def Matrix.inFlight (m : Matrix) (acc : Nat) : Bool := m.batches.any (fun b => b.accs.contains acc)

/-! ### DRAIN and ACLR -/

/-- The fields of a `DRAIN` operand (R297). -/
def drFmt (v : Quad) : Nat := bits v 28 24
def drCols (v : Quad) : Nat := if bits v 23 16 = 0 then 64 else bits v 23 16
def drRows (v : Quad) : Nat := if bits v 15 8 = 0 then 64 else bits v 15 8

/-- A FMT that a mode accepts, and its COLS (R298). -/
def drFmtOk (mode : Nat) (v : Quad) : Bool :=
  let f := drFmt v
  match mode with
  | 0 => f == 0
  | 1 => f ≤ 13
  | 2 => f == 3 || f == 4 || f == 5 || f == 10 || f == 12
  | _ => f ≤ 13 && fmtBits f != 4 && drCols v == 64

/-- The layout of a `DRAIN` (R297, R298): the pitch, the bytes of a row, and the end. -/
def drLay (tpitch mode : Nat) (v : Quad) : Nat × Nat × Nat :=
  let f := drFmt v
  let row := if 3 ≤ mode then slotSize (fmtBits f / 8) else divUp (fmtBits f * drCols v) 8
  let p := if tpitch = 0 then (if 3 ≤ mode then row else roundUp row 16) else 16 * tpitch
  let e := p * (drRows v - 1) + row
  (p, row, if mode = 2 then max e (roundUp (p * drRows v + 2 * drRows v) 16 + drRows v) else e)

/-- The runs a `DRAIN` writes, as offsets in its tile and lengths: its rows, and behind them the block scales of a quantise (R297, R298). -/
def drainRuns (tpitch mode : Nat) (v : Quad) : List (Nat × Nat) :=
  let l := drLay tpitch mode v
  (List.range (drRows v)).map (fun i => (l.1 * i, l.2.1)) ++
  (if mode = 2 then [(roundUp (drRows v * l.1 + 2 * drRows v) 16, drRows v)] else [])

/-- The scratchpad writes of a `DRAIN` into a tile of the issuing crew: writes of lane 0 (R299). -/
def State.drainWrites (s : State) (t : Tile) (mode : Nat) (v : Quad) : List PWrite :=
  (drainRuns t.pitch mode v).map (fun x => s.directWrite 0 (s.crew.shareHome + t.offset + x.1) x.2)

/-- A `DRAIN` (R297 to R299): checked, then entered in the sequencer; its writes are under way. -/
def State.drain (s : State) (i : Instr) (mode : Nat) (x y : BitVec 6) (z : BitVec 4) : State :=
  let v := zext (s.uni32 y)
  if s.matrixHolds i then s
  else if 16 ≤ x.toNat then s.illegal
  else s.matrixForm none (match s.opTile v with
    | none => s.tileTrap v
    | some t =>
      if !drFmtOk mode v || 64 < drCols v || 64 < drRows v || t.bytes < (drLay t.pitch mode v).2.2 then s.trapHead 0x07 0 0#64
      else if s.mx.inFlight x.toNat then s.trapHead 0x05 0 (BitVec.ofNat 64 x.toNat)
      else ((s.post none (flagOf z) [] false).enqueue (s.seqEntry s.nextId (.drain mode x.toNat) v)).addDirect (s.drainWrites t mode v))

/-- `DRAIN.PLAIN` accN, a. -/
def execDrainPlain (x y : BitVec 6) (z : BitVec 4) (s : State) : Host.Outcome State Fault Refusal :=
  .next (s.drain (.drainPlain x y z) 0 x y z)
/-- `DRAIN.CONVERT` accN, a. -/
def execDrainConvert (x y : BitVec 6) (z : BitVec 4) (s : State) : Host.Outcome State Fault Refusal :=
  .next (s.drain (.drainConvert x y z) 1 x y z)
/-- `DRAIN.QUANTISE` accN, a. -/
def execDrainQuantise (x y : BitVec 6) (z : BitVec 4) (s : State) : Host.Outcome State Fault Refusal :=
  .next (s.drain (.drainQuantise x y z) 2 x y z)
/-- `DRAIN.PACK` accN, a. -/
def execDrainPack (x y : BitVec 6) (z : BitVec 4) (s : State) : Host.Outcome State Fault Refusal :=
  .next (s.drain (.drainPack x y z) 3 x y z)
/-- `DRAIN.ELIDE` accN, a. -/
def execDrainElide (x y : BitVec 6) (z : BitVec 4) (s : State) : Host.Outcome State Fault Refusal :=
  .next (s.drain (.drainElide x y z) 4 x y z)

/-- `ACLR` accN (R296, R300). -/
def execAclr (x : BitVec 6) (s : State) : Host.Outcome State Fault Refusal :=
  .next (if s.matrixHolds (.aclr x) then s
    else if 16 ≤ x.toNat then s.illegal
    else s.matrixForm none (
      if s.mx.inFlight x.toNat then s.trapHead 0x05 0 (BitVec.ofNat 64 x.toNat)
      else { s with nextId := s.nextId + 1 }.enqueue (s.seqEntry s.nextId (.aclr x.toNat) 0#64)))

/-! ### The plane's weights (R286) -/

/-- The stored weight k of column j of a plane. -/
def Plane.stored (p : Plane) (k j : Nat) : FVal :=
  let e := typBytes p.shape.typ
  let col := p.data.drop (p.pitch * j)
  if planesOf p.shape.typ then
    let q := bpnVal (p.shape.typ - 3) p.mid (bpnStored col p.shape.ks k)
    .num (decide (q < 0)) q.natAbs 0
  else codeVal (typFmt p.shape.typ) (field col (k * e) e)

/-- The layout a plane's bytes have. -/
def Plane.lay (p : Plane) : WLay := wlay (p.pitch / 16) p.shape.typ p.shape.spar p.shape.ks p.shape.n p.sc

/-- A field of `n` bits at bit `i` of column j's metadata. -/
def Plane.metaField (p : Plane) (j i n : Nat) : Nat := field p.data (p.lay.pos + j * p.lay.mlen) p.lay.mlen / 2 ^ i % 2 ^ n

/-- The effective weight (k, j): +0 where the metadata does not name k. -/
def Plane.weight (p : Plane) (k j : Nat) : FVal :=
  let zero : FVal := .num false 0 0
  match p.shape.spar with
  | 0 => p.stored k j
  | 1 =>
    let f := p.metaField j (4 * (k / 4)) 4
    if f % 4 = k % 4 then p.stored (k / 4 * 2) j else if f / 4 = k % 4 then p.stored (k / 4 * 2 + 1) j else zero
  | _ => if p.metaField j (2 * (k / 4)) 2 = k % 4 then p.stored (k / 4) j else zero

/-- The metadata names k in column j. -/
def Plane.present (p : Plane) (k j : Nat) : Bool :=
  match p.shape.spar with
  | 0 => true
  | 1 => let f := p.metaField j (4 * (k / 4)) 4; f % 4 == k % 4 || f / 4 == k % 4
  | _ => p.metaField j (2 * (k / 4)) 2 == k % 4

/-- Metadata that fails R286: under 2:4 a field whose low position is not below the higher. -/
def Plane.metaBad (p : Plane) : Bool :=
  p.shape.spar == 1 && (List.range p.shape.n).any (fun j => (List.range (p.shape.ks / 2)).any (fun g =>
    let f := p.metaField j (4 * g) 4
    f / 4 ≤ f % 4))

/-- The product of the scales of column j for block b of 64. -/
def Plane.scale (p : Plane) (j b : Nat) : FVal :=
  if p.sc then
    (fBF16.decode (field p.data (p.lay.scales + 2 * j) 2)).mul
      (fE5M3.decode (field p.data (p.lay.blocks + j * divUp p.shape.keff 64 + b) 1))
  else .num false 1 0

/-! ### Sequencer steps -/

/-- The entry at the front of a crew's sequencer, where the crew is placed. -/
def State.seqFront (s : State) : Option (Crew × Matrix × SeqEntry) :=
  match s.crewOf s.ctx.ev.a with
  | none => none
  | some c => match c.matrix with
    | none => none
    | some m => match m.queue with
      | [] => none
      | e :: _ => some (c, m, e)

/-- Updates the engine state of a crew, the pins of its tiles with it. -/
def State.updMx (s : State) (crew : Nat) (f : Matrix → Matrix) : State :=
  s.updCrew crew (fun c => { c with matrix := c.matrix.map f }.repin)

/-- Updates the front entry. -/
def Matrix.updFront (m : Matrix) (f : SeqEntry → SeqEntry) : Matrix :=
  match m.queue with
  | [] => m
  | e :: t => { m with queue := f e :: t }

/-- The front entry has had its effect and ends after some cycles. -/
def State.seqDone (s : State) (crew dur : Nat) : State :=
  (s.updMx crew (fun m => m.updFront (fun e => { e with done := true, endAt := s.clock + dur }))).push .seqEntryEnd { a := crew }

/-- Bytes of a tile of a crew. -/
def State.tileBytes (s : State) (c : Crew) (t : Tile) (off n : Nat) : List Byte := s.mem.bytes (c.shareHome + t.offset + off) n

/-- The sequencer of a crew starts nothing: the crew is saved or stopping (R304). -/
def Crew.seqHeld (c : Crew) : Bool := c.saved || c.stopAt.isSome

/-- `SEQ_LDSTAT` (R286, R287, R302): the weight tile is read into the shadow plane; metadata that fails leaves it empty and sends `FORMAT`
with CODE 0xFF. -/
def execSeqLdstat (s : State) : Host.Outcome State Fault Refusal :=
  .next (match s.seqFront with
    | none => s
    | some (c, _, e) =>
      if c.seqHeld then s.defer .seqLdstat
      else if e.kind ≠ .ldstat || e.done then s
      else match c.tiles[bits e.x 7 0]? with
        | none => s.seqDone c.id 32
        | some t =>
          let l := ldLay t e.x
          let p : Plane :=
            { shape := ldShape e.x
              sc := ldSc e.x
              mid := match (s.part c.part).tileTensor t with | some x => x.mid | none => false
              pitch := l.pitch
              data := s.tileBytes c t 0 l.fin }
          let s1 := s.updMx c.id (fun m => { m with shadow := if p.metaBad then none else some p })
          let s2 := if p.metaBad then s1.sendAsync ⟨c.id, e.group + 1⟩ 0x07 0xFF 0#64 (some e.pc) else s1
          s2.seqDone c.id (32 + divUp l.fin 256))

/-- `SEQ_SWAP` (R288, R302). -/
def execSeqSwap (s : State) : Host.Outcome State Fault Refusal :=
  .next (match s.seqFront with
    | none => s
    | some (c, _, e) =>
      if c.seqHeld then s.defer .seqSwap
      else if e.kind ≠ .swap || e.done then s
      else (s.updMx c.id (fun m => { m with active := m.shadow, shadow := m.active })).seqDone c.id 2)

/-- `SEQ_ACLR` (R300, R302). -/
def execSeqAclr (s : State) : Host.Outcome State Fault Refusal :=
  .next (match s.seqFront with
    | none => s
    | some (c, _, e) =>
      if c.seqHeld then s.defer .seqAclr
      else match e.kind with
        | .aclr a =>
          if e.done then s
          else (s.updMx c.id (fun m => { m with acc := m.acc.filter (fun x => x.1 / 4096 != a) })).seqDone c.id 16
        | _ => s)

/-- What a step's fetch and check reads (R292, R293): the slot headers of its M rows, then the scale area. -/
def State.mmaFetch (s : State) (c : Crew) (t : Tile) (e : SeqEntry) (typ spar shape : Nat) : List Byte :=
  let k := (shapeNK shape typ spar).2
  let comp := (s.part c.part).tileComp t
  let l := alay t.pitch typ (shapeM shape) k (qbit e.x 8) comp
  (if comp then (List.range (shapeM shape)).flatMap (fun i => (List.range (k / 64)).flatMap (fun b =>
      s.tileBytes c t (l.1 * i + slotSize (typBytes typ) * b) 16)) else []) ++
  (if qbit e.x 8 then s.tileBytes c t l.2.1 (l.2.2.2 - l.2.1) else [])

/-- The first slot of a step that is not well-formed: its row and block (R292). -/
def State.mmaBadSlot (s : State) (c : Crew) (t : Tile) (typ spar shape : Nat) : Option (Nat × Nat) :=
  let k := (shapeNK shape typ spar).2
  if !(s.part c.part).tileComp t then none
  else
    let p := (alay t.pitch typ (shapeM shape) k false true).1
    (List.range (shapeM shape)).findSome? (fun i => ((List.range (k / 64)).find? (fun b =>
      !slotOk (s.tileBytes c t (p * i + slotSize (typBytes typ) * b) 16))).map (fun b => (i, b)))

/-- Activation row i of a step as values (R289). -/
def State.mmaRow (s : State) (c : Crew) (t : Tile) (e : SeqEntry) (typ spar shape i : Nat) : List FVal :=
  let k := (shapeNK shape typ spar).2
  let comp := (s.part c.part).tileComp t
  let b := typBytes typ
  let p := (alay t.pitch typ (shapeM shape) k (qbit e.x 8) comp).1
  if comp then
    (List.range (k / 64)).flatMap (fun j =>
      let o := p * i + slotSize b * j
      let sl := (e.held.drop (16 * (i * (k / 64) + j))).take 16 ++ s.tileBytes c t (o + 16) (64 * b)
      (List.range 64).map (fun n => codeVal (typFmt typ) (slotElem sl b n)))
  else
    let row := s.tileBytes c t (p * i) (k * b)
    (List.range k).map (fun n => codeVal (typFmt typ) (field row (b * n) b))

/-- The scale of activation row i for block j, from the bytes fetched. -/
def State.mmaScale (s : State) (c : Crew) (t : Tile) (e : SeqEntry) (typ spar shape i j : Nat) : FVal :=
  if !qbit e.x 8 then .num false 1 0
  else
    let k := (shapeNK shape typ spar).2
    let m := shapeM shape
    let comp := (s.part c.part).tileComp t
    let l := alay t.pitch typ m k true comp
    let sc := e.held.drop (if comp then 16 * m * (k / 64) else 0)
    (fBF16.decode (field sc (2 * i) 2)).mul (fE5M3.decode (field sc (l.2.2.1 - l.2.1 + i * divUp k 64 + j) 1))

/-- Step 5 of R144: the block value added to an F32 accumulator with one rounding. -/
def accAdd (v : Nat) (blk : FVal) : Nat :=
  match fF32.firstNan [v] with
  | some n => n
  | none => fF32.ofVal .rne false ((fF32.decode v).add .rne blk)

/-- The exact sum of products, with the sign of zero of R144. -/
def sumProducts : List FVal → FVal
  | [] => .num false 0 0
  | x :: t => t.foldl (FVal.add .rne) x

/-- One accumulator element over the K blocks of 16 (R144, R145, R291). A product that the metadata does not name is +0 (log entry 60). -/
def mmaElem (p : Plane) (row : List FVal) (sa : Nat → FVal) (k j v : Nat) : Nat :=
  (List.range (divUp k 16)).foldl (fun v b =>
    let prods := (List.range (min 16 (k - 16 * b))).map (fun i =>
      if p.present (16 * b + i) j then (row.getD (16 * b + i) .nan).mul (p.weight (16 * b + i) j) else .num false 0 0)
    accAdd v ((sumProducts prods).mul ((sa (b / 4)).mul (p.scale j (b / 4))))) v

/-- The accumulator writes of activation row i. -/
def mmaRowAcc (p : Plane) (row : List FVal) (sa : Nat → FVal) (acc i n k : Nat) (t : Table Word) : Table Word :=
  (List.range n).foldl (fun t j =>
    let key := 4096 * (acc + j / 64) + 64 * i + j % 64
    tset 0#32 t key (BitVec.ofNat 32 (mmaElem p row sa k j (tget 0#32 t key).toNat))) t

/-- The pin of an entry has fetched its last row. -/
def Matrix.fetched (m : Matrix) (id : Nat) : Matrix :=
  ({ m with pins := updIf (fun p => p.id == id) (fun p => { p with fetched := true }) m.pins }).dropPins

/-- One pass of 16 rows (R302); pass 1 is the first. A rejected step and one on an empty plane write nothing (R287, R292). -/
def State.mmaPass (s : State) (c : Crew) (t : Tile) (e : SeqEntry) (typ spar shape acc : Nat) : State :=
  let nk := shapeNK shape typ spar
  s.updMx c.id (fun m =>
    match m.active with
    | some p =>
      if e.bad then m
      else { m with acc := (List.range 16).foldl (fun a r =>
        let i := 16 * (e.pass - 1) + r
        mmaRowAcc p (s.mmaRow c t e typ spar shape i) (s.mmaScale c t e typ spar shape i) acc i nk.1 nk.2 a) m.acc }
    | none => m)

/-- `SEQ_MMA_STEP` (R287, R291 to R293, R302): the fetch and check, then one pass of 16 rows after another. A step on an empty plane raises
nothing of its own. -/
def execSeqMmaStep (s : State) : Host.Outcome State Fault Refusal :=
  .next (match s.seqFront with
    | none => s
    | some (c, m, e) =>
      if c.seqHeld || s.clock < e.endAt then s.defer .seqMmaStep
      else match e.kind, c.tiles[bits e.x 7 0]? with
        | .mma typ spar shape acc, some t =>
          if e.done then s
          else if e.pass = 0 then
            let bad := if m.active.isSome then s.mmaBadSlot c t typ spar shape else none
            let s1 := s.updMx c.id (fun m => m.updFront (fun e =>
              { e with pass := 1, bad := bad.isSome, endAt := s.clock + 24, held := s.mmaFetch c t e typ spar shape }))
            (match bad with
             | some (i, b) => s1.sendAsync ⟨c.id, e.group + 1⟩ 0x07 e.index
                (BitVec.ofNat 64 (bits e.x 7 0 + 2 ^ 8 * (i % 2 ^ 8) + 2 ^ 16 * (b % 2 ^ 8))) (some e.pc)
             | none => s1).push .seqMmaStep { a := c.id }
          else
            let s1 := s.mmaPass c t e typ spar shape acc
            let dur := 16 * rowCycles typ spar
            if shapeM shape ≤ 16 * e.pass then (s1.updMx c.id (fun m => m.fetched e.id)).seqDone c.id dur
            else (s1.updMx c.id (fun m => m.updFront (fun e => { e with pass := e.pass + 1, endAt := s.clock + dur }))).push .seqMmaStep
              { a := c.id }
        | _, _ => s)

/-- Element (i, c) of an accumulator, as its F32 bits. -/
def Matrix.elem (m : Matrix) (acc i c : Nat) : Nat := (tget 0#32 m.acc (4096 * acc + 64 * i + c)).toNat

/-- Patterns of a format as bytes, 4-bit ones packed two to a byte, the lower first (R3). -/
def packCodes (fmt : Nat) : List Nat → List Byte
  | [] => []
  | [x] => leBytes (divUp (fmtBits fmt) 8) x
  | x :: y :: t => if fmtBits fmt = 4 then BitVec.ofNat 8 (x % 16 + 16 * (y % 16)) :: packCodes fmt t
    else leBytes (fmtBits fmt / 8) x ++ leBytes (fmtBits fmt / 8) y ++ packCodes fmt t

/-- The bytes of row i of a drain and, under quantise, its block scale; whether its row scale failed (R298). -/
def drainRow (m : Matrix) (mode acc : Nat) (v : Quad) (i rowScale : Nat) : List Byte × Option Byte × Bool :=
  let xs := (List.range (drCols v)).map (fun c => m.elem acc i c)
  let f := drFmt v
  let conv (x : Nat) : Nat := codeOf (rmode (bits v 30 29)) (qbit v 31) f (fF32.decode x)
  match mode with
  | 0 => (xs.flatMap (leBytes 4), none, false)
  | 1 => (packCodes f (xs.map conv), none, false)
  | 2 =>
    if bf16Normal rowScale then
      let q := quantBlock f rowScale (xs.map fF32.decode)
      (packCodes f q.1, some (BitVec.ofNat 8 q.2), false)
    else (packCodes f (xs.map (fun _ => 0)), some 0xFF#8, true)
  | 3 => (slotPacked (fmtBits f / 8) (xs.map conv), none, false)
  | _ => (slotElided (fmtBits f / 8) (xs.map conv), none, false)

/-- The rows of a drain are written; the lowest row whose scale failed. -/
def State.drainRows (s : State) (c : Crew) (m : Matrix) (t : Tile) (mode acc : Nat) (v : Quad) : State × Option Nat :=
  let p := (drLay t.pitch mode v).1
  let rows := drRows v
  let base := c.shareHome + t.offset
  (List.range rows).foldl (fun (a : State × Option Nat) i =>
    let r := drainRow m mode acc v i (field (s.tileBytes c t (rows * p + 2 * i) 2) 0 2)
    let s1 := a.1.putHome (base + p * i) r.1
    let s2 := match r.2.1 with | some b => s1.putHome (base + roundUp (rows * p + 2 * rows) 16 + i) [b] | none => s1
    (s2, if r.2.2 && a.2.isNone then some i else a.2)) (s, none)

/-- The writes of a `DRAIN` may be made, as far as order goes: lane 0 of its group has no older write and no older request to their bytes
(R154, R156, R299). -/
def State.drainRunsFree (s : State) (c : Crew) (t : Tile) (mode : Nat) (e : SeqEntry) : Bool :=
  let r : Ref := ⟨c.id, e.group + 1⟩
  match s.streamOf r with
  | none => true
  | some g => (drainRuns t.pitch mode e.x).all (fun x =>
      let h := c.shareHome + t.offset + x.1
      s.reqFree c.part g e.id 0 h x.2 && !s.ownWrites r c.part 0 e.id h x.2)

/-- The writes of a word that take no buffer entry have been made. -/
def Stream.dropDirects (t : Stream) (rid : Nat) : Stream := { t with direct := t.direct.filter (fun w => w.rid != rid) }

/-- `SEQ_DRAIN` (R266, R298, R299, R302): once its tile allows it the drain makes it filling, and at the end of its time writes it and
makes it ready. -/
def execSeqDrain (s : State) : Host.Outcome State Fault Refusal :=
  .next (match s.seqFront with
    | none => s
    | some (c, m, e) =>
      if c.saved || (c.stopAt.isSome && e.pass = 0) then s.defer .seqDrain
      else match e.kind, c.tiles[bits e.x 7 0]? with
        | .drain mode acc, some t =>
          if e.done then s
          else if e.pass = 0 then
            (if !t.writable then s.defer .seqDrain
             else
              let dur := 16 + drRows e.x * (if mode < 2 then 1 else 2)
              ((s.updMx c.id (fun m => m.updFront (fun e => { e with pass := 1, endAt := s.clock + dur }))).updCrew c.id (fun c =>
                c.updTile (bits e.x 7 0) (fun t => { t with st := 1 }))).push .seqDrain { a := c.id })
          else if s.clock < e.endAt || !s.drainRunsFree c t mode e then s.defer .seqDrain
          else
            let w := s.drainRows c m t mode acc e.x
            let s1 := w.1.updCrew c.id (fun c => c.updTile (bits e.x 7 0) (fun t => { t with st := 2 }))
            ((s1.updMx c.id (fun m => m.updFront (fun e =>
              { e with bad := w.2.isSome, index := w.2.getD 0 }))).updStream ⟨c.id, e.group + 1⟩ (fun t => t.dropDirects e.id)).seqDone c.id 0
        | _, _ => s)

/-- A step of a batch has ended (R295). -/
def Matrix.stepEnd (m : Matrix) (serial : Nat) : Matrix :=
  { m with batches := finishBatches (updIf (fun b => b.serial == serial) (fun b => { b with left := b.left - 1 }) m.batches) }

/-- What the end of an entry does to the engine state beside leaving the queue. -/
def Matrix.entryEnd (m : Matrix) (e : SeqEntry) : Matrix :=
  let m1 : Matrix := { m with queue := m.queue.drop 1 }
  match e.kind with
  | .ldstat => m1.fetched e.id
  | .mma _ _ _ _ => m1.stepEnd e.batch
  | _ => m1

/-- `SEQ_ENTRY_END` (R295, R301, R303): the front entry ends: its flag use, its pin or its batch's share; the next entry starts. A
drain with a bad row scale sends `FORMAT` with its lowest such row (R298). -/
def execSeqEntryEnd (s : State) : Host.Outcome State Fault Refusal :=
  .next (match s.seqFront with
    | none => s
    | some (c, m, e) =>
      if c.saved || s.clock < e.endAt then s.defer .seqEntryEnd
      else if !e.done then s
      else
        let r : Ref := ⟨c.id, e.group + 1⟩
        let s1 := (s.updMx c.id (fun m => m.entryEnd e)).endUse r e.id
        let s2 := match e.kind with
          | .drain _ _ => if e.bad then s1.sendAsync r 0x07 e.index 0#64 (some e.pc) else s1
          | _ => s1
        match m.queue.drop 1 with
        | n :: _ => s2.push n.kind.op { a := c.id }
        | [] => s2)

end Sys2Proof.Machine
end

