-- ==== Sys2Proof/Machine/Dispatch.lean ====
section
/-! DEFINITION. One arm per step of the machine: the meaning of every constructor of `Instr`. -/

namespace Sys2Proof.Machine

/-- One step of the machine: an instruction word of the issuing stream, or a step of the device. -/
def exec (i : Instr) (s : State) : Host.Outcome State Fault Refusal :=
  match i with
  | .bra p c o => Sys2Proof.Machine.execBra p c o s
  | .call p c o => Sys2Proof.Machine.execCall p c o s
  | .brx p c a => Sys2Proof.Machine.execBrx p c a s
  | .ret c => Sys2Proof.Machine.execRet c s
  | .exit c => Sys2Proof.Machine.execExit c s
  | .iadd d a b g => Sys2Proof.Machine.execIadd d a b g s
  | .isub d a b g => Sys2Proof.Machine.execIsub d a b g s
  | .imul d a b g => Sys2Proof.Machine.execImul d a b g s
  | .imad d a b g => Sys2Proof.Machine.execImad d a b g s
  | .and d a b g => Sys2Proof.Machine.execAnd d a b g s
  | .or d a b g => Sys2Proof.Machine.execOr d a b g s
  | .xor d a b g => Sys2Proof.Machine.execXor d a b g s
  | .csel d a b => Sys2Proof.Machine.execCsel d a b s
  | .mov d a g => Sys2Proof.Machine.execMov d a g s
  | .not d a g => Sys2Proof.Machine.execNot d a g s
  | .iabs d a g => Sys2Proof.Machine.execIabs d a g s
  | .popc d a g => Sys2Proof.Machine.execPopc d a g s
  | .clz d a g => Sys2Proof.Machine.execClz d a g s
  | .brev d a g => Sys2Proof.Machine.execBrev d a g s
  | .shl d a g => Sys2Proof.Machine.execShl d a g s
  | .shr d a g => Sys2Proof.Machine.execShr d a g s
  | .sar d a g => Sys2Proof.Machine.execSar d a g s
  | .iminI d a g => Sys2Proof.Machine.execIminI d a g s
  | .iminN d a g => Sys2Proof.Machine.execIminN d a g s
  | .imaxI d a g => Sys2Proof.Machine.execImaxI d a g s
  | .imaxN d a g => Sys2Proof.Machine.execImaxN d a g s
  | .imulhI d a g => Sys2Proof.Machine.execImulhI d a g s
  | .imulhN d a g => Sys2Proof.Machine.execImulhN d a g s
  | .movOw d a g => Sys2Proof.Machine.execMovOw d a g s
  | .notOw d a g => Sys2Proof.Machine.execNotOw d a g s
  | .iabsOw d a g => Sys2Proof.Machine.execIabsOw d a g s
  | .popcOw d a g => Sys2Proof.Machine.execPopcOw d a g s
  | .clzOw d a g => Sys2Proof.Machine.execClzOw d a g s
  | .brevOw d a g => Sys2Proof.Machine.execBrevOw d a g s
  | .shlOw d a g => Sys2Proof.Machine.execShlOw d a g s
  | .shrOw d a g => Sys2Proof.Machine.execShrOw d a g s
  | .sarOw d a g => Sys2Proof.Machine.execSarOw d a g s
  | .iminIOw d a g => Sys2Proof.Machine.execIminIOw d a g s
  | .iminNOw d a g => Sys2Proof.Machine.execIminNOw d a g s
  | .imaxIOw d a g => Sys2Proof.Machine.execImaxIOw d a g s
  | .imaxNOw d a g => Sys2Proof.Machine.execImaxNOw d a g s
  | .imulhIOw d a g => Sys2Proof.Machine.execImulhIOw d a g s
  | .imulhNOw d a g => Sys2Proof.Machine.execImulhNOw d a g s
  | .iaddOw d a g => Sys2Proof.Machine.execIaddOw d a g s
  | .isubOw d a g => Sys2Proof.Machine.execIsubOw d a g s
  | .imulOw d a g => Sys2Proof.Machine.execImulOw d a g s
  | .andOw d a g => Sys2Proof.Machine.execAndOw d a g s
  | .orOw d a g => Sys2Proof.Machine.execOrOw d a g s
  | .xorOw d a g => Sys2Proof.Machine.execXorOw d a g s
  | .movi d v g => Sys2Proof.Machine.execMovi d v g s
  | .iaddImm d v g => Sys2Proof.Machine.execIaddImm d v g s
  | .imulImm d v g => Sys2Proof.Machine.execImulImm d v g s
  | .andImm d v g => Sys2Proof.Machine.execAndImm d v g s
  | .orImm d v g => Sys2Proof.Machine.execOrImm d v g s
  | .xorImm d v g => Sys2Proof.Machine.execXorImm d v g s
  | .shlImm d v g => Sys2Proof.Machine.execShlImm d v g s
  | .shrImm d v g => Sys2Proof.Machine.execShrImm d v g s
  | .sarImm d v g => Sys2Proof.Machine.execSarImm d v g s
  | .iminIImm d v g => Sys2Proof.Machine.execIminIImm d v g s
  | .imaxIImm d v g => Sys2Proof.Machine.execImaxIImm d v g s
  | .iminNImm d v g => Sys2Proof.Machine.execIminNImm d v g s
  | .imaxNImm d v g => Sys2Proof.Machine.execImaxNImm d v g s
  | .moviOw d v g => Sys2Proof.Machine.execMoviOw d v g s
  | .iaddImmOw d v g => Sys2Proof.Machine.execIaddImmOw d v g s
  | .imulImmOw d v g => Sys2Proof.Machine.execImulImmOw d v g s
  | .andImmOw d v g => Sys2Proof.Machine.execAndImmOw d v g s
  | .orImmOw d v g => Sys2Proof.Machine.execOrImmOw d v g s
  | .xorImmOw d v g => Sys2Proof.Machine.execXorImmOw d v g s
  | .shlImmOw d v g => Sys2Proof.Machine.execShlImmOw d v g s
  | .shrImmOw d v g => Sys2Proof.Machine.execShrImmOw d v g s
  | .sarImmOw d v g => Sys2Proof.Machine.execSarImmOw d v g s
  | .iminIImmOw d v g => Sys2Proof.Machine.execIminIImmOw d v g s
  | .imaxIImmOw d v g => Sys2Proof.Machine.execImaxIImmOw d v g s
  | .iminNImmOw d v g => Sys2Proof.Machine.execIminNImmOw d v g s
  | .imaxNImmOw d v g => Sys2Proof.Machine.execImaxNImmOw d v g s
  | .bfe d a b g => Sys2Proof.Machine.execBfe d a b g s
  | .bfi d a b g => Sys2Proof.Machine.execBfi d a b g s
  | .faddF32 d a b g => Sys2Proof.Machine.execFaddF32 d a b g s
  | .fmulF32 d a b g => Sys2Proof.Machine.execFmulF32 d a b g s
  | .fmaF32 d a b g => Sys2Proof.Machine.execFmaF32 d a b g s
  | .faddF32Imm d a v g => Sys2Proof.Machine.execFaddF32Imm d a v g s
  | .fmulF32Imm d a v g => Sys2Proof.Machine.execFmulF32Imm d a v g s
  | .fmaF16 d a b g => Sys2Proof.Machine.execFmaF16 d a b g s
  | .fmaBf16 d a b g => Sys2Proof.Machine.execFmaBf16 d a b g s
  | .faddF16 d a b g => Sys2Proof.Machine.execFaddF16 d a b g s
  | .fcmp p c a b g => Sys2Proof.Machine.execFcmp p c a b g s
  | .fminF32 d a g => Sys2Proof.Machine.execFminF32 d a g s
  | .fmaxF32 d a g => Sys2Proof.Machine.execFmaxF32 d a g s
  | .frcp d a g => Sys2Proof.Machine.execFrcp d a g s
  | .frsq d a g => Sys2Proof.Machine.execFrsq d a g s
  | .fsqrt d a g => Sys2Proof.Machine.execFsqrt d a g s
  | .fex2 d a g => Sys2Proof.Machine.execFex2 d a g s
  | .flg2 d a g => Sys2Proof.Machine.execFlg2 d a g s
  | .faddBf16 d a g => Sys2Proof.Machine.execFaddBf16 d a g s
  | .fmulBf16 d a g => Sys2Proof.Machine.execFmulBf16 d a g s
  | .fmulF16 d a g => Sys2Proof.Machine.execFmulF16 d a g s
  | .fminF16 d a g => Sys2Proof.Machine.execFminF16 d a g s
  | .fmaxF16 d a g => Sys2Proof.Machine.execFmaxF16 d a g s
  | .fminBf16 d a g => Sys2Proof.Machine.execFminBf16 d a g s
  | .fmaxBf16 d a g => Sys2Proof.Machine.execFmaxBf16 d a g s
  | .faddF32Rz d a g => Sys2Proof.Machine.execFaddF32Rz d a g s
  | .faddF32Ru d a g => Sys2Proof.Machine.execFaddF32Ru d a g s
  | .faddF32Rd d a g => Sys2Proof.Machine.execFaddF32Rd d a g s
  | .fmulF32Rz d a g => Sys2Proof.Machine.execFmulF32Rz d a g s
  | .fmulF32Ru d a g => Sys2Proof.Machine.execFmulF32Ru d a g s
  | .fmulF32Rd d a g => Sys2Proof.Machine.execFmulF32Rd d a g s
  | .cvtFromF32 d a m c g => Sys2Proof.Machine.execCvtFromF32 d a m c g s
  | .cvtToF32 d a m c g => Sys2Proof.Machine.execCvtToF32 d a m c g s
  | .icmp p c a b g => Sys2Proof.Machine.execIcmp p c a b g s
  | .icmpN p c a b g => Sys2Proof.Machine.execIcmpN p c a b g s
  | .pand p a n b m g => Sys2Proof.Machine.execPand p a n b m g s
  | .por p a n b m g => Sys2Proof.Machine.execPor p a n b m g s
  | .pxor p a n b m g => Sys2Proof.Machine.execPxor p a n b m g s
  | .pnot p a n g => Sys2Proof.Machine.execPnot p a n g s
  | .pmov p a n g => Sys2Proof.Machine.execPmov p a n g s
  | .voteAll p a n g => Sys2Proof.Machine.execVoteAll p a n g s
  | .voteAny p a n g => Sys2Proof.Machine.execVoteAny p a n g s
  | .voteEq p a n g => Sys2Proof.Machine.execVoteEq p a n g s
  | .ballot d a n g => Sys2Proof.Machine.execBallot d a n g s
  | .matchLanes d a g => Sys2Proof.Machine.execMatchLanes d a g s
  | .shfl d a m n => Sys2Proof.Machine.execShfl d a m n s
  | .clock d => Sys2Proof.Machine.execClock d s
  | .srd d x => Sys2Proof.Machine.execSrd d x s
  | .swr d x => Sys2Proof.Machine.execSwr d x s
  | .gresume a => Sys2Proof.Machine.execGresume a s
  | .gkill a => Sys2Proof.Machine.execGkill a s
  | .grd d a => Sys2Proof.Machine.execGrd d a s
  | .gwr d a => Sys2Proof.Machine.execGwr d a s
  | .ldG8 d a f g => Sys2Proof.Machine.execLdG8 d a f g s
  | .ldG16 d a f g => Sys2Proof.Machine.execLdG16 d a f g s
  | .ldG32 d a f g => Sys2Proof.Machine.execLdG32 d a f g s
  | .ldG64 d a f g => Sys2Proof.Machine.execLdG64 d a f g s
  | .ldG4 d a f g => Sys2Proof.Machine.execLdG4 d a f g s
  | .ldG128 d a f g => Sys2Proof.Machine.execLdG128 d a f g s
  | .ldS4 d a f g => Sys2Proof.Machine.execLdS4 d a f g s
  | .ldS128 d a f g => Sys2Proof.Machine.execLdS128 d a f g s
  | .ldS8 d a f g => Sys2Proof.Machine.execLdS8 d a f g s
  | .ldS16 d a f g => Sys2Proof.Machine.execLdS16 d a f g s
  | .ldS32 d a f g => Sys2Proof.Machine.execLdS32 d a f g s
  | .ldS64 d a f g => Sys2Proof.Machine.execLdS64 d a f g s
  | .ldpf d a f g => Sys2Proof.Machine.execLdpf d a f g s
  | .ldG4Signed d a f g => Sys2Proof.Machine.execLdG4Signed d a f g s
  | .ldS4Signed d a f g => Sys2Proof.Machine.execLdS4Signed d a f g s
  | .ldG32Signed d a f g => Sys2Proof.Machine.execLdG32Signed d a f g s
  | .stG8 d a f g => Sys2Proof.Machine.execStG8 d a f g s
  | .stG16 d a f g => Sys2Proof.Machine.execStG16 d a f g s
  | .stG32 d a f g => Sys2Proof.Machine.execStG32 d a f g s
  | .stG64 d a f g => Sys2Proof.Machine.execStG64 d a f g s
  | .stG4 d a f g => Sys2Proof.Machine.execStG4 d a f g s
  | .stG128 d a f g => Sys2Proof.Machine.execStG128 d a f g s
  | .stS4 d a f g => Sys2Proof.Machine.execStS4 d a f g s
  | .stS128 d a f g => Sys2Proof.Machine.execStS128 d a f g s
  | .stS8 d a f g => Sys2Proof.Machine.execStS8 d a f g s
  | .stS16 d a f g => Sys2Proof.Machine.execStS16 d a f g s
  | .stS32 d a f g => Sys2Proof.Machine.execStS32 d a f g s
  | .stS64 d a f g => Sys2Proof.Machine.execStS64 d a f g s
  | .tlook d a f g => Sys2Proof.Machine.execTlook d a f g s
  | .tins d a f g => Sys2Proof.Machine.execTins d a f g s
  | .tevict d f g => Sys2Proof.Machine.execTevict d f g s
  | .tinv d a f g => Sys2Proof.Machine.execTinv d a f g s
  | .atomAdd d a f g => Sys2Proof.Machine.execAtomAdd d a f g s
  | .atomMin d a f g => Sys2Proof.Machine.execAtomMin d a f g s
  | .atomMax d a f g => Sys2Proof.Machine.execAtomMax d a f g s
  | .atomExch d a f g => Sys2Proof.Machine.execAtomExch d a f g s
  | .atomAnd d a f g => Sys2Proof.Machine.execAtomAnd d a f g s
  | .atomOr d a f g => Sys2Proof.Machine.execAtomOr d a f g s
  | .atomXor d a f g => Sys2Proof.Machine.execAtomXor d a f g s
  | .cas d a f g => Sys2Proof.Machine.execCas d a f g s
  | .redAdd d a f g => Sys2Proof.Machine.execRedAdd d a f g s
  | .redMin d a f g => Sys2Proof.Machine.execRedMin d a f g s
  | .redMax d a f g => Sys2Proof.Machine.execRedMax d a f g s
  | .redAddF32 d a f g => Sys2Proof.Machine.execRedAddF32 d a f g s
  | .tkget d a f g => Sys2Proof.Machine.execTkget d a f g s
  | .tkwait d a g => Sys2Proof.Machine.execTkwait d a g s
  | .tknext d a f g => Sys2Proof.Machine.execTknext d a f g s
  | .ldS32Signed d a f g => Sys2Proof.Machine.execLdS32Signed d a f g s
  | .gath32 d a f g => Sys2Proof.Machine.execGath32 d a f g s
  | .gath64 d a f g => Sys2Proof.Machine.execGath64 d a f g s
  | .scat32 d a f g => Sys2Proof.Machine.execScat32 d a f g s
  | .scat64 d a f g => Sys2Proof.Machine.execScat64 d a f g s
  | .ldG8Signed d a f g => Sys2Proof.Machine.execLdG8Signed d a f g s
  | .ldG16Signed d a f g => Sys2Proof.Machine.execLdG16Signed d a f g s
  | .ldS8Signed d a f g => Sys2Proof.Machine.execLdS8Signed d a f g s
  | .ldS16Signed d a f g => Sys2Proof.Machine.execLdS16Signed d a f g s
  | .binit x y => Sys2Proof.Machine.execBinit x y s
  | .bexpect x y => Sys2Proof.Machine.execBexpect x y s
  | .barrive x => Sys2Proof.Machine.execBarrive x s
  | .bwait x z => Sys2Proof.Machine.execBwait x z s
  | .btest x z => Sys2Proof.Machine.execBtest x z s
  | .qpush x y => Sys2Proof.Machine.execQpush x y s
  | .qpop x y => Sys2Proof.Machine.execQpop x y s
  | .qtryPush x y z => Sys2Proof.Machine.execQtryPush x y z s
  | .qtryPop x y z => Sys2Proof.Machine.execQtryPop x y z s
  | .lqsend x y => Sys2Proof.Machine.execLqsend x y s
  | .lqrecv x y => Sys2Proof.Machine.execLqrecv x y s
  | .xfset x => Sys2Proof.Machine.execXfset x s
  | .xfwait x => Sys2Proof.Machine.execXfwait x s
  | .bind x y => Sys2Proof.Machine.execBind x y s
  | .unbind y => Sys2Proof.Machine.execUnbind y s
  | .acq x z => Sys2Proof.Machine.execAcq x z s
  | .rel x => Sys2Proof.Machine.execRel x s
  | .launch x => Sys2Proof.Machine.execLaunch x s
  | .tidset x y => Sys2Proof.Machine.execTidset x y s
  | .tidget x y z => Sys2Proof.Machine.execTidget x y z s
  | .tlset x y => Sys2Proof.Machine.execTlset x y s
  | .tlstate x y => Sys2Proof.Machine.execTlstate x y s
  | .copy x y => Sys2Proof.Machine.execCopy x y s
  | .xform x y => Sys2Proof.Machine.execXform x y s
  | .wlpush x y => Sys2Proof.Machine.execWlpush x y s
  | .wlpop x y z => Sys2Proof.Machine.execWlpop x y z s
  | .mma e sh t r => Sys2Proof.Machine.execMma e sh t r s
  | .ldstat x z => Sys2Proof.Machine.execLdstat x z s
  | .aclr x => Sys2Proof.Machine.execAclr x s
  | .commit x => Sys2Proof.Machine.execCommit x s
  | .mwait x => Sys2Proof.Machine.execMwait x s
  | .drainPlain x y z => Sys2Proof.Machine.execDrainPlain x y z s
  | .drainConvert x y z => Sys2Proof.Machine.execDrainConvert x y z s
  | .drainQuantise x y z => Sys2Proof.Machine.execDrainQuantise x y z s
  | .drainPack x y z => Sys2Proof.Machine.execDrainPack x y z s
  | .drainElide x y z => Sys2Proof.Machine.execDrainElide x y z s
  | .rank0 x y z => Sys2Proof.Machine.execRank0 x y z s
  | .rank1 x y z => Sys2Proof.Machine.execRank1 x y z s
  | .selb0 x y z => Sys2Proof.Machine.execSelb0 x y z s
  | .selb1 x y z => Sys2Proof.Machine.execSelb1 x y z s
  | .exc x y z => Sys2Proof.Machine.execExc x y z s
  | .fclose x y z => Sys2Proof.Machine.execFclose x y z s
  | .fopen x y z => Sys2Proof.Machine.execFopen x y z s
  | .encl x y z => Sys2Proof.Machine.execEncl x y z s
  | .sreg x y => Sys2Proof.Machine.execSreg x y s
  | .sunreg x => Sys2Proof.Machine.execSunreg x s
  | .srepack x y => Sys2Proof.Machine.execSrepack x y s
  | .bins x y z => Sys2Proof.Machine.execBins x y z s
  | .bdel x y z => Sys2Proof.Machine.execBdel x y z s
  | .saddr x y z => Sys2Proof.Machine.execSaddr x y z s
  | .bkcmd x => Sys2Proof.Machine.execBkcmd x s
  | .bkstat x y z => Sys2Proof.Machine.execBkstat x y z s
  | .bkcancel y => Sys2Proof.Machine.execBkcancel y s
  | .wtree x y => Sys2Proof.Machine.execWtree x y s
  | .wquery x y => Sys2Proof.Machine.execWquery x y s
  | .wappend x y => Sys2Proof.Machine.execWappend x y s
  | .wstat x y z => Sys2Proof.Machine.execWstat x y z s
  | .dreg x y => Sys2Proof.Machine.execDreg x y s
  | .dunreg x => Sys2Proof.Machine.execDunreg x s
  | .dquery x y z => Sys2Proof.Machine.execDquery x y z s
  | .imx => Sys2Proof.Machine.execImx s
  | .join => Sys2Proof.Machine.execJoin s
  | .nop => Sys2Proof.Machine.execNop s
  | .bkpt => Sys2Proof.Machine.execBkpt s
  | .yield => Sys2Proof.Machine.execYield s
  | .trap => Sys2Proof.Machine.execTrap s
  | .eret => Sys2Proof.Machine.execEret s
  | .pkey => Sys2Proof.Machine.execPkey s
  | .fence => Sys2Proof.Machine.execFence s
  | .trig => Sys2Proof.Machine.execTrig s
  | .phase => Sys2Proof.Machine.execPhase s
  | .swap => Sys2Proof.Machine.execSwap s
  | .powerOn => Sys2Proof.Machine.execPowerOn s
  | .deviceReset => Sys2Proof.Machine.execDeviceReset s
  | .imageFetchDone => Sys2Proof.Machine.execImageFetchDone s
  | .bootServerFailure => Sys2Proof.Machine.execBootServerFailure s
  | .bootRetryWait => Sys2Proof.Machine.execBootRetryWait s
  | .reducedServiceEntry => Sys2Proof.Machine.execReducedServiceEntry s
  | .fullServiceEntry => Sys2Proof.Machine.execFullServiceEntry s
  | .tempSample => Sys2Proof.Machine.execTempSample s
  | .governorWindow => Sys2Proof.Machine.execGovernorWindow s
  | .coreFailure => Sys2Proof.Machine.execCoreFailure s
  | .dramRowFailure => Sys2Proof.Machine.execDramRowFailure s
  | .channelFailure => Sys2Proof.Machine.execChannelFailure s
  | .walkerFailure => Sys2Proof.Machine.execWalkerFailure s
  | .copyEngineFailure => Sys2Proof.Machine.execCopyEngineFailure s
  | .bankSpareExhausted => Sys2Proof.Machine.execBankSpareExhausted s
  | .hostLinkTrain => Sys2Proof.Machine.execHostLinkTrain s
  | .functionLevelReset => Sys2Proof.Machine.execFunctionLevelReset s
  | .pldmSensorRead => Sys2Proof.Machine.execPldmSensorRead s
  | .configStoreWrite => Sys2Proof.Machine.execConfigStoreWrite s
  | .configStoreRead => Sys2Proof.Machine.execConfigStoreRead s
  | .attestationRequest => Sys2Proof.Machine.execAttestationRequest s
  | .deviceResetRequest => Sys2Proof.Machine.execDeviceResetRequest s
  | .unsupportedCommand => Sys2Proof.Machine.execUnsupportedCommand s
  | .write => Sys2Proof.Machine.execWrite s
  | .read => Sys2Proof.Machine.execRead s
  | .data => Sys2Proof.Machine.execData s
  | .atomic => Sys2Proof.Machine.execAtomic s
  | .old => Sys2Proof.Machine.execOld s
  | .reduce => Sys2Proof.Machine.execReduce s
  | .arrive => Sys2Proof.Machine.execArrive s
  | .permit => Sys2Proof.Machine.execPermit s
  | .ack => Sys2Proof.Machine.execAck s
  | .retry => Sys2Proof.Machine.execRetry s
  | .fault => Sys2Proof.Machine.execFault s
  | .digest => Sys2Proof.Machine.execDigest s
  | .order => Sys2Proof.Machine.execOrder s
  | .datagramDrop => Sys2Proof.Machine.execDatagramDrop s
  | .retransmitTimer => Sys2Proof.Machine.execRetransmitTimer s
  | .ackTimer => Sys2Proof.Machine.execAckTimer s
  | .peerTimeout => Sys2Proof.Machine.execPeerTimeout s
  | .retryBackoffTimer => Sys2Proof.Machine.execRetryBackoffTimer s
  | .lockstepPieceClose => Sys2Proof.Machine.execLockstepPieceClose s
  | .lockstepLinkLoss => Sys2Proof.Machine.execLockstepLinkLoss s
  | .bar0Unsupported => Sys2Proof.Machine.execBar0Unsupported s
  | .registerWrite => Sys2Proof.Machine.execRegisterWrite s
  | .xlinvPage => Sys2Proof.Machine.execXlinvPage s
  | .xlinvAll => Sys2Proof.Machine.execXlinvAll s
  | .xlinvDone => Sys2Proof.Machine.execXlinvDone s
  | .qtailDoorbell => Sys2Proof.Machine.execQtailDoorbell s
  | .qctlWrite => Sys2Proof.Machine.execQctlWrite s
  | .cqNop => Sys2Proof.Machine.execCqNop s
  | .cqLaunch => Sys2Proof.Machine.execCqLaunch s
  | .cqSignal => Sys2Proof.Machine.execCqSignal s
  | .signalApply => Sys2Proof.Machine.execSignalApply s
  | .cqWait => Sys2Proof.Machine.execCqWait s
  | .waitRelease => Sys2Proof.Machine.execWaitRelease s
  | .cqEntryRefused => Sys2Proof.Machine.execCqEntryRefused s
  | .eventCounterWrite => Sys2Proof.Machine.execEventCounterWrite s
  | .config => Sys2Proof.Machine.execConfig s
  | .readcfg => Sys2Proof.Machine.execReadcfg s
  | .suspend => Sys2Proof.Machine.execSuspend s
  | .resume => Sys2Proof.Machine.execResume s
  | .interruptLogDelivery => Sys2Proof.Machine.execInterruptLogDelivery s
  | .reset => Sys2Proof.Machine.execReset s
  | .partitionResetDone => Sys2Proof.Machine.execPartitionResetDone s
  | .setwin => Sys2Proof.Machine.execSetwin s
  | .attest => Sys2Proof.Machine.execAttest s
  | .tensor => Sys2Proof.Machine.execTensor s
  | .tidread => Sys2Proof.Machine.execTidread s
  | .syncnew => Sys2Proof.Machine.execSyncnew s
  | .syncfree => Sys2Proof.Machine.execSyncfree s
  | .mbUnknownCommand => Sys2Proof.Machine.execMbUnknownCommand s
  | .mailboxDone => Sys2Proof.Machine.execMailboxDone s
  | .ifptrWrite => Sys2Proof.Machine.execIfptrWrite s
  | .berrClear => Sys2Proof.Machine.execBerrClear s
  | .preemptRequest => Sys2Proof.Machine.execPreemptRequest s
  | .preemptResultTimeout => Sys2Proof.Machine.execPreemptResultTimeout s
  | .preemptSaveDone => Sys2Proof.Machine.execPreemptSaveDone s
  | .restore => Sys2Proof.Machine.execRestore s
  | .sqdbStop => Sys2Proof.Machine.execSqdbStop s
  | .sqdbRead => Sys2Proof.Machine.execSqdbRead s
  | .sqdbWrite => Sys2Proof.Machine.execSqdbWrite s
  | .spanPlace => Sys2Proof.Machine.execSpanPlace s
  | .placementWaitTimer => Sys2Proof.Machine.execPlacementWaitTimer s
  | .dependantStart => Sys2Proof.Machine.execDependantStart s
  | .groupRetire => Sys2Proof.Machine.execGroupRetire s
  | .crewRetire => Sys2Proof.Machine.execCrewRetire s
  | .taskComplete => Sys2Proof.Machine.execTaskComplete s
  | .promotion => Sys2Proof.Machine.execPromotion s
  | .yieldExpiry => Sys2Proof.Machine.execYieldExpiry s
  | .joinRelease => Sys2Proof.Machine.execJoinRelease s
  | .convergencePark => Sys2Proof.Machine.execConvergencePark s
  | .frontierRefillStart => Sys2Proof.Machine.execFrontierRefillStart s
  | .frontierRefillDone => Sys2Proof.Machine.execFrontierRefillDone s
  | .deadPartyEscalation => Sys2Proof.Machine.execDeadPartyEscalation s
  | .phaseRelease => Sys2Proof.Machine.execPhaseRelease s
  | .asyncTrapPark => Sys2Proof.Machine.execAsyncTrapPark s
  | .trapRecordEnqueue => Sys2Proof.Machine.execTrapRecordEnqueue s
  | .handlerEntry => Sys2Proof.Machine.execHandlerEntry s
  | .trapEscalation => Sys2Proof.Machine.execTrapEscalation s
  | .resultWriteback => Sys2Proof.Machine.execResultWriteback s
  | .writeDrain => Sys2Proof.Machine.execWriteDrain s
  | .readPerform => Sys2Proof.Machine.execReadPerform s
  | .atomicPerform => Sys2Proof.Machine.execAtomicPerform s
  | .tknextPerform => Sys2Proof.Machine.execTknextPerform s
  | .tkwaitPoll => Sys2Proof.Machine.execTkwaitPoll s
  | .pageWalkDone => Sys2Proof.Machine.execPageWalkDone s
  | .eddyWindowExpiry => Sys2Proof.Machine.execEddyWindowExpiry s
  | .barriveCount => Sys2Proof.Machine.execBarriveCount s
  | .qpushPlace => Sys2Proof.Machine.execQpushPlace s
  | .triggerRecord => Sys2Proof.Machine.execTriggerRecord s
  | .wlpushEnter => Sys2Proof.Machine.execWlpushEnter s
  | .slackwaterReport => Sys2Proof.Machine.execSlackwaterReport s
  | .beagleAudit => Sys2Proof.Machine.execBeagleAudit s
  | .fenceComplete => Sys2Proof.Machine.execFenceComplete s
  | .mwaitComplete => Sys2Proof.Machine.execMwaitComplete s
  | .copyAccept => Sys2Proof.Machine.execCopyAccept s
  | .copyStart => Sys2Proof.Machine.execCopyStart s
  | .copyRun => Sys2Proof.Machine.execCopyRun s
  | .pageMigrationDone => Sys2Proof.Machine.execPageMigrationDone s
  | .copyResume => Sys2Proof.Machine.execCopyResume s
  | .copyFail => Sys2Proof.Machine.execCopyFail s
  | .copyCount => Sys2Proof.Machine.execCopyCount s
  | .seqLdstat => Sys2Proof.Machine.execSeqLdstat s
  | .seqSwap => Sys2Proof.Machine.execSeqSwap s
  | .seqMmaStep => Sys2Proof.Machine.execSeqMmaStep s
  | .seqDrain => Sys2Proof.Machine.execSeqDrain s
  | .seqAclr => Sys2Proof.Machine.execSeqAclr s
  | .seqEntryEnd => Sys2Proof.Machine.execSeqEntryEnd s
  | .bankAccept => Sys2Proof.Machine.execBankAccept s
  | .bankStep => Sys2Proof.Machine.execBankStep s
  | .bankResume => Sys2Proof.Machine.execBankResume s
  | .bankCount => Sys2Proof.Machine.execBankCount s
  | .sregDone => Sys2Proof.Machine.execSregDone s
  | .sunregDone => Sys2Proof.Machine.execSunregDone s
  | .srepackAccept => Sys2Proof.Machine.execSrepackAccept s
  | .srepackDone => Sys2Proof.Machine.execSrepackDone s
  | .succinctQueryPerform => Sys2Proof.Machine.execSuccinctQueryPerform s
  | .saddrPerform => Sys2Proof.Machine.execSaddrPerform s
  | .binsPerform => Sys2Proof.Machine.execBinsPerform s
  | .bdelPerform => Sys2Proof.Machine.execBdelPerform s
  | .deltaFold => Sys2Proof.Machine.execDeltaFold s
  | .dkstatSample => Sys2Proof.Machine.execDkstatSample s
  | .wtreeBindDone => Sys2Proof.Machine.execWtreeBindDone s
  | .wtreeUnbindDone => Sys2Proof.Machine.execWtreeUnbindDone s
  | .wqueryAccept => Sys2Proof.Machine.execWqueryAccept s
  | .walkerVisit => Sys2Proof.Machine.execWalkerVisit s
  | .wquerySummary => Sys2Proof.Machine.execWquerySummary s
  | .wappendStep => Sys2Proof.Machine.execWappendStep s
  | .dregDone => Sys2Proof.Machine.execDregDone s
  | .dunregDone => Sys2Proof.Machine.execDunregDone s
  | .derivedRecompute => Sys2Proof.Machine.execDerivedRecompute s
  | .sqdbResume => Sys2Proof.Machine.execSqdbResume s
  | .lockstepMateReset => Sys2Proof.Machine.execLockstepMateReset s
  | .hostMemoryWrite => Sys2Proof.Machine.execHostMemoryWrite s
  | .priorityFlowControl => Sys2Proof.Machine.execPriorityFlowControl s

end Sys2Proof.Machine
end

