-- ==== Sys2Proof/Machine/Cycle.lean ====
section
/-! DEFINITION. A cycle: which stream issues next and what its issue does around the words (R105, R112, R120 to R122), how a chain runs
(R77, R306), and what the advance of the clock brings (R108, R115, R120, R221). -/

namespace Sys2Proof.Machine

/-! ### What a stream would do now -/

/-- What the issuing stream does at its next chance in this cycle. -/
inductive Plan where
  /-- It is not eligible. -/
  | hold
  /-- Its next word is not mapped to package memory. -/
  | unmapped (packet : Nat)
  /-- Its chain raises `ILLEGAL_OP` by its form (R76, R78, R91). -/
  | illegal
  /-- Its sequential flow has passed the last word of its stream (R185). -/
  | offEnd
  /-- A waiting word enters its arrival (R113): its context and the word. -/
  | attend (c : State) (i : Instr)
  /-- The chain issues: its words and their contexts. -/
  | run (l : List (State × Word × Instr))

/-- Conditions of the LSU pipe for a word: no TLB miss, and room in the write buffer (R221, R222). -/
def State.lsuFree (c : State) (w : Word) : Bool :=
  (c.missPages w).isEmpty && c.me.bufferUsed + c.bufferNeed w ≤ 64

/-- Walker commands of the crew that have been issued and have not ended (R385). -/
def State.walkerCommands (c : State) : Nat :=
  (c.queries.filter (fun k => k.crew == c.crew.id)).length +
    (c.agenda.filter (fun x => x.op == .wappendStep && x.arg.r.crew == c.crew.id)).length

/-- The descriptor a word reads in its share: its offset and length. -/
def State.descRun (c : State) (i : Instr) : Option (Nat × Nat) :=
  match i with
  | .tidset _ y => some (bits (c.uni64 y) 31 0, 64)
  | .copy x _ | .xform x _ => some (bits (c.uni64 x) 31 0, 64)
  | .launch x => some (bits (c.uni64 x) 31 0, 192)
  | .bkcmd x | .wquery x _ | .dreg x _ => some (bits (c.uni64 x) 31 0, 32)
  | _ => none

/-- The steward's earlier writes to the descriptor of a word are not all at hand: runs of an `LDPF` are under way (R156, R227), or for
`BKCMD` and `WQUERY` any has not drained (R339, R385). -/
def State.descWaits (c : State) (i : Instr) : Bool :=
  match c.descRun i with
  | none => false
  | some (off, n) =>
    let ws := match i with | .bkcmd _ | .wquery _ _ => c.writesOf c.self c.crew.part | _ => c.directWrites c.self
    c.isSteward && ws.any (fun w => w.touches (c.crew.shareHome + off) n)

/-- The engine of a word takes no more (R112): 16 copies of the crew are waiting or running (R269), 16 walker commands of it have not ended
(R385), the matrix engine holds it, or its descriptor is not all written. -/
def State.engineHolds (c : State) (i : Instr) : Bool :=
  c.descWaits i ||
  match i with
  | .copy _ _ | .xform _ _ => 16 ≤ (c.copies.filter (fun k => k.crew == c.crew.id)).length
  | .wquery _ _ | .wappend _ _ => 16 ≤ c.walkerCommands
  | _ => c.matrixHolds i

/-- What the issuing stream does now (R112 to R119). -/
def State.plan (s : State) : Plan :=
  if !s.live then .hold
  else if !s.pcValid s.pc0 then (if s.headFree 0#32 then .offEnd else .hold)
  else match s.headChain s.crew s.me with
    | none => .unmapped s.pc0.packet
    | some ws =>
      if !s.headFree (ws.headD 0) then .hold
      else match decodeChain ws with
        | none => .illegal
        | some l =>
          let cs := s.contexts l
          if !s.pipesFree ws || !s.flagsRoom ws || cs.any (fun c => !c.1.lsuFree c.2.1 || c.1.engineHolds c.2.2) then .hold
          else if cs.any (fun c => c.1.waits c.2.2) then
            (match cs.find? (fun c => arrivesAt c.2.2 && c.1.waits c.2.2) with
              | some c => if s.me.arrived.isSome && s.me.arrived == s.me.head then .hold else .attend c.1 c.2.2
              | none => .hold)
          else .run cs

/-- The plan issues something. -/
def Plan.issues : Plan → Bool
  | .run _ | .illegal | .offEnd | .unmapped _ => true
  | _ => false

/-- The plan enters an arrival. -/
def Plan.attends : Plan → Bool
  | .attend _ _ => true
  | _ => false

/-! ### The pick (R120 to R122) -/

/-- What the pick compares: the stream, its port, promotion, level, its crew's placement, group, and slot order. -/
structure Cand where
  r : Ref
  port : Nat
  promoted : Option Nat
  level : Nat
  placed : Nat
  sid : Nat
  place : Nat
  deriving DecidableEq, Repr

/-- R120: promoted first, earliest promotion and then lower slot; then by level, then by age. DESIGN CHOICE: the slots of a core are counted
by crew slot and then by stream number, and crews placed in one cycle are equally old, so that the stream number (GROUPID) decides between
them, and last the order in which the crews were placed (log entry 37). -/
def Cand.before (a b : Cand) : Bool :=
  match a.promoted, b.promoted with
  | some x, some y => x < y || (x == y && a.place < b.place)
  | some _, none => true
  | none, some _ => false
  | none, none => a.level > b.level || (a.level == b.level && (a.placed < b.placed || (a.placed == b.placed && a.sid < b.sid)))

/-- Every stream of every crew. -/
def State.refs (s : State) : List Ref :=
  s.allCrews.flatMap (fun c => (s.streamsOf c).map (fun t => ⟨c.id, t.sid⟩))

/-- A stream as a candidate. -/
def State.cand (s : State) : Cand :=
  { r := s.self, port := s.myPort, promoted := s.me.promoted, level := s.me.level, placed := s.crew.placedAt, sid := s.me.sid,
    place := 16 * s.crew.slot + s.me.sid }

/-- The pick of one port: by R120, or in deterministic mode the first in slot order after the last that issued (R122). -/
def pickOf (det : Bool) (last : Nat) (l : List Cand) : Option Cand :=
  if det then
    let sorted := sortBy (fun a b => a.place < b.place) l
    match sorted.find? (fun c => last < c.place) with
    | some c => some c
    | none => sorted.head?
  else (sortBy Cand.before l).head?

/-- The next stream that issues in this cycle: a stream that enters an arrival, else the pick of the lowest port not yet served that
has a candidate. DESIGN CHOICE: before any stream of a port has issued, the rotation of R122 stands as if place 0 had (log entry 37). -/
def State.nextIssue (s : State) : Option Ref :=
  match s.refs.find? (fun r => (s.focus r).plan.attends) with
  | some r => some r
  | none =>
    let cs := (s.refs.map (fun r => s.focus r)).filter (fun f => s.port ≤ f.myPort && f.plan.issues)
    match leastBy Cand.port (cs.map State.cand) with
    | none => none
    | some c =>
      let det := ((s.focus c.r).myPart).conf.det
      (pickOf det ((tget (0, 0) s.lastIssued c.port).1) ((cs.map State.cand).filter (fun x => x.port == c.port))).map Cand.r

/-! ### Running a chain (R77, R306) -/

/-- One step after another. -/
def andThen (o : Host.Outcome State Fault Refusal) (f : State → Host.Outcome State Fault Refusal) : Host.Outcome State Fault Refusal :=
  match o with
  | .next s => f s
  | .fault r => .fault r
  | .refused r => .refused r

/-- A word run in a context of the chain on another state. -/
def runIn (ex : Instr → State → Host.Outcome State Fault Refusal) (c : State × Word × Instr) (skip : Word) (s : State) :
    Host.Outcome State Fault Refusal :=
  ex c.2.2 { s with ctx := { c.1.ctx with skip := skip } }

/-- What a word of a chain parks (R305, R306): the failed lanes of the head with cause, code and address, lowest lane first. -/
abbrev Parking := List (Nat × Nat × Nat × Quad)

/-- The lanes of the head that a word parks when it runs alone, as its trap records tell them. -/
def parks (ex : Instr → State → Host.Outcome State Fault Refusal) (c : State × Word × Instr) : Parking :=
  match ex c.2.2 c.1 with
  | .next t => (t.crew.recWait.drop c.1.crew.recWait.length).flatMap (fun r =>
      (if r.src then [0] else lanesOf (r.mask &&& c.1.headMask)).map (fun l => (l, r.cause, r.code, r.addr)))
  | _ => []

/-- `TRAP` and `BKPT`, which stand their lanes after themselves (R211). -/
def isSoftTrap (i : Instr) : Bool := i == .trap || i == .bkpt

/-- The lanes a chain parks, each for the first of its words that traps it, rising (R306, log entry 35). -/
def firstParks (lanes : List Nat) (ps : List Parking) : Parking :=
  lanes.filterMap (fun l => ps.findSome? (fun p => p.find? (fun f => f.1 == l)))

/-- A word whose writes the other words of its chain must not see: it runs after them (R77). -/
def runsLate (i : Instr) : Bool :=
  match i with
  | .swr _ _ | .pkey | .bwait _ _ => true
  | _ => false

/-- The order in which the words of a chain run: those whose writes are later, then the late ones, then a BR word. -/
def chainOrder (l : List (State × Word × Instr)) : List (State × Word × Instr) :=
  l.filter (fun c => !runsLate c.2.2 && pipeOf c.2.1 != .br) ++ l.filter (fun c => runsLate c.2.2) ++
    l.filter (fun c => !runsLate c.2.2 && pipeOf c.2.1 == .br)

/-- A chain of several words (R77, R306): `ILLEGAL_OP` of one word stops them all. The lanes that words park take part in no word: one
entry and one record for each cause, at the chain's first word, and for a `TRAP` or `BKPT` at the end of the chain as R211 states. The
rest of the head runs every word. -/
def runMany (ex : Instr → State → Host.Outcome State Fault Refusal) (s0 : State) (l : List (State × Word × Instr)) :
    Host.Outcome State Fault Refusal :=
  let s : State := { s0 with ctx := { s0.ctx with len := l.length } }
  let hardWords := (l.filter (fun c => !isSoftTrap c.2.2)).map (parks ex)
  if hardWords.any (fun p => p.any (fun f => f.2.1 == 0x01)) then .next s.illegal
  else
    let hard := firstParks s.headLanes hardWords
    let bad := maskOf (hard.map Prod.fst)
    let s1 := s.trapFailed hard
    if bad = s.headMask then .next s1
    else match l.find? (fun c => isSoftTrap c.2.2) with
      | some c => runIn ex c bad s1
      | none => (chainOrder l).foldl (fun o c => andThen o (runIn ex c bad)) (.next s1)

/-- A chain. -/
def runChain (ex : Instr → State → Host.Outcome State Fault Refusal) (s : State) (l : List (State × Word × Instr)) :
    Host.Outcome State Fault Refusal :=
  match l with
  | [c] => ex c.2.2 c.1
  | l => runMany ex s l

/-- The lanes that stood at the head and still stand there go on at the word after the chain (R105, R107). -/
def Stream.advance (t : Stream) (pc0 : Pc) (prio n : Nat) : Stream :=
  { t with frontier := normFrontier (t.frontier.map (fun e =>
      if e.st = .ready && e.pc == pc0 && e.prio == prio then { e with pc := pc0.add n } else e)) }

/-- Each pipe of the chain is taken for its words' issue intervals (R112, R183). -/
def takePipes (port clock : Nat) (free : Table Nat) (l : List (Word × Instr)) : Table Nat :=
  l.foldl (fun f x => if pipeOf x.1 = .none then f
    else tset 0 f (8 * port + (pipeOf x.1).num) (clock + intervalOf x.1 x.2)) free

/-- The words of an issue that count for `CLOCK` (R207): none of a chain that trapped at issue, in whatever lanes. -/
def State.wordsCounted (s t : State) (ws : List (Word × Instr)) : Nat :=
  if s.crew.recWait.length < t.crew.recWait.length then 0 else ws.length

/-- What issue leaves beside the words' effects: the port and pipes are taken, the stream has issued in this cycle, its promotion is
lost, its marker stands (R112, R119, R120), and its head goes on. `ws` are the words of the chain; `s` is the state before. -/
def State.issued (s : State) (ws : List (Word × Instr)) (t : State) : State :=
  let moves := ws.any (fun x => movesPc x.2)
  let me1 : Stream := { t.me with
    lastIssue := some s.clock
    issued := t.me.issued + s.wordsCounted t ws
    promoted := none
    eligFor := 0
    arrived := none
    ymark := ((ws.head?).map (fun x => x.1.getLsbD 30)).getD false }
  { t with
    me := if moves then me1 else me1.advance s.pc0 s.prio0 ws.length
    pipeFree := takePipes s.myPort s.clock t.pipeFree ws
    lastIssued := tset (0, 0) t.lastIssued s.myPort (16 * s.crew.slot + s.me.sid, 1)
    port := s.myPort + 1
    ctx := Ctx.blank
    tries := t.agenda.length }

/-- The words of the head's chain, for an issue that runs none of them. -/
def State.headWords (s : State) : List (Word × Instr) :=
  match s.headChain s.crew s.me with
  | some ws => ws.map (fun w => (w, .nop))
  | none => []

/-- The issuing stream has entered its arrival at its head (R113), with those of its lanes that still stand there; `s` is the state before. -/
def State.attended (s t : State) : State :=
  let here := match s.me.head, t.me.head with | some e, some x => e.pc == x.pc && e.prio == x.prio | _, _ => false
  { t with me := { t.me with arrived := if here then t.me.head else none }, ctx := Ctx.blank, tries := t.agenda.length }

/-! ### The advance of the clock -/

/-- What takes effect from a new cycle on: entries released or resumed in the one before (R109, R215), and a new level (R120). -/
def Stream.turnOver (t : Stream) : Stream :=
  { t with
    level := t.newLevel.getD t.level
    newLevel := none
    frontier := if t.frontier.any (fun e => e.st == .resuming) then normFrontier (t.frontier.map Entry.wake) else t.frontier }

/-- Writes that bar no writeback any more are forgotten: those of earlier cycles whose chain has no result under way (R77, R115). -/
def Stream.forget (t : Stream) : Stream := { t with wrote := t.wrote.filter (fun e => t.pend.any (fun p => p.iss == e.issue)) }

/-- Fixed-latency results that are due write back (R115). -/
def Stream.due (t : Stream) (clock : Nat) : Stream :=
  (t.pend.filter (fun p => match p.due with | some d => d ≤ clock | none => false)).foldl (fun t p => t.writeback clock p) t.forget

/-- Delayed effects that are due (R213 to R215, R240). -/
def State.runLate (s : State) (crew : Nat) (l : Late) : State :=
  match l.op with
  | .grd => s.lateGrd crew l
  | .gwr => s.lateGwr crew l
  | .gresume => s.lateResume crew l
  | .gkill => s.lateKill crew l
  | .binit | .bexpect => s.lateBar crew l

/-- The delayed effects of one crew that are due, in the order of their words. -/
def State.lateOf (s : State) (c : Crew) : State :=
  let now := c.late.filter (fun l => l.due ≤ s.clock)
  let s1 := s.updCrew c.id (fun c => { c with late := c.late.filter (fun l => s.clock < l.due) })
  now.foldl (fun s2 l => s2.runLate c.id l) s1

/-- A device step is on the agenda for a stream. -/
def State.asked (s : State) (op : Instr) (r : Ref) : Bool := s.agenda.any (fun e => e.op == op && e.arg.r == r)

/-- Asks for a device step of a stream that is not on the agenda yet. -/
def State.ask (s : State) (op : Instr) (r : Ref) : State := if s.asked op r then s else s.push op { r := r }

/-- Page walks for the pages that hold a stream's chain (R221). -/
def State.askWalks (s : State) (f : State) : State :=
  if !f.live then s
  else match (f.headChain f.crew f.me).bind (fun ws => if f.headFree (ws.headD 0) then decodeChain ws else none) with
    | none => s
    | some l =>
      ((f.contexts l).flatMap (fun c => c.1.missPages c.2.1)).foldl (fun s1 p =>
        let a : EvArg := { a := f.crew.core, b := f.crew.part, c := p }
        if s1.agenda.any (fun e => e.op == .pageWalkDone && e.arg == a) then s1 else s1.push .pageWalkDone a) s

/-- What the new cycle asks for on behalf of one stream: page walks, refills, the parking of R110, an escalation of R103, its count of
eligible cycles and its promotion after 64 of them (R108, R120, R221). -/
def State.newCycle (s : State) (r : Ref) : State :=
  let f := s.focus r
  let ok := f.plan.issues
  let n := if ok then f.me.eligFor + 1 else 0
  let s1 := s.updStream r (fun t => { t with eligFor := n, promoted := if ok then t.promoted else none })
  let s2 := if n = 65 then s1.ask .promotion r else s1
  let s3 := if f.me.canRefill then s2.ask .frontierRefillStart r else s2
  let s4 := if f.me.converges then s3.ask .convergencePark r else s3
  let s5 := if f.deadWait then s4.ask .deadPartyEscalation r else s4
  s5.askWalks f

/-- The clock advances by one cycle (R115, R120, R256, R375). DESIGN CHOICE: the writebacks that are due come before the effects of `GWR`
and `GRD` of the same cycle, so that a `GWR` prevails over a writeback of the object it writes (R214, log entry 69). -/
def State.tick (s : State) : State :=
  let s1 : State := { s.unfocus with clock := s.clock + 1, port := 0 }
  let s2 : State := { s1 with crews := s1.crews.map (fun c => { c with streams := c.streams.map (fun t => t.turnOver.due s1.clock) }) }
  let s3 := s2.crews.foldl (fun a c => a.lateOf c) s2
  let s4 := s3.refs.foldl (fun a r => a.newCycle r) s3
  let s5 := if s4.clock % 2 ^ 20 = 0 then s4.push .beagleAudit {} else s4
  let s6 := if s5.clock % 3600 = 0 then
      (s5.push .governorWindow {}).pushAll .dkstatSample ((s5.parts.map Prod.fst).map (fun p => { a := p }))
    else s5
  { s6 with tries := s6.agenda.length }

/-! ### One step -/

/-- The place in the agenda that the next step takes; none for a step of the cores: the next of `picks` decides, and after the last
of them the device steps that stood there at the last issue or cycle and are due come first, in order (log entry 3). -/
def State.turn (s : State) : Option Nat :=
  match s.picks with
  | 0 :: _ => none
  | (k + 1) :: _ => some k
  | [] => (s.agenda.take s.tries).findIdx? (fun e => e.due ≤ s.clock)

/-- The state in which device step `k` of the agenda is taken. -/
def State.taking (s : State) (k : Nat) (e : Event) : State :=
  { s with
    picks := s.picks.drop 1
    tries := s.tries - 1
    agenda := s.agenda.eraseIdx k
    ctx := { Ctx.blank with ev := e.arg, wait := e.wait, since := e.due } }

/-- The step of the cores: the next stream issues its chain, or enters its arrival at a waiting word; where none does, the cycle
ends. A group with an asynchronous trap parks in place of its issue (R307). -/
def issueStep (ex : Instr → State → Host.Outcome State Fault Refusal) (s0 : State) : Host.Outcome State Fault Refusal :=
  let s : State := { s0 with picks := s0.picks.drop 1, ctx := Ctx.blank }
  match s.nextIssue with
  | none => .next s.tick
  | some r =>
    let f := s.focus r
    let park := andThen (ex .asyncTrapPark { f with ctx := { f.ctx with ev := { r := f.self, a := 1 } } })
      (fun t => .next (f.issued [] t))
    match f.plan with
    | .hold => .next s.tick
    | .unmapped p => .fault (.codeUnmapped p)
    | .attend c i => andThen (ex i c) (fun t => .next (f.attended t))
    | .illegal =>
      if f.me.asyncs ≠ [] then park
      else
        let ws := f.headWords
        .next (f.issued ws ({ f with ctx := { f.ctx with len := ws.length } }).illegal)
    | .offEnd =>
      if f.me.asyncs ≠ [] then park
      else .next (f.issued [] ({ f with ctx := { f.ctx with len := 0 } }.trapHead 0x03 0 (zext f.here)))
    | .run l =>
      if f.me.asyncs ≠ [] then park
      else andThen (runChain ex f l) (fun t => .next (f.issued (l.map (fun c => (c.2.1, c.2.2))) t))

end Sys2Proof.Machine
end

