-- ==== Sys2Proof/Machine/Load.lean ====
section
/-! DEFINITION. A word placed where it issues next, for `State.withFetchWord`. This machine does not fetch from reset: the control complex
boots, a partition is configured, a host queue launches a kernel, and a crew is placed (R24 to R28, R320, R330, R333, R95; log entry
21). `State.loaded` stands for all of that: it sets up partition 0 with one page of memory, a task of one crew with one group on
core 0, and the word at the head of the steward, or of the group where the word is no steward's. -/

namespace Sys2Proof.Machine

/-- Words that only a steward may issue. -/
def stewardWord (i : Instr) : Bool :=
  match i with
  | .grd _ _ | .gwr _ _ | .gresume _ | .gkill _ | .eret | .phase | .launch _ | .bind _ _ | .unbind _ | .tidset _ _ | .tlset _ _
  | .copy _ _ | .xform _ _ | .bkcmd _ | .bkcancel _ | .sreg _ _ | .sunreg _ | .srepack _ _ | .wtree _ _ | .wquery _ _ | .wappend _ _
  | .dreg _ _ | .dunreg _ => true
  | _ => false

/-- The five tables of the one mapped page: virtual addresses 0 to 65535 at home 0, readable and writable, key 0 (R316, R317). -/
def loadTables : List (Nat × Nat) :=
  [(65536, 2 ^ 63 + 69632), (69632, 2 ^ 63 + 73728), (73728, 2 ^ 63 + 77824), (77824, 2 ^ 63 + 81920),
   (81920, 2 ^ 63 + 2 ^ 62 + 2 ^ 58 + 2 ^ 57 + 2 ^ 56)]

/-- The kernel whose code is the one packet at virtual address 4096. -/
def loadKernel : Kernel :=
  { Kernel.blank with
    spkts := 16
    gpkts := 16
    scode := 4096
    gcode := 4096
    stages := [0x08000000#32] }

/-- The task of the loaded crew; its Slackwater has reported, so that a `WLPOP` completes. -/
def loadTask (id : Nat) (i : Option Instr) : Task :=
  { mkTask id 1 0 loadKernel ⟨1, 1, 1, 2 ^ 16, [1]⟩ [] 0#64 none none false none with
    placed := 1
    quiet := match i with | some (.wlpop _ _ _) => true | _ => false }

/-- What a waiting word waits for (R113) has happened. -/
def Crew.serve (c : Crew) (clock : Nat) (i : Option Instr) : Crew :=
  match i with
  | some (.qpop x _) => c.setQueue x.toNat { TileQueue.blank with allow := 31, handles := [0] }
  | some (.lqrecv x _) => { c with lqs := [(x.toNat, ⟨[(0#64, clock - 4)], 0, []⟩)] }
  | some (.xfwait x) => { c with flags := [(x.toNat, some (clock - 2, clock - 2))] }
  | some .phase => { c with phaseGo := true }
  | _ => c

/-- The state in which the word at the head of a stream of the loaded crew issues next. -/
def State.loaded (s : State) (w : Word) : State :=
  let i := (decodeWord w).map Prod.snd
  let st := match i with | some i => stewardWord i | none => false
  let clock := s.clock + 64
  let t := loadTask s.nextId i
  let c := freshCrew t (s.nextId + 1) 0 0 0 0 0 0
  let gone (x : Stream) : Stream := { x with frontier := [], expected := 0#32, exited := x.full, retired := true }
  let ready (x : Stream) : Stream := { x with
    parity := 0xFFFFFFFFFFFFFFFF#64
    tkServed := match i with | some (.tkwait _ _ _) => true | _ => false }
  let c1 : Crew := (c.serve clock i)
  let c2 : Crew := { c1 with streams := c1.streams.map (fun x => if (x.sid == 0) == st then ready x else gone x) }
  let q : Part := { s.part 0 with
    configured := true
    suspended := false
    halted := false
    resetting := false
    conf := { (s.part 0).conf with ptroot := 65536#64, clusters := 1#32 } }
  { s.unfocus with
    clock := clock
    port := 0
    agenda := []
    picks := []
    tries := 0
    pipeFree := []
    nextId := s.nextId + 2
    tasks := s.tasks ++ [t]
    crews := [c2]
    parts := tset Part.blank s.parts 0 q
    dev := { s.dev with level := 2, trained := List.range 12 }
    tlb1 := [⟨0, 0, 0, 65536, BitVec.ofNat 64 (2 ^ 63 + 2 ^ 62 + 2 ^ 58 + 2 ^ 57 + 2 ^ 56)⟩]
    mem := loadTables.foldl (fun m x => m.put x.1 (leBytes 8 x.2)) (s.mem.put 4096 (leBytes 12 w.toNat)) }

end Sys2Proof.Machine
end

