-- ==== Sys2Proof/Machine/Step.lean ====
section
/-! DEFINITION. One step of the machine: a device step of the agenda, or a step of the cores. What a step does is said in
Machine/Cycle.lean and by the meanings. -/

namespace Sys2Proof.Machine

/-- One step: the device step whose turn it is, or the issue of the next chain, or the end of the cycle. -/
def step (s : State) : Host.Outcome State Fault Refusal :=
  match s.turn.bind (fun k => (s.agenda[k]?).map (fun e => (k, e))) with
  | some x => exec x.2.op (s.taking x.1 x.2)
  | none => issueStep exec s

/-- The state with an instruction placed where the next step issues it (Machine/Load.lean); every word of the table has 32 bits. -/
def State.withFetchWord (s : State) (nbits w : Nat) : State := s.loaded (BitVec.ofNat 32 (w % 2 ^ min nbits 32))

end Sys2Proof.Machine
end

