-- ==== Sys2Proof/Safety.lean ====
section
/-! DEFINITION. What claims about runs are stated in: the invariant every step keeps, and what a safe run is. -/

namespace Sys2Proof.Machine

/-- The invariant: memory stands in its one canonical form, so that equal memories are equal data. -/
def State.Inv (s : State) : Prop := s.mem.wf = true

/-- A step goes on. -/
def State.Goes (s : State) : Prop := ∃ t, step s = .next t

/-- A run of `n` steps is safe when each of them goes on: no fault and no refusal. -/
def State.SafeFor : Nat → State → Prop
  | 0, _ => True
  | n + 1, s => ∃ t, step s = .next t ∧ t.SafeFor n

/-! ### Where lanes stand (R104 to R107) -/

/-- What an entry says of the lanes in it: PC, priority and state. -/
def Entry.place (e : Entry) : Pc × Nat × EntrySt := (e.pc, e.prio, e.st)

/-- Where a lane stands: none for a lane in no entry, one that has exited. -/
def Stream.place (t : Stream) (lane : Nat) : Option (Pc × Nat × EntrySt) := (t.entryOf lane).map Entry.place

/-- Each lane is in at most one entry (R104). -/
def Apart (l : List Entry) : Prop := l.Pairwise (fun a b => a.mask &&& b.mask = 0#32)

/-- No two ready entries have one PC and one priority (R106). -/
def Merged (l : List Entry) : Prop := l.Pairwise (fun a b => ¬(a.st = .ready ∧ b.st = .ready ∧ a.pc = b.pc ∧ a.prio = b.prio))

/-- Entries stand in the order of R105. -/
def Ordered (l : List Entry) : Prop := l.Pairwise (fun a b => b.before a = false)

/-- A frontier as R104 to R108 leave it: lanes apart, no entry empty, in order, ready entries merged. -/
structure FrontierOk (l : List Entry) : Prop where
  apart : Apart l
  full : ∀ e ∈ l, e.mask ≠ 0#32
  ordered : Ordered l
  merged : Merged l

/-! ### What claims about words say -/

/-- The part of a header's number that the word of an instruction has room for (R78, R82, R167). -/
def keptImm (imm : BitVec 19) (i : Instr) : BitVec 19 :=
  match i with
  | .imx => imm
  | .bkpt | .trap => BitVec.ofNat 19 (imm.toNat % 256)
  | .pkey => BitVec.ofNat 19 (imm.toNat % 128)
  | .fence => BitVec.ofNat 19 (imm.toNat % 8)
  | _ => 0#19

/-- The word raises `ILLEGAL_OP` (R91). -/
def IllegalIn (i : Instr) (s : State) : Prop := exec i s = .next s.illegal

/-- `t` is `s` with one result more under way: nothing else has changed, in any stream, in memory or in the device. -/
def State.Posts (s t : State) (p : Pend) : Prop :=
  t = { s with nextId := s.nextId + 1, me := { s.me with pend := s.me.pend ++ [p] } }

/-- What the writeback of `ws` does to a stream: register `d` of width `w` takes the value of each lane of `ls` (of the one lane, in
a steward); no other register, lane or predicate changes, and nothing else of the stream. -/
structure Stream.TakesReg (t : Stream) (ws : List RegWrite) (w d : Nat) (ls : List Nat) (val : Nat → Quad) : Prop where
  rest : t.writes ws = { t with v := (t.writes ws).v, k := (t.writes ws).k }
  lane : t.sid ≠ 0 → ∀ l ∈ ls, (t.writes ws).rd w d l = val l
  steward : t.sid = 0 → ∀ l, ls = [l] → (t.writes ws).rd w d l = val l
  frameV : ∀ r l, l < 32 → (r ≠ d ∧ (w = 64 → r ≠ d + 1)) ∨ l ∉ ls → (t.writes ws).rdV r l = t.rdV r l
  frameK : ∀ r, r ≠ d ∨ ls = [] → (t.writes ws).rdK r = t.rdK r

/-- What the writeback of `ws` does to a stream: predicate `p` takes the value of each lane of `ls`; no other predicate or lane changes,
no register, and nothing else of the stream. -/
structure Stream.TakesPred (t : Stream) (ws : List RegWrite) (p : Nat) (ls : List Nat) (val : Nat → Bool) : Prop where
  rest : t.writes ws = { t with p := (t.writes ws).p }
  lane : ∀ l ∈ ls, (t.writes ws).rdP p l = val l
  frame : ∀ r l, l < 32 → r ≠ p ∨ l ∉ ls → (t.writes ws).rdP r l = t.rdP r l

/-- The word completes by posting one result, without a flag, that is due `lat` cycles after its issue and writes `val` into register `d`. -/
def GivesReg (i : Instr) (s : State) (lat w : Nat) (d : BitVec 6) (ls : List Nat) (val : Nat → Quad) : Prop :=
  ∃ t p, exec i s = .next t ∧ s.Posts t p ∧ p.due = some (s.clock + lat) ∧ p.flag = none ∧
    s.me.TakesReg p.writes w d.toNat ls val

/-- The same for a result that writes `val` into predicate `pd`. -/
def GivesPred (i : Instr) (s : State) (lat : Nat) (pd : BitVec 3) (ls : List Nat) (val : Nat → Bool) : Prop :=
  ∃ t p, exec i s = .next t ∧ s.Posts t p ∧ p.due = some (s.clock + lat) ∧ p.flag = none ∧
    s.me.TakesPred p.writes pd.toNat ls val

/-- The natural width of the issuing stream, and the other one (R75). -/
def State.natW (s : State) : Nat := if s.me.sid = 0 then 64 else 32
def State.otherW (s : State) : Nat := if s.me.sid = 0 then 32 else 64

/-- A number as a register value of width `w`: reduced modulo 2^w, zero-extended (R184). -/
def asReg (w : Nat) (x : Nat) : Quad := BitVec.ofNat 64 (x % 2 ^ w)

/-- An integer as a register value of width `w`, in two's complement. -/
def asRegI (w : Nat) (x : Int) : Quad := BitVec.ofNat 64 (x % 2 ^ w).toNat

/-- Operand `r` of a lane at width `w`, as an unsigned and as a signed number. -/
def State.opN (s : State) (w : Nat) (r : BitVec 6) (l : Nat) : Nat := (s.me.rd w r.toNat l).toNat
def State.opI (s : State) (w : Nat) (r : BitVec 6) (l : Nat) : Int := lowInt w true (s.opN w r l)

end Sys2Proof.Machine
end

