-- ==== Sys2Proof/Certificates/Slice0/Obligations.lean ====
section
/-! DEFINITION. The statements for the provers: what each family of words and of device steps does, by the rules of spec/. -/

open Sys2Proof Sys2Proof.Machine

/-! ### Words that compute in registers (R190 to R203) -/

namespace Sys2Proof.Machine

/-- An integer word of a group at the other width needs even pairs (R73); a steward takes any register. -/
def State.pairOk (s : State) (w : Nat) (r : BitVec 6) : Prop := s.me.sid = 0 ∨ w = 32 ∨ r.toNat % 2 = 0

/-- Bits of `x` below bit `w`, counted. -/
def onesBelow (w x : Nat) : Nat := ((List.range w).filter (fun i => x.testBit i)).length

/-- Bit i of `x` moved to bit w - 1 - i. -/
def mirrored (w x : Nat) : Nat := ((List.range w).map (fun i => if x.testBit i then 2 ^ (w - 1 - i) else 0)).sum

/-- The leading 0 bits of `x` at width `w`. -/
def leadingZeros (w x : Nat) : Nat := if x = 0 then w else w - 1 - Nat.log2 x

end Sys2Proof.Machine

/-- R190, three-address forms: in each active lane d takes the function of a, b and, for `IMAD`, the old d, modulo 2^W, W the natural
width; 2 cycles, 4 for the products (R183). Nothing else changes but the result under way. -/
def Claims.IntegerThreeAddress : Prop :=
  ∀ (s : State) (d a b : BitVec 6) (g : BitVec 1),
    let W := s.natW
    let x := s.opN W a
    let y := s.opN W b
    let z := s.opN W d
    GivesReg (.iadd d a b g) s 2 W d (s.lanes g) (fun l => asReg W (x l + y l)) ∧
    GivesReg (.isub d a b g) s 2 W d (s.lanes g) (fun l => asRegI W ((x l : Int) - y l)) ∧
    GivesReg (.imul d a b g) s 4 W d (s.lanes g) (fun l => asReg W (x l * y l)) ∧
    GivesReg (.imad d a b g) s 4 W d (s.lanes g) (fun l => asReg W (x l * y l + z l)) ∧
    GivesReg (.and d a b g) s 2 W d (s.lanes g) (fun l => asReg W (x l &&& y l)) ∧
    GivesReg (.or d a b g) s 2 W d (s.lanes g) (fun l => asReg W (x l ||| y l)) ∧
    GivesReg (.xor d a b g) s 2 W d (s.lanes g) (fun l => asReg W (x l ^^^ y l))

namespace Sys2Proof.Machine

/-- R190, unary forms at one width: what each function gives for an operand. -/
def UnaryResults (s : State) (w : Nat) (d a : BitVec 6) (g : BitVec 1) (mov not iabs popc clz brev : Instr) : Prop :=
  let x := s.opN w a
  GivesReg mov s 2 w d (s.lanes g) (fun l => asReg w (x l)) ∧
  GivesReg not s 2 w d (s.lanes g) (fun l => asReg w (2 ^ w - 1 - x l)) ∧
  GivesReg iabs s 2 w d (s.lanes g) (fun l => asRegI w |s.opI w a l|) ∧
  GivesReg popc s 2 w d (s.lanes g) (fun l => asReg w (onesBelow w (x l))) ∧
  GivesReg clz s 2 w d (s.lanes g) (fun l => asReg w (leadingZeros w (x l))) ∧
  GivesReg brev s 2 w d (s.lanes g) (fun l => asReg w (mirrored w (x l)))

end Sys2Proof.Machine

/-- R190, unary forms at both widths; an odd register of a pair raises `ILLEGAL_OP` (R73). -/
def Claims.IntegerUnary : Prop :=
  ∀ (s : State) (d a : BitVec 6) (g : BitVec 1),
    UnaryResults s s.natW d a g (.mov d a g) (.not d a g) (.iabs d a g) (.popc d a g) (.clz d a g) (.brev d a g) ∧
    (s.pairOk s.otherW d ∧ s.pairOk s.otherW a →
      UnaryResults s s.otherW d a g (.movOw d a g) (.notOw d a g) (.iabsOw d a g) (.popcOw d a g) (.clzOw d a g) (.brevOw d a g)) ∧
    (¬(s.pairOk s.otherW d ∧ s.pairOk s.otherW a) →
      ∀ i ∈ [Instr.movOw d a g, .notOw d a g, .iabsOw d a g, .popcOw d a g, .clzOw d a g, .brevOw d a g], IllegalIn i s)

namespace Sys2Proof.Machine

/-- R190, two-address minimum, maximum and high product at one width, the product in `lat` cycles. -/
def TwoAddressResults (s : State) (w lat : Nat) (d a : BitVec 6) (g : BitVec 1) (iminI iminN imaxI imaxN imulhI imulhN : Instr) :
    Prop :=
  let x := s.opN w d
  let y := s.opN w a
  let xi := s.opI w d
  let yi := s.opI w a
  GivesReg iminI s 2 w d (s.lanes g) (fun l => asRegI w (min (xi l) (yi l))) ∧
  GivesReg iminN s 2 w d (s.lanes g) (fun l => asReg w (min (x l) (y l))) ∧
  GivesReg imaxI s 2 w d (s.lanes g) (fun l => asRegI w (max (xi l) (yi l))) ∧
  GivesReg imaxN s 2 w d (s.lanes g) (fun l => asReg w (max (x l) (y l))) ∧
  GivesReg imulhI s lat w d (s.lanes g) (fun l => asRegI w (xi l * yi l / 2 ^ w)) ∧
  GivesReg imulhN s lat w d (s.lanes g) (fun l => asReg w (x l * y l / 2 ^ w))

end Sys2Proof.Machine

/-- R190, two-address forms at both widths: d takes the function of d and a; products of the other width take 6 cycles. -/
def Claims.IntegerTwoAddress : Prop :=
  ∀ (s : State) (d a : BitVec 6) (g : BitVec 1),
    let w := s.otherW
    let x := s.opN w d
    let y := s.opN w a
    TwoAddressResults s s.natW 4 d a g (.iminI d a g) (.iminN d a g) (.imaxI d a g) (.imaxN d a g) (.imulhI d a g) (.imulhN d a g) ∧
    (s.pairOk w d ∧ s.pairOk w a →
      TwoAddressResults s w 6 d a g (.iminIOw d a g) (.iminNOw d a g) (.imaxIOw d a g) (.imaxNOw d a g) (.imulhIOw d a g)
        (.imulhNOw d a g) ∧
      GivesReg (.iaddOw d a g) s 2 w d (s.lanes g) (fun l => asReg w (x l + y l)) ∧
      GivesReg (.isubOw d a g) s 2 w d (s.lanes g) (fun l => asRegI w ((x l : Int) - y l)) ∧
      GivesReg (.imulOw d a g) s 6 w d (s.lanes g) (fun l => asReg w (x l * y l)) ∧
      GivesReg (.andOw d a g) s 2 w d (s.lanes g) (fun l => asReg w (x l &&& y l)) ∧
      GivesReg (.orOw d a g) s 2 w d (s.lanes g) (fun l => asReg w (x l ||| y l)) ∧
      GivesReg (.xorOw d a g) s 2 w d (s.lanes g) (fun l => asReg w (x l ^^^ y l))) ∧
    (¬(s.pairOk w d ∧ s.pairOk w a) →
      ∀ i ∈ [Instr.iminIOw d a g, .iminNOw d a g, .imaxIOw d a g, .imaxNOw d a g, .imulhIOw d a g, .imulhNOw d a g, .iaddOw d a g,
        .isubOw d a g, .imulOw d a g, .andOw d a g, .orOw d a g, .xorOw d a g], IllegalIn i s)

namespace Sys2Proof.Machine

/-- The combined immediate of R78 as an integer: 6 bits, or 25 with the literal of an `IMX`, in two's complement. -/
def State.immInt (s : State) (i : BitVec 6) : Int :=
  match s.ctx.lit with
  | some l => lowInt 25 true (l.toNat * 64 + i.toNat)
  | none => lowInt 6 true i.toNat

/-- R190 and R192, immediate forms at one width, the product in `lat` cycles. -/
def ImmediateResults (s : State) (w lat : Nat) (d i : BitVec 6) (g : BitVec 1)
    (movi iadd imul and or xor iminI imaxI iminN imaxN : Instr) : Prop :=
  let x := s.opN w d
  let xi := s.opI w d
  let v := s.immInt i
  let n := (v % 2 ^ w).toNat
  GivesReg movi s 2 w d (s.lanes g) (fun _ => asRegI w v) ∧
  GivesReg iadd s 2 w d (s.lanes g) (fun l => asRegI w (x l + v)) ∧
  GivesReg imul s lat w d (s.lanes g) (fun l => asRegI w (x l * v)) ∧
  GivesReg and s 2 w d (s.lanes g) (fun l => asReg w (x l &&& n)) ∧
  GivesReg or s 2 w d (s.lanes g) (fun l => asReg w (x l ||| n)) ∧
  GivesReg xor s 2 w d (s.lanes g) (fun l => asReg w (x l ^^^ n)) ∧
  GivesReg iminI s 2 w d (s.lanes g) (fun l => asRegI w (min (xi l) v)) ∧
  GivesReg imaxI s 2 w d (s.lanes g) (fun l => asRegI w (max (xi l) v)) ∧
  GivesReg iminN s 2 w d (s.lanes g) (fun l => asReg w (min (x l) n)) ∧
  GivesReg imaxN s 2 w d (s.lanes g) (fun l => asReg w (max (x l) n))

end Sys2Proof.Machine

/-- R190 and R192, immediate forms at both widths: d takes the function of d and the combined immediate of R78. -/
def Claims.IntegerImmediate : Prop :=
  ∀ (s : State) (d i : BitVec 6) (g : BitVec 1),
    ImmediateResults s s.natW 4 d i g (.movi d i g) (.iaddImm d i g) (.imulImm d i g) (.andImm d i g) (.orImm d i g) (.xorImm d i g)
      (.iminIImm d i g) (.imaxIImm d i g) (.iminNImm d i g) (.imaxNImm d i g) ∧
    (s.pairOk s.otherW d →
      ImmediateResults s s.otherW 6 d i g (.moviOw d i g) (.iaddImmOw d i g) (.imulImmOw d i g) (.andImmOw d i g) (.orImmOw d i g)
        (.xorImmOw d i g) (.iminIImmOw d i g) (.imaxIImmOw d i g) (.iminNImmOw d i g) (.imaxNImmOw d i g)) ∧
    (¬s.pairOk s.otherW d →
      ∀ x ∈ [Instr.moviOw d i g, .iaddImmOw d i g, .imulImmOw d i g, .andImmOw d i g, .orImmOw d i g, .xorImmOw d i g,
        .iminIImmOw d i g, .imaxIImmOw d i g, .iminNImmOw d i g, .imaxNImmOw d i g], IllegalIn x s)

namespace Sys2Proof.Machine

/-- R191, the three shifts of register d at one width by a count for each lane. -/
def ShiftResults (s : State) (w : Nat) (d : BitVec 6) (g : BitVec 1) (c : Nat → Nat) (shl shr sar : Instr) : Prop :=
  let x := s.opN w d
  GivesReg shl s 2 w d (s.lanes g) (fun l => if c l < w then asReg w (x l * 2 ^ c l) else 0) ∧
  GivesReg shr s 2 w d (s.lanes g) (fun l => if c l < w then asReg w (x l / 2 ^ c l) else 0) ∧
  GivesReg sar s 2 w d (s.lanes g) (fun l =>
    if c l < w then asRegI w (s.opI w d l / 2 ^ c l) else if s.opI w d l < 0 then asReg w (2 ^ w - 1) else 0)

end Sys2Proof.Machine

/-- R191: a shift takes its count from bits [5:0] of one register a, whatever the width, or from the immediate, whose other bits must
be 0, else `ILLEGAL_OP`; from the width on, the result is all zeros or all copies of the top bit. -/
def Claims.Shifts : Prop :=
  ∀ (s : State) (d a i : BitVec 6) (g : BitVec 1),
    let c : Nat → Nat := fun l => s.opN 32 a l % 64
    let v := s.immInt i
    let ci : Nat → Nat := fun _ => v.toNat
    let wide : Prop := 0 ≤ v ∧ v < 64
    ShiftResults s s.natW d g c (.shl d a g) (.shr d a g) (.sar d a g) ∧
    (s.pairOk s.otherW d → ShiftResults s s.otherW d g c (.shlOw d a g) (.shrOw d a g) (.sarOw d a g)) ∧
    (¬s.pairOk s.otherW d → ∀ x ∈ [Instr.shlOw d a g, .shrOw d a g, .sarOw d a g], IllegalIn x s) ∧
    (wide → ShiftResults s s.natW d g ci (.shlImm d i g) (.shrImm d i g) (.sarImm d i g)) ∧
    (wide → s.pairOk s.otherW d → ShiftResults s s.otherW d g ci (.shlImmOw d i g) (.shrImmOw d i g) (.sarImmOw d i g)) ∧
    (¬wide → ∀ x ∈ [Instr.shlImm d i g, .shrImm d i g, .sarImm d i g], IllegalIn x s) ∧
    (¬(wide ∧ s.pairOk s.otherW d) → ∀ x ∈ [Instr.shlImmOw d i g, .shrImmOw d i g, .sarImmOw d i g], IllegalIn x s)

/-- R193: position, length and sign flag of the control word; `BFE` extracts, `BFI` inserts, bit by bit. -/
def Claims.BitFields : Prop :=
  ∀ (s : State) (d a b : BitVec 6) (g : BitVec 1),
    let W := s.natW
    let x := s.opN W a
    let y := s.opN W d
    let pos : Nat → Nat := fun l => s.opN W b l % 256
    let n : Nat → Nat := fun l => min (s.opN W b l / 256 % 256) W
    let sx : Nat → Bool := fun l => (s.opN W b l).testBit 16
    (∃ f, GivesReg (.bfe d a b g) s 2 W d (s.lanes g) f ∧ ∀ l, (f l).toNat < 2 ^ W ∧ ∀ j < W,
      (f l).getLsbD j =
        (if j < n l then decide (pos l + j < W) && (x l).testBit (pos l + j)
         else sx l && decide (0 < n l) && decide (pos l + n l - 1 < W) && (x l).testBit (pos l + n l - 1))) ∧
    (∃ f, GivesReg (.bfi d a b g) s 2 W d (s.lanes g) f ∧ ∀ l, (f l).toNat < 2 ^ W ∧ ∀ j < W,
      (f l).getLsbD j =
        (if pos l ≤ j ∧ j < pos l + n l then (x l).testBit (j - pos l) else (y l).testBit j))

/-- R194: in every head lane d takes a where `p0` holds, else b. -/
def Claims.Select : Prop :=
  ∀ (s : State) (d a b : BitVec 6),
    GivesReg (.csel d a b) s 2 s.natW d s.headLanes (fun l =>
      if s.me.rdP 0 l then s.me.rd s.natW a.toNat l else s.me.rd s.natW b.toNat l)

namespace Sys2Proof.Machine

/-- The relation of cc over integers (R87). -/
def Relates (cc : BitVec 3) (x y : Int) : Prop :=
  (cc = 0 ∧ x = y) ∨ (cc = 1 ∧ x ≠ y) ∨ (cc = 2 ∧ x < y) ∨ (cc = 3 ∧ x ≤ y) ∨ (cc = 4 ∧ x > y) ∨ (cc = 5 ∧ x ≥ y)

end Sys2Proof.Machine

/-- R195: in each active lane pd tells whether a cc b, signed or natural, at the natural width; cc 6 and 7 raise `ILLEGAL_OP`. -/
def Claims.IntegerCompare : Prop :=
  ∀ (s : State) (p c : BitVec 3) (a b : BitVec 6) (g : BitVec 1),
    let W := s.natW
    (c.toNat < 6 →
      (∃ f, GivesPred (.icmp p c a b g) s 2 p (s.lanes g) f ∧ ∀ l, f l = true ↔ Relates c (s.opI W a l) (s.opI W b l)) ∧
      (∃ f, GivesPred (.icmpN p c a b g) s 2 p (s.lanes g) f ∧ ∀ l, f l = true ↔ Relates c (s.opN W a l) (s.opN W b l))) ∧
    (6 ≤ c.toNat → IllegalIn (.icmp p c a b g) s ∧ IllegalIn (.icmpN p c a b g) s)

/-- R201: predicate logic with negated operands, in each active lane. -/
def Claims.PredicateLogic : Prop :=
  ∀ (s : State) (p a b : BitVec 3) (n m g : BitVec 1),
    let A : Nat → Bool := fun l => s.me.rdP a.toNat l ^^ (n == 1#1)
    let B : Nat → Bool := fun l => s.me.rdP b.toNat l ^^ (m == 1#1)
    GivesPred (.pand p a n b m g) s 2 p (s.lanes g) (fun l => A l && B l) ∧
    GivesPred (.por p a n b m g) s 2 p (s.lanes g) (fun l => A l || B l) ∧
    GivesPred (.pxor p a n b m g) s 2 p (s.lanes g) (fun l => A l ^^ B l) ∧
    GivesPred (.pnot p a n g) s 2 p (s.lanes g) (fun l => !A l) ∧
    GivesPred (.pmov p a n g) s 2 p (s.lanes g) A

/-- R202: votes, `BALLOT` and `MATCH` over the participants P; group only. -/
def Claims.Collectives : Prop :=
  ∀ (s : State) (p a : BitVec 3) (d r : BitVec 6) (n g : BitVec 1),
    let A : Nat → Bool := fun l => s.me.rdP a.toNat l ^^ (n == 1#1)
    let P := s.lanes g
    (s.me.sid ≠ 0 →
      (∃ f, GivesPred (.voteAll p a n g) s 2 p P f ∧ ∀ l ∈ P, f l = true ↔ ∀ k ∈ P, A k = true) ∧
      (∃ f, GivesPred (.voteAny p a n g) s 2 p P f ∧ ∀ l ∈ P, f l = true ↔ ∃ k ∈ P, A k = true) ∧
      (∃ f, GivesPred (.voteEq p a n g) s 2 p P f ∧ ∀ l ∈ P, f l = true ↔ ∀ j ∈ P, ∀ k ∈ P, A j = A k) ∧
      (∃ f, GivesReg (.ballot d a n g) s 2 32 d P f ∧
        ∀ l ∈ P, (f l).toNat < 2 ^ 32 ∧ ∀ k < 32, (f l).getLsbD k = true ↔ k ∈ P ∧ A k = true) ∧
      (∃ f, GivesReg (.matchLanes d r g) s 4 32 d P f ∧
        ∀ l ∈ P, (f l).toNat < 2 ^ 32 ∧
          ∀ k < 32, (f l).getLsbD k = true ↔ k ∈ P ∧ s.me.rdV r.toNat k = s.me.rdV r.toNat l)) ∧
    (s.me.sid = 0 → ∀ i ∈ [Instr.voteAll p a n g, .voteAny p a n g, .voteEq p a n g, .ballot d a n g, .matchLanes d r g],
      IllegalIn i s)

/-- R203: each head lane takes the value of its source lane where that is a head lane, else its own; group only. -/
def Claims.LaneExchange : Prop :=
  ∀ (s : State) (d a : BitVec 6) (m : BitVec 2) (n : BitVec 5),
    (s.me.sid ≠ 0 → ∃ f, GivesReg (.shfl d a m n) s 4 32 d s.headLanes f ∧
      ∀ l ∈ s.headLanes,
        let src : Int := match m.toNat with
          | 0 => n.toNat
          | 1 => (l : Int) - n.toNat
          | 2 => l + n.toNat
          | _ => ((l ^^^ n.toNat : Nat) : Int)
        (0 ≤ src ∧ src ≤ 31 ∧ src.toNat ∈ s.headLanes → f l = zext (s.me.rdV a.toNat src.toNat)) ∧
        (¬(0 ≤ src ∧ src ≤ 31 ∧ src.toNat ∈ s.headLanes) → f l = zext (s.me.rdV a.toNat l))) ∧
    (s.me.sid = 0 → IllegalIn (.shfl d a m n) s)

/-- The integer words of three and two operands, in every form. -/
def Obligations.IntegerArithmetic : Prop :=
  Claims.IntegerThreeAddress ∧ Claims.IntegerUnary ∧ Claims.IntegerTwoAddress ∧ Claims.IntegerImmediate

/-- Shifts, bit fields and selects, in every form. -/
def Obligations.ShiftsFieldsSelects : Prop :=
  Claims.Shifts ∧ Claims.BitFields ∧ Claims.Select

/-- Integer compares and the words over predicates. -/
def Obligations.ComparesAndPredicates : Prop :=
  Claims.IntegerCompare ∧ Claims.PredicateLogic

/-- The words that read other lanes. -/
def Obligations.LaneWords : Prop :=
  Claims.Collectives ∧ Claims.LaneExchange

/-! ### Floating-point words (R129 to R138, R196 to R200) -/

namespace Sys2Proof.Machine

/-- The encodings of a 32-bit operand, and its two 16-bit halves. -/
def State.half (s : State) (hi : Bool) (r : BitVec 6) (l : Nat) : Nat :=
  if hi then s.opN 32 r l / 2 ^ 16 else s.opN 32 r l % 2 ^ 16

/-- Two 16-bit results as a register value (R135). -/
def packed (hi lo : Nat) : Quad := BitVec.ofNat 64 (hi % 2 ^ 16 * 2 ^ 16 + lo % 2 ^ 16)

/-- The F32 pattern of the floating immediate (R79): the 25-bit combined value over seven zero bits. -/
def State.immF32 (s : State) (i : BitVec 6) : Nat := (s.immInt i % 2 ^ 25).toNat * 128

end Sys2Proof.Machine

/-- R196 and R197, three-address and immediate forms: one rounding by RNE of the sum, the product or the product plus the old d, in 4
cycles; packed forms work on each half. -/
def Claims.FloatThreeAddress : Prop :=
  ∀ (s : State) (d a b : BitVec 6) (g : BitVec 1),
    let x := s.opN 32 a
    let y := s.opN 32 b
    let z := s.opN 32 d
    let two (f : Nat → Nat → Nat) (l : Nat) : Quad :=
      packed (f (s.half true a l) (s.half true b l)) (f (s.half false a l) (s.half false b l))
    let three (f : Nat → Nat → Nat → Nat) (l : Nat) : Quad :=
      packed (f (s.half true a l) (s.half true b l) (s.half true d l)) (f (s.half false a l) (s.half false b l) (s.half false d l))
    GivesReg (.faddF32 d a b g) s 4 32 d (s.lanes g) (fun l => asReg 32 (fF32.add .rne (x l) (y l))) ∧
    GivesReg (.fmulF32 d a b g) s 4 32 d (s.lanes g) (fun l => asReg 32 (fF32.mul .rne (x l) (y l))) ∧
    GivesReg (.fmaF32 d a b g) s 4 32 d (s.lanes g) (fun l => asReg 32 (fF32.fma .rne (x l) (y l) (z l))) ∧
    GivesReg (.faddF32Imm d a b g) s 4 32 d (s.lanes g) (fun l => asReg 32 (fF32.add .rne (x l) (s.immF32 b))) ∧
    GivesReg (.fmulF32Imm d a b g) s 4 32 d (s.lanes g) (fun l => asReg 32 (fF32.mul .rne (x l) (s.immF32 b))) ∧
    GivesReg (.faddF16 d a b g) s 4 32 d (s.lanes g) (two (fF16.add .rne)) ∧
    GivesReg (.fmaF16 d a b g) s 4 32 d (s.lanes g) (three (fF16.fma .rne)) ∧
    GivesReg (.fmaBf16 d a b g) s 4 32 d (s.lanes g) (three (fBF16.fma .rne))

/-- R198, two-address forms of OP 0x1D: d takes the rounded function of d and a, in 6 cycles, in the mode that the function names. -/
def Claims.FloatTwoAddress : Prop :=
  ∀ (s : State) (d a : BitVec 6) (g : BitVec 1),
    let x := s.opN 32 d
    let y := s.opN 32 a
    let two (f : Nat → Nat → Nat) (l : Nat) : Quad :=
      packed (f (s.half true d l) (s.half true a l)) (f (s.half false d l) (s.half false a l))
    GivesReg (.faddF32Rz d a g) s 6 32 d (s.lanes g) (fun l => asReg 32 (fF32.add .rz (x l) (y l))) ∧
    GivesReg (.faddF32Ru d a g) s 6 32 d (s.lanes g) (fun l => asReg 32 (fF32.add .ru (x l) (y l))) ∧
    GivesReg (.faddF32Rd d a g) s 6 32 d (s.lanes g) (fun l => asReg 32 (fF32.add .rd (x l) (y l))) ∧
    GivesReg (.fmulF32Rz d a g) s 6 32 d (s.lanes g) (fun l => asReg 32 (fF32.mul .rz (x l) (y l))) ∧
    GivesReg (.fmulF32Ru d a g) s 6 32 d (s.lanes g) (fun l => asReg 32 (fF32.mul .ru (x l) (y l))) ∧
    GivesReg (.fmulF32Rd d a g) s 6 32 d (s.lanes g) (fun l => asReg 32 (fF32.mul .rd (x l) (y l))) ∧
    GivesReg (.faddBf16 d a g) s 6 32 d (s.lanes g) (two (fBF16.add .rne)) ∧
    GivesReg (.fmulBf16 d a g) s 6 32 d (s.lanes g) (two (fBF16.mul .rne)) ∧
    GivesReg (.fmulF16 d a g) s 6 32 d (s.lanes g) (two (fF16.mul .rne))

namespace Sys2Proof.Machine

/-- The number that a value stands for; NaN stands for none. -/
noncomputable def FVal.real : FVal → Option EReal
  | .nan => none
  | .inf neg => some (if neg then ⊥ else ⊤)
  | .num neg m e => some (((if neg then -1 else 1) * (m : ℝ) * (2 : ℝ) ^ e : ℝ) : EReal)

/-- The relation of `FCMP` (R87, R199): 0 to 5 ordered compares, 6 neither operand NaN, 7 some operand NaN. -/
def FRelates (cc : BitVec 3) : Option EReal → Option EReal → Prop
  | some x, some y => (cc = 0 ∧ x = y) ∨ (cc = 1 ∧ x ≠ y) ∨ (cc = 2 ∧ x < y) ∨ (cc = 3 ∧ x ≤ y) ∨ (cc = 4 ∧ x > y) ∨ (cc = 5 ∧ x ≥ y) ∨ cc = 6
  | _, _ => cc = 7

end Sys2Proof.Machine

/-- R199: in each active lane pd tells whether a cc b over F32, compared as numbers, so that -0 equals +0. -/
def Claims.FloatCompare : Prop :=
  ∀ (s : State) (p c : BitVec 3) (a b : BitVec 6) (g : BitVec 1),
    ∃ f, GivesPred (.fcmp p c a b g) s 2 p (s.lanes g) f ∧ ∀ l,
      f l = true ↔ FRelates c (fF32.decode (s.opN 32 a l)).real (fF32.decode (s.opN 32 b l)).real

namespace Sys2Proof.Machine

/-- R135, minimumNumber (`mx` false) and maximumNumber of two encodings of a format: a NaN is ignored beside a number, two give the
canonical NaN, and -0 orders below +0. -/
def IsMinMax (f : Fmt) (mx : Bool) (x y z : Nat) : Prop :=
  let X := f.decode x
  let Y := f.decode y
  (X = .nan ∧ Y = .nan → z = f.nan) ∧ (X = .nan ∧ Y ≠ .nan → z = y) ∧ (X ≠ .nan ∧ Y = .nan → z = x) ∧
  (X ≠ .nan ∧ Y ≠ .nan → (z = x ∨ z = y) ∧
    ∀ r u v, (f.decode z).real = some r → X.real = some u → Y.real = some v →
      (if mx then u ≤ r ∧ v ≤ r else r ≤ u ∧ r ≤ v) ∧
      (u = 0 ∧ v = 0 → (2 ^ (f.eb + f.mb) ≤ z ↔
        if mx then 2 ^ (f.eb + f.mb) ≤ x ∧ 2 ^ (f.eb + f.mb) ≤ y else 2 ^ (f.eb + f.mb) ≤ x ∨ 2 ^ (f.eb + f.mb) ≤ y)))

end Sys2Proof.Machine

/-- R135 and R198: `FMIN` and `FMAX` of F32, and of each half of the packed formats, in 6 cycles. -/
def Claims.FloatMinMax : Prop :=
  ∀ (s : State) (d a : BitVec 6) (g : BitVec 1),
    let whole (i : Instr) (mx : Bool) : Prop := ∃ f : Nat → Nat,
      GivesReg i s 6 32 d (s.lanes g) (fun l => BitVec.ofNat 64 (f l)) ∧
        ∀ l, f l < 2 ^ 32 ∧ IsMinMax fF32 mx (s.opN 32 d l) (s.opN 32 a l) (f l)
    let halfs (i : Instr) (fm : Fmt) (mx : Bool) : Prop := ∃ f : Bool → Nat → Nat,
      GivesReg i s 6 32 d (s.lanes g) (fun l => packed (f true l) (f false l)) ∧
        ∀ h l, f h l < 2 ^ 16 ∧ IsMinMax fm mx (s.half h d l) (s.half h a l) (f h l)
    whole (.fminF32 d a g) false ∧ whole (.fmaxF32 d a g) true ∧
    halfs (.fminF16 d a g) fF16 false ∧ halfs (.fmaxF16 d a g) fF16 true ∧
    halfs (.fminBf16 d a g) fBF16 false ∧ halfs (.fmaxBf16 d a g) fBF16 true

namespace Sys2Proof.Machine

/-- A row of the table of R136: input, then `FRCP`, `FRSQ`, `FSQRT`, `FEX2`, `FLG2`. -/
def sfuTable : List (Nat × List Nat) :=
  [(0x00000000, [0x7F800000, 0x7F800000, 0x00000000, 0x3F800000, 0xFF800000]),
   (0x80000000, [0xFF800000, 0xFF800000, 0x80000000, 0x3F800000, 0xFF800000]),
   (0x7F800000, [0x00000000, 0x00000000, 0x7F800000, 0x7F800000, 0x7F800000]),
   (0xFF800000, [0x80000000, 0x7FC00000, 0x7FC00000, 0x00000000, 0x7FC00000])]

/-- The real number that an F32 pattern stands for, where it stands for one. -/
noncomputable def f32Real (x : Nat) : Option ℝ :=
  match fF32.decode x with
  | .num neg m e => some ((if neg then -1 else 1) * (m : ℝ) * (2 : ℝ) ^ e)
  | _ => none

/-- The dyadic number c·2^e as a real number. -/
noncomputable def dyReal (v : Int × Int) : ℝ := (v.1 : ℝ) * (2 : ℝ) ^ v.2

end Sys2Proof.Machine

/-- R136 and R198, unary forms of OP 0x1D, in 6 cycles: the table's special inputs; a NaN comes back quiet (R132); a negative finite
operand of `FRSQ`, `FSQRT` and `FLG2` gives the canonical NaN. On ordinary operands `FRCP` is the reciprocal and `FSQRT` the root, rounded
once (the root lies within half a unit of its last place), and `FRSQ` lies within 1 ulp of 1/√x, 2^k being the binade of that number.
`FEX2` lies within 2 ulp of 2^x, and `FLG2` within 2^-22 of the logarithm for x in [0.5, 2] and within 2 ulp elsewhere: for a whole x, or a
power of two, of the exact value; for another operand of the model's enclosure of it, which is the model's choice (log entry 68). -/
def Claims.SpecialFunctions : Prop :=
  ∃ f : List (Nat → Nat), f.length = 5 ∧
    (∀ (s : State) (d a : BitVec 6) (g : BitVec 1), ∀ i < 5,
      GivesReg ([Instr.frcp d a g, .frsq d a g, .fsqrt d a g, .fex2 d a g, .flg2 d a g].getD i .nop) s 6 32 d (s.lanes g)
        (fun l => asReg 32 (f.getD i id (s.opN 32 a l)))) ∧
    (∀ r ∈ sfuTable, f.map (fun h => h r.1) = r.2) ∧
    (∀ x < 2 ^ 32, fF32.decode x = .nan → ∀ h ∈ f, h x = x ||| 2 ^ 22) ∧
    (∀ x < 2 ^ 32, ∀ m e, fF32.decode x = .num true m e → 0 < m → ∀ i ∈ [1, 2, 4], f.getD i id x = 0x7FC00000) ∧
    (∀ x < 2 ^ 32, ∀ n m e, fF32.decode x = .num n m e → 0 < m → f.getD 0 id x = fF32.round .rne false n 1 m (-e)) ∧
    (∀ x < 2 ^ 32, ∀ m e, fF32.decode x = .num false m e → 0 < m → ∃ a b, fF32.decode (f.getD 2 id x) = .num false a b ∧ 0 < a ∧
      ((2 * (a : ℝ) - 1) * (2 : ℝ) ^ (b - 1)) ^ 2 ≤ (m : ℝ) * (2 : ℝ) ^ e ∧
      (m : ℝ) * (2 : ℝ) ^ e ≤ ((2 * (a : ℝ) + 1) * (2 : ℝ) ^ (b - 1)) ^ 2) ∧
    (∀ x < 2 ^ 32, ∀ X : ℝ, f32Real x = some X → 0 < X → ∃ z, f32Real (f.getD 1 id x) = some z ∧ ∃ k : ℤ,
      (2 : ℝ) ^ k ≤ 1 / √X ∧ 1 / √X < (2 : ℝ) ^ (k + 1) ∧ |z - 1 / √X| ≤ (2 : ℝ) ^ (k - 23)) ∧
    (∀ x < 2 ^ 32, ∀ n : ℤ, f32Real x = some (n : ℝ) → -149 ≤ n → n < 128 → ∃ z, f32Real (f.getD 3 id x) = some z ∧
      |z - (2 : ℝ) ^ n| ≤ 2 * (2 : ℝ) ^ (max (n - 23) (-149))) ∧
    (∀ x < 2 ^ 32, ∀ n m e, fF32.decode x = .num n m e → 0 < m → expOf m 1 e < 7 → ∃ z, f32Real (f.getD 3 id x) = some z ∧
      |z - dyReal (exp2Dy n m e)| ≤ 2 * (2 : ℝ) ^ ulp32 (expOf (exp2Dy n m e).1.toNat 1 (exp2Dy n m e).2)) ∧
    (∀ x < 2 ^ 32, ∀ n : ℤ, f32Real x = some ((2 : ℝ) ^ n) → ∃ z, f32Real (f.getD 4 id x) = some z ∧
      |z - n| ≤ if -1 ≤ n ∧ n ≤ 1 then (2 : ℝ) ^ (-22 : ℤ) else 2 * (2 : ℝ) ^ ((Nat.log2 n.natAbs : ℤ) - 23))

/-- R86, R137, R138, R200: `CVT` from F32 takes 4 cycles and writes the low bits of d, the rest by zeros, or by the sign for a signed
integer; `CVT` to F32 reads the low bits of a, 64 of them under codes 13 and 14, which need an even pair in a group; code 15 raises
`ILLEGAL_OP`. -/
def Claims.Convert : Prop :=
  ∀ (s : State) (d a : BitVec 6) (m : BitVec 2) (c : BitVec 4) (g : BitVec 1),
    let md := rmode m.toNat
    let v (l : Nat) := fF32.decode (s.opN 32 a l)
    let floats : List (Fmt × Bool) := [(fF16, false), (fBF16, false), (fE4M3, false), (fE5M2, false), (fE2M1, false), (fF16, true), (fBF16, true), (fE5M2, true)]
    let ints : List (Nat × Bool) := [(32, true), (32, false), (16, true), (16, false), (8, true), (8, false), (4, true), (4, false)]
    let srcs : List (Nat × Bool) := ints ++ [(64, true), (64, false)]
    (∀ q ∈ floats[c.toNat]?, GivesReg (.cvtFromF32 d a m c g) s 4 32 d (s.lanes g) (fun l => asReg 32 (q.1.ofVal md q.2 (v l)))) ∧
    (∀ q ∈ ints[c.toNat - 8]?, 8 ≤ c.toNat → GivesReg (.cvtFromF32 d a m c g) s 4 32 d (s.lanes g) (fun l =>
      asRegI 32 ((v l).toRange md (if q.2 then -2 ^ (q.1 - 1) else 0) (if q.2 then 2 ^ (q.1 - 1) - 1 else 2 ^ q.1 - 1)))) ∧
    (∀ q ∈ (floats.take 5)[c.toNat]?, GivesReg (.cvtToF32 d a m c g) s 4 32 d (s.lanes g) (fun l =>
      asReg 32 (fF32.ofVal .rne false (q.1.decode (s.opN 32 a l % 2 ^ q.1.width))))) ∧
    (∀ q ∈ srcs[c.toNat - 5]?, 5 ≤ c.toNat →
      let w := if q.1 = 64 then 64 else 32
      let n (l : Nat) : Int := lowInt q.1 q.2 (s.opN w a l)
      (s.pairOk w a → GivesReg (.cvtToF32 d a m c g) s 4 32 d (s.lanes g) (fun l =>
        asReg 32 (fF32.round md false (decide (n l < 0)) (n l).natAbs 1 0))) ∧
      (¬s.pairOk w a → IllegalIn (.cvtToF32 d a m c g) s)) ∧
    (c.toNat = 15 → IllegalIn (.cvtToF32 d a m c g) s)

/-- The floating-point words of two and three operands, with their compares. -/
def Obligations.FloatArithmetic : Prop :=
  Claims.FloatThreeAddress ∧ Claims.FloatTwoAddress ∧ Claims.FloatCompare ∧ Claims.FloatMinMax

/-- The special functions and the conversions. -/
def Obligations.FunctionsAndConversions : Prop :=
  Claims.SpecialFunctions ∧ Claims.Convert

/-! ### Control words (R104 to R109, R127, R185 to R189, R206, R211, R212) -/

namespace Sys2Proof.Machine

/-- The lanes of the head that a branch with this condition takes (R81, R107); a steward reads conditions 3 and 4 as 1 (R186). -/
def State.takes (s : State) (c : BitVec 3) (l : Nat) : Prop :=
  l ∈ s.headLanes ∧
  (c = 0 ∨ (c = 1 ∧ s.me.rdP 0 l = true) ∨ (c = 2 ∧ s.me.rdP 0 l = false) ∨
    (c = 3 ∧ if s.me.sid = 0 then s.me.rdP 0 l = true else ∀ k ∈ s.headLanes, s.me.rdP 0 k = true) ∨
    (c = 4 ∧ if s.me.sid = 0 then s.me.rdP 0 l = true else ∃ k ∈ s.headLanes, s.me.rdP 0 k = true))

/-- Where lanes stand after a branch (R107): a lane that takes it stands ready at its destination with the destination's priority, or,
where that is no place of the code (R185), parked with `ACCESS`; the rest of the head stands at the next word, every other lane where
it stood. The lanes parked have one record, whose address is the pointer of the lowest of them. -/
structure Branched (s t : State) (took : Nat → Prop) (valid : Nat → Prop) (dest : Nat → Pc × Nat) (ptr : Nat → Word) : Prop where
  frontier : FrontierOk t.me.frontier
  goes : ∀ l, took l → valid l → t.me.place l = some ((dest l).1, (dest l).2, .ready)
  parks : ∀ l, took l → ¬valid l →
    t.me.place l = some (if s.me.sid = 0 then s.pc0.add s.ctx.len else s.pc0, s.prio0, .parked 0x03)
  passes : ∀ l ∈ s.headLanes, ¬took l → t.me.place l = some (s.pc.succ, s.prio0, .ready)
  stays : ∀ l, l ∉ s.headLanes → t.me.place l = s.me.place l
  record : ∀ l, took l → ¬valid l → (∀ k < l, took k → valid k) → ∃ r, t.crew.recWait = s.crew.recWait ++ [r] ∧
    r.cause = 0x03 ∧ r.code = 0 ∧ r.addr = zext (ptr l) ∧ r.pc = ptrOf s.pc0 s.prio0 ∧ r.src = decide (s.me.sid = 0) ∧
    (s.me.sid ≠ 0 → r.group = s.me.sid - 1 ∧ ∀ k < 32, r.mask.getLsbD k = true ↔ took k ∧ ¬valid k)

/-- A branch changes nothing but where its lanes stand, and the records where lanes are parked. -/
def BranchFrame (s t : State) (took valid : Nat → Prop) : Prop :=
  t.me = { s.me with frontier := t.me.frontier } ∧
  ((∀ l, took l → valid l) → t = { s with me := t.me }) ∧
  t = { s with me := t.me, crew := { s.crew with recWait := t.crew.recWait }, agenda := t.agenda }

end Sys2Proof.Machine

/-- R186 to R188: `BRA`, `BRX` and `RET`. The destination of `BRA` is slot 0 of a packet relative to its own, with the priority in the
word; of `BRX` slot 0 of the packet that the lane's pointer names, with the priority in the word; of `RET` the pointer in register 63,
priority included (R106). -/
def Claims.Branches : Prop :=
  ∀ (s : State) (e : Entry) (p : BitVec 4) (c : BitVec 3) (o : BitVec 12) (a : BitVec 6),
    s.me.head = some e → Apart s.me.frontier →
    let n : Int := s.pc.packet + s.branchOff o
    let q (r : BitVec 6) (l : Nat) : Word := BitVec.ofNat 32 (s.opN 32 r l)
    (c.toNat < 5 → ∃ t, exec (.bra p c o) s = .next t ∧
      BranchFrame s t (s.takes c) (fun _ => 0 ≤ n ∧ n < s.packets) ∧
      Branched s t (s.takes c) (fun _ => 0 ≤ n ∧ n < s.packets) (fun _ => (⟨n.toNat, 0⟩, p.toNat))
        (fun _ => ptrOf ⟨(n % 2 ^ 26).toNat, 0⟩ p.toNat)) ∧
    (c.toNat < 3 → ∃ t, exec (.brx p c a) s = .next t ∧
      BranchFrame s t (s.takes c) (fun l => (ptrPc (q a l)).slot = 0 ∧ (ptrPc (q a l)).packet < s.packets) ∧
      Branched s t (s.takes c) (fun l => (ptrPc (q a l)).slot = 0 ∧ (ptrPc (q a l)).packet < s.packets)
        (fun l => (ptrPc (q a l), p.toNat)) (q a)) ∧
    (c.toNat < 3 → ∃ t, exec (.ret c) s = .next t ∧
      BranchFrame s t (s.takes c) (fun l => (ptrPc (q 63 l)).slot < 3 ∧ (ptrPc (q 63 l)).packet < s.packets) ∧
      Branched s t (s.takes c) (fun l => (ptrPc (q 63 l)).slot < 3 ∧ (ptrPc (q 63 l)).packet < s.packets)
        (fun l => (ptrPc (q 63 l), ptrPrio (q 63 l))) (q 63)) ∧
    (5 ≤ c.toNat → IllegalIn (.bra p c o) s ∧ IllegalIn (.call p c o) s) ∧
    (3 ≤ c.toNat → IllegalIn (.brx p c a) s ∧ IllegalIn (.ret c) s ∧ IllegalIn (.exit c) s)

/-- R187: `CALL` moves lanes as `BRA` does, and one cycle after issue the lanes that go hold in register 63 the pointer of the next word
with the priority they had. -/
def Claims.Calls : Prop :=
  ∀ (s : State) (e : Entry) (p : BitVec 4) (c : BitVec 3) (o : BitVec 12),
    s.me.head = some e → Apart s.me.frontier → c.toNat < 5 →
    let n : Int := s.pc.packet + s.branchOff o
    let ok : Prop := 0 ≤ n ∧ n < s.packets
    ∃ t b r ls, exec (.call p c o) s = .next t ∧ exec (.bra p c o) s = .next b ∧
      t = { b with nextId := s.nextId + 1, me := { b.me with pend := s.me.pend ++ [r] } } ∧
      r.due = some (s.clock + 1) ∧ r.flag = none ∧ (∀ l, l ∈ ls ↔ s.takes c l ∧ ok) ∧
      s.me.TakesReg r.writes 32 63 ls (fun _ => zext (ptrOf s.pc.succ s.prio0))

/-- R127 and R189: the lanes whose condition holds leave the frontier and the expected mask and have exited; the others go on at the next
word. Registers, predicates, flags and results under way stay as they are, and so does memory. -/
def Claims.Exits : Prop :=
  ∀ (s : State) (e : Entry) (c : BitVec 3), s.me.head = some e → Apart s.me.frontier → c.toNat < 3 →
    ∃ t, exec (.exit c) s = .next t ∧ FrontierOk t.me.frontier ∧
      (∀ l, s.takes c l → t.me.place l = none) ∧
      (∀ l ∈ s.headLanes, ¬s.takes c l → t.me.place l = some (s.pc.succ, s.prio0, .ready)) ∧
      (∀ l, l ∉ s.headLanes → t.me.place l = s.me.place l) ∧
      (∀ l < 32, t.me.exited.getLsbD l = true ↔ s.me.exited.getLsbD l = true ∨ s.takes c l) ∧
      (∀ l < 32, t.me.expected.getLsbD l = true ↔ s.me.expected.getLsbD l = true ∧ ¬s.takes c l) ∧
      t.me.v = s.me.v ∧ t.me.k = s.me.k ∧ t.me.p = s.me.p ∧ t.me.cf = s.me.cf ∧ t.me.pend = s.me.pend ∧ t.me.reqs = s.me.reqs ∧
      t.me.wb = s.me.wb ∧ t.mem = s.mem ∧ t.clock = s.clock ∧ t.crews = s.crews ∧ t.parts = s.parts ∧ t.dev = s.dev

/-- R109 and R189: head lanes outside the expected mask pass; the others wait here, merged with the lanes that already wait, under the
higher priority. In a steward `JOIN` raises `ILLEGAL_OP` (R81). -/
def Claims.Joins : Prop :=
  ∀ (s : State) (e : Entry), s.me.head = some e → Apart s.me.frontier →
    (s.me.sid = 0 → IllegalIn .join s) ∧
    (s.me.sid ≠ 0 → (s.me.frontier.filter (fun x => x.st == .joinWait && x.pc == s.pc)).length ≤ 1 →
      let waits (l : Nat) : Prop := ∃ pr, s.me.place l = some (s.pc, pr, .joinWait)
      let comes (l : Nat) : Prop := l ∈ s.headLanes ∧ s.me.expected.getLsbD l = true
      ∃ t, exec .join s = .next t ∧ FrontierOk t.me.frontier ∧
        (∀ l ∈ s.headLanes, ¬comes l → t.me.place l = some (s.pc.succ, s.prio0, .ready)) ∧
        ((∃ l, comes l) → ∃ pr, s.prio0 ≤ pr ∧ (pr = s.prio0 ∨ ∃ l, s.me.place l = some (s.pc, pr, .joinWait)) ∧
          (∀ l, comes l ∨ waits l → t.me.place l = some (s.pc, pr, .joinWait)) ∧
          ∀ l x, s.me.place l = some (s.pc, x, .joinWait) → x ≤ pr) ∧
        (∀ l, l ∉ s.headLanes → ¬(waits l ∧ ∃ k, comes k) → t.me.place l = s.me.place l) ∧
        t = { s with
          me := { s.me with frontier := t.me.frontier }
          agenda := s.agenda ++ [{ op := .joinRelease, arg := { r := s.self }, due := s.clock }, { op := .convergencePark, arg := { r := s.self }, due := s.clock }] })

/-- R78, R206: `NOP` changes nothing; `YIELD` takes the promotion and makes the stream ineligible for the 16 cycles after its own; `IMX`
hands its number to the next word of the chain. -/
def Obligations.SmallControl : Prop :=
  ∀ s : State,
    exec .nop s = .next s ∧
    (∃ t, exec .yield s = .next t ∧ t.me = { s.me with promoted := none, eligFor := 0, yieldUntil := s.clock + 17 } ∧
      t = { s with me := t.me, agenda := s.agenda ++ [{ op := .yieldExpiry, arg := { r := s.self }, due := s.clock }] }) ∧
    exec .imx s = .next { s with ctx := { s.ctx with lit := some s.ctx.imm } }

/-- R211 (with R306, R308, R309): `TRAP` and `BKPT` park the head lanes with the cause; in a group they stand at the word after it, and the record
names the word, its number as CODE and the lanes; a steward stands after its chain. Nothing else changes. That a steward stands after its chain,
with MASK 0 in its record, is the model's reading (log entry 32). -/
def Claims.SoftwareTraps : Prop :=
  ∀ (s : State) (e : Entry), s.me.head = some e → Apart s.me.frontier → s.headMask ≠ 0#32 →
    ∀ x ∈ [(Instr.trap, 0x0E), (Instr.bkpt, 0x0D)],
      let r : TrapRec := if s.me.sid = 0 then ⟨true, 0, s.ctx.imm.toNat % 256, x.2, s.here, 0#32, 0#64, true, s.me.handler.isSome⟩
        else ⟨false, s.me.sid - 1, s.ctx.imm.toNat % 256, x.2, s.here, s.headMask, 0#64, false, false⟩
      ∃ t, exec x.1 s = .next t ∧ FrontierOk t.me.frontier ∧
        (∀ l ∈ s.headLanes, t.me.place l = some (if s.me.sid = 0 then s.pc0.add s.ctx.len else s.pc.succ, s.prio0, .parked x.2)) ∧
        (∀ l, l ∉ s.headLanes → t.me.place l = s.me.place l) ∧
        t = { s with
          me := { s.me with frontier := t.me.frontier }
          crew := { s.crew with recWait := s.crew.recWait ++ [r] }
          agenda := s.agenda ++ [{ op := .trapRecordEnqueue, arg := { a := s.crew.id }, due := s.clock }] }

/-- R91, R306 and R309: `ILLEGAL_OP` parks the whole head, a group's at the first word of its chain, a steward after its chain; the record names
the first word, and no word of the chain has taken effect. That a steward stands after its chain, with MASK 0 in its record, is the model's reading
(log entry 32). -/
def Claims.IllegalOpTrap : Prop :=
  ∀ (s : State) (e : Entry), s.me.head = some e → Apart s.me.frontier → s.headMask ≠ 0#32 →
    let r : TrapRec := if s.me.sid = 0 then ⟨true, 0, 0, 0x01, ptrOf s.pc0 s.prio0, 0#32, 0#64, true, s.me.handler.isSome⟩
      else ⟨false, s.me.sid - 1, 0, 0x01, ptrOf s.pc0 s.prio0, s.headMask, 0#64, false, false⟩
    ∃ t, s.illegal = t ∧ FrontierOk t.me.frontier ∧
      (∀ l ∈ s.headLanes, t.me.place l = some (if s.me.sid = 0 then s.pc0.add s.ctx.len else s.pc0, s.prio0, .parked 0x01)) ∧
      (∀ l, l ∉ s.headLanes → t.me.place l = s.me.place l) ∧
      t = { s with
        me := { s.me with frontier := t.me.frontier }
        crew := { s.crew with recWait := s.crew.recWait ++ [r] }
        agenda := s.agenda ++ [{ op := .trapRecordEnqueue, arg := { a := s.crew.id }, due := s.clock }] }

/-- R212 (with R309): `ERET` in handler mode puts the steward where it stood when the handler was entered and frees the record's place in
the queue, for which the waiting records and the next handler entry are asked; in a group and outside the handler it raises
`ILLEGAL_OP`. -/
def Claims.ReturnFromHandler : Prop :=
  ∀ s : State,
    (∀ e, s.me.sid = 0 → s.me.handler = some e → ∃ t, exec .eret s = .next t ∧
      t = { s with
        me := { s.me with handler := none, frontier := [e] }
        crew := { s.crew with records := s.crew.records.drop 1 }
        agenda := s.agenda ++ [{ op := .trapRecordEnqueue, arg := { a := s.crew.id }, due := s.clock }, { op := .handlerEntry, arg := { a := s.crew.id }, due := s.clock },
          { op := .trapEscalation, arg := { a := s.crew.id }, due := s.clock }] }) ∧
    (s.me.sid ≠ 0 ∨ s.me.handler = none → IllegalIn .eret s)

/-- Branches, calls, exits and joins: where the lanes of the head go. -/
def Obligations.BranchFamily : Prop :=
  Claims.Branches ∧ Claims.Calls ∧ Claims.Exits ∧ Claims.Joins

/-- Traps that a word raises, and the return from a handler. -/
def Obligations.TrapsAndReturn : Prop :=
  Claims.SoftwareTraps ∧ Claims.IllegalOpTrap ∧ Claims.ReturnFromHandler

/-! ### System words (R83, R92, R207 to R216) -/

namespace Sys2Proof.Machine

/-- A number, the width and, for each lane, the value of the registers that a stream can read (R92, R207, R208). -/
def State.sysRegs (s : State) : List (Nat × Nat × (Nat → Quad)) :=
  let all : Nat → Quad := fun _ => 0xFFFFFFFF#64
  let group : Bool := s.me.sid != 0
  [(0x00, 32, fun _ => asReg 32 s.crew.taskId), (0x01, 32, fun _ => asReg 32 s.crew.span), (0x02, 32, fun _ => asReg 32 s.crew.rank),
   (0x03, 32, if group then fun _ => asReg 32 (s.me.sid - 1) else all), (0x04, 32, if group then fun l => asReg 32 l else all),
   (0x05, 32, if group then fun _ => asReg 32 s.me.stage else all), (0x06, 32, fun _ => asReg 32 s.crew.ngroup),
   (0x07, 32, fun _ => asReg 32 s.crew.ncrew), (0x08, 32, fun _ => asReg 32 s.crew.nspan),
   (0x09, 64, fun _ => asReg 64 (if s.myPart.conf.det then s.me.issued else s.clock)), (0x0A, 64, fun _ => s.me.pkr),
   (0x10, 32, fun _ => asReg 32 s.crew.schedsel), (0x11, 32, fun _ => zext s.crew.wtheta), (0x12, 32, fun _ => zext s.crew.wtau),
   (0x13, 32, fun _ => zext s.crew.wseed), (0x14, 64, fun _ => s.myPart.dkstat)] ++
  (List.range 16).map (fun i => (0x20 + i, 64, fun _ => s.crew.largs.getD i 0)) ++
  (if group then []
   else [(0x0B, 32, fun _ => zext s.me.tvec), (0x0C, 32, fun _ => zext s.me.trapcause), (0x0D, 32, fun _ => zext s.me.trappc),
     (0x0E, 32, fun _ => zext s.me.trapmask), (0x0F, 64, fun _ => s.me.trapaddr)])

end Sys2Proof.Machine

/-- R83, R92, R207, R208 and R209: `SRD` and `CLOCK` write the register into d in every head lane, 64 bits into a pair in a group; a
register that the stream cannot read, a number outside R83 and an odd d raise `ILLEGAL_OP`. -/
def Claims.SystemRead : Prop :=
  ∀ (s : State) (d : BitVec 6) (x : BitVec 8),
    (∀ r ∈ s.sysRegs, r.1 = x.toNat → s.pairOk r.2.1 d → GivesReg (.srd d x) s 2 r.2.1 d s.headLanes r.2.2) ∧
    (∀ r ∈ s.sysRegs, r.1 = x.toNat → ¬s.pairOk r.2.1 d → IllegalIn (.srd d x) s) ∧
    ((∀ r ∈ s.sysRegs, r.1 ≠ x.toNat) → IllegalIn (.srd d x) s) ∧
    (s.pairOk 64 d → GivesReg (.clock d) s 2 64 d s.headLanes
      (fun _ => asReg 64 (if s.myPart.conf.det then s.me.issued else s.clock))) ∧
    (¬s.pairOk 64 d → IllegalIn (.clock d) s)

/-- R208 and R209: `SWR` writes `PKR` in either stream, from lane 0 of a pair in a group, and `TVEC`, `WTHETA`, `WTAU` and `WSEED` in a
steward, the reserved bits of `TVEC` ignored (R8); any other number raises `ILLEGAL_OP`. -/
def Claims.SystemWrite : Prop :=
  ∀ (s : State) (d : BitVec 6) (x : BitVec 8),
    let q := s.me.rd 64 d.toNat 0
    let w := lo32 (s.me.rd 32 d.toNat 0)
    (x = 0x0A → s.pairOk 64 d → exec (.swr d x) s = .next { s with me := { s.me with pkr := q } }) ∧
    (x = 0x0B → s.me.sid = 0 → ∃ t, exec (.swr d x) s = .next t ∧ t = { s with me := { s.me with tvec := t.me.tvec } } ∧
      ∀ i < 32, t.me.tvec.getLsbD i = ((i == 31 || decide (i < 26)) && w.getLsbD i)) ∧
    (x = 0x11 → s.me.sid = 0 → exec (.swr d x) s = .next { s with crew := { s.crew with wtheta := w } }) ∧
    (x = 0x12 → s.me.sid = 0 → exec (.swr d x) s = .next { s with crew := { s.crew with wtau := w } }) ∧
    (x = 0x13 → s.me.sid = 0 → exec (.swr d x) s = .next { s with crew := { s.crew with wseed := w } }) ∧
    (¬(x = 0x0A ∧ s.pairOk 64 d) ∧ ¬(x ∈ [0x0B#8, 0x11#8, 0x12#8, 0x13#8] ∧ s.me.sid = 0) → IllegalIn (.swr d x) s)

/-- R216: `PKEY` puts the two low bits of its number into field k of the stream's `PKR`, at issue; every other field keeps its value. -/
def Claims.KeyWrite : Prop :=
  ∀ s : State, let k := s.ctx.imm.toNat / 4 % 32
    ∃ t, exec .pkey s = .next t ∧ t = { s with me := { s.me with pkr := t.me.pkr } } ∧
      ∀ i < 64, t.me.pkr.getLsbD i = if i / 2 = k then s.ctx.imm.getLsbD (i % 2) else s.me.pkr.getLsbD i

namespace Sys2Proof.Machine

/-- R213: a selector that `GRD` (`wr` false) or `GWR` accepts in a crew of `n` groups. -/
def SelectorOk (n : Nat) (wr : Bool) (x : Quad) : Prop :=
  bits x 3 0 ≤ 6 ∧ bits x 7 4 < n ∧ bits x 31 19 = 0 ∧ bits x 63 32 = 0 ∧ (bits x 18 13 = 0 ∨ bits x 3 0 = 0) ∧
  (bits x 12 8 = 0 ∨ bits x 3 0 ∈ [0, 1, 2, 4]) ∧ (wr = true → bits x 3 0 ≠ 4 ∧ bits x 3 0 ≠ 6)

/-- A word whose effect follows 6 cycles after its issue (R214): it is under way, and nothing else has changed. -/
def GivesLate (i : Instr) (s : State) (op : LateOp) (x y : Quad) (d : Nat) : Prop :=
  exec i s = .next { s with
    nextId := s.nextId + 1
    crew := { s.crew with late := s.crew.late ++ [⟨s.clock + 6, s.me.sid, op, x, y, d, s.nextId⟩] }
    me := { s.me with pend := s.me.pend ++ [⟨s.nextId, none, false, [], none, s.here, true, [], s.clock⟩] } }

end Sys2Proof.Machine

/-- R213 to R215: a steward's `GRD`, `GWR`, `GRESUME` and `GKILL` with a selector that is not refused are under way for 6 cycles; a refused
selector and a group raise `ILLEGAL_OP`. -/
def Claims.GroupControl : Prop :=
  ∀ (s : State) (d a : BitVec 6),
    let x := s.me.rdK a.toNat
    let y := s.me.rdK d.toNat
    let n := s.crew.ngroup
    let lanes : Prop := bits x 31 8 = 0 ∧ bits x 3 0 = 0 ∧ bits x 7 4 < n
    (s.me.sid = 0 ∧ SelectorOk n false x → GivesLate (.grd d a) s .grd x 0 d.toNat) ∧
    (s.me.sid = 0 ∧ SelectorOk n true y → GivesLate (.gwr d a) s .gwr y x 0) ∧
    (s.me.sid = 0 ∧ lanes → GivesLate (.gresume a) s .gresume x 0 0 ∧ GivesLate (.gkill a) s .gkill x 0 0) ∧
    (¬(s.me.sid = 0 ∧ SelectorOk n false x) → IllegalIn (.grd d a) s) ∧
    (¬(s.me.sid = 0 ∧ SelectorOk n true y) → IllegalIn (.gwr d a) s) ∧
    (¬(s.me.sid = 0 ∧ lanes) → IllegalIn (.gresume a) s ∧ IllegalIn (.gkill a) s)

/-- R213 and R214: what `GRD` reads of a group that has not retired, by the kind in its selector. -/
def Claims.GroupReads : Prop :=
  ∀ (t : Stream) (x : Quad),
    let l := bits x 12 8
    let v := t.groupRead x
    (bits x 3 0 = 0 → v = zext (t.rdV (bits x 18 13) l)) ∧
    (bits x 3 0 = 1 → v.toNat < 256 ∧ ∀ i < 8, v.getLsbD i = t.rdP i l) ∧
    (bits x 3 0 = 2 → ∀ pc pr st, t.place l = some (pc, pr, st) → v = zext (ptrOf pc pr)) ∧
    (bits x 3 0 = 2 → t.place l = none → v = 0xFFFFFFFF) ∧
    (bits x 3 0 = 3 → v = zext t.expected) ∧
    (bits x 3 0 = 4 → v = match t.place l with
      | some (_, _, .ready) => 0
      | some (_, _, .resuming) => 0
      | some (_, _, .joinWait) => 1
      | some (_, _, .parked c) => BitVec.ofNat 64 (2 + 256 * (c % 256))
      | none => 3) ∧
    (bits x 3 0 = 5 → v = BitVec.ofNat 64 (t.level % 4)) ∧
    (bits x 3 0 = 6 → v.toNat < 2 ^ 12 ∧ ∀ i < 12, v.getLsbD i = (t.cfGet i != 0))

/-- R213 and R214: what `GWR` writes in a group that has not retired, and when it is refused. -/
def Claims.GroupWrites : Prop :=
  ∀ (t : Stream) (x y : Quad), Apart t.frontier →
    let l := bits x 12 8
    let u := (t.groupWrite x y).1
    let ok := (t.groupWrite x y).2
    let parked : Prop := ∃ pc pr c, t.place l = some (pc, pr, .parked c)
    let waiting : Prop := ∃ pc pr, t.place l = some (pc, pr, .joinWait)
    (bits x 3 0 = 0 → parked → ok = true ∧ u = { t with v := u.v } ∧
      ∀ r k, k < 32 → u.rdV r k = if r = bits x 18 13 ∧ k = l then lo32 y else t.rdV r k) ∧
    (bits x 3 0 = 1 → parked → ok = true ∧ u = { t with p := u.p } ∧
      ∀ r k, k < 32 → u.rdP r k = if r < 8 ∧ k = l then y.getLsbD r else t.rdP r k) ∧
    (bits x 3 0 ≤ 1 → ¬parked → ok = false ∧ u = t) ∧
    (bits x 3 0 = 2 → parked ∨ waiting → ok = true ∧ u = { t with frontier := u.frontier } ∧ FrontierOk u.frontier ∧
      (∀ pc pr c, t.place l = some (pc, pr, .parked c) → u.place l = some (ptrPc (lo32 y), ptrPrio (lo32 y), .parked c)) ∧
      (waiting → u.place l = some (ptrPc (lo32 y), ptrPrio (lo32 y), .parked 0)) ∧ ∀ k, k ≠ l → u.place k = t.place k) ∧
    (bits x 3 0 = 2 → ¬(parked ∨ waiting) → ok = false ∧ u = t) ∧
    (bits x 3 0 = 3 → ok = true ∧ u = { t with expected := lo32 y &&& ~~~t.exited }) ∧
    (bits x 3 0 = 5 → ok = true ∧ u = { t with newLevel := some (bits y 1 0) })

/-- R213, R214: the step of a `GRD` or `GWR` that is due. The steward's result `p` of the word writes back: what `GRD` reads of the group, and
whether the group had not retired and the write was allowed; the group is as `GWR` leaves it, and its `JOIN`s are tested. -/
def Claims.LateReadsAndWrites : Prop :=
  ∀ (s : State) (n : Nat) (l : Late) (u : Stream) (p : Pend),
    l.sid = 0 → s.streamOf ⟨n, 0⟩ = some u → u.pend.find? (fun p => p.id == l.id) = some p →
    let g : Ref := ⟨n, bits l.x 7 4 + 1⟩
    let t := s.runLate n l
    let result (ws : List RegWrite) : Prop := t.streamOf ⟨n, 0⟩ = some (u.writeback s.clock { p with writes := ws })
    (∀ w, s.streamOf g = some w → w.retired = false →
      (l.op = .grd → result [.k l.d (w.groupRead l.x), kp7 true] ∧ t.streamOf g = some w) ∧
      (l.op = .gwr → result [kp7 (w.groupWrite l.x l.y).2] ∧ t.streamOf g = some (w.groupWrite l.x l.y).1 ∧
        t.agenda = s.agenda ++ [{ op := .joinRelease, arg := { r := g }, due := s.clock }])) ∧
    ((∀ w, s.streamOf g = some w → w.retired = true) →
      (l.op = .grd → result [.k l.d 0#64, kp7 false]) ∧ (l.op = .gwr → result [kp7 false]) ∧
      (l.op = .grd ∨ l.op = .gwr → t.streamOf g = s.streamOf g))

/-- R215: the step of a `GRESUME` or `GKILL` that is due, of a group that has not retired. Each lane of MASK that is parked resumes: with an
invalid PC it stays parked with `ACCESS` and has a record; at a `JOIN` it waits if it is expected; else it takes its turn from the next cycle.
`GKILL` makes those lanes exit. Every other lane stays where it is, a lane that waits at a `JOIN` under the higher priority of those that join
it there. -/
def Claims.LateResumesAndKills : Prop :=
  ∀ (s : State) (n : Nat) (l : Late) (w : Stream) (c : Crew) (k : Task), let g : Ref := ⟨n, bits l.x 7 4 + 1⟩
    l.sid = 0 → s.streamOf g = some w → w.retired = false → Apart w.frontier → s.crewOf n = some c → s.taskOf c.task = some k →
    let t := s.runLate n l
    let hit (i : Nat) : Prop := l.x.getLsbD (32 + i) = true ∧ ∃ pc pr x, w.place i = some (pc, pr, .parked x)
    let valid (pc : Pc) : Prop := pc.slot < 3 ∧ pc.packet < k.kernel.gpkts
    let waits (i : Nat) (pc : Pc) : Prop := w.expected.getLsbD i = true ∧ ∃ x, s.codeWord c.part k.kernel.gcode pc = some x ∧ isJoin x = true
    (l.op = .gresume → ∃ u c' rs, t.streamOf g = some u ∧ u = { w with frontier := u.frontier } ∧ t.crewOf n = some c' ∧
      c'.recWait = c.recWait ++ rs ∧
      (∀ i < 32, ∀ pc pr x, l.x.getLsbD (32 + i) = true → w.place i = some (pc, pr, .parked x) →
        (¬valid pc → u.place i = some (pc, pr, .parked 0x03)) ∧
        (valid pc → waits i pc → ∃ pr', pr ≤ pr' ∧ u.place i = some (pc, pr', .joinWait)) ∧
        (valid pc → ¬waits i pc → u.place i = some (pc, pr, .resuming))) ∧
      (∀ i < 32, ¬hit i → u.place i = w.place i ∨ ∃ pc pr pr', w.place i = some (pc, pr, .joinWait) ∧ pr ≤ pr' ∧
        u.place i = some (pc, pr', .joinWait)) ∧
      rs.Pairwise (fun a b => a.mask.toNat < b.mask.toNat) ∧
      (∀ r ∈ rs, r.src = false ∧ r.group = w.sid - 1 ∧ r.cause = 0x03) ∧
      (∀ i < 32, (∃ r ∈ rs, r.mask = 1#32 <<< i) ↔ l.x.getLsbD (32 + i) = true ∧
        ∃ pc pr x, w.place i = some (pc, pr, .parked x) ∧ ¬valid pc)) ∧
    (l.op = .gkill → ∃ u, t.streamOf g = some u ∧
      (∀ i < 32, (hit i → u.place i = none) ∧ (¬hit i → u.place i = w.place i)) ∧
      ∀ i < 32, u.exited.getLsbD i = true ↔ w.exited.getLsbD i = true ∨ hit i)

/-- System registers, key rights, and a steward's access to its groups. -/
def Obligations.SystemAccess : Prop :=
  Claims.SystemRead ∧ Claims.SystemWrite ∧ Claims.KeyWrite ∧ Claims.GroupControl ∧ Claims.GroupReads ∧ Claims.GroupWrites ∧
  Claims.LateReadsAndWrites ∧ Claims.LateResumesAndKills

/-! ### Memory words (R217 to R235) -/

namespace Sys2Proof.Machine

/-- A leaf lets a core's access through (R220, R317, R30, R34): core-accessible, not migrating, the rights the access needs, no peer page, a
host page for writes only, a package page in service; and the stream's `PKR` does not refuse the page's key (R216). -/
def State.LeafAllows (s : State) (leaf : Quad) (sh va : Nat) (w : Want) : Prop :=
  leaf.getLsbD 58 = true ∧ leaf.getLsbD 59 = false ∧ (w ≠ .write → leaf.getLsbD 56 = true) ∧ (w ≠ .read → leaf.getLsbD 57 = true) ∧
  bits leaf 61 60 ≠ 2 ∧ (bits leaf 61 60 = 1 → w = .write) ∧ (bits leaf 61 60 = 0 → s.frameUp (leafHome leaf sh va) = true) ∧
  s.me.pkr.getLsbD (2 * bits leaf 55 51) = false ∧ (w ≠ .read → s.me.pkr.getLsbD (2 * bits leaf 55 51 + 1) = false)

/-- A crew whose scratchpad share a rank names (R151). -/
def State.RankNames (s : State) (rank : Nat) (c : Crew) : Prop :=
  if rank = 15 then c = s.crew
  else rank < 12 ∧ c ∈ s.allCrews ∧ c.task = s.crew.task ∧ c.span = s.crew.span ∧ c.rank = rank

end Sys2Proof.Machine

/-- R150, R151, R217 to R220: where an access of `n` bytes of a lane leads, and the cause with which it is refused, by the tag of its
generic address `x`; `nib` exempts the nibble-select bit. -/
def Claims.Addressing : Prop :=
  ∀ (s : State) (l : Nat) (x : Quad) (n : Nat) (nib : Bool) (w : Want), 0 < n →
    let a := x.toNat
    let r := s.resolve l x n n nib w
    let bad (c : Nat) : Prop := r = .trap c x
    -- global
    (a < 2 ^ 57 ∨ (nib = true ∧ a < 2 ^ 58) →
      let va := a % 2 ^ 57
      (va % n ≠ 0 → bad 0x04) ∧
      (va % n = 0 → ∀ leaf sh, s.leafFor s.crew.core s.crew.part va = some (leaf, sh) →
        (s.LeafAllows leaf sh va w → r = .ok (if bits leaf 61 60 = 1 then .host else .global) (leafHome leaf sh va) va) ∧
        (¬s.LeafAllows leaf sh va w → bad 0x03)) ∧
      (va % n = 0 → s.leafFor s.crew.core s.crew.part va = none → bad 0x03)) ∧
    -- scratchpad
    (a / 2 ^ 60 = 0xA ∧ a / 2 ^ 21 % 2 ^ 35 = 0 ∧ (nib = true ∨ a % 2 ^ 21 < 2 ^ 20) →
      let o := a % 2 ^ 20
      (∀ c, s.RankNames (a / 2 ^ 56 % 16) c → (∀ c', s.RankNames (a / 2 ^ 56 % 16) c' → c' = c) →
        (o + n ≤ c.shareSize → o % n = 0 → r = .ok .scratch (c.shareHome + o) 0) ∧
        (o + n ≤ c.shareSize → o % n ≠ 0 → bad 0x04) ∧
        (c.shareSize < o + n → bad 0x03)) ∧
      ((∀ c, ¬s.RankNames (a / 2 ^ 56 % 16) c) → bad 0x03)) ∧
    -- stack window
    (a / 2 ^ 60 = 0xB ∧ a / 2 ^ 17 % 2 ^ 43 = 0 ∧ (nib = true ∨ a % 2 ^ 17 < 2 ^ 16) →
      let o := a % 2 ^ 16
      (o % n = 0 → r = .ok .stack (stackHome s.crew.part s.crew.core s.crew.slot s.me.sid l + o) 0) ∧
      (o % n ≠ 0 → bad 0x04)) ∧
    -- everything else
    (¬(a < 2 ^ 57 ∨ (nib = true ∧ a < 2 ^ 58)) ∧
      ¬(a / 2 ^ 60 = 0xA ∧ a / 2 ^ 21 % 2 ^ 35 = 0 ∧ (nib = true ∨ a % 2 ^ 21 < 2 ^ 20)) ∧
      ¬(a / 2 ^ 60 = 0xB ∧ a / 2 ^ 17 % 2 ^ 43 = 0 ∧ (nib = true ∨ a % 2 ^ 17 < 2 ^ 16)) → bad 0x03)

/-- R217 and R218: the address a lane forms. A `.G` form adds the offset to its base modulo 2^64; a `.S` form is the rank-0xF scratchpad
access at its 32-bit base plus the offset, refused outside 20 bits, 21 in the 4-bit forms. -/
def Claims.EffectiveAddresses : Prop :=
  ∀ (s : State) (a : BitVec 6) (n k l : Nat) (nib : Bool) (w : Want),
    let off : Int := match s.ctx.lit with | some x => x.toInt | none => 0
    let ea := BitVec.ofInt 64 ((s.opN 64 a l : Int) + off)
    let o : Int := (s.opN 32 a l : Int) + off
    let lim : Int := if nib then 2 ^ 21 else 2 ^ 20
    s.access false a n k nib w l = ⟨l, ea, s.resolve l ea n k nib w⟩ ∧
    (0 ≤ o ∧ o < lim → ∃ x : Quad, x.toNat = 0xAF * 2 ^ 56 + o.toNat ∧ s.access true a n k nib w l = ⟨l, x, s.resolve l x n k nib w⟩) ∧
    (¬(0 ≤ o ∧ o < lim) → ∃ x : Quad, bits x 63 56 = 0xAF ∧ s.access true a n k nib w l = ⟨l, x, .trap 0x03 x⟩)

namespace Sys2Proof.Machine

/-- Registers that a memory form of `n` bytes allows (R73, R217, R224): in a group a pair for a `.G` base and for 64 bits, four registers
from a multiple of 4 for 128 bits; in a steward an even register for 128 bits. -/
def State.MemRegs (s : State) (sp : Bool) (n : Nat) (d a : BitVec 6) : Prop :=
  if s.me.sid = 0 then n = 16 → d.toNat % 2 = 0
  else (sp = false → a.toNat % 2 = 0) ∧ (n = 8 → d.toNat % 2 = 0) ∧ (n = 16 → d.toNat % 4 = 0)

/-- Every head lane is among the lanes that failed their checks. -/
def State.AllFail (s : State) (xs : List LaneAcc) : Prop :=
  failures xs ≠ [] ∧ ∀ l ∈ s.headLanes, l ∈ (failures xs).map Prod.fst

/-- The lanes of `xs` are head lanes that failed or passed; a word whose head fails whole takes the traps and nothing else; any other has
its effect `f` for the lanes that pass, and the others take their traps (R91, R220). -/
def ActsOrTraps (i : Instr) (s : State) (xs : List LaneAcc) (f : State → Prop) : Prop :=
  (s.AllFail xs → exec i s = .next (s.trapFailed (failures xs))) ∧
  (¬s.AllFail xs → ∃ t, f t ∧ exec i s = .next (t.trapFailed (failures xs)))

/-- `t` is `s` with one use more under way, result `s.nextId`, counted in the flag that `f` names (R117), and with its request `q` to the
homes of `ls`, which `op` asks for once each (R154, R233). Without lanes the result is there at once (R74). Memory, registers and every
other part of the state are as in `s`. -/
def State.Asks (s t : State) (f : BitVec 4) (reg : Bool) (kind : ReqKind) (d : BitVec 6) (op : Instr) (ls : List LaneReq) : Prop :=
  t = { s with
    nextId := s.nextId + 1
    me := { s.me with cf := t.me.cf, pend := t.me.pend, reqs := s.me.reqs ++ [⟨s.nextId, kind, d.toNat, ls, [], none⟩] }
    agenda := t.agenda } ∧
  (∀ k, t.me.cfGet k = s.me.cfGet k + if k < 12 ∧ k = f.toNat then 1 else 0) ∧
  (ls ≠ [] → t.me.pend = s.me.pend ++ [⟨s.nextId, none, false, [], flagOf f, s.here, reg, [], s.clock⟩] ∧
    ∃ hs : List Nat, hs.Nodup ∧ (∀ h, h ∈ hs ↔ ∃ x ∈ ls, x.home = h) ∧
      t.agenda.map (fun e => (e.op, e.arg)) = s.agenda.map (fun e => (e.op, e.arg)) ++
        hs.map (fun h => (op, { r := s.self, a := s.nextId, b := h }))) ∧
  (ls = [] → (⟨s.nextId, none, true, [], flagOf f, s.here, reg, [], s.clock⟩ : Pend) ∈ t.me.pend ∧
    t.agenda = s.agenda ++ [{ op := .resultWriteback, arg := { r := s.self, a := s.nextId }, due := s.clock }])

/-- The loads (R88, R224): word, crew-relative, bytes, 4-bit, sign-extending, steward only. -/
def loadForms (d a : BitVec 6) (f : BitVec 4) (g : BitVec 1) : List (Instr × Bool × Nat × Bool × Bool × Bool) :=
  [(.ldG4 d a f g, false, 1, true, false, false), (.ldG8 d a f g, false, 1, false, false, false),
   (.ldG16 d a f g, false, 2, false, false, false), (.ldG32 d a f g, false, 4, false, false, false),
   (.ldG64 d a f g, false, 8, false, false, false), (.ldG128 d a f g, false, 16, false, false, false),
   (.ldG4Signed d a f g, false, 1, true, true, false), (.ldG8Signed d a f g, false, 1, false, true, false),
   (.ldG16Signed d a f g, false, 2, false, true, false), (.ldG32Signed d a f g, false, 4, false, true, true),
   (.ldS4 d a f g, true, 1, true, false, false), (.ldS8 d a f g, true, 1, false, false, false),
   (.ldS16 d a f g, true, 2, false, false, false), (.ldS32 d a f g, true, 4, false, false, false),
   (.ldS64 d a f g, true, 8, false, false, false), (.ldS128 d a f g, true, 16, false, false, false),
   (.ldS4Signed d a f g, true, 1, true, true, false), (.ldS8Signed d a f g, true, 1, false, true, false),
   (.ldS16Signed d a f g, true, 2, false, true, false), (.ldS32Signed d a f g, true, 4, false, true, true)]

end Sys2Proof.Machine

/-- R224, R225 (with R217 to R220, R73, R117): a load asks the home of each active lane that passes its checks for its bytes; a register
field outside the limits raises `ILLEGAL_OP`. Nothing in memory changes. -/
def Claims.Loads : Prop :=
  ∀ (s : State) (d a : BitVec 6) (f : BitVec 4) (g : BitVec 1), ∀ x ∈ loadForms d a f g,
    let xs := (s.lanes g).map (s.access x.2.1 a x.2.2.1 x.2.2.1 x.2.2.2.1 .read)
    let ok : Prop := s.MemRegs x.2.1 x.2.2.1 d a ∧ (x.2.2.2.2.2 = true → s.me.sid = 0)
    (ok → ActsOrTraps x.1 s xs (fun t =>
      s.Asks t f true (.load x.2.2.1 x.2.2.2.1 x.2.2.2.2.1) d .readPerform (laneReqs xs (fun _ => 0) (fun _ => 0)))) ∧
    (¬ok → IllegalIn x.1 s)

namespace Sys2Proof.Machine

/-- The check of one lane of an `LDPF` beyond that of its line (R227). -/
def State.LdpfLane (s : State) (d a : BitVec 6) (l : Nat) (x : LaneAcc) : Prop :=
  let y := s.access false a 512 512 false .read l
  let o := s.opN 32 d l
  x.lane = l ∧ x.ea = y.ea ∧
  (2 ^ 63 ≤ y.ea.toNat → x.target = .trap 0x03 y.ea) ∧
  (y.ea.toNat < 2 ^ 63 → (∀ c q, y.target = .trap c q → x.target = .trap c q) ∧
    (∀ sp h va, y.target = .ok sp h va →
      (o % 512 ≠ 0 → x.target = .trap 0x04 y.ea) ∧
      (o % 512 = 0 → s.crew.shareSize < o + 512 → x.target = .trap 0x03 (BitVec.ofNat 64 o)) ∧
      (o % 512 = 0 → o + 512 ≤ s.crew.shareSize → x.target = .ok sp h va)))

end Sys2Proof.Machine

/-- R227: `LDPF` asks for eight runs of 64 bytes of each line, each with the scratchpad bytes it fills; of lanes that name one slot only
the highest fills it. The writes of those bytes are writes of the lane, under way from its issue. -/
def Claims.LineFill : Prop :=
  ∀ (s : State) (d a : BitVec 6) (f : BitVec 4) (g : BitVec 1),
    (s.me.sid = 0 ∨ a.toNat % 2 = 0 → ∃ (xs : List LaneAcc) (ls : List LaneReq),
      List.Forall₂ (s.LdpfLane d a) (s.lanes g) xs ∧
      ActsOrTraps (.ldpf d a f g) s xs (fun t => ∃ u ws, s.Asks u f false .ldpf d .readPerform ls ∧
        t = { u with me := { u.me with direct := s.me.direct ++ ws } } ∧
        ws.map (fun w => (w.lane, w.home)) = ls.filterMap (fun r => r.dst.map (fun h => (r.lane, h))) ∧
        ∀ w ∈ ws, w.id = s.nextId ∧ w.rid = s.nextId ∧ w.agent = s.self ∧ w.data.length = 64 ∧ w.space = .scratch) ∧
      (∀ x ∈ xs, ∀ sp h va, x.target = .ok sp h va → ∀ k < 8, ∃ r ∈ ls, r.lane = x.lane ∧ r.home = h + 64 * k ∧
        let above : Prop := ∃ y ∈ xs, (∃ sp h va, y.target = .ok sp h va) ∧ x.lane < y.lane ∧ s.opN 32 d y.lane = s.opN 32 d x.lane
        (above → r.dst = none) ∧ (¬above → r.dst = some (s.crew.shareHome + s.opN 32 d x.lane + 64 * k))) ∧
      (∀ r ∈ ls, ∃ x ∈ xs, r.lane = x.lane ∧ ∃ sp h va, x.target = .ok sp h va ∧ ∃ k < 8, r.home = h + 64 * k)) ∧
    (¬(s.me.sid = 0 ∨ a.toNat % 2 = 0) → IllegalIn (.ldpf d a f g) s)

namespace Sys2Proof.Machine

/-- `t` is `s` with the writes `ws` of one storing word in the issuing stream's buffer, in order, each to be drained (R154, R226). -/
def State.Buffers (s t : State) (f : BitVec 4) (ws : List PWrite) : Prop :=
  t = { s with
    nextId := s.nextId + 1 + ws.length
    me := { s.me with cf := t.me.cf, pend := t.me.pend, wb := s.me.wb ++ ws }
    agenda := t.agenda } ∧
  (∀ k, t.me.cfGet k = s.me.cfGet k + if k < 12 ∧ k = f.toNat then 1 else 0) ∧
  (∀ i (h : i < ws.length), (ws[i]).id = s.nextId + 1 + i ∧ (ws[i]).rid = s.nextId ∧ (ws[i]).agent = s.self ∧ (ws[i]).part = s.crew.part) ∧
  (ws ≠ [] → t.me.pend = s.me.pend ++ [⟨s.nextId, none, false, [], flagOf f, s.here, false, [], s.clock⟩] ∧
    ∃ es, t.agenda = s.agenda ++ es ∧ (∀ w ∈ ws, ∃ e ∈ es, e.op = .writeDrain ∧ e.arg.src = .wb s.self ∧ e.arg.a = w.id)) ∧
  (ws = [] → (⟨s.nextId, none, true, [], flagOf f, s.here, false, [], s.clock⟩ : Pend) ∈ t.me.pend)

/-- The writes of one word (R159, R160, R226): each comes from a lane that passed, to that lane's home, of the low bytes of its source,
or of one nibble under its mask; of the lanes that write one place only the highest does, and every lane that passed is among them or
below one that is. -/
structure State.WritesOf (s : State) (xs : List LaneAcc) (n : Nat) (nib : Bool) (d : BitVec 6) (ws : List PWrite) : Prop where
  source : ∀ w ∈ ws, ∃ x ∈ xs, x.lane = w.lane ∧ x.target = .ok w.space w.home w.va ∧
    w.data = if nib then (if nibSel x.ea then [(BitVec.ofNat 8 (s.opN 32 d x.lane % 16 * 16), 0xF0)]
        else [(BitVec.ofNat 8 (s.opN 32 d x.lane % 16), 0x0F)])
      else (List.range n).map (fun i => (BitVec.ofNat 8
        ((if n = 16 then (if s.me.sid = 0 then s.opN 64 d x.lane + 2 ^ 64 * s.opN 64 (d + 1) x.lane
            else s.opN 64 d x.lane + 2 ^ 64 * s.opN 64 (d + 2) x.lane)
          else if n = 8 then s.opN 64 d x.lane else s.opN 32 d x.lane) / 2 ^ (8 * i)), 0xFF))
  every : ∀ x ∈ xs, ∀ sp h va, x.target = .ok sp h va → ∃ w ∈ ws, w.home = h ∧ x.lane ≤ w.lane ∧
    (nib = true → ∃ y ∈ xs, y.lane = w.lane ∧ nibSel y.ea = nibSel x.ea)
  once : ws.Pairwise (fun v w => v.home = w.home → v.data.map Prod.snd ≠ w.data.map Prod.snd)

/-- The stores (R88, R224): word, crew-relative, bytes, 4-bit. -/
def storeForms (d a : BitVec 6) (f : BitVec 4) (g : BitVec 1) : List (Instr × Bool × Nat × Bool) :=
  [(.stG4 d a f g, false, 1, true), (.stG8 d a f g, false, 1, false), (.stG16 d a f g, false, 2, false), (.stG32 d a f g, false, 4, false),
   (.stG64 d a f g, false, 8, false), (.stG128 d a f g, false, 16, false), (.stS4 d a f g, true, 1, true),
   (.stS8 d a f g, true, 1, false), (.stS16 d a f g, true, 2, false), (.stS32 d a f g, true, 4, false), (.stS64 d a f g, true, 8, false),
   (.stS128 d a f g, true, 16, false)]

end Sys2Proof.Machine

/-- R224, R226 (with R159, R160, R217 to R220): a store puts one write for each active lane that passes its checks into the stream's
write buffer; memory changes only when they drain. -/
def Claims.Stores : Prop :=
  ∀ (s : State) (d a : BitVec 6) (f : BitVec 4) (g : BitVec 1), ∀ x ∈ storeForms d a f g,
    let xs := (s.lanes g).map (s.access x.2.1 a x.2.2.1 x.2.2.1 x.2.2.2 .write)
    (s.MemRegs x.2.1 x.2.2.1 d a → ∃ ws, ActsOrTraps x.1 s xs (fun t => s.Buffers t f ws) ∧
      s.WritesOf xs x.2.2.1 x.2.2.2 d ws ∧ ∀ w ∈ ws, w.eddy = none) ∧
    (¬s.MemRegs x.2.1 x.2.2.1 d a → IllegalIn x.1 s)

namespace Sys2Proof.Machine

/-- The Eddy lines of `t` (R230): every line of `s` is still there, with what it carried, and each request of `qs` (home, number, lane) is
on an open line of its 64 bytes, whose window ends at most W cycles after its issue. -/
def State.OnEddy (s t : State) (wr : Bool) (qs : List (Nat × Nat × Nat)) : Prop :=
  (∀ e ∈ s.eddy, ∃ e' ∈ t.eddy, e' = { e with reqs := e'.reqs } ∧ e.reqs <+: e'.reqs) ∧
  ∀ q ∈ qs, ∃ e ∈ t.eddy, e.core = s.crew.core ∧ e.part = s.crew.part ∧ e.line = q.1 / 64 ∧ e.wr = wr ∧ s.clock ≤ e.closes ∧
    (s.eddy = [] → e.closes = s.clock + s.myPart.conf.eddyW) ∧ (s.self, q.2) ∈ e.reqs

end Sys2Proof.Machine

/-- R229 and R230: `GATH` and `SCAT` have the effect of `LD.G` and `ST.G` of their width for global addresses, but that their requests
wait in the Eddy of the core for its window; in a steward they raise `ILLEGAL_OP`. -/
def Claims.GatherScatter : Prop :=
  ∀ (s : State) (d a : BitVec 6) (f : BitVec 4) (g : BitVec 1) (n : Nat), n = 4 ∨ n = 8 →
    let gath : Instr := if n = 4 then .gath32 d a f g else .gath64 d a f g
    let scat : Instr := if n = 4 then .scat32 d a f g else .scat64 d a f g
    let acc (w : Want) : List LaneAcc := (s.lanes g).map (fun l =>
      let y := s.access false a n n false w l
      if y.ea.toNat < 2 ^ 63 then y else { y with target := .trap 0x03 y.ea })
    (s.me.sid ≠ 0 ∧ s.MemRegs false n d a →
      ActsOrTraps gath s (acc .read) (fun t =>
        ∃ u : State, u = { t with eddy := s.eddy, agenda := u.agenda } ∧
          (laneReqs (acc .read) (fun _ => 0) (fun _ => 0) ≠ [] → u.agenda = s.agenda ∧
            u.me.pend = s.me.pend ++ [⟨s.nextId, none, false, [], flagOf f, s.here, true, [], s.clock⟩]) ∧
          u = { s with
            nextId := s.nextId + 1
            me := { s.me with cf := u.me.cf, pend := u.me.pend, reqs := s.me.reqs ++
              [⟨s.nextId, .load n false false, d.toNat, laneReqs (acc .read) (fun _ => 0) (fun _ => 0), [], none⟩] }
            agenda := u.agenda } ∧
          (∀ k, u.me.cfGet k = s.me.cfGet k + if k < 12 ∧ k = f.toNat then 1 else 0) ∧
          s.OnEddy t false ((laneReqs (acc .read) (fun _ => 0) (fun _ => 0)).map (fun x => (x.home, s.nextId, x.lane)))) ∧
      ∃ ws, s.WritesOf (acc .write) n false d ws ∧ (∀ w ∈ ws, w.eddy = some (w.home / 64)) ∧
        ActsOrTraps scat s (acc .write) (fun t =>
          ∃ (u : State) (ids : List (Nat × Nat × Nat)), u = { t with eddy := s.eddy, agenda := u.agenda } ∧ s.Buffers u f (ws.mapIdx (fun i (w : PWrite) => { w with id := s.nextId + 1 + i })) ∧
            ids = ws.mapIdx (fun i (w : PWrite) => (w.home, s.nextId + 1 + i, w.lane)) ∧ s.OnEddy t true ids)) ∧
    (s.me.sid = 0 ∨ ¬s.MemRegs false n d a → IllegalIn gath s ∧ IllegalIn scat s)

namespace Sys2Proof.Machine

/-- The atomics and reductions (R88, R232): word, operation, whether the old value returns. -/
def atomicForms (d a : BitVec 6) (f : BitVec 4) (g : BitVec 1) : List (Instr × AtomOp × Bool) :=
  [(.atomAdd d a f g, .add, true), (.atomMin d a f g, .min, true), (.atomMax d a f g, .max, true), (.atomExch d a f g, .exch, true),
   (.atomAnd d a f g, .and, true), (.atomOr d a f g, .or, true), (.atomXor d a f g, .xor, true), (.cas d a f g, .cas, true),
   (.redAdd d a f g, .add, false), (.redMin d a f g, .min, false), (.redMax d a f g, .max, false), (.redAddF32 d a f g, .addF32, false)]

end Sys2Proof.Machine

/-- R232 to R234: an atomic or reduction asks the home of each active lane that passes for one operation at the natural width, `TKGET` and
`TKNEXT` at 8 global bytes; `CAS` takes its operands from an even pair, `RED.ADD.F32` runs in a group only. -/
def Claims.Atomics : Prop :=
  ∀ (s : State) (d a : BitVec 6) (f : BitVec 4) (g : BitVec 1),
    let w := s.natW
    let base : Prop := s.me.sid = 0 ∨ a.toNat % 2 = 0
    let atom : List LaneAcc := (s.lanes g).map (fun l =>
      let y := s.access false a (w / 8) (w / 8) false .readWrite l
      if bits y.ea 63 60 = 0xB then { y with target := .trap 0x03 y.ea } else y)
    let tick : List LaneAcc := (s.lanes g).map (fun l =>
      let y := s.access false a 8 8 false .readWrite l
      if y.ea.toNat < 2 ^ 63 then y else { y with target := .trap 0x03 y.ea })
    (∀ x ∈ atomicForms d a f g,
      let ok : Prop := base ∧ (x.2.1 = .cas → d.toNat % 2 = 0) ∧ (x.2.1 = .addF32 → s.me.sid ≠ 0)
      (ok → ActsOrTraps x.1 s atom (fun t => s.Asks t f x.2.2 (.atomic x.2.1 (w / 8) x.2.2) d .atomicPerform
        (laneReqs atom (fun l => BitVec.ofNat 64 (s.opN w d l))
          (fun l => s.me.rd w (d.toNat + 1) l)))) ∧
      (¬ok → IllegalIn x.1 s)) ∧
    (base → ActsOrTraps (.tkget d a f g) s tick (fun t => s.Asks t f true .tkget d .atomicPerform (laneReqs tick (fun _ => 0) (fun _ => 0))) ∧
      ActsOrTraps (.tknext d a f g) s tick (fun t => s.Asks t f true .tknext d .tknextPerform (laneReqs tick (fun _ => 0) (fun _ => 0)))) ∧
    (¬base → IllegalIn (.tkget d a f g) s ∧ IllegalIn (.tknext d a f g) s)

/-- R220 (with R306, R308): lanes that failed checks are parked at the first word of the chain, one entry for each cause; the others stand where
they stood. Each cause makes one record, in ascending order, with its lanes as MASK and the address of the first of them. Where a steward that
fails a check stands, and MASK 0 in its record, is the model's reading (log entry 32). -/
def Claims.FailedChecks : Prop :=
  ∀ (s : State) (e : Entry) (bad : List (Nat × Nat × Nat × Quad)),
    s.me.head = some e → Apart s.me.frontier → bad ≠ [] → (∀ f ∈ bad, f.1 ∈ s.headLanes ∧ f.2.1 < 16) → (bad.map Prod.fst).Nodup →
    let t := s.trapFailed bad
    ∃ rs : List TrapRec,
      t = { s with
        me := { s.me with frontier := t.me.frontier }
        crew := { s.crew with recWait := s.crew.recWait ++ rs }
        agenda := s.agenda ++ rs.map (fun _ => { op := .trapRecordEnqueue, arg := { a := s.crew.id }, due := s.clock }) } ∧
      FrontierOk t.me.frontier ∧
      (∀ f ∈ bad, t.me.place f.1 = some (if s.me.sid = 0 then s.pc0.add s.ctx.len else s.pc0, s.prio0, .parked f.2.1)) ∧
      (∀ l, l ∉ bad.map Prod.fst → t.me.place l = s.me.place l) ∧
      rs.Pairwise (fun a b => a.cause < b.cause) ∧ (∀ c, (∃ r ∈ rs, r.cause = c) ↔ ∃ f ∈ bad, f.2.1 = c) ∧
      ∀ r ∈ rs, r.pc = ptrOf s.pc0 s.prio0 ∧ r.src = decide (s.me.sid = 0) ∧
        (s.me.sid ≠ 0 → r.group = s.me.sid - 1 ∧ ∀ l < 32, r.mask.getLsbD l = true ↔ ∃ f ∈ bad, f.1 = l ∧ f.2.1 = r.cause) ∧
        ∃ f, bad.find? (fun f => f.2.1 == r.cause) = some f ∧ r.code = f.2.2.1 ∧ r.addr = f.2.2.2

namespace Sys2Proof.Machine

/-- One lane of a tag instruction (R172, R228), `fn` 0 `TLOOK`, 1 `TINS`, 2 `TEVICT`, 3 `TINV`, over the tag table `T` before and `U`
after it: its value for d, or its trap. -/
def State.TagLane (s : State) (fn : Nat) (d a : BitVec 6) (l : Nat) (T U : Table (Option TagEnt)) (r : Quad ⊕ (Nat × Quad)) : Prop :=
  let x := BitVec.ofInt 64 ((s.opN 64 a l : Int) + (match s.ctx.lit with | some y => y.toInt | none => 0))
  let n := s.opN 32 d l
  let line := x.toNat / 512 * 512
  let seen (e : TagEnt) (k : Nat) : Prop := (k, some e) ∈ T ∧ e.line = line ∧ s.tagVisible k e = true
  let miss : Prop := ∀ k e, ¬seen e k
  let noSlot : Prop := s.crew.shareSize / 512 ≤ n
  if fn ≠ 2 ∧ 2 ^ 57 ≤ x.toNat then U = T ∧ r = .inr (0x03, x)
  else if (fn = 1 ∨ fn = 2) ∧ noSlot then U = T ∧ r = .inr (0x03, BitVec.ofNat 64 n)
  else if fn = 0 then U = T ∧ (miss → r = .inl 0xFFFFFFFF) ∧ (¬miss → ∃ k e, seen e k ∧ r = .inl (BitVec.ofNat 64 (k % 2 ^ 32)))
  else if fn = 1 then
    (x.toNat % 512 ≠ 0 → U = T ∧ r = .inr (0x04, x)) ∧
    (x.toNat % 512 = 0 → tget none T n ≠ none → U = T ∧ r = .inl 1) ∧
    (x.toNat % 512 = 0 → tget none T n = none →
      ((∃ k e, (k, some e) ∈ T ∧ e.line = line) → U = T ∧ r = .inl 2) ∧
      ((∀ k e, (k, some e) ∈ T → e.line ≠ line) → r = .inl 0 ∧ tget none U n = some ⟨line, s.self, l, s.nextId⟩ ∧
        ∀ k, k ≠ n → tget none U k = tget none T k))
  else if fn = 2 then tget none U n = none ∧ (∀ k, k ≠ n → tget none U k = tget none T k) ∧
    r = .inl (match tget none T n with | some e => BitVec.ofNat 64 e.line | none => BitVec.ofNat 64 (2 ^ 64 - 1))
  else (miss → U = T ∧ r = .inl 0xFFFFFFFF) ∧
    (¬miss → ∃ k e, seen e k ∧ r = .inl (BitVec.ofNat 64 (k % 2 ^ 32)) ∧ tget none U k = none ∧ ∀ j, j ≠ k → tget none U j = tget none T j)

end Sys2Proof.Machine

/-- R228: the tag instructions act for their active lanes in ascending order, each on the table that the lane before it left; the lanes
that pass get their values 8 cycles after issue, and the others take their traps. -/
def Obligations.TagTable : Prop :=
  ∀ (s : State) (d a : BitVec 6) (f : BitVec 4) (g : BitVec 1),
    ∀ x ∈ [(Instr.tlook d a f g, 0, 32), (Instr.tins d a f g, 1, 32), (Instr.tevict d f g, 2, 64), (Instr.tinv d a f g, 3, 32)],
      let fn := x.2.1
      let ok : Prop := s.me.sid = 0 ∨ (if fn = 2 then d.toNat % 2 = 0 else a.toNat % 2 = 0)
      (¬ok → IllegalIn x.1 s) ∧
      (ok → ∃ (T : Nat → Table (Option TagEnt)) (r : Nat → Quad ⊕ (Nat × Quad)), T 0 = s.crew.tags ∧
        (∀ i (h : i < (s.lanes g).length), s.TagLane fn d a (s.lanes g)[i] (T i) (T (i + 1)) (r ((s.lanes g)[i]))) ∧
        let bad := (s.lanes g).filterMap (fun l => match r l with | .inr y => some (l, y.1, 0, y.2) | .inl _ => none)
        (bad ≠ [] ∧ (∀ l ∈ s.headLanes, l ∈ bad.map Prod.fst) → exec x.1 s = .next (s.trapFailed bad)) ∧
        (¬(bad ≠ [] ∧ ∀ l ∈ s.headLanes, l ∈ bad.map Prod.fst) → ∃ (t : State) (p : Pend), exec x.1 s = .next (t.trapFailed bad) ∧
          t = { s with
            nextId := s.nextId + 1
            crew := { s.crew with tags := T (s.lanes g).length }
            me := { s.me with cf := t.me.cf, pend := s.me.pend ++ [p] } } ∧
          (∀ k, t.me.cfGet k = s.me.cfGet k + if k < 12 ∧ k = f.toNat then 1 else 0) ∧
          p.due = some (s.clock + 8) ∧ p.flag = flagOf f ∧
          s.me.TakesReg p.writes x.2.2 d.toNat ((s.lanes g).filter (fun l => l ∉ bad.map Prod.fst))
            (fun l => match r l with | .inl v => v | .inr _ => 0)))

/-- Generic addresses, the addresses words form, and the checks that fail. -/
def Obligations.AddressChecks : Prop :=
  Claims.Addressing ∧ Claims.EffectiveAddresses ∧ Claims.FailedChecks

/-- Loads, line fills and stores, in every form. -/
def Obligations.LoadsAndStores : Prop :=
  Claims.Loads ∧ Claims.LineFill ∧ Claims.Stores

/-- Gathers, scatters and atomics, in every form. -/
def Obligations.GathersAndAtomics : Prop :=
  Claims.GatherScatter ∧ Claims.Atomics

/-! ### The steps at the homes (R154 to R160, R221, R224 to R235) -/

namespace Sys2Proof.Machine

/-- Some byte of a write lies at home `a`. -/
def PWrite.covers (w : PWrite) (a : Nat) : Prop := w.home ≤ a ∧ a < w.home + w.data.length

/-- The byte at home `a` after a write under masks (R159) over a byte `b`. -/
def PWrite.over (w : PWrite) (a : Nat) (b : Byte) : Byte :=
  match w.data[a - w.home]? with
  | some (x, k) => (x &&& k) ||| (b &&& ~~~k)
  | none => b

end Sys2Proof.Machine

/-- R156: a lane's read of a byte returns its own youngest earlier buffered or captured write to it while that has not drained, and else the
byte at its home (R158). -/
def Claims.OwnWritesSeen : Prop :=
  ∀ (s : State) (r : Ref) (part lane upto h n i : Nat), i < n →
    let own (w : PWrite) : Prop := w ∈ s.heldWrites r part ∧ w.lane = lane ∧ w.id < upto ∧ w.covers (h + i)
    let b := (s.readOwn r part lane upto h n)[i]?
    ((∀ w, ¬own w) → b = some (s.mem.get (h + i))) ∧
    (∀ w x, own w → (∀ v, own v → v ≠ w → v.id < w.id) →
      w.data[h + i - w.home]? = some (x, 0xFF#8) → b = some x)

/-- R224: what a loaded value of `n` bytes does to its register: extended by its encoding to 32 bits in a group and 64 in a steward; 64 and
128 bits fill a pair, four registers or two. -/
def Claims.LoadedValues : Prop :=
  ∀ (t : Stream) (d l n x : Nat) (nib sx : Bool), l < 32 →
    let u := t.writes (t.loadWrites d l n nib sx x)
    let w := if nib then 4 else 8 * n
    let v : Int := if sx ∧ 2 ^ (w - 1) ≤ x % 2 ^ w then (x % 2 ^ w : Nat) - 2 ^ w else (x % 2 ^ w : Nat)
    (n ∈ [1, 2, 4] → t.sid ≠ 0 → u.rdV d l = BitVec.ofInt 32 v ∧ ∀ r k, k < 32 → r ≠ d ∨ k ≠ l → u.rdV r k = t.rdV r k) ∧
    (n ∈ [1, 2, 4] → t.sid = 0 → u.rdK d = BitVec.ofInt 64 v ∧ ∀ r, r ≠ d → u.rdK r = t.rdK r) ∧
    (n = 8 → u.rd 64 d l = BitVec.ofNat 64 x) ∧
    (n = 16 → t.sid ≠ 0 → ∀ i < 4, u.rdV (d + i) l = BitVec.ofNat 32 (x / 2 ^ (32 * i))) ∧
    (n = 16 → t.sid = 0 → ∀ i < 2, u.rdK (d + i) = BitVec.ofNat 64 (x / 2 ^ (64 * i)))

/-- R225, R154: `READ_PERFORM` of a load reads, for each lane of the request at the home, the bytes that the lane sees, into the load's
result; with the last lane the request is gone and the result has arrived. Memory does not change. -/
def Claims.ReadsPerformed : Prop :=
  ∀ (s : State) (t : Stream) (q : Req) (n : Nat) (nib sx : Bool),
    let e := s.ctx.ev
    let L := q.lanes.filter (fun l => l.home == e.b && !l.done)
    e.r.crew ≠ 0 → s.streamOf e.r = some t → t.reqs.find? (fun x => x.id == e.a) = some q → q.kind = .load n nib sx →
    s.loadFree e.r (s.partOf e.r.crew) t q.id n L = true → s.readHold e.b = none → s.staleAt e.b = [] →
    (∀ l ∈ L, s.ueIn l.home n = none) → q.poison = none →
    let read (l : LaneReq) : Nat := leNat (s.readOwn e.r (s.partOf e.r.crew) l.lane q.id l.home n)
    let last : Prop := ∀ l ∈ q.lanes, l.done = true ∨ l.home = e.b
    ∃ u t1, exec .readPerform s = .next u ∧ u.mem = s.mem ∧ u.clock = s.clock ∧ u.streamOf e.r = some t1 ∧
      t1 = { t with pend := t1.pend, reqs := t1.reqs } ∧ t1.pend.length = t.pend.length ∧
      (∀ (i : Nat) (p p1 : Pend), t.pend[i]? = some p → t1.pend[i]? = some p1 → p1 = { p with writes := p1.writes, arrived := p1.arrived } ∧
        p1.writes = (if p.id = e.a then p.writes ++ L.flatMap (fun l =>
          t.loadWrites q.d l.lane n nib sx (if nib = true ∧ l.hi = true then read l / 16 else read l)) else p.writes) ∧
        (p1.arrived = true ↔ p.arrived = true ∨ (p.id = e.a ∧ last))) ∧
      (last → (∀ x ∈ t1.reqs, x.id ≠ e.a) ∧ ∃ x ∈ u.agenda, x.op = .resultWriteback ∧ x.arg.r = e.r ∧ x.arg.a = e.a) ∧
      (¬last → { q with lanes := q.lanes.map (fun l => if l.home = e.b then { l with done := true } else l) } ∈ t1.reqs)

/-- R353: a load of a live group whose last lanes meet uncorrectable bytes still reads, and its group then takes `DATA_POISON` with CODE 0x10
once, for the lowest of the lanes that met one, with its address and the pointer of the load. -/
def Claims.PoisonedReads : Prop :=
  ∀ (s : State) (t : Stream) (q : Req) (n : Nat) (nib sx : Bool),
    let e := s.ctx.ev
    let L := q.lanes.filter (fun l => l.home == e.b && !l.done)
    let hit := L.filter (fun l => s.ueIn l.home n != none)
    e.r.crew ≠ 0 → e.r.sid ≠ 0 → t.retired = false → t.gone = false →
    s.streamOf e.r = some t → t.reqs.find? (fun x => x.id == e.a) = some q → q.kind = .load n nib sx →
    s.loadFree e.r (s.partOf e.r.crew) t q.id n L = true → s.readHold e.b = none → s.staleAt e.b = [] →
    hit ≠ [] → q.poison = none → (∀ l ∈ q.lanes, l.done = true ∨ l.home = e.b) →
    ∃ u t1, ∃ x ∈ hit, exec .readPerform s = .next u ∧ u.streamOf e.r = some t1 ∧ (∀ y ∈ hit, x.lane ≤ y.lane) ∧
      t1.asyncs = t.asyncs ++ [⟨0x08, 0x10, x.ea, (t.pend.find? (fun p => p.id == q.id)).map Pend.pc, []⟩] ∧
      t1.v = t.v ∧ t1.k = t.k ∧ t1.p = t.p

/-- R227, R154: `READ_PERFORM` of an `LDPF` writes the 64 bytes at the home into the scratchpad bytes of each lane's run; those writes are no
more under way, and with the last run the use has ended. No other byte of memory changes. -/
def Claims.FillsPerformed : Prop :=
  ∀ (s : State) (t : Stream) (q : Req),
    let e := s.ctx.ev
    let L := q.lanes.filter (fun l => l.home == e.b && !l.done)
    let filled (a : Nat) : Prop := ∃ l ∈ L, ∃ h, l.dst = some h ∧ h ≤ a ∧ a < h + 64
    e.r.crew ≠ 0 → s.streamOf e.r = some t → t.reqs.find? (fun x => x.id == e.a) = some q → q.kind = .ldpf →
    (∀ l ∈ L, s.ldpfFree e.r (s.partOf e.r.crew) t q.id l = true) → s.readHold e.b = none → s.staleAt e.b = [] →
    (∀ l ∈ L, s.ueIn l.home 64 = none) → q.poison = none → e.b + 64 ≤ 2 ^ 56 →
    (∀ l ∈ L, ∀ h, l.dst = some h → 2 ^ 56 ≤ h ∧ h % 64 = 0) →
    ∃ u t1, exec .readPerform s = .next u ∧ u.clock = s.clock ∧ u.streamOf e.r = some t1 ∧
      (∀ a, (filled a → u.mem.get a = s.mem.get (e.b + a % 64)) ∧ (¬filled a → u.mem.get a = s.mem.get a)) ∧
      t1 = { t with pend := t1.pend, reqs := t1.reqs, direct := t1.direct } ∧
      (∀ w, w ∈ t1.direct ↔ w ∈ t.direct ∧ ¬(w.rid = q.id ∧ ∃ l ∈ L, l.dst = some w.home)) ∧
      ((∀ l ∈ q.lanes, l.done = true ∨ l.home = e.b) → L ≠ [] → (∀ x ∈ t1.reqs, x.id ≠ e.a) ∧
        ∃ x ∈ u.agenda, x.op = .resultWriteback ∧ x.arg.r = e.r ∧ x.arg.a = e.a)

/-- A TLB that keeps the newest `n` entries of a holder (R221). -/
def keepsNewest (n holder : Nat) (l : List TlbEnt) : List TlbEnt :=
  if n < (l.filter (fun x => x.holder == holder)).length then l.eraseP (fun x => x.holder == holder) else l

/-- R77, R115, R117, R221, R319: `RESULT_WRITEBACK` makes the writes of an arrived result, but for those that a later word has overtaken, and
ends its use of its flag; `PAGE_WALK_DONE` puts the translation that the L2 TLB or the walk gives, or that there is none, into the core's L1
TLB, and what the walk gave into the L2 TLB; a full TLB drops its oldest entry. -/
def Claims.WritebacksAndWalks : Prop :=
  ∀ s : State,
    let e := s.ctx.ev
    (∀ t p, e.r.crew ≠ 0 → s.streamOf e.r = some t → t.pend.find? (fun x => x.id == e.a && x.arrived) = some p → p.bracket = [] →
      ∃ u t1, exec .resultWriteback s = .next u ∧ u.mem = s.mem ∧ u.streamOf e.r = some t1 ∧
        t1 = { t.writes (p.writes.filter (fun w => !t.overtaken s.clock p.iss (ptrPc p.pc).slot w)) with
          cf := t1.cf, wrote := t1.wrote, pend := t.pend.filter (fun x => x.id != e.a) } ∧
        ∀ k, t1.cfGet k = t.cfGet k - if p.flag = some k then 1 else 0) ∧
    (let va := e.c * 2 ^ 16
     (∀ x, x ∈ s.tlb1 → x.holder = e.a → x.part = e.b → x.base ≤ va → va < x.base + x.size → exec .pageWalkDone s = .next s) ∧
     ((∀ x ∈ s.tlb1, ¬(x.holder = e.a ∧ x.part = e.b ∧ x.base ≤ va ∧ va < x.base + x.size)) →
      let has (x : TlbEnt) : Bool := x.holder == e.a / 12 && x.part == e.b && x.base ≤ va && va < x.base + x.size
      (∀ x, s.tlb2.find? has = some x → exec .pageWalkDone s = .next { s with
        tlb1 := keepsNewest 128 e.a (s.tlb1 ++ [{ x with holder := e.a }]) }) ∧
      (s.tlb2.find? has = none →
        let ent (holder : Nat) : TlbEnt := match s.walk e.b va with
          | some (leaf, sh) => ⟨holder, e.b, va / 2 ^ sh * 2 ^ sh, 2 ^ sh, leaf⟩
          | none => ⟨holder, e.b, va, 65536, 0#64⟩
        exec .pageWalkDone s = .next { s with
          tlb1 := keepsNewest 128 e.a (s.tlb1 ++ [ent e.a])
          tlb2 := keepsNewest 4096 (e.a / 12) (s.tlb2 ++ [ent (e.a / 12)]) })))

namespace Sys2Proof.Machine

/-- A run of bytes has no side effect at its home: no registered region lies there, and no partition has derived tensors. -/
def State.Plain (s : State) (h : Nat) : Prop := (2 ^ 56 ≤ h ∨ s.regionAt h = none) ∧ (∀ p ∈ s.parts, p.2.deriveds = [])

end Sys2Proof.Machine

namespace Sys2Proof.Machine

/-- The step's write `w` may drain now (R154, R231, R346, R371, R379): it waits for no other write, for no Eddy window, and for nothing at its
home; it lies within one aligned piece of 64 bytes. -/
def State.MayDrain (s : State) (w : PWrite) : Prop :=
  (s.sourceWrites s.ctx.ev.src).find? (fun x => x.id == s.ctx.ev.a) = some w ∧ w.eddy = none ∧ s.drainFree s.ctx.ev.src w = true ∧
  s.homeHold w.home = none ∧ s.logHolds w.home w.data = none ∧ w.home % 64 + w.data.length ≤ 64

/-- Memory after a write under masks. -/
def PWrite.Lands (w : PWrite) (m m1 : Memory) : Prop :=
  ∀ a, m1.get a = if w.home ≤ a ∧ a < w.home + w.data.length then w.over a (m.get a) else m.get a

end Sys2Proof.Machine

/-- R154, R159: `WRITE_DRAIN` of a buffered write that nothing holds puts its bytes, under their masks, at its home and removes it; every
other byte of memory, and every other write, stays as it was. -/
def Claims.BufferedDrains : Prop :=
  ∀ (s : State) (t : Stream) (w : PWrite),
    let e := s.ctx.ev
    e.src = .wb w.agent → w.agent.crew ≠ 0 → s.streamOf w.agent = some t → s.MayDrain w →
    w.home < 2 ^ 58 → isRegPage w.home = false → s.Plain w.home → (∀ p ∈ t.pend, p.id = w.rid → p.writes = []) →
    ∃ u t1, exec .writeDrain s = .next u ∧ u.streamOf w.agent = some t1 ∧ t1.wb = t.wb.filter (fun x => x.id != e.a) ∧
      w.Lands s.mem u.mem ∧
      t1.v = t.v ∧ t1.k = t.k ∧ t1.p = t.p ∧ t1.frontier = t.frontier ∧ u.clock = s.clock ∧ u.parts = s.parts

/-- R154, R163: the drain of a write that a release set holds does the same, and takes it out of the set. -/
def Claims.CapturedDrains : Prop :=
  ∀ (s : State) (w : PWrite) (p o : Nat),
    let e := s.ctx.ev
    e.src = .rs p o → s.MayDrain w → w.home < 2 ^ 58 → isRegPage w.home = false → s.Plain w.home →
    ∃ u, exec .writeDrain s = .next u ∧ w.Lands s.mem u.mem ∧ u.clock = s.clock ∧
      (u.part p).syncs = (s.part p).syncs.map (fun x => if x.id = o then { x with rs := x.rs.filter (fun v => v.id != e.a) } else x)

/-- R413: the drain of a write to a host-mapped page, outside lockstep, sends its bytes to host memory. -/
def Claims.HostDrains : Prop :=
  ∀ (s : State) (w : PWrite),
    s.MayDrain w → 2 ^ 58 ≤ w.home → s.isLockstep w.part = false →
    ∃ u bs, exec .writeDrain s = .next u ∧ w.Lands s.mem u.mem ∧ u.dev.hostWrites = s.dev.hostWrites ++ [(w.home - hostHome 0, bs)] ∧
      bs.length = w.data.length ∧ ∀ i (h : i < bs.length), u.mem.get (w.home + i) = bs[i]

/-- R358, R360, R371: the drain of a write to a page of a registered region discards its bytes in the directory areas, and counts the write
there; where it changes bits of a block within its length, the block's entry takes its new number of ones and its excess and is stale, and
the keeper's log of the sector holds the change, for which a fold is asked. -/
def Claims.RegionDrains : Prop :=
  ∀ (s : State) (w : PWrite) (p : Nat) (r : Region) (va : Nat),
    s.MayDrain w → w.home < 2 ^ 46 → (∀ q ∈ s.parts, q.2.deriveds = []) → s.regionAt w.home = some (p, r) → r.vaOf w.home = some va →
    (∀ q o, s.ctx.ev.src ≠ .rs q o) →
    let kept := w.data.mapIdx (fun i x => if r.isDir (va + i) then (x.1, 0#8) else x)
    let m := s.mem.putMasked w.home kept
    let dir : Prop := ∃ i, ∃ h : i < w.data.length, r.isDir (va + i) = true ∧ w.data[i].2 ≠ 0#8
    ∃ u, exec .writeDrain s = .next u ∧
      (dir → (u.part p).dkDirwr = min 2047 ((s.part p).dkDirwr + 1)) ∧ (¬dir → (u.part p).dkDirwr = (s.part p).dkDirwr) ∧
      (r.blockAt va = none → u.mem = m ∧ (u.part p).regions = (s.part p).regions) ∧
      ∀ b, r.blockAt va = some b →
        let x := s.bent r b
        let old := s.blockBits r b % 2 ^ x.len
        let new := leNat (m.bytes (r.home (r.blk + 64 * b)) 64) % 2 ^ x.len
        let d : Int := (popcount 512 new : Int) - popcount 512 old
        let ones := ((x.ones : Int) + d).toNat
        (old = new → u.mem = m ∧ (u.part p).regions = (s.part p).regions) ∧
        (old ≠ new →
          u.mem = m.put (r.home (r.bdir + 8 * b)) (leBytes 8 ({ x with ones := ones, extot := 2 * ones - x.len, stale := true } : BEnt).word) ∧
          (u.part p).regions = (s.part p).regions.map (fun g => if g.handle = r.handle then g.append ⟨b / 64, b, d, 0⟩ else g) ∧
          ∃ y ∈ u.agenda, y.op = .deltaFold ∧ y.arg.a = p ∧ y.arg.b = r.handle ∧ y.arg.c = b / 64 / 4096)

/-- R406: the drain of a write to package memory marks stale the derived tiles of a partition that read its bytes, directly and through
chains, in the same step. -/
def Claims.MarkingDrains : Prop :=
  ∀ (s : State) (w : PWrite) (p : Nat),
    s.MayDrain w → w.home < 2 ^ 46 → s.regionAt w.home = none → (s.parts.map Prod.fst).Nodup →
    (∀ q ∈ s.parts, q.1 ≠ p → q.2.deriveds = []) → (∃ x ∈ w.data, x.2 ≠ 0#8) → (∀ q o, s.ctx.ev.src ≠ .rs q o) →
    ∃ u, exec .writeDrain s = .next u ∧ w.Lands s.mem u.mem ∧
      (u.part p) = (s.part p).mark ((s.part p).closure 3
        (({ s with mem := s.mem.putMasked w.home w.data } : State).directTiles p w.home w.data.length))

/-- The drain of a buffered write and of one that a release set holds, with what it does at its home. -/
def Obligations.Drains : Prop :=
  Claims.BufferedDrains ∧ Claims.CapturedDrains ∧ Claims.HostDrains ∧ Claims.RegionDrains ∧ Claims.MarkingDrains

namespace Sys2Proof.Machine

/-- One operation of an atomic (R233) at width `w`, from the value `v` and the operands `x` and `y` to the new value. -/
def AtomRel (op : AtomOp) (w v x y : Nat) : Nat :=
  match op with
  | .add => (v + x) % 2 ^ w
  | .min => if lowInt w true x < lowInt w true v then x else v
  | .max => if lowInt w true v < lowInt w true x then x else v
  | .exch => x
  | .and => v &&& x
  | .or => v ||| x
  | .xor => v ^^^ x
  | .cas => if v = x then y else v
  | .addF32 => fF32.add .rne v x

/-- What the lanes `L` do one after another at one address (R160, R233): `V i` is the value before lane i. -/
def Chained (V : Nat → Nat) (v0 : Nat) (L : List LaneReq) (f : Nat → LaneReq → Nat) : Prop :=
  V 0 = v0 ∧ ∀ i (h : i < L.length), V (i + 1) = f (V i) L[i]

end Sys2Proof.Machine

/-- R160, R233, R234: a home step applies the operations of its lanes to one address in ascending order: memory takes the last value, each
lane's result the value before its own operation; `TKGET` counts the low half up and returns it as it was, `TKNEXT` counts the high
half up and returns it as it becomes. No other byte changes. -/
def Claims.HomeSteps : Prop :=
  ∀ (s : State) (t : Stream) (q : Req),
    let e := s.ctx.ev
    let part := s.partOf e.r.crew
    let L := q.lanes.filter (fun l => l.home == e.b && !l.done)
    let n := match q.kind with | .atomic _ n _ => n | _ => 8
    e.r.crew ≠ 0 → s.streamOf e.r = some t → t.reqs.find? (fun x => x.id == e.a) = some q → s.atomFree e.r part t q n L = true →
    s.isLockstep part = false → s.homeHold e.b = none → isRegPage e.b = false → (∀ l ∈ L, s.ueIn l.home n = none) → s.Plain e.b → e.b < 2 ^ 58 →
    n = 4 ∨ n = 8 → e.b % n = 0 →
    let W := 8 * n
    let after (u : State) (V : Nat → Nat) (res : Nat → Nat → List RegWrite) : Prop :=
      (∀ i < n, u.mem.get (e.b + i) = BitVec.ofNat 8 (V L.length / 2 ^ (8 * i))) ∧
      (∀ a, ¬(e.b ≤ a ∧ a < e.b + n) → u.mem.get a = s.mem.get a) ∧
      ∃ t1, u.streamOf e.r = some t1 ∧ ∀ p ∈ t.pend, p.id = e.a → ∃ p1 ∈ t1.pend, p1 = { p with writes := p1.writes, arrived := p1.arrived } ∧
        p1.writes = p.writes ++ (L.mapIdx (fun i l => res (V i) l.lane)).flatten
    let v0 := leNat (s.mem.bytes e.b n)
    (∀ op ret, q.kind = .atomic op n ret → ∃ u V, exec .atomicPerform s = .next u ∧
      Chained V v0 L (fun v l => AtomRel op W v (l.x.toNat % 2 ^ W) (l.y.toNat % 2 ^ W)) ∧
      after u V (fun v l => if ret then t.wr W q.d l (BitVec.ofNat 64 v) else [])) ∧
    (q.kind = .tkget → ∃ u V, exec .atomicPerform s = .next u ∧
      Chained V v0 L (fun v _ => v / 2 ^ 32 * 2 ^ 32 + (v + 1) % 2 ^ 32) ∧ after u V (fun v l => t.wr 32 q.d l (BitVec.ofNat 64 (v % 2 ^ 32)))) ∧
    (q.kind = .tknext → s.allDrained e.r part q.id (q.lanes.map LaneReq.lane) = true → ∃ u V, exec .tknextPerform s = .next u ∧
      Chained V v0 L (fun v _ => v % 2 ^ 32 + (v / 2 ^ 32 + 1) % 2 ^ 32 * 2 ^ 32) ∧
      after u V (fun v l => t.wr 32 q.d l (BitVec.ofNat 64 ((v / 2 ^ 32 + 1) % 2 ^ 32))))

/-- R230, R231: when its window ends and nothing holds it, a line leaves the Eddy: its writes drain in one step, in the order in which they
reached it, and leave their buffers; its reads are made as one. Before that the line stays, and so it does while a write that comes before
one of its own has not drained. -/
def Claims.EddyLines : Prop :=
  ∀ (s : State) (x : EddyLine),
    let e := s.ctx.ev
    s.eddy.find? (fun x => x.core == e.a && x.line == e.b && (x.wr == (e.c == 1))) = some x →
    (s.clock < x.closes → ∃ t, exec .eddyWindowExpiry s = .next t ∧ t.eddy = s.eddy ∧ t.mem = s.mem) ∧
    (x.closes ≤ s.clock → x.wr = true → s.eddyWriteFree (s.eddyWrites x) = true →
      ∀ s1, ({ s with eddy := s.eddy.erase x } : State).putRuns x.part ((s.eddyWrites x).map (fun w => (w.home, w.data))) = .ok s1 →
      ∃ t, exec .eddyWindowExpiry s = .next t ∧ t.eddy = s.eddy.erase x ∧ t.mem = s1.mem ∧
        ((∀ p ∈ s.parts, ∀ o ∈ p.2.syncs, o.rs = []) → (∀ q ∈ x.reqs, ∀ u, s.streamOf q.1 = some u → ∀ w ∈ u.wb, w.agent = q.1) →
          ∀ w ∈ s.eddyWrites x, ∀ u, t.streamOf w.agent = some u → ∀ v ∈ u.wb, v.id ≠ w.id)) ∧
    (x.closes ≤ s.clock → x.wr = true → s.eddyWriteFree (s.eddyWrites x) = false →
      ∃ t, exec .eddyWindowExpiry s = .next t ∧ t.eddy = s.eddy ∧ t.mem = s.mem) ∧
    (x.closes ≤ s.clock → x.wr = false → s.eddyReadFree x = true → s.readHold (64 * x.line) = none → s.staleAt (64 * x.line) = [] →
      s.dev.ue = [] →
      ∃ t, exec .eddyWindowExpiry s = .next t ∧ t.mem = s.mem ∧ t.eddy = s.eddy.erase x)

/-- What a load sees and writes back. -/
def Obligations.LoadResults : Prop :=
  Claims.OwnWritesSeen ∧ Claims.LoadedValues ∧ Claims.ReadsPerformed ∧ Claims.PoisonedReads ∧ Claims.FillsPerformed

/-- Result writebacks, page walks, Eddy lines and the other steps at a home. -/
def Obligations.HomeWork : Prop :=
  Claims.WritebacksAndWalks ∧ Claims.HomeSteps ∧ Claims.EddyLines

/-! ### Barriers, queues and channels (R101, R102, R124, R168 to R171, R204, R205, R236 to R242) -/

/-- R168, R237, R240: what `BINIT`, `BEXPECT` and a count of arrivals and bytes do to a barrier object; a flip toggles the phase, clears the
counts and takes the expected bytes from the reload value. -/
def Claims.BarrierRules : Prop :=
  ∀ (x : Barrier) (v : Quad) (n arr bytes : Nat) (err : Bool),
    (let ok : Prop := v.toNat % 2 ^ 12 ≠ 0 ∧ v.toNat / 2 ^ 12 % 2 ^ 20 = 0
     (ok → x.init v = ⟨v.toNat % 2 ^ 12, 0, v.toNat / 2 ^ 32, 0, v.toNat / 2 ^ 32, x.phase, false⟩) ∧ (¬ok → x.init v = { x with err := true })) ∧
    (x.expBytes + n < 2 ^ 32 → x.expect n = { x with expBytes := x.expBytes + n }) ∧
    (2 ^ 32 ≤ x.expBytes + n → x.expect n = { x with expBytes := 2 ^ 32 - 1, err := true }) ∧
    (let refused : Prop := x.expArr = 0 ∨ (0 < arr ∧ x.expArr < x.arr + arr)
     let b := min (2 ^ 32 - 1) (x.bytes + bytes)
     let e := x.err || err || (decide (0 < bytes) && decide (x.expBytes < b))
     (refused → x.count arr bytes err = { x with err := true }) ∧
     (¬refused → x.arr + arr = x.expArr ∧ x.expBytes ≤ b →
       x.count arr bytes err = ⟨x.expArr, 0, x.reload, 0, x.reload, !x.phase, e⟩) ∧
     (¬refused → ¬(x.arr + arr = x.expArr ∧ x.expBytes ≤ b) →
       x.count arr bytes err = ⟨x.expArr, x.arr + arr, x.expBytes, b, x.reload, x.phase, e⟩))

namespace Sys2Proof.Machine

/-- A step that changes one crew, found by its number, and asks for nothing. -/
def State.CrewStep (s u : State) (id : Nat) (c c1 : Crew) : Prop :=
  s.crewOf id = some c ∧ u.crewOf id = some c1 ∧ u.mem = s.mem ∧ u.parts = s.parts ∧ u.dev = s.dev ∧ u.agenda = s.agenda ∧ u.clock = s.clock

end Sys2Proof.Machine

/-- R236 to R240, R169: the barrier words. `BINIT` and `BEXPECT` take effect 4 cycles after issue; an arrival counts once the issuer's earlier
scratchpad writes have drained; `BWAIT` completes when the phase differs from the parity, which it toggles, and leaves the stream where
it is before that; `BTEST` gives that difference. -/
def Claims.Barriers : Prop :=
  ∀ (s : State) (x y : BitVec 6) (z : BitVec 3),
    let late (op : LateOp) (v : Quad) : State :=
      { s with crew := { s.crew with late := s.crew.late ++ [⟨s.clock + 4, s.me.sid, op, BitVec.ofNat 64 x.toNat, v, 0, 0⟩] } }
    let e := s.ctx.ev
    let flipped : Prop := (s.crew.bar x.toNat).phase ≠ s.me.parity.getLsbD x.toNat
    (s.me.sid = 0 ∨ y.toNat % 2 = 0 → exec (.binit x y) s = .next (late .binit (BitVec.ofNat 64 (s.opN 64 y 0)))) ∧
    (¬(s.me.sid = 0 ∨ y.toNat % 2 = 0) → IllegalIn (.binit x y) s) ∧
    exec (.bexpect x y) s = .next (late .bexpect (BitVec.ofNat 64 (s.opN 32 y 0))) ∧
    exec (.barrive x) s = .next { s with agenda := s.agenda ++ [{ op := .barriveCount, arg := { r := s.self, a := x.toNat, b := s.nextId }, due := s.clock }] } ∧
    (∀ c, s.crewOf e.r.crew = some c → e.r.crew ≠ 0 → c.retired = false → s.scratchWrites e.r e.b = [] →
      ∃ u c1, exec .barriveCount s = .next u ∧ s.CrewStep u e.r.crew c c1 ∧ c1 = { c with barriers := c1.barriers } ∧
        c1.bar e.a = (c.bar e.a).count 1 0 false ∧ ∀ b, b ≠ e.a → c1.bar b = c.bar b) ∧
    (flipped → ∃ t ws, exec (.bwait x z) s = .next t ∧ t = { s with me := t.me } ∧
      t.me = ({ s.me with parity := t.me.parity } : Stream).land s.clock s.clock s.ctx.slot ws ∧
      (∀ i < 64, t.me.parity.getLsbD i = (s.me.parity.getLsbD i ^^ decide (i = x.toNat))) ∧
      s.me.TakesPred ws z.toNat s.headLanes (fun _ => (s.crew.bar x.toNat).err)) ∧
    (¬flipped → exec (.bwait x z) s = .next s) ∧
    GivesPred (.btest x z) s 4 z s.headLanes (fun _ => decide flipped)

/-- R124, R171, R241, R242: the queue words of a group. A push or pop of a stage that does not own that end, and a handle that names no
tile, trap; a push that has allowance takes one and is on its way; a pop takes the oldest handle and gives one back; each leaves the
stream where it is until it can go on; the `QTRY` forms never wait. -/
def Claims.TileQueues : Prop :=
  ∀ (s : State) (x y : BitVec 6) (z : BitVec 3),
    let q := s.crew.queue x.toNat
    let h := s.opN 32 y 0
    let pushTrap : Option State :=
      if s.me.sid = 0 then some s.illegal
      else if q.decl = true ∧ s.me.stage ≠ q.prod then some (s.trapHead 0x0F x.toNat 0)
      else if s.crew.tiles.length ≤ h then some (s.trapHead 0x06 0 (BitVec.ofNat 64 h)) else none
    let popTrap : Option State :=
      if s.me.sid = 0 then some s.illegal
      else if q.decl = true ∧ s.me.stage ≠ q.cons then some (s.trapHead 0x0F x.toNat 0) else none
    let sets (t : State) (q1 : TileQueue) : Prop := t.crew = { s.crew with queues := t.crew.queues } ∧ t.crew.queue x.toNat = q1 ∧
      ∀ k, k ≠ x.toNat → t.crew.queue k = s.crew.queue k
    let pushed (t : State) : Prop := sets t { q with allow := q.allow - 1, inflight := q.inflight + 1 } ∧
      t.agenda = s.agenda ++ [{ op := .qpushPlace, arg := { r := s.self, a := x.toNat, b := h, c := s.nextId, d := s.clock }, due := s.clock }]
    let posts (t : State) (n : Nat) (ws : List RegWrite) : Prop := ∃ p : Pend, t.me = { s.me with pend := s.me.pend ++ [p] } ∧
      t.nextId = s.nextId + n ∧ p.due = some (s.clock + 4) ∧ p.flag = none ∧ p.writes = ws
    let gives (ws : List RegWrite) (v : Nat) : Prop := s.me.TakesReg ws 32 y.toNat s.headLanes (fun _ => asReg 32 v)
    let tells (ws : List RegWrite) (b : Bool) : Prop := s.me.TakesPred ws z.toNat s.headLanes (fun _ => b)
    (∀ t, pushTrap = some t → exec (.qpush x y) s = .next t ∧ exec (.qtryPush x y z) s = .next t) ∧
    (∀ t, popTrap = some t → exec (.qpop x y) s = .next t ∧ exec (.qtryPop x y z) s = .next t) ∧
    (pushTrap = none → q.allow = 0 → exec (.qpush x y) s = .next s ∧ GivesPred (.qtryPush x y z) s 4 z s.headLanes (fun _ => false)) ∧
    (pushTrap = none → q.allow ≠ 0 →
      (∃ t, exec (.qpush x y) s = .next t ∧ pushed t ∧
        t = { s with crew := t.crew, agenda := t.agenda, nextId := s.nextId + 1 }) ∧
      ∃ t ws, exec (.qtryPush x y z) s = .next t ∧ pushed t ∧ posts t 2 ws ∧ tells ws true ∧ t.mem = s.mem) ∧
    (popTrap = none → q.handles = [] → exec (.qpop x y) s = .next s ∧ GivesPred (.qtryPop x y z) s 4 z s.headLanes (fun _ => false)) ∧
    (∀ k rest, popTrap = none → q.handles = k :: rest →
      (∃ t ws, exec (.qpop x y) s = .next t ∧ sets t { q with handles := rest, allow := q.allow + 1 } ∧ posts t 1 ws ∧ gives ws k ∧
        t = { s with crew := t.crew, me := t.me, nextId := t.nextId }) ∧
      ∃ t ws ws', exec (.qtryPop x y z) s = .next t ∧ sets t { q with handles := rest, allow := q.allow + 1 } ∧ posts t 1 (ws ++ ws') ∧ gives ws k ∧
        tells ws' true ∧ t = { s with crew := t.crew, me := t.me, nextId := t.nextId })

/-- R171, R242: 4 cycles after its push, once the pusher's earlier scratchpad writes within the tile have drained and its earlier pushes to
the queue have been placed, a handle enters its queue; until then the push stays under way. -/
def Claims.HandlesPlaced : Prop :=
  ∀ (s : State) (c : Crew),
    let e := s.ctx.ev
    let q := c.queue e.a
    let waits : Prop := s.clock < e.d + 4 ∨ (∃ x ∈ s.agenda, x.op = .qpushPlace ∧ x.arg.r = e.r ∧ x.arg.a = e.a ∧ x.arg.c < e.c) ∨
      ∃ t, c.tiles[e.b]? = some t ∧ ∃ w ∈ s.scratchWrites e.r e.c, w.home < c.shareHome + t.offset + t.bytes ∧
        c.shareHome + t.offset < w.home + w.data.length
    s.crewOf e.r.crew = some c → e.r.crew ≠ 0 → e.b < c.tiles.length →
    (waits → exec .qpushPlace s = .next { s with agenda := s.agenda ++ [{ op := .qpushPlace, arg := e, due := s.clock }] }) ∧
    (¬waits → ∃ u c1, exec .qpushPlace s = .next u ∧ s.CrewStep u e.r.crew c c1 ∧ c1 = { c with queues := c1.queues } ∧
      c1.queue e.a = { q with handles := q.handles ++ [e.b], inflight := q.inflight - 1 } ∧ ∀ k, k ≠ e.a → c1.queue k = c.queue k)

/-- R101, R102, R204, R205: a steward's `LQSEND` appends to the down channel, a group's to the up channel, in ascending group order within a
cycle, when fewer than 8 entries are there; `LQRECV` gives, 4 cycles later, the oldest entry that is at least 4 cycles old, a group's
from its own place in the channel. `XFSET` sets a crew flag; `XFWAIT`, at least 2 cycles later, clears it, but for one set in the same
cycle. -/
def Claims.Channels : Prop :=
  ∀ (s : State) (x y : BitVec 6), s.me.sid = 0 ∨ y.toNat % 2 = 0 →
    let n := x.toNat
    let q := s.crew.lq n
    let f := q.free n s.liveGroups
    let v := BitVec.ofNat 64 (s.opN 64 y 0)
    let sets (t : State) (q1 : Lq) : Prop := t.crew = { s.crew with lqs := t.crew.lqs } ∧ t.crew.lq n = q1 ∧
      ∀ k, k ≠ n → t.crew.lq k = s.crew.lq k
    (s.me.sid = 0 → f.down.length < 8 → ∃ t, exec (.lqsend x y) s = .next t ∧ t = { s with crew := t.crew } ∧
      sets t { f with down := f.down ++ [(v, s.clock)] }) ∧
    (s.me.sid ≠ 0 → f.up.length < 8 → ∃ t pre post, exec (.lqsend x y) s = .next t ∧ t = { s with crew := t.crew } ∧ f.up = pre ++ post ∧
      sets t { f with up := pre ++ [(v, s.clock, s.me.sid)] ++ post } ∧
      (∀ e ∈ pre, ¬(e.2.1 = s.clock ∧ s.me.sid < e.2.2)) ∧ (post ≠ [] → ∃ e, post.head? = some e ∧ e.2.1 = s.clock ∧ s.me.sid < e.2.2)) ∧
    ((s.me.sid = 0 ∧ 8 ≤ f.down.length) ∨ (s.me.sid ≠ 0 ∧ 8 ≤ f.up.length) → exec (.lqsend x y) s = .next s) ∧
    (∀ w c g rest, s.me.sid = 0 → q.up = (w, c, g) :: rest →
      (s.clock < c + 4 → exec (.lqrecv x y) s = .next s) ∧
      (c + 4 ≤ s.clock → ∃ (t : State) (p : Pend), exec (.lqrecv x y) s = .next t ∧ sets t { q with up := rest } ∧
        t = { s with crew := t.crew, nextId := s.nextId + 1, me := { s.me with pend := s.me.pend ++ [p] } } ∧ p.due = some (s.clock + 4) ∧
        s.me.TakesReg p.writes 64 y.toNat s.headLanes (fun _ => w))) ∧
    (s.me.sid = 0 → q.up = [] → exec (.lqrecv x y) s = .next s) ∧
    (∀ w c, s.me.sid ≠ 0 → q.down[s.me.lqAt n - q.base]? = some (w, c) →
      (s.clock < c + 4 → exec (.lqrecv x y) s = .next s) ∧
      (c + 4 ≤ s.clock → ∃ (t : State) (p : Pend), exec (.lqrecv x y) s = .next t ∧
        t = { s with
          crew := { s.crew with lqs := t.crew.lqs }
          nextId := s.nextId + 1
          me := { s.me with lqPos := t.me.lqPos, pend := s.me.pend ++ [p] } } ∧
        t.me.lqAt n = s.me.lqAt n + 1 ∧ (∀ k, k ≠ n → t.me.lqAt k = s.me.lqAt k) ∧ p.due = some (s.clock + 4) ∧
        s.me.TakesReg p.writes 64 y.toNat s.headLanes (fun _ => w))) ∧
    (s.me.sid ≠ 0 → q.down[s.me.lqAt n - q.base]? = none → exec (.lqrecv x y) s = .next s) ∧
    -- crew flags
    (let flag (t : State) (v : Option (Nat × Nat)) : Prop := t = { s with crew := { s.crew with flags := t.crew.flags } } ∧
       tget none t.crew.flags n = v ∧ ∀ k, k ≠ n → tget none t.crew.flags k = tget none s.crew.flags k
     (∀ fl, tget none s.crew.flags n = fl → ∃ t, exec (.xfset x) s = .next t ∧
       flag t (some ((fl.map Prod.fst).getD s.clock, s.clock))) ∧
     (tget none s.crew.flags n = none → exec (.xfwait x) s = .next s) ∧
     (∀ a b, tget none s.crew.flags n = some (a, b) → (s.clock < a + 2 → exec (.xfwait x) s = .next s) ∧
       (a + 2 ≤ s.clock → ∃ t, exec (.xfwait x) s = .next t ∧ flag t (if b = s.clock then some (b, b) else none))))

/-! ### Sync objects, fences, triggers, lists, phases and launches (R161 to R167, R175 to R178, R234, R243 to R255) -/

namespace Sys2Proof.Machine

/-- The issuing stream's partition has changed, and nothing else. -/
def State.MyPartStep (s u : State) (q : Part) : Prop := u = { s with parts := u.parts } ∧ u.myPart = q ∧ ∀ p, p ≠ s.crew.part → u.part p = s.part p

/-- `t` is `s` with the result of an ENG word more: it has arrived and writes `ws`. -/
def State.Arrives (s t : State) (f : Option Nat) (ws : List RegWrite) : Prop :=
  t = { s with nextId := s.nextId + 1, me := { s.me with cf := t.me.cf, pend := t.me.pend }
               agenda := s.agenda ++ [{ op := .resultWriteback, arg := { r := s.self, a := s.nextId }, due := s.clock }] } ∧
  (∀ k, t.me.cfGet k = s.me.cfGet k + if f = some k then 1 else 0) ∧
  (⟨s.nextId, none, true, ws, f, s.here, true, [], s.clock⟩ : Pend) ∈ t.me.pend ∧ t.me.pend.length = s.me.pend.length + 1

end Sys2Proof.Machine

/-- R161, R162, R244, R405: a steward's `BIND` adds a region of whole 4 KiB pages to a sync object's binding set, and `UNBIND` takes out
exactly that region; `kp7` tells whether they did, and a region that is refused changes nothing else. -/
def Claims.Bindings : Prop :=
  ∀ (s : State) (x y : BitVec 6),
    let r := s.me.rdK y.toNat
    let a := r.toNat / 2 ^ 12
    let n := r.toNat % 2 ^ 12 + 1
    let id := s.me.rdK x.toNat
    let refused : Prop := 2 ^ 57 ≤ r.toNat ∨ (∃ b ∈ s.myPart.bindings, b.page < a + n ∧ a < b.page + b.pages) ∨
      (∃ i < n, s.pageCore s.crew.part (a + i) = false) ∨ 4096 ≤ s.myPart.bindings.length
    let is (b : Binding) : Prop := b.page = a ∧ b.pages = n
    (s.me.sid ≠ 0 → IllegalIn (.bind x y) s ∧ IllegalIn (.unbind y) s) ∧
    (s.me.sid = 0 → (4096 ≤ id.toNat ∨ ∀ o ∈ s.myPart.syncs, o.id ≠ id.toNat) →
      exec (.bind x y) s = .next (s.trapHead 0x03 0 id)) ∧
    (s.me.sid = 0 → id.toNat < 4096 → (∃ o ∈ s.myPart.syncs, o.id = id.toNat) →
      (refused → ∃ t, exec (.bind x y) s = .next t ∧ s.Arrives t none [.p 224 false]) ∧
      (¬refused → ∃ t u, exec (.bind x y) s = .next t ∧ u.Arrives t none [.p 224 true] ∧
        s.MyPartStep u { s.myPart with bindings := s.myPart.bindings ++ [⟨id.toNat, a, n, none⟩] })) ∧
    (s.me.sid = 0 → (∃ b ∈ s.myPart.bindings, is b) ∧ s.myPart.derivedCovers a n = false → ∃ t u l, exec (.unbind y) s = .next t ∧
      u.Arrives t none [.p 224 true] ∧ s.MyPartStep u { s.myPart with bindings := l } ∧ (∀ b, b ∈ l ↔ b ∈ s.myPart.bindings ∧ ¬is b)) ∧
    (s.me.sid = 0 → ¬((∃ b ∈ s.myPart.bindings, is b) ∧ s.myPart.derivedCovers a n = false) →
      ∃ t, exec (.unbind y) s = .next t ∧ s.Arrives t none [.p 224 false])

/-- R163, R164, R243, R245, R246: `ACQ` makes the stream a holder in the step in which the object's release set is empty and its holders
and the order of the waiters allow it; before that it waits in line, once. `REL` moves the stream's buffered writes to pages bound to the
object into its release set, in order, and ends its hold. -/
def Claims.Acquires : Prop :=
  ∀ (s : State) (x : BitVec 6) (z : BitVec 3) (o : SyncObj),
    let id := BitVec.ofNat 64 (s.opN s.natW x 0)
    let me := s.self
    let held : Prop := o.excl = some me ∨ me ∈ o.shared
    let ahead := o.waiters.takeWhile (fun w => w.1 != me)
    let free : Prop := o.rs = [] ∧ o.excl = none ∧ (if z = 1 then ∀ w ∈ ahead, w.2 = true else o.shared = [] ∧ ahead = [])
    let only : Prop := ∀ p ∈ s.myPart.syncs, p.id = o.id → p = o
    let sets (u : State) (o1 : SyncObj) : Prop := u = { s with parts := u.parts, me := u.me, agenda := u.agenda } ∧
      u.myPart = { s.myPart with syncs := s.myPart.syncs.map (fun p => if p.id = o.id then o1 else p) } ∧ ∀ p, p ≠ s.crew.part → u.part p = s.part p
    let bound (w : PWrite) : Prop := (w.space = .global ∨ w.space = .host) ∧
      ∃ b ∈ s.myPart.bindings, b.sync = o.id ∧ b.page ≤ w.va / 4096 ∧ w.va / 4096 < b.page + b.pages
    (2 ≤ z.toNat → IllegalIn (.acq x z) s) ∧
    (z.toNat < 2 → (4096 ≤ id.toNat ∨ ∀ p ∈ s.myPart.syncs, p.id ≠ id.toNat) →
      exec (.acq x z) s = .next (s.trapHead 0x03 0 id) ∧ exec (.rel x) s = .next (s.trapHead 0x03 0 id)) ∧
    (id.toNat < 4096 → o ∈ s.myPart.syncs → o.id = id.toNat → only →
      (z.toNat < 2 → held → exec (.acq x z) s = .next s) ∧
      (z.toNat < 2 → ¬held → free → s.myPart.conf.mate = none → ∃ u, exec (.acq x z) s = .next u ∧ u.me = s.me ∧ u.agenda = s.agenda ∧
        sets u { o with
          excl := if z = 1 then none else some me
          shared := if z = 1 then o.shared ++ [me] else []
          waiters := o.waiters.filter (fun w => w.1 != me) }) ∧
      (z.toNat < 2 → ¬held → ¬free → (∃ w ∈ o.waiters, w.1 = me) → exec (.acq x z) s = .next s) ∧
      (z.toNat < 2 → ¬held → ¬free → (∀ w ∈ o.waiters, w.1 ≠ me) → ∃ u, exec (.acq x z) s = .next u ∧ u.me = s.me ∧ u.agenda = s.agenda ∧
        sets u { o with waiters := o.waiters ++ [(me, decide (z = 1))] }) ∧
      ∃ u cap kept, exec (.rel x) s = .next u ∧ (∀ w, w ∈ cap ↔ w ∈ s.me.wb ∧ bound w) ∧ cap.Sublist s.me.wb ∧ kept.Sublist s.me.wb ∧
        (∀ w ∈ s.me.wb, (∀ v ∈ s.me.wb, v.id = w.id → v = w) → (w ∈ kept ↔ ¬bound w)) ∧
        u.me = { s.me with wb := kept } ∧
        sets u { o with rs := o.rs ++ cap, excl := if o.excl = some me then none else o.excl, shared := o.shared.filter (· != me) } ∧
        ∃ es, u.agenda = s.agenda ++ es ∧ es.map (fun e => (e.op, e.arg)) =
          cap.map (fun w => (Instr.writeDrain, { src := .rs s.crew.part o.id, a := w.id })))

/-- R167, R178, R227, R247, R248, R299: `FENCE` stops its stream until the earlier writes of the head lanes in its scope have drained, those of
an `LDPF` and a `DRAIN` among them; `TRIG` counts the head lanes as triggered once all their earlier writes have. -/
def Claims.Fences : Prop :=
  ∀ (s : State) (t : Stream) (c : Crew),
    let e := s.ctx.ev
    let z := s.ctx.imm.toNat
    let covers (n : Nat) (w : PWrite) : Prop :=
      let bnd : Prop := ∃ b ∈ (s.part w.part).bindings, b.page ≤ w.va / 4096 ∧ w.va / 4096 < b.page + b.pages
      (w.space = .scratch ∧ (2 ≤ n ∨ (c.shareHome ≤ w.home ∧ w.home < c.shareHome + c.shareSize))) ∨
      ((w.space = .global ∨ w.space = .host) ∧ (n = 4 ∨ (n = 3 ∧ bnd)))
    (4 < z → IllegalIn .fence s) ∧
    (z ≤ 4 → exec .fence s = .next { s with
      me := { s.me with blocked := some (.fence z s.nextId s.headMask), blockAt := some ⟨s.pc, s.prio0, s.headMask, .ready, false⟩ }
      agenda := s.agenda ++ [{ op := .fenceComplete, arg := { r := s.self }, due := s.clock }] }) ∧
    (∀ n k m, e.r.crew ≠ 0 → s.streamOf e.r = some t → s.crewOf e.r.crew = some c → t.blocked = some (.fence n k m) →
      let open_ : Prop := ∃ w ∈ t.wb ++ t.direct, w.id < k ∧ m.getLsbD w.lane = true ∧ covers n w
      (open_ → exec .fenceComplete s = .next { s with agenda := s.agenda ++ [{ op := .fenceComplete, arg := e, due := s.clock }] }) ∧
      (¬open_ → ∃ u, exec .fenceComplete s = .next u ∧ u.streamOf e.r = some { t with blocked := none, blockAt := none } ∧ u.mem = s.mem)) ∧
    exec .trig s = .next { s with
      agenda := s.agenda ++ [{ op := .triggerRecord, arg := { r := s.self, q := BitVec.ofNat 64 s.headMask.toNat, a := s.nextId }, due := s.clock }] } ∧
    (e.r.crew ≠ 0 → s.streamOf e.r = some t → s.crewOf e.r.crew = some c →
      let open_ : Prop := ∃ w ∈ s.writesOf e.r c.part, w.id < e.a ∧ w.lane < 32 ∧ e.q.getLsbD w.lane = true
      (open_ → exec .triggerRecord s = .next { s with agenda := s.agenda ++ [{ op := .triggerRecord, arg := e, due := s.clock }] }) ∧
      (¬open_ → ∃ u, exec .triggerRecord s = .next u ∧ u.mem = s.mem ∧
        u.streamOf e.r = some { t with trig := t.trig ||| BitVec.ofNat 32 e.q.toNat } ∧
        ∀ k ∈ s.tasks, k.waitsFor = some c.task → ∃ x ∈ u.agenda, x.op = .dependantStart ∧ x.arg.a = k.id))

/-- R220, R234, R235: a `TKWAIT` whose tickets have been found served, with all the lanes that stand there, completes and gives its watcher
places up; until then its lanes take free places among the 256 of their words, and the stream looks at the words again. Lanes that fail the
checks park, and the others go on waiting. -/
def Claims.TicketWaits : Prop :=
  ∀ (s : State) (d a : BitVec 6) (g : BitVec 1),
    let ok : Prop := s.me.sid = 0 ∨ a.toNat % 2 = 0
    let xs : List LaneAcc := (s.lanes g).map (fun l =>
      let y := s.access false a 8 8 false .read l
      if y.ea.toNat < 2 ^ 63 then y else { y with target := .trap 0x03 y.ea })
    let done : Prop := failures xs = [] ∧ s.me.tkServed = true ∧ s.me.arrived = s.me.head
    (¬ok → IllegalIn (.tkwait d a g) s) ∧
    (ok → s.allFailed (failures xs) = true → exec (.tkwait d a g) s = .next (s.trapFailed (failures xs))) ∧
    (ok → done → exec (.tkwait d a g) s = .next { s with
      me := { s.me with tkServed := false }
      watch := s.watch.filter (fun w => w.2.1 != s.self) }) ∧
    (ok → ¬done → s.allFailed (failures xs) = false → ∃ (t : State) (more : List (Nat × Ref × Nat)), exec (.tkwait d a g) s = .next (t.trapFailed (failures xs)) ∧
      t = { s with me := { s.me with tkServed := false }, watch := s.watch ++ more, agenda := s.agenda ++ [{ op := .tkwaitPoll, arg := { r := s.self }, due := s.clock }] } ∧
      (∀ w ∈ more, w.2.1 = s.self ∧ ∃ x ∈ xs, ∃ sp va, x.lane = w.2.2 ∧ x.target = .ok sp w.1 va) ∧
      (∀ h, (s.watch.filter (fun w => w.1 == h)).length ≤ 256 → (t.watch.filter (fun w => w.1 == h)).length ≤ 256) ∧
      ∀ x ∈ xs, ∀ sp h va, x.target = .ok sp h va → (h, s.self, x.lane) ∈ t.watch ∨ 256 ≤ (t.watch.filter (fun w => w.1 == h)).length) ∧
    (∀ word t : Nat, word < 2 ^ 64 → (served word t = true ↔ ((word / 2 ^ 32 : Int) - t) % 2 ^ 32 < 2 ^ 31))

/-- R252 to R255: `WLPUSH` sends the item of each head lane on its way to a list, where it enters once the lane's earlier writes have drained
and the stream's earlier items for the list are there; a full room and quiescence park the lanes. `WLPOP` takes items for its head lanes in
ascending order, NONE where there are no more, and QUIET in every lane after quiescence; with neither it waits as a participant. -/
def Claims.WorkLists : Prop :=
  ∀ (s : State) (t : Task) (x y : BitVec 6) (z : BitVec 4), s.me.sid = 0 ∨ y.toNat % 2 = 0 → s.taskOf s.crew.task = some t →
    let L := s.headLanes
    let item (l : Nat) : Quad := BitVec.ofNat 64 (s.opN 64 y l)
    let items := t.list x.toNat
    let e := s.ctx.ev
    let tasks (u : State) (t1 : Task) : Prop := u.taskOf t.id = some t1 ∧ ∀ k, k ≠ t.id → u.taskOf k = s.taskOf k
    (t.quiet = false → L.length ≤ t.room → (∀ l ∈ L, (item l).toNat < 2 ^ 64 - 2) → ∃ u, exec (.wlpush x y) s = .next u ∧
      tasks u { t with room := t.room - L.length, inflight := t.inflight + L.length } ∧
      u = { s with me := { s.me with participant := true }, tasks := u.tasks, agenda := s.agenda ++ L.map (fun l =>
        { op := .wlpushEnter
          arg := { r := s.self, a := x.toNat, b := l, q := item l, c := s.nextId + (L.takeWhile (fun k => k != l)).length }
          due := s.clock }), nextId := s.nextId + L.length }) ∧
    (L ≠ [] → t.quiet = true ∨ t.room = 0 →
      exec (.wlpush x y) s = .next (s.trapFailed (L.map (fun l => (l, 0x0F, x.toNat, 0))))) ∧
    (∀ c, s.crewOf e.r.crew = some c → c.task = t.id →
      let waits : Prop := (∃ w ∈ s.writesOf e.r c.part, w.id < e.c ∧ w.lane = e.b) ∨
        ∃ v ∈ s.agenda, v.op = .wlpushEnter ∧ v.arg.r = e.r ∧ v.arg.a = e.a ∧ v.arg.c < e.c
      (waits → exec .wlpushEnter s = .next { s with agenda := s.agenda ++ [{ op := .wlpushEnter, arg := e, due := s.clock }] }) ∧
      (¬waits → ∃ u t1, exec .wlpushEnter s = .next u ∧ tasks u t1 ∧ u = { s with tasks := u.tasks } ∧
        t1 = { t with lists := t1.lists, inflight := t.inflight - 1, pushed := t.pushed + 1 } ∧ t1.list e.a = t.list e.a ++ [e.q] ∧
        ∀ k, k ≠ e.a → t1.list k = t.list k)) ∧
    (t.quiet = false → items = [] → ∃ u, exec (.wlpop x y z) s = .next u ∧
      u = { s with me := { s.me with participant := true }, agenda := s.agenda ++ [{ op := .slackwaterReport, arg := { a := t.id }, due := s.clock }] }) ∧
    (t.quiet = true ∨ (items ≠ [] ∧ s.myPart.conf.mate = none) → ∃ u t1 ws, exec (.wlpop x y z) s = .next u ∧ tasks u t1 ∧
      u = { s with
        nextId := s.nextId + 1
        tasks := u.tasks
        me := { s.me with participant := true, cf := u.me.cf, pend := u.me.pend }
        agenda := s.agenda ++ [{ op := .resultWriteback, arg := { r := s.self, a := s.nextId }, due := s.clock }, { op := .slackwaterReport, arg := { a := t.id }, due := s.clock }] } ∧
      (∀ k, u.me.cfGet k = s.me.cfGet k + if k < 12 ∧ k = z.toNat then 1 else 0) ∧
      (⟨s.nextId, none, true, ws, flagOf z, s.here, true, [], s.clock⟩ : Pend) ∈ u.me.pend ∧
      s.me.TakesReg ws 64 y.toNat L (fun l =>
        if t.quiet = true then BitVec.ofNat 64 (2 ^ 64 - 1)
        else match items[(L.takeWhile (fun k => k != l)).length]? with | some q => q | none => BitVec.ofNat 64 (2 ^ 64 - 2)) ∧
      t1.list x.toNat = items.drop L.length ∧ (∀ k, k ≠ x.toNat → t1.list k = t.list k) ∧
      t1.popped = t.popped + min items.length L.length ∧ t1.room = t.room + min items.length L.length)

/-- R156, R235, R255, R328: the Slackwater reports quiescence when its conditions hold, and then for good; with them not met it reports nothing;
a stream that the debugger has stopped does not count as waiting. A stream that stands at a `TKWAIT` whose words serve its tickets at their
homes, with no write of its own to them still to drain, has found them served; before that its lanes take free places and look again. -/
def Claims.SlackwaterAndPolls : Prop :=
  ∀ (s : State) (t : Task),
    (s.taskOf s.ctx.ev.a = some t →
      let parts (c : Crew) (x : Stream) : Prop := c ∈ s.allCrews ∧ c.task = t.id ∧ x ∈ s.streamsOf c ∧ x.participant = true ∧ x.gone = false
      let quiet : Prop := t.lists = [] ∧ t.inflight = 0 ∧ t.pushed = t.popped ∧ (∃ c x, parts c x) ∧
        ∀ c x, parts c x → x.stopped = false ∧ ∃ l y z, Instr.wlpop l y z ∈ s.headInstrs c x
      (quiet → ∃ u, exec .slackwaterReport s = .next u ∧ u = { s with tasks := u.tasks } ∧ u.taskOf t.id = some { t with quiet := true } ∧
        ∀ k, k ≠ t.id → u.taskOf k = s.taskOf k) ∧
      (¬quiet → exec .slackwaterReport s = .next s)) ∧
    (∀ d a g, s.ctx.ev.r = s.self → (s.headInstrs s.crew s.me).find? (fun i => match i with | .tkwait _ _ _ => true | _ => false) =
        some (.tkwait d a g) → s.myPart.conf.mate = none →
      let ls := s.ticketLanes d a g
      let ready (l : Nat × Nat × Nat) : Prop := s.homeHold l.2.1 = none ∧ s.ownWrites s.self s.crew.part l.1 s.nextId l.2.1 8 = false ∧
        served (leNat (s.mem.bytes l.2.1 8)) l.2.2 = true
      ((∀ l ∈ ls, ready l) →
        exec .tkwaitPoll s = .next { s with me := { s.me with tkServed := true } }) ∧
      ((∃ l ∈ ls, ¬ready l) →
        exec .tkwaitPoll s = .next { s with watch := (s.takePlaces ls).watch, agenda := s.agenda ++ [{ op := .tkwaitPoll, arg := s.ctx.ev, due := s.clock }] }))

/-- Barrier objects: their counting, and the words over them. -/
def Obligations.BarrierObjects : Prop :=
  Claims.BarrierRules ∧ Claims.Barriers

/-- Tile queues, lane-uniform queues and crew flags. -/
def Obligations.QueuesAndChannels : Prop :=
  Claims.TileQueues ∧ Claims.HandlesPlaced ∧ Claims.Channels

/-- Bindings, acquire and release, fences and ticket waits. -/
def Obligations.AcquireReleaseFence : Prop :=
  Claims.Bindings ∧ Claims.Acquires ∧ Claims.Fences ∧ Claims.TicketWaits

/-- Work lists, the Slackwater and polls. -/
def Obligations.WorkDistribution : Prop :=
  Claims.WorkLists ∧ Claims.SlackwaterAndPolls

/-! ### Tasks, phases, frontiers, traps and pre-emption (R92 to R128, R177 to R180, R249 to R256, R305 to R315, R328) -/

namespace Sys2Proof.Machine

/-- The distance of a schedule from the busy times of a span (R126), as a rational number. -/
def distance (busy sch : List Nat) : Rat :=
  let b : Rat := (busy.sum : Nat)
  let t : Rat := (((List.range busy.length).map (fun i => sch.getD i 0)).sum : Nat)
  ((List.range busy.length).map (fun i => |(busy.getD i 0 : Rat) * t - (sch.getD i 0 : Rat) * b| / (b * t))).sum

end Sys2Proof.Machine

/-- R126: the selector takes the lowest schedule of least distance, compared exactly; without schedules or busy time it keeps `SCHEDSEL`. -/
def Claims.ScheduleSelector : Prop :=
  ∀ (scheds : List (List Nat)) (busy : List Nat) (cur : Nat),
    (scheds = [] ∨ busy.sum = 0 → selectSched scheds busy cur = cur) ∧
    (scheds ≠ [] → busy.sum ≠ 0 → (∀ sch ∈ scheds, ((List.range busy.length).map (fun i => sch.getD i 0)).sum ≠ 0) →
      let k := selectSched scheds busy cur
      ∃ best, scheds[k]? = some best ∧ ∀ j sch, scheds[j]? = some sch →
        distance busy best ≤ distance busy sch ∧ (j < k → distance busy best < distance busy sch))

/-- R125, R126, R251: a steward's `PHASE` enters its arrival with its busy time, waits, and goes on once its phase is released; a group's
raises `ILLEGAL_OP`. When every crew of the span has arrived, the selector's choice stands in every crew and the next phase starts. -/
def Claims.Phases : Prop :=
  ∀ s : State,
    let e := s.ctx.ev
    (s.me.sid ≠ 0 → IllegalIn .phase s) ∧
    (s.me.sid = 0 → s.crew.phaseGo = true → exec .phase s = .next { s with crew := { s.crew with phaseGo := false } }) ∧
    (s.me.sid = 0 → s.crew.phaseGo = false → s.crew.phaseBusy ≠ none → exec .phase s = .next s) ∧
    (s.me.sid = 0 → s.crew.phaseGo = false → s.crew.phaseBusy = none → exec .phase s = .next { s with
      crew := { s.crew with phaseBusy := some (s.clock - s.crew.phaseStart) }
      agenda := s.agenda ++ [{ op := .phaseRelease, arg := { a := s.crew.task, b := s.crew.span }, due := s.clock }] }) ∧
    (∀ t cs, s.taskOf e.a = some t → s.spanCrews e.a e.b = cs → cs ≠ [] → (cs.map Crew.id).Nodup → (∀ c ∈ cs, c.id ≠ 0) →
      (s.part t.part).conf.mate = none →
      ((∃ c ∈ cs, c.phaseBusy = none) → exec .phaseRelease s = .next s) ∧
      ((∀ c ∈ cs, c.phaseBusy ≠ none) → (∃ c ∈ cs, s.stewardGone c = false) →
        let sel := match (s.part t.part).conf.frozen with
          | some f => f
          | none => selectSched t.kernel.sched (cs.map (fun c => c.phaseBusy.getD 0)) ((cs.head?.map Crew.schedsel).getD 0)
        ∃ u, exec .phaseRelease s = .next u ∧ u.mem = s.mem ∧ ∀ c ∈ cs, s.crewOf c.id = some c → u.crewOf c.id = some { c with
          schedsel := sel
          phaseStart := s.clock
          phaseBusy := if s.stewardGone c = true then some 0 else none
          phaseGo := !s.stewardGone c }))

namespace Sys2Proof.Machine

/-- A step that changes one stream, and nothing else. -/
def State.StreamStep (s u : State) (r : Ref) (t1 : Stream) : Prop :=
  u = { s with me := u.me, crew := u.crew, crews := u.crews } ∧ u.streamOf r = some t1

end Sys2Proof.Machine

/-- R108, R109, R120, R206: when the lanes that wait at a `JOIN` are all those expected, they stand at the word after it, and are ready there
from the next cycle; a spilled
entry is refilled in 40 cycles; a stream eligible for more than 64 cycles is promoted; a `YIELD` ends. -/
def Obligations.FrontierSteps : Prop :=
  ∀ (s : State) (t : Stream),
    let e := s.ctx.ev
    e.r.crew ≠ 0 → s.streamOf e.r = some t →
    (∀ x, FrontierOk t.frontier → x ∈ t.frontier → x.st = .joinWait → t.expected &&& ~~~x.mask = 0#32 → t.expected ≠ 0#32 →
      ∃ u t1, exec .joinRelease s = .next u ∧ s.StreamStep u e.r t1 ∧ FrontierOk t1.frontier ∧
        t1 = { t with frontier := t1.frontier } ∧
        (∀ l < 32, x.mask.getLsbD l = true → t1.place l = some (x.pc.succ, x.prio, .resuming)) ∧
        (∀ l < 32, x.mask.getLsbD l = false → t1.place l = t.place l)) ∧
    (∀ l pc pr, FrontierOk t.frontier → t.place l = some (pc, pr, .resuming) → t.turnOver.place l = some (pc, pr, .ready)) ∧
    ((∀ x ∈ t.frontier, ¬(x.st = .joinWait ∧ t.expected &&& ~~~x.mask = 0#32)) → ∃ u, exec .joinRelease s = .next u ∧ s.StreamStep u e.r t) ∧
    (let can : Prop := t.refill = none ∧ (∃ x ∈ t.frontier, x.spilled = true) ∧ (t.frontier.filter (fun x => !x.spilled)).length < 8
     (can → ∃ u : State, exec .frontierRefillStart s = .next { u with agenda := s.agenda ++ [{ op := .frontierRefillDone, arg := { r := e.r }, due := s.clock }] } ∧
       s.StreamStep u e.r { t with refill := some (s.clock + 40) }) ∧
     (¬can → exec .frontierRefillStart s = .next s)) ∧
    (∀ c, t.refill = some c →
      (s.clock < c → exec .frontierRefillDone s = .next { s with agenda := s.agenda ++ [{ op := .frontierRefillDone, arg := e, due := s.clock }] }) ∧
      (c ≤ s.clock → Apart t.frontier → ∃ u t1, exec .frontierRefillDone s = .next u ∧ s.StreamStep u e.r t1 ∧ t1.refill = none ∧
        FrontierOk t1.frontier ∧ ∀ l, t1.place l = t.place l)) ∧
    (64 < t.eligFor → t.promoted = none → ∃ u, exec .promotion s = .next u ∧ s.StreamStep u e.r { t with promoted := some s.clock }) ∧
    (t.yieldUntil ≤ s.clock → ∃ u, exec .yieldExpiry s = .next u ∧ s.StreamStep u e.r { t with yieldUntil := 0 }) ∧
    (s.clock < t.yieldUntil → exec .yieldExpiry s = .next { s with agenda := s.agenda ++ [{ op := .yieldExpiry, arg := e, due := s.clock }] })

namespace Sys2Proof.Machine

/-- A record of a group as R308 makes it. -/
def TrapRec.Of (r : TrapRec) (sid code cause : Nat) (pc : Word) (mask : Word) (addr : Quad) : Prop :=
  r = ⟨false, sid - 1, code, cause, pc, mask, addr, false, false⟩

end Sys2Proof.Machine

/-- R110 and R307: lanes that wait at several `JOIN`s with nothing else left are parked with `ILLEGAL_CONVERGENCE`, but for those at the
lowest, one record for each entry; an asynchronous trap parks the whole head of its group in place of its next issue, at the PC where it
stands, with one record. -/
def Claims.GroupsPark : Prop :=
  ∀ (s : State) (t : Stream) (c : Crew),
    let e := s.ctx.ev
    let low (x : Entry) : Prop := ∀ y ∈ t.frontier, y.pc.lt x.pc = false
    let stuck : Prop := (∀ x ∈ t.frontier, x.st = .joinWait ∧ x.spilled = false ∧ t.expected &&& ~~~x.mask ≠ 0#32) ∧ 2 ≤ t.frontier.length
    e.r.crew ≠ 0 → s.streamOf e.r = some t → s.crewOf e.r.crew = some c →
    (stuck → ∃ (u : State) (t1 : Stream) (c1 : Crew) (rs : List TrapRec), exec .convergencePark s = .next u ∧ u.streamOf e.r = some t1 ∧ u.crewOf e.r.crew = some c1 ∧
      t1 = { t with frontier := t1.frontier } ∧ t1.frontier.length = t.frontier.length ∧
      (∀ (i : Nat) (x y : Entry), t.frontier[i]? = some x → t1.frontier[i]? = some y → (low x → y = x) ∧ (¬low x → y = { x with st := .parked 0x02 })) ∧
      c1.recWait = c.recWait ++ rs ∧ rs.length = (t.frontier.filter (fun x => t.frontier.any (fun y => y.pc.lt x.pc))).length ∧
      ∀ r ∈ rs, ∃ x ∈ t.frontier, ¬low x ∧ r.Of e.r.sid 0 0x02 (ptrOf x.pc x.prio) x.mask 0) ∧
    (¬stuck → exec .convergencePark s = .next s) ∧
    (∀ x rest h, t.asyncs = x :: rest → t.gone = false → e.a ≠ 0 → x.lanes = [] → t.head = some h → Apart t.frontier → h.mask ≠ 0#32 →
      ∃ u t1 c1 r, exec .asyncTrapPark s = .next u ∧ u.streamOf e.r = some t1 ∧ u.crewOf e.r.crew = some c1 ∧
        t1 = { t with asyncs := rest, frontier := t1.frontier } ∧ FrontierOk t1.frontier ∧
        (∀ l < 32, h.mask.getLsbD l = true → t1.place l = some (h.pc, h.prio, .parked x.cause)) ∧
        (∀ l < 32, h.mask.getLsbD l = false → t1.place l = t.place l) ∧ c1.recWait = c.recWait ++ [r] ∧
        r.Of e.r.sid x.code x.cause (match x.pc with | some p => ptrOf (ptrPc p) h.prio | none => ptrOf h.pc h.prio) h.mask x.addr)

/-- R308 to R310, R209, R210: the records of a crew enter its queue of 64 in order; the steward enters its handler for the oldest when it can, from
slot 0 of `TVEC.PACKET` at priority 0, with the record in its trap registers and its place saved, which is a `FENCE` in which it waits; a record
that no handler can take is escalated: the task and its crews are gone, or, for a `BREAKPOINT` with a session attached, the stream stops after its
`BKPT`. Where the lanes that a `BKPT` has parked then stand is the model's reading (log entry 18). -/
def Claims.RecordsAndHandlers : Prop :=
  ∀ (s : State) (t : Stream) (c : Crew) (k : Task),
    let a := s.ctx.ev.a
    let ok : Prop := t.tvec.getLsbD 31 = true ∧ t.tvec.toNat % 2 ^ 26 < k.kernel.spkts
    a ≠ 0 → s.streamOf ⟨a, 0⟩ = some t → s.crewOf a = some c → s.taskOf c.task = some k →
    (∃ u c1, exec .trapRecordEnqueue s = .next u ∧ u.crewOf a = some c1 ∧ u.mem = s.mem ∧
      c1 = { c with records := c1.records, recWait := c1.recWait } ∧ c1.records ++ c1.recWait = c.records ++ c.recWait ∧
      c.records <+: c1.records ∧ (c.records.length ≤ 64 → c1.records.length ≤ 64) ∧ (c1.recWait = [] ∨ 64 ≤ c1.records.length)) ∧
    (∀ r rest e0, c.records = r :: rest →
      (t.blockAt = none ∧ ∃ es, t.frontier = e0 :: es) ∨
        (t.blockAt = some e0 ∧ e0.mask = 1#32 ∧ e0.st = .ready ∧ e0.spilled = false ∧ ∃ x, t.frontier = [x] ∧ x.mask = 1#32 ∧ x.st = .ready) →
      t.handler = none → t.gone = false → r.esc = false → c.saved = false → ok →
      ∃ u t1, exec .handlerEntry s = .next u ∧ u.mem = s.mem ∧ u.streamOf ⟨a, 0⟩ = some t1 ∧
        t1.handler = some (if r.own = true then { e0 with st := .ready } else e0) ∧
        t1.frontier = [⟨⟨t.tvec.toNat % 2 ^ 26, 0⟩, 0, 1#32, .ready, false⟩] ∧ (t.blockAt ≠ none → t1.blocked = none) ∧
        t1.trapcause.toNat = (if r.src then 2 ^ 20 else 0) + r.group % 16 * 2 ^ 16 + r.code % 256 * 2 ^ 8 + r.cause % 256 ∧
        t1.trappc = r.pc ∧ t1.trapmask = r.mask ∧ t1.trapaddr = r.addr ∧ t1.pend = t.pend ∧ t1.k = t.k ∧ t1.p = t.p ∧ t1.cf = t.cf ∧
        ∀ q, q ≠ ⟨a, 0⟩ → q.crew ≠ 0 → u.streamOf q = s.streamOf q) ∧
    (c.records = [] ∨ t.handler ≠ none ∨ t.gone = true → exec .handlerEntry s = .next s) ∧
    (∀ r rest, c.records = r :: rest → (∀ x ∈ c.records ++ c.recWait, x.esc = false) → t.gone = true ∨ (t.handler = none ∧ ¬ok) →
      ¬(r.cause = 0x0D ∧ (s.part c.part).session = true) → s.reportHold k.part k.reportTo = none →
      ∃ u, exec .trapEscalation s = .next u ∧ u.taskOf k.id = none ∧ ∀ x ∈ u.allCrews, x.task ≠ k.id) ∧
    (∀ r rest, c.records = r :: rest → (∀ x ∈ c.records ++ c.recWait, x.esc = false) → t.gone = true ∨ (t.handler = none ∧ ¬ok) →
      r.cause = 0x0D → (s.part c.part).session = true → r.src = true → Apart t.frontier →
      ∃ u t1 c1, exec .trapEscalation s = .next u ∧ u.streamOf ⟨a, 0⟩ = some t1 ∧ t1.stopped = true ∧ u.crewOf a = some c1 ∧ c1.records = rest ∧
        ∀ l pc pr, t.place l = some (pc, pr, .parked 0x0D) → t1.place l = some (pc, pr, .ready)) ∧
    ((∀ x ∈ c.records ++ c.recWait, x.esc = false) → c.records = [] ∨ (t.gone = false ∧ (t.handler ≠ none ∨ ok)) →
      exec .trapEscalation s = .next s)

/-- R103: a stream that waits on a party that can no longer answer has its task aborted; any other stays as it is. -/
def Claims.DeadParties : Prop :=
  ∀ (s : State) (k : Task), s.ctx.ev.r = s.self → s.taskOf s.crew.task = some k →
    (s.deadWait = true → s.reportHold k.part k.reportTo = none →
      ∃ u, exec .deadPartyEscalation s = .next u ∧ u.taskOf k.id = none ∧ ∀ x ∈ u.allCrews, x.task ≠ k.id) ∧
    (s.deadWait = false → exec .deadPartyEscalation s = .next s)

/-- R93, R177, R249, R250: a steward's `LAUNCH` whose descriptor lies in the share reads it at issue, and starts the task, or reports it refused,
once the steward's earlier writes have drained; a group raises `ILLEGAL_OP`. The checks of a launch, in the order of their causes. The address that
a descriptor trap reports is the model's reading (log entry 14). -/
def Claims.Launches : Prop :=
  ∀ (s : State) (x : BitVec 6) (me : Task) (k : Kernel) (g : Geom),
    let v := s.me.rdK x.toNat
    let off := v.toNat % 2 ^ 32
    let d := s.descBytes v 192
    (s.me.sid ≠ 0 → IllegalIn (.launch x) s) ∧
    (s.me.sid = 0 → off % 64 ≠ 0 → exec (.launch x) s = .next (s.trapHead 0x04 0 (BitVec.ofNat 64 (0xAF * 2 ^ 56 + off)))) ∧
    (s.me.sid = 0 → off % 64 = 0 → s.crew.shareSize < off + 192 →
      exec (.launch x) s = .next (s.trapHead 0x03 0 (BitVec.ofNat 64 (0xAF * 2 ^ 56 + off)))) ∧
    (s.me.sid = 0 → off % 64 = 0 → off + 192 ≤ s.crew.shareSize → field d 0x18 8 = 0 → s.taskOf s.crew.task = some me →
      (∀ w ∈ s.tasks, w.id < s.nextId) →
      ((∃ w ∈ s.writesOf s.self s.crew.part, w.id < s.nextId) → ∃ t, exec (.launch x) s = .next { s with
        nextId := s.nextId + 1
        tasks := s.tasks ++ [t]
        agenda := s.agenda ++ [{ op := .spanPlace, arg := { a := s.nextId }, due := s.clock }] } ∧
        t.id = s.nextId ∧ t.launch = some (s.self, s.nextId, d) ∧ t.part = s.crew.part) ∧
      ((∀ w ∈ s.writesOf s.self s.crew.part, ¬w.id < s.nextId) → launchDescOk d = false →
        exec (.launch x) s = .next (({ s with nextId := s.nextId + 1 } : State).outcome s.crew.part 0
          (if field d 2 1 < 64 then some (s.crew.id, field d 2 1) else none) none 0 5 2)) ∧
      ((∀ w ∈ s.writesOf s.self s.crew.part, ¬w.id < s.nextId) → launchDescOk d = true → field d 1 1 % 2 = 1 → field d 1 1 / 2 % 2 = 1 →
        field d 0 1 < leNat (s.gbytes s.crew.part me.kernel.ktab.toNat 4) →
        s.readKernel s.crew.part (leNat (s.gbytes s.crew.part (me.kernel.ktab.toNat + 8 + 8 * field d 0 1) 8)) = some k →
        launchCause k ⟨field d 4 4, field d 8 1, field d 9 1, field d 0xC 4, (List.range 8).map (fun i => field d (0x10 + i) 1)⟩ = 0 →
        ∃ t : Task, exec (.launch x) s = .next { s with
          nextId := s.nextId + 1
          tasks := s.tasks ++ [t]
          agenda := s.agenda ++ [{ op := if field d 1 1 / 4 % 2 = 1 then .dependantStart else .spanPlace, arg := { a := s.nextId }, due := s.clock }] } ∧
        t.id = s.nextId ∧ t.part = s.crew.part ∧ t.kernel = k ∧ t.spans = field d 4 4 ∧ t.crews = field d 8 1 ∧ t.groups = field d 9 1 ∧
        t.scratch = field d 0xC 4 ∧ t.args = (List.range 16).map (fun i => BitVec.ofNat 64 (field d (0x40 + 8 * i) 8)) ∧
        t.barrier = (if field d 2 1 < 64 then some (s.crew.id, field d 2 1) else none) ∧ t.placed = 0 ∧
        t.waitsFor = if field d 1 1 / 4 % 2 = 1 then some me.id else none)) ∧
    -- the checks of R93
    (let range : Prop := 1 ≤ g.spans ∧ g.spans ≤ 2 ^ 20 ∧ 1 ≤ g.crews ∧ g.crews ≤ 12 ∧ 1 ≤ g.groups ∧ g.groups ≤ 16 ∧
       g.scratch % 4096 = 0 ∧ 4096 ≤ g.scratch
     let entry : Prop := ∀ i < 8, g.stages.getD i 0 ≠ 0 → (k.stages.getD i 0#32).getLsbD 27 = true
     let lens : Prop := k.sched = [] ∨ (k.sched.headD []).length = g.crews
     let room : Prop := k.ntile ≤ 256 ∧ g.scratch ≤ 2 ^ 20 ∧ ∀ w ∈ k.tiles, bits w 19 0 + bits w 36 20 ≤ g.scratch
     (¬range → launchCause k g = 5) ∧
     (range → g.stages.sum ≠ g.groups → launchCause k g = 1) ∧
     (range → g.stages.sum = g.groups → ¬entry → launchCause k g = 2) ∧
     (range → g.stages.sum = g.groups → entry → ¬lens → launchCause k g = 3) ∧
     (range → g.stages.sum = g.groups → entry → lens → ¬room → launchCause k g = 4) ∧
     (range → g.stages.sum = g.groups → entry → lens → room → launchCause k g = 0))

namespace Sys2Proof.Machine

/-- A stream as R97 places it: every register 0, every predicate false, one ready entry with every lane. -/
def Stream.Fresh (t : Stream) (all : Word) (pc : Pc) (prio : Nat) : Prop :=
  t.v = [] ∧ t.k = [] ∧ t.p = [] ∧ t.cf = [] ∧ t.level = 0 ∧ t.expected = all ∧ t.exited = 0 ∧ t.pend = [] ∧ t.reqs = [] ∧ t.wb = [] ∧
  t.frontier = [⟨pc, prio, all, .ready, false⟩]

end Sys2Proof.Machine

/-- R95 to R97: `SPAN_PLACE` places the next span of a task whole: one crew for each rank on the core, slot and share that the cluster has
free, every stream as R97 says; where it does not fit it waits, and after 36,000 cycles it holds the spans of other tasks. -/
def Claims.Placement : Prop :=
  ∀ (s : State) (t : Task),
    let e := s.ctx.ev
    s.taskOf e.a = some t → (∀ x ∈ s.tasks, x.id = t.id → x = t) →
    (∀ l, t.ready = true → s.unplaceable t = false → (s.part t.part).places = true → s.othersFirst t = false → t.restoresBefore t.placed = false →
      s.placeFor t = some l →
      s.crew.id < s.nextId → (∀ c ∈ s.crews, c.id < s.nextId) → s.nextId ≠ 0 →
      ∃ u, exec .spanPlace s = .next u ∧ u.mem = s.mem ∧ u.taskOf t.id = some { t with placed := t.placed + 1, waitSince := none, blocking := false } ∧
        (∀ c ∈ s.allCrews, c ∈ u.allCrews) ∧
        ∀ i x, l[i]? = some x → ∃ c, u.crewOf (s.nextId + i) = some c ∧ c ∈ u.allCrews ∧ c.task = t.id ∧ c.span = t.placed ∧ c.rank = i ∧ c.core = x.1 ∧
          c.slot = x.2.1 ∧ c.shareHome = scratchHome x.1 + x.2.2 ∧ c.shareSize = t.scratch ∧ c.schedsel = 0 ∧ c.flags = [] ∧ c.lqs = [] ∧
          c.tags = [] ∧ c.ngroup = t.groups ∧ c.streams.length = t.groups + 1 ∧
          (∀ q ∈ c.streams, q.sid = 0 → q.Fresh 1 ⟨t.kernel.sentry.toNat % 2 ^ 26, 0⟩ (t.kernel.sentry.toNat / 2 ^ 28)) ∧
          (∀ q ∈ c.streams, q.sid ≠ 0 → q.stage = stageOf t.stages (q.sid - 1) 0 ∧
            let w := t.kernel.stages.getD q.stage 0#32
            q.Fresh 0xFFFFFFFF ⟨w.toNat % 2 ^ 26, 0⟩ (w.toNat / 2 ^ 28))) ∧
    (t.ready = true → s.unplaceable t = false → s.placeFor t = none → t.waitSince = none → (s.part t.part).places = true → s.othersFirst t = false →
      t.restoresBefore t.placed = false →
      ∃ u, exec .spanPlace s = .next u ∧ u.taskOf t.id = some { t with waitSince := some s.clock } ∧ u.crews = s.crews ∧ u.mem = s.mem ∧
        u.agenda = s.agenda ++ [{ op := .placementWaitTimer, arg := { a := t.id }, due := s.clock }, { op := .spanPlace, arg := e, due := s.clock }]) ∧
    (∀ c, t.waitSince = some c →
      (s.clock < c + 36000 → exec .placementWaitTimer s = .next { s with agenda := s.agenda ++ [{ op := .placementWaitTimer, arg := e, due := s.clock }] }) ∧
      (c + 36000 ≤ s.clock → ∃ u, exec .placementWaitTimer s = .next u ∧ u = { s with tasks := u.tasks } ∧
        u.taskOf t.id = some { t with blocking := true }))

/-- R127, R128, R178, R180, R250: a stream whose lanes have all exited retires once nothing of it is under way; a crew when its streams have and
its commands have ended; a task completes when every crew of every span has, and reports STATUS 1 with the clock. A dependant may be placed once
every thread and steward of its producer has triggered or exited. That a store not drained counts as outstanding is the model's reading (log entry
38). -/
def Claims.Retirement : Prop :=
  ∀ (s : State) (t : Stream) (c : Crew) (k : Task),
    let e := s.ctx.ev
    (e.r.crew ≠ 0 → s.streamOf e.r = some t →
      (t.gone = true → t.retired = false → t.pend = [] → t.wb = [] → t.direct = [] → t.asyncs = [] → ∃ u, exec .groupRetire s = .next u ∧
        u.streamOf e.r = some { t with retired := true, cf := [] } ∧ u.agenda = s.agenda ++ [{ op := .crewRetire, arg := { a := e.r.crew }, due := s.clock }] ∧
        u.mem = s.mem) ∧
      (t.gone = true → t.retired = false → t.pend ≠ [] ∨ t.wb ≠ [] ∨ t.direct ≠ [] ∨ t.asyncs ≠ [] →
        exec .groupRetire s = .next { s with agenda := s.agenda ++ [{ op := .groupRetire, arg := e, due := s.clock }] }) ∧
      (t.gone = false → exec .groupRetire s = .next s)) ∧
    (e.a ≠ 0 → s.crewOf e.a = some c → c.retired = false →
      ((∀ x ∈ s.streamsOf c, x.retired = true) → s.crewBusy c = false → (∃ d ∈ s.allCrews, d.task = c.task ∧ d.span = c.span ∧ d.id ≠ c.id ∧ d.retired = false) →
        ∃ u c1, exec .crewRetire s = .next u ∧ u.crewOf e.a = some c1 ∧ c1.retired = true ∧ c1.shareSize = 0 ∧ c1.tiles = [] ∧ u.mem = s.mem ∧
          ∃ x ∈ u.agenda, x.op = .taskComplete ∧ x.arg.a = c.task) ∧
      ((∃ x ∈ s.streamsOf c, x.retired = false) → exec .crewRetire s = .next s)) ∧
    (s.taskOf e.a = some k → (∀ x ∈ s.tasks, x.id = k.id → x = k) →
      (k.launch = none → k.placed = k.spans → k.retired = k.spans * k.crews → s.reportHold k.part k.report.toNat = none →
        ∃ u, exec .taskComplete s = .next u ∧ u.taskOf k.id = none ∧
        (∀ leaf sh, k.report ≠ 0 → s.walk k.part k.report.toNat = some (leaf, sh) → bits leaf 61 60 = 1 → k.barrier = none → k.irq = false →
          u.mem = s.mem.put (leafHome leaf sh k.report.toNat)
            ([1, 0] ++ leBytes 2 k.taskId ++ leBytes 4 0 ++ leBytes 8 s.clock)) ∧
        (k.report = 0 → u.mem = s.mem)) ∧
      (k.launch ≠ none ∨ k.placed ≠ k.spans ∨ k.retired ≠ k.spans * k.crews → exec .taskComplete s = .next s) ∧
      (∀ p, k.waitsFor = some p → k.launch = none →
        (s.taskOf p = none ∨ (∃ q, s.taskOf p = some q ∧ q.placed = q.spans ∧
          ∀ d ∈ s.allCrews, d.task = q.id → ∀ x ∈ s.streamsOf d, x.retired = true ∨ x.trig &&& x.full = x.full) →
          ∃ u : State, exec .dependantStart s = .next { u with agenda := s.agenda ++ [{ op := .spanPlace, arg := { a := k.id }, due := s.clock }] } ∧ u = { s with tasks := u.tasks } ∧
            u.taskOf k.id = some { k with waitsFor := none }) ∧
        (∀ q, s.taskOf p = some q → (q.placed ≠ q.spans ∨ ∃ d ∈ s.allCrews, d.task = q.id ∧ ∃ x ∈ s.streamsOf d, x.retired = false ∧ x.trig &&& x.full ≠ x.full) →
          exec .dependantStart s = .next s)))

/-- R312, R313, R315: a pre-emption request stops every crew of its span; once their results are back, or 5,400 cycles have passed, and
their writes have drained, each is in its image, its share there, with every register, predicate and counter as it was; promotions are
not kept. -/
def Claims.Preemption : Prop :=
  ∀ (s : State) (c : Crew),
    let e := s.ctx.ev
    s.spanCrews e.a e.b = [c] → c.id ≠ 0 → s.crewOf c.id = some c → c.retired = false → c.saved = false →
    (c.stopAt = none → ∃ u, exec .preemptRequest s = .next u ∧ u.crewOf c.id = some { c with stopAt := some s.clock } ∧ u.mem = s.mem ∧
      u.agenda = s.agenda ++ [{ op := .preemptResultTimeout, arg := { a := c.id }, due := s.clock }, { op := .preemptSaveDone, arg := { a := e.a, b := e.b }, due := s.clock }]) ∧
    (∀ t0, c.stopAt = some t0 →
      exec .preemptRequest s = .next s ∧
      (e.a = c.id → (s.clock < t0 + 5400 → exec .preemptResultTimeout s = .next { s with agenda := s.agenda ++ [{ op := .preemptResultTimeout, arg := e, due := s.clock }] }) ∧
        (t0 + 5400 ≤ s.clock → exec .preemptResultTimeout s = .next s)) ∧
      (s.saveReady c = false → exec .preemptSaveDone s = .next { s with agenda := s.agenda ++ [{ op := .preemptSaveDone, arg := e, due := s.clock }] }) ∧
      (s.saveReady c = true → ∃ u c1, exec .preemptSaveDone s = .next u ∧ u.crewOf c.id = some c1 ∧ c1.saved = true ∧ c1.stopAt = none ∧
        c1.shareSize = c.shareSize ∧ c1.barriers = c.barriers ∧ c1.queues = c.queues ∧ c1.tiles = c.tiles ∧ c1.tags = c.tags ∧ c1.records = c.records ∧
        c1.matrix = c.matrix ∧ c1.flags = c.flags ∧ c1.lqs = c.lqs ∧
        ∀ i t, s.streamOf ⟨c.id, i⟩ = some t → ∃ t1, u.streamOf ⟨c.id, i⟩ = some t1 ∧ t1.v = t.v ∧ t1.k = t.k ∧ t1.p = t.p ∧ t1.cf = t.cf ∧
          t1.pend = t.pend ∧ (t.blockAt = none → t1.frontier = t.frontier) ∧ t1.expected = t.expected ∧ t1.level = t.level ∧ t1.parity = t.parity ∧ t1.pkr = t.pkr ∧
          t1.handler = t.handler ∧ t1.promoted = none))

/-- R314: the crew of a saved span that fits a cluster is placed there at once: on the core, slot and share that are free, with its streams
as they were saved; one that does not fit waits as a span of its task does (R96). -/
def Claims.Restores : Prop :=
  ∀ (s : State) (c : Crew) (t : Task),
    let e := s.ctx.ev
    s.spanCrews e.a e.b = [c] → c.id ≠ 0 → s.crewOf c.id = some c → c.retired = false → c.saved = true → c.rank = 0 → s.taskOf e.a = some t →
    (s.part t.part).places = true → s.othersFirst t = false → t.restoresBefore e.b = false →
    let fits (k : Nat) : Option (List (Nat × Nat × Nat)) := s.spanFits t.part k 1 t.groups t.scratch t.kernel.tiles.length [c.matrix.isSome]
    (∀ x, e.c < 16 → fits e.c = some [x] → ∃ u c1, exec .restore s = .next u ∧ u.crewOf c.id = some c1 ∧ c1.saved = false ∧ c1.core = x.1 ∧
      c1.slot = x.2.1 ∧ c1.shareHome = scratchHome x.1 + x.2.2 ∧ c1.rank = c.rank ∧ c1.span = c.span ∧
      ∀ i q, s.streamOf ⟨c.id, i⟩ = some q → ∃ q1, u.streamOf ⟨c.id, i⟩ = some q1 ∧ q1.v = q.v ∧ q1.k = q.k ∧ q1.p = q.p ∧ q1.cf = q.cf ∧
        q1.frontier = q.frontier ∧ q1.handler = q.handler ∧ q1.pend = q.pend) ∧
    (e.c < 16 → fits e.c = none → ∃ u, exec .restore s = .next u ∧ u = { s with
        tasks := u.tasks
        agenda := s.agenda ++ (if t.waitSince = none then [{ op := .placementWaitTimer, arg := { a := t.id }, due := s.clock }] else []) ++
          [{ op := .restore, arg := e, due := s.clock }] } ∧
      u.taskOf t.id = some { t with
        waitSince := some (t.waitSince.getD s.clock)
        restoring := if e.b ∈ t.restoring then t.restoring else t.restoring ++ [e.b] })

/-- R328: in a partition that allows it the debugger stops a stream and lets it go on, reads a register of it, and writes one of a stopped
stream that has no writeback to it under way, or at once when forced; in any other partition nothing happens. -/
def Claims.Debugger : Prop :=
  ∀ (s : State) (t : Stream) (c : Crew),
    let e := s.ctx.ev
    let n := bits e.q 18 13
    let l := bits e.q 12 8
    e.r.crew ≠ 0 → s.streamOf e.r = some t → s.crewOf e.r.crew = some c →
    ((s.part c.part).conf.debug = false → exec .sqdbStop s = .next s ∧ exec .sqdbResume s = .next s ∧ exec .sqdbRead s = .next s ∧
      exec .sqdbWrite s = .next s) ∧
    ((s.part c.part).conf.debug = true →
      (∃ u, exec .sqdbStop s = .next u ∧ u.streamOf e.r = some { t with stopped := true } ∧ (u.part c.part).session = true ∧ u.mem = s.mem) ∧
      (∃ u : State, exec .sqdbResume s = .next { u with agenda := s.agenda ++ [{ op := .slackwaterReport, arg := { a := c.task }, due := s.clock }] } ∧
        s.StreamStep u e.r { t with stopped := false }) ∧
      (bits e.q 3 0 = 0 → exec .sqdbRead s = .next { s with dev := { s.dev with replies := s.dev.replies ++
        [leBytes 8 (if t.sid = 0 then (t.rdK n).toNat else (t.rdV n l).toNat)] } }) ∧
      (bits e.q 3 0 = 0 → t.stopped = true → (s.part c.part).conf.mate = none → (e.a ≠ 0 ∨ t.pend = []) →
        ∃ u t1, exec .sqdbWrite s = .next u ∧ s.StreamStep u e.r t1 ∧ (t.sid = 0 → t1.rdK n = e.q2) ∧ (t.sid ≠ 0 → t1.rdV n l = lo32 e.q2) ∧
          (∀ r k, k < 32 → r ≠ n ∨ k ≠ l → t1.rdV r k = t.rdV r k) ∧ (∀ r, r ≠ n → t1.rdK r = t.rdK r) ∧ t1.p = t.p) ∧
      (bits e.q 3 0 = 0 → t.stopped = true → t.sid ≠ 0 → (s.part c.part).conf.mate = none → e.a = 0 →
        (∃ p ∈ t.pend, (∃ x, RegWrite.v (32 * n + l) x ∈ p.writes) ∨ (p.reg = true ∧ p.arrived = false ∧ ∃ q nib sx,
          t.reqs.find? (fun q => q.id == p.id) = some q ∧ q.kind = .load 16 nib sx ∧ (∃ y ∈ q.lanes, y.lane = l) ∧ q.d ≤ n ∧ n < q.d + 4)) →
        exec .sqdbWrite s = .next { s with agenda := s.agenda ++ [{ op := .sqdbWrite, arg := e, due := s.clock }] }) ∧
      (t.stopped = false → exec .sqdbWrite s = .next s))

/-- R256: the Beagle leaves a declared queue alone whose allowance, handles and pushes under way make up its total, and sets the allowance of any
other right, with a `LOST_PERMIT` record for the steward; saved crews are skipped. It leaves a walker's queue whose free places and queries in
flight make up 64 alone, and sets the free places of any other right. What makes up the total of a queue is the model's reading (log entry 50). -/
def Claims.Beagle : Prop :=
  ∀ (s : State) (c : Crew) (n : Nat) (q : TileQueue),
    let used (w : Nat) : Nat := (s.queries.filter (fun k => k.walker == some w)).length
    let right : Prop := ∀ w < 24, tget 64 s.dev.walkFree w + used w = 64
    s.allCrews = [c] → c.id ≠ 0 → s.dev.conns = [] → c.queues = [(n, q)] →
    ((∀ w < 24, used w ≤ 64) → ∃ u, exec .beagleAudit s = .next u ∧ ∀ w < 24, tget 64 u.dev.walkFree w + used w = 64) ∧
    (right → c.saved = true ∨ q.decl = false ∨ q.allow + q.handles.length + q.inflight = q.cap → exec .beagleAudit s = .next s) ∧
    (right → c.saved = false → q.decl = true → q.allow + q.handles.length + q.inflight ≠ q.cap → q.handles.length + q.inflight ≤ q.cap →
      ∃ u c1, exec .beagleAudit s = .next u ∧ u.crewOf c.id = some c1 ∧ c1.queue n = { q with allow := q.cap - q.handles.length - q.inflight } ∧
        c1.recWait = c.recWait ++ [⟨true, 0, n, 0x0B, 0, 0, 0, false, false⟩])

/-- The schedule selector and the phases of a crew. -/
def Obligations.PhasesAndSchedules : Prop :=
  Claims.ScheduleSelector ∧ Claims.Phases

/-- Parked groups, trap records, handler entry, and dead parties. -/
def Obligations.TrapRecordsAndHandlers : Prop :=
  Claims.GroupsPark ∧ Claims.RecordsAndHandlers ∧ Claims.DeadParties

/-- Launches, placement and retirement. -/
def Obligations.TaskLives : Prop :=
  Claims.Launches ∧ Claims.Placement ∧ Claims.Retirement

/-- Pre-emption and restores, the debugger, and the Beagle. -/
def Obligations.StopsAndAudits : Prop :=
  Claims.Preemption ∧ Claims.Restores ∧ Claims.Debugger ∧ Claims.Beagle

/-! ### Tensor IDs, tiles and copies (R173, R174, R257 to R279) -/

namespace Sys2Proof.Machine

/-- The trap of a descriptor that a steward's register names (R263, R270): misaligned, then beyond the share. -/
def State.DescTraps (s : State) (i : Instr) (off n : Nat) : Prop :=
  let ea := BitVec.ofNat 64 (0xAF * 2 ^ 56 + off)
  (off % 64 ≠ 0 → exec i s = .next (s.trapHead 0x04 0 ea)) ∧
  (off % 64 = 0 → s.crew.shareSize < off + n → exec i s = .next (s.trapHead 0x03 0 ea))

end Sys2Proof.Machine

/-- R262: what makes a 64-byte descriptor one that no entry takes. -/
def Claims.TensorRefusals : Prop :=
  ∀ d : List Byte, d.length = 64 →
    let b (i : Nat) : Nat := (d.getD i 0).toNat
    let ext (i : Nat) : Nat := leNat ((d.drop (0x10 + 4 * i)).take 4)
    let str (i : Nat) : Nat := leNat ((d.drop (0x20 + 4 * i)).take 4)
    let fmt := b 0 % 32
    let four : Prop := fmt = 5 ∨ fmt = 12 ∨ fmt = 13
    let planes : Prop := 16 ≤ fmt ∧ fmt ≤ 22
    let comp : Prop := b 2 / 2 % 2 = 1
    let scl : Prop := b 2 / 8 % 2 = 1
    tensorRefused d = true ↔
      23 ≤ fmt ∨ 32 ≤ b 0 ∨ b 1 / 4 % 4 = 3 ∨ 16 ≤ b 1 ∨ 16 ≤ b 2 ∨ 2 ≤ b 3 ∨ (∃ i ∈ [4, 5, 6, 7], b i ≠ 0) ∨
      (∃ i < 4, ext i = 0) ∨ (∃ i < 3 - b 1 % 4, ext i ≠ 1) ∨ leNat ((d.drop 8).take 8) % 64 ≠ 0 ∨ str 3 ≠ 1 ∨
      (planes ∧ ext 3 % 8 ≠ 0) ∨ (comp ∧ ext 3 % 64 ≠ 0) ∨
      (scl ∧ (¬(planes ∨ fmt ∈ [3, 4, 5, 10, 12]) ∨ leNat ((d.drop 0x30).take 8) = 0 ∨ leNat ((d.drop 0x38).take 8) = 0)) ∨
      (comp ∧ (four ∨ planes))

/-- R258, R262 to R264: a steward's `TIDSET` reads the descriptor at issue and writes the entry, registered and not derived, unless it is refused,
and `kp7` tells; `TIDGET` gives a word of an entry after 20 cycles, zero where none is registered. The address that a descriptor trap reports is
the model's reading (log entry 14). -/
def Claims.TensorIds : Prop :=
  ∀ (s : State) (x y : BitVec 6) (z : BitVec 3),
    let off := (s.me.rdK y.toNat).toNat % 2 ^ 32
    let id := s.me.rdK x.toNat
    let d := s.descBytes (s.me.rdK y.toNat) 64
    let a := s.opN s.natW y 0
    (s.me.sid ≠ 0 → IllegalIn (.tidset x y) s) ∧
    (s.me.sid = 0 → s.DescTraps (.tidset x y) off 64) ∧
    (s.me.sid = 0 → off % 64 = 0 → off + 64 ≤ s.crew.shareSize →
      (2 ^ 12 ≤ id.toNat → exec (.tidset x y) s = .next (s.trapHead 0x03 0 id)) ∧
      (id.toNat < 2 ^ 12 → (s.myPart.tensor id.toNat).derived = true ∨ tensorRefused d = true →
        ∃ t, exec (.tidset x y) s = .next t ∧ s.Arrives t none [.p 224 false]) ∧
      (id.toNat < 2 ^ 12 → (s.myPart.tensor id.toNat).derived = false → tensorRefused d = false →
        ∃ t u q, exec (.tidset x y) s = .next t ∧ u.Arrives t none [.p 224 true] ∧ s.MyPartStep u q ∧ q = { s.myPart with tensors := q.tensors } ∧
          (∀ k, k ≠ id.toNat → tget [] q.tensors k = tget [] s.myPart.tensors k) ∧
          ∀ i < 8, ((tget [] q.tensors id.toNat).getD i 0).toNat = leNat ((List.range 8).map (fun j =>
            if 8 * i + j = 2 then d.getD 2 0 &&& 0xFB else if 8 * i + j = 3 then 1 else d.getD (8 * i + j) 0)))) ∧
    (s.me.sid = 0 ∨ x.toNat % 2 = 0 →
      (2 ^ 12 ≤ a → exec (.tidget x y z) s = .next (s.trapHead 0x03 0 (BitVec.ofNat 64 a))) ∧
      (a < 2 ^ 12 → GivesReg (.tidget x y z) s 20 64 x s.headLanes (fun _ => (tget [] s.myPart.tensors a).getD z.toNat 0))) ∧
    (¬(s.me.sid = 0 ∨ x.toNat % 2 = 0) → IllegalIn (.tidget x y z) s)

namespace Sys2Proof.Machine

/-- The steward's word writes `kp7` after `lat` cycles (R267). -/
def State.GivesKp7 (s t : State) (lat : Nat) (b : Bool) : Prop :=
  ∃ p, s.Posts t p ∧ p.due = some (s.clock + lat) ∧ p.flag = none ∧ p.writes = [.p 224 b]

end Sys2Proof.Machine

/-- R265, R267, R268: `TLSET` gives a tile the fields of its word, ready or empty, unless the tile is filling, draining, pinned or in use or
the word is not one a tile may have, and `kp7` tells after 8 cycles; `TLSTATE` gives the tile word; an index that names no tile traps. -/
def Claims.TileTable : Prop :=
  ∀ (s : State) (x y : BitVec 6) (t : Tile),
    let i := s.me.rdK x.toNat
    let w := s.me.rdK y.toNat
    let off := w.toNat % 2 ^ 20
    let len := w.toNat / 2 ^ 20 % 2 ^ 17
    let refused : Prop := t.st = 1 ∨ t.st = 3 ∨ t.pin = true ∨ s.tileUsed s.crew i.toNat = true ∨ len % 64 ≠ 0 ∨ len < 64 ∨ 65536 < len ∨ off % 64 ≠ 0 ∨
      s.crew.shareSize < off + len ∨ w.toNat / 2 ^ 37 % 4 ≠ 0
    let n := s.opN 32 y 0 % 256
    (s.me.sid ≠ 0 → IllegalIn (.tlset x y) s) ∧
    (s.me.sid = 0 → 256 ≤ i.toNat ∨ s.crew.tiles.length ≤ i.toNat → exec (.tlset x y) s = .next (s.trapHead 0x06 0 i)) ∧
    (s.me.sid = 0 → i.toNat < 256 → s.crew.tiles[i.toNat]? = some t →
      (refused → ∃ u, exec (.tlset x y) s = .next u ∧ s.GivesKp7 u 8 false) ∧
      (¬refused → ∃ (u v : State), exec (.tlset x y) s = .next u ∧ v.GivesKp7 u 8 true ∧ v = { s with crew := { s.crew with tiles := v.crew.tiles } } ∧
        v.crew.tiles.length = s.crew.tiles.length ∧ (∀ j : Nat, j ≠ i.toNat → v.crew.tiles[j]? = s.crew.tiles[j]?) ∧
        v.crew.tiles[i.toNat]? = some ⟨w.toNat / 2 ^ 52, decide (w.toNat / 2 ^ 51 % 2 = 1), if w.toNat / 2 ^ 39 % 2 = 1 then 2 else 0, false,
          w.toNat / 2 ^ 40 % 256, len, off, 0⟩)) ∧
    (¬(s.me.sid = 0 ∨ x.toNat % 2 = 0) → IllegalIn (.tlstate x y) s) ∧
    (s.me.sid = 0 ∨ x.toNat % 2 = 0 →
      (s.crew.tiles.length ≤ n → exec (.tlstate x y) s = .next (s.trapHead 0x06 0 (BitVec.ofNat 64 n))) ∧
      (s.crew.tiles[n]? = some t → GivesReg (.tlstate x y) s 8 64 x s.headLanes (fun _ => BitVec.ofNat 64
        (t.tid % 2 ^ 12 * 2 ^ 52 + (if t.tv then 2 ^ 51 else 0) + t.st % 4 * 2 ^ 49 + (if t.pin then 2 ^ 48 else 0) + t.pitch % 2 ^ 8 * 2 ^ 40 +
          t.bytes % 2 ^ 17 * 2 ^ 20 + t.offset % 2 ^ 20))))

/-- R270: a steward's `COPY` or `XFORM` reads its descriptor at issue, and the command waits for acceptance; bits [63:32] of the register that are
not 0 trap as a descriptor beyond the share does. The address that a descriptor trap reports, and 0 for an `ENGINE` trap, is the model's reading
(log entry 14). -/
def Claims.CopyWords : Prop :=
  ∀ (s : State) (x y : BitVec 6) (xf : Bool),
    let i : Instr := if xf then .xform x y else .copy x y
    let v := s.me.rdK x.toNat
    let off := v.toNat % 2 ^ 32
    (s.me.sid ≠ 0 → IllegalIn i s) ∧
    (s.me.sid = 0 → off % 64 ≠ 0 → exec i s = .next (s.trapHead 0x04 0 (BitVec.ofNat 64 (0xAF * 2 ^ 56 + off)))) ∧
    (s.me.sid = 0 → off % 64 = 0 → 2 ^ 32 ≤ v.toNat → exec i s = .next (s.trapHead 0x03 0 v)) ∧
    (s.me.sid = 0 → off % 64 = 0 → v.toNat < 2 ^ 32 → s.crew.shareSize < off + 64 →
      exec i s = .next (s.trapHead 0x03 0 (BitVec.ofNat 64 (0xAF * 2 ^ 56 + off)))) ∧
    (s.me.sid = 0 → off % 64 = 0 → v.toNat < 2 ^ 32 → off + 64 ≤ s.crew.shareSize → ∃ k : CopyCmd,
      exec i s = .next { s with
        nextId := s.nextId + 1
        copies := s.copies ++ [k]
        agenda := s.agenda ++ [{ op := .copyAccept, arg := { a := s.nextId }, due := s.clock }] } ∧
      k.id = s.nextId ∧ k.part = s.crew.part ∧ k.crew = s.crew.id ∧ k.desc = s.descBytes v 64 ∧ k.off = off ∧ k.barrier = y.toNat ∧
      k.xform = xf ∧ k.pkr = s.me.pkr ∧ k.upto = s.nextId ∧ k.st = .issued)

namespace Sys2Proof.Machine

/-- The count step of a copy command (R170, R272): its four STATUS bytes and its declared count, in one step; the command is gone, with the
bytes it held (log entry 4). -/
def State.CopyEnds (s u : State) (k : CopyCmd) (c : Crew) (cause code : Nat) : Prop :=
  let h := c.shareHome + k.off + 0xC
  (∀ i < 4, u.mem.get (h + i) = ([BitVec.ofNat 8 code, BitVec.ofNat 8 cause, 0, 0] : List Byte).getD i 0) ∧
  (∀ a, ¬(h ≤ a ∧ a < h + 4) → ¬(fetchHome k.id 0 ≤ a ∧ a < fetchHome (k.id + 1) 0) → u.mem.get a = s.mem.get a) ∧
  (∀ x, x ∈ u.copies ↔ x ∈ s.copies ∧ x.id ≠ k.id) ∧
  ∃ c1, u.crewOf k.crew = some c1 ∧ c1.bar k.barrier = (c.bar k.barrier).count 0 k.declared (decide (code ≠ 1)) ∧
    ∀ b, b ≠ k.barrier → c1.bar b = c.bar b

/-- A crew whose share lies in a scratchpad. -/
def Crew.InScratch (c : Crew) (k : CopyCmd) : Prop :=
  c.retired = false ∧ (c.shareHome + k.off) % 64 = 0 ∧ 2 ^ 56 ≤ c.shareHome ∧ c.shareHome + k.off + 64 < 2 ^ 58

end Sys2Proof.Machine

/-- R170, R269, R272, R275, R279: a command is checked in its turn, in one step; refused, it counts at once with the error bit and its cause in
STATUS; accepted, it waits for its tiles. One that has moved its last run counts with CODE 1; one that fails, with CODE 3. -/
def Claims.CopyEndings : Prop :=
  ∀ (s : State) (k : CopyCmd) (c : Crew),
    let e := s.ctx.ev
    k.crew ≠ 0 → s.copyOf e.a = some k → s.crewOf k.crew = some c → c.InScratch k →
    (let x := copyDesc k.desc
     let k1 : CopyCmd := { k with
       srcEnt := if x.srca = true then [] else tget [] (s.part k.part).tensors x.src
       dstEnt := if x.dstk = 0 then tget [] (s.part k.part).tensors x.dst else [] }
     k.st = .issued → (∀ z ∈ s.copies, ¬(z.crew = k.crew ∧ z.id < k.id ∧ z.st = .issued)) →
     (s.copyRefusal c k1 ≠ 0 → ∃ u, exec .copyAccept s = .next u ∧ s.CopyEnds u k1 c (s.copyRefusal c k1) 2) ∧
     (s.copyRefusal c k1 = 0 → ∃ u, exec .copyAccept s = .next u ∧ u.mem = s.mem ∧ u.copyOf e.a = some { k1 with st := .waiting } ∧
       u.agenda = s.agenda ++ [{ op := .copyStart, arg := { a := k.id }, due := s.clock }])) ∧
    (k.st = .issued → (∃ z ∈ s.copies, z.crew = k.crew ∧ z.id < k.id ∧ z.st = .issued) →
      exec .copyAccept s = .next { s with agenda := s.agenda ++ [{ op := .copyAccept, arg := e, due := s.clock }] }) ∧
    (k.st = .ending → (∀ m ∈ s.dev.msgs, m.cmd ≠ some k.id) → ∃ u, exec .copyCount s = .next u ∧ s.CopyEnds u k c 0 1) ∧
    (k.started = false → ∃ u, exec .copyFail s = .next u ∧ s.CopyEnds u k c e.b 3) ∧
    (k.started = true → k.crew ≠ 0 → ∃ u, exec .copyFail s = .next u ∧ s.CopyEnds u k c e.b 3 ∧ ∃ c1, u.crewOf k.crew = some c1 ∧
      ∀ i t, copyDstTile k.desc = some i → copySrcTile k.desc ≠ some i → c.tiles[i]? = some t → c1.tiles[i]? = some { t with st := 0 })

/-- R272: the checks of a command in their order: the first that fails gives the cause. -/
def Claims.CopyChecks : Prop :=
  ∀ (s : State) (c : Crew) (k : CopyCmd),
    let a := s.srcSide c k
    let b := s.dstSide c k
    let r := s.copyRefusal c k
    let ovl : Prop := (copyDesc k.desc).xop ≠ 0 ∧ copyOverlap k a b = true
    (r = 6 ↔ copyDescOk c k = false) ∧ (r = 2 ↔ copyDescOk c k = true ∧ copyFmtOk k a b = false) ∧
    (r = 3 ↔ copyDescOk c k = true ∧ copyFmtOk k a b = true ∧ s.copyAccessOk c k a b = false) ∧
    (r = 1 ↔ copyDescOk c k = true ∧ copyFmtOk k a b = true ∧ s.copyAccessOk c k a b = true ∧ ovl) ∧
    (r = 7 ↔ copyDescOk c k = true ∧ copyFmtOk k a b = true ∧ s.copyAccessOk c k a b = true ∧ ¬ovl ∧ copyTilesOk c k = false) ∧
    (r = 0 ↔ copyDescOk c k = true ∧ copyFmtOk k a b = true ∧ s.copyAccessOk c k a b = true ∧ ¬ovl ∧ copyTilesOk c k = true)

/-- R274: a slot that a pack or an elide-constant writes is well-formed, has the size of the element format, and reads back element by
element; a block of one constant that fits CONST is elided. -/
def Claims.CompressedSlots : Prop :=
  ∀ (n : Nat) (l : List Nat), n ∈ [1, 2, 4, 8] → l.length = 64 → (∀ v ∈ l, v < 2 ^ (8 * n)) →
    ∀ sl ∈ [slotPacked n l, slotElided n l], sl.length ≤ 16 + 64 * n ∧ slotOk sl = true ∧ ∀ i < 64, slotElem sl n i = l.getD i 0

/-- R173, R174, R266, R273, R277, R293, R318: a command whose tiles allow it and whose source, and the scales it reads, have drained starts, with
the scales first; a pinned source tile stays ready; a parked command resumes; a page that the migration service installs lets the partition's
parked commands go on. -/
def Claims.CopyProgress : Prop :=
  ∀ (s : State) (k : CopyCmd) (c : Crew),
    let e := s.ctx.ev
    let x := copyDesc k.desc
    let a := s.srcSide c k
    s.copyOf e.a = some k → s.crewOf k.crew = some c → k.crew ≠ 0 →
    (let free : Prop := copyTilesFree c k = true ∧ s.srcDrained k a.scr (a.runs x.rows x.cols) = true ∧ s.srcDrained k none k.scaleSpans = true
     k.st = .waiting →
     (¬free → exec .copyStart s = .next { s with agenda := s.agenda ++ [{ op := .copyStart, arg := e, due := s.clock }] }) ∧
     (free → ∃ u, exec .copyStart s = .next u ∧ u.mem = s.mem ∧ u.copyOf e.a = some { k with
         st := .running
         phase := if k.scaleSpans = [] then .runs else .scales
         run := 0 } ∧
       u.agenda = s.agenda ++ [{ op := .copyRun, arg := { a := k.id }, due := s.clock }] ∧ ∃ c1, u.crewOf k.crew = some c1 ∧
       (∀ i t, copySrcTile k.desc = some i → copyDstTile k.desc ≠ some i → c.tiles[i]? = some t →
         c1.tiles[i]? = some { t with st := if t.pin then t.st else 3, readers := t.readers + 1 }) ∧
       (∀ i t, copyDstTile k.desc = some i → copySrcTile k.desc ≠ some i → c.tiles[i]? = some t → c1.tiles[i]? = some { t with st := 1 }) ∧
       ∀ i : Nat, copySrcTile k.desc ≠ some i → copyDstTile k.desc ≠ some i → c1.tiles[i]? = c.tiles[i]?)) ∧
    (k.st = .parked → ∃ u, exec .copyResume s = .next u ∧ u.mem = s.mem ∧ u.copyOf e.a = some { k with st := .running } ∧
      u.agenda = s.agenda ++ [{ op := .copyRun, arg := { a := k.id }, due := s.clock }]) ∧
    (k.st ≠ .parked → exec .copyResume s = .next s) ∧
    (e.q.getLsbD 63 = true → ∃ u : State, exec .pageMigrationDone s = .next u ∧
      (∀ i < 8, u.mem.get (s.leafSlot e.b 4 (s.part e.a).conf.ptroot.toNat + i) = BitVec.ofNat 8 (e.q.toNat / 2 ^ (8 * i))) ∧
      (∀ h, ¬(s.leafSlot e.b 4 (s.part e.a).conf.ptroot.toNat ≤ h ∧ h < s.leafSlot e.b 4 (s.part e.a).conf.ptroot.toNat + 8) → u.mem.get h = s.mem.get h) ∧
      ∀ z ∈ s.copies, z.part = e.a → z.st = .parked → ∃ v ∈ u.agenda, v.op = .copyResume ∧ v.arg.a = z.id) ∧
    (e.q.getLsbD 63 = false → k.part = e.a → k.st = .parked → (∃ p, s.parkedAt k = some p ∧ p / 65536 = e.b / 65536) →
      (∀ z ∈ s.copies, z.id = k.id → z = k) →
      ∃ u, exec .pageMigrationDone s = .next u ∧ u.mem = s.mem ∧ u.copyOf k.id = some { k with st := .failing } ∧
        ∃ v ∈ u.agenda, v.op = .copyFail ∧ v.arg.a = k.id ∧ v.arg.b = 5)

/-- R174, R273, R277, R278: a command moves the next aligned piece of 64 bytes of its source. Where a page of the piece is missing it parks, and
where one is lost it fails. Between scratchpads it reads the piece's bytes and puts those of the elements that are complete, under their masks,
at their homes, and no other byte; a malformed slot ends it with `FORMAT`; else it stands at its next piece, or, after the last, waits to count
(log entry 19). -/
def Claims.CopyRuns : Prop :=
  ∀ (s : State) (k : CopyCmd) (c : Crew),
    let e := s.ctx.ev
    let a := s.srcSide c k
    let b := s.dstSide c k
    let spans := s.phaseSpans k a b
    let p := (nextPiece k.run spans).getD k.run
    let scr := if k.phase = .scales then none else a.scr
    let reads := if k.phase = .writes then [] else inPiece p spans
    let places := s.readPlaces k scr reads
    s.copyOf e.a = some k → k.st = .running → s.crewOf k.crew = some c → k.crew ≠ 0 →
    (anyLost places = true → ∃ u : State, exec .copyRun s = .next { u with agenda := s.agenda ++ [{ op := .copyFail, arg := { a := k.id, b := 5 }, due := s.clock }] } ∧
      u.mem = s.mem ∧ u.copyOf e.a = some { k with st := .failing }) ∧
    (anyLost places = false → firstMissing places ≠ none → ∃ u, exec .copyRun s = .next u ∧ u.mem = s.mem ∧ u.agenda = s.agenda ∧
      u.copyOf e.a = some { k with st := .parked }) ∧
    (∀ ca cb, a.scr = some ca.id → b.scr = some cb.id → s.crewOf ca.id = some ca → s.crewOf cb.id = some cb → 2 ^ 56 ≤ ca.shareHome →
      2 ^ 56 ≤ cb.shareHome → s.dev.ue = [] → k.phase = .runs → (copyDesc k.desc).xop ≠ 3 → holdsRuns k a b = false →
      copySrcTile k.desc = none → copyDstTile k.desc = none →
      ∃ held : State, held = { s with mem := held.mem } ∧
        (∀ x ∈ reads, ∀ i < x.2, held.mem.get (fetchHome k.id (x.1 + i)) = s.mem.get (ca.shareHome + x.1 + i)) ∧
        (let w := (held.runWrites k a b p).1
         (w.map Prod.fst).Pairwise (· < ·) → (∀ x ∈ w, cb.shareHome + x.1 < 2 ^ 58) →
         ∃ u, exec .copyRun s = .next u ∧
           (∀ x ∈ w, u.mem.get (cb.shareHome + x.1) = (x.2.1 &&& x.2.2) ||| (s.mem.get (cb.shareHome + x.1) &&& ~~~x.2.2)) ∧
           (∀ h < 2 ^ 60, (∀ x ∈ w, cb.shareHome + x.1 ≠ h) → u.mem.get h = s.mem.get h) ∧
           (held.badSlot k a p = true → u.copyOf e.a = some { k with st := .failing } ∧
             u.agenda = s.agenda ++ [{ op := .copyFail, arg := { a := k.id, b := 2 }, due := s.clock }]) ∧
           (held.badSlot k a p = false →
             (∀ n, nextPiece (p + 64) (held.phaseSpans k a b) = some n → u.copyOf e.a = some { k with run := n, fetched := false } ∧
               u.agenda = s.agenda ++ [{ op := .copyRun, arg := { a := k.id }, due := s.clock }]) ∧
             (nextPiece (p + 64) (held.phaseSpans k a b) = none → u.copyOf e.a = some { k with st := .ending, moved := true, fetched := false } ∧
               u.agenda = s.agenda ++ [{ op := .copyCount, arg := { a := k.id }, due := s.clock }]))))

/-- Tensor entries and tile tables. -/
def Obligations.TensorsAndTiles : Prop :=
  Claims.TensorRefusals ∧ Claims.TensorIds ∧ Claims.TileTable

/-- Copy commands: their words, checks and endings. -/
def Obligations.CopyCommands : Prop :=
  Claims.CopyWords ∧ Claims.CopyEndings ∧ Claims.CopyChecks ∧ Claims.CompressedSlots

/-- The runs of a copy command. -/
def Obligations.CopyWork : Prop :=
  Claims.CopyProgress ∧ Claims.CopyRuns

/-! ### The matrix engine (R281 to R304) -/

namespace Sys2Proof.Machine

/-- The end of a weight tile's layout (R286). -/
def weightEnd (pitch typ spar ks n : Nat) (sc : Bool) : Nat :=
  let up (x : Nat) : Nat := (x + 15) / 16 * 16
  let e := if typ = 3 ∨ typ = 4 then 2 else 1
  let p := if pitch = 0 then up (ks * e) else 16 * pitch
  let keff := if spar = 1 then 2 * ks else if spar = 2 then 4 * ks else ks
  let fin := if sc = true then up (n * p + 2 * n) + n * ((keff + 63) / 64) else p * (n - 1) + ks * e
  if spar = 0 then fin else up (if sc = true then fin else n * p) + n * (2 * ((ks + 3) / 4))

/-- The end of an activation tile's layout (R289). -/
def activationEnd (pitch typ m k : Nat) (sc comp : Bool) : Nat :=
  let up (x : Nat) : Nat := (x + 15) / 16 * 16
  let e := if typ = 3 ∨ typ = 4 then 2 else 1
  let row := if comp = true then k / 64 * (16 + 64 * e) else k * e
  let p := if pitch = 0 then (if comp = true then row else up row) else 16 * pitch
  if sc = true then up (m * p + 2 * m) + m * ((k + 63) / 64) else p * (m - 1) + row

/-- (N, K) of the low three bits of a shape code (R284). -/
def shapeTable (typ spar i : Nat) : Nat × Nat :=
  (if typ = 3 ∨ typ = 4 then [(32, 16), (64, 16), (80, 24), (128, 24), (32, 32), (128, 32), (32, 64), (64, 64)]
   else if 5 ≤ typ ∧ typ ≤ 7 ∨ spar = 1 then
     [(32, 64), (32, 128), (64, 64), (64, 128), (96, 64), (96, 128), (128, 64), (128, 128)]
   else if spar = 2 then [(32, 128), (32, 256), (64, 128), (64, 256), (96, 128), (96, 256), (128, 128), (128, 256)]
   else [(32, 32), (32, 64), (64, 32), (64, 64), (96, 32), (96, 64), (128, 32), (128, 64)]).getD i (0, 0)

/-- `t` is `s` with one entry more at the end of the sequencer's queue of the issuing crew (R301), whose engine state is then `m`; it starts
when the queue was empty. Planes and accumulators, memory and every other part of the state are as in `s`. -/
structure State.Queues (s t : State) (kind : SeqKind) (x : Quad) (e : SeqEntry) (m : Matrix) : Prop where
  frame : t = { s with
    nextId := s.nextId + 1
    me := t.me
    crew := { s.crew with matrix := some m, tiles := t.crew.tiles }
    agenda := s.agenda ++ if s.mx.queue = [] then [{ op := kind.op, arg := { a := s.crew.id }, due := s.clock }] else [] }
  queue : m.queue = s.mx.queue ++ [e]
  entry : e.id = s.nextId ∧ e.kind = kind ∧ e.x = x ∧ e.group + 1 = s.me.sid ∧ e.pc = s.here ∧ e.pass = 0 ∧ e.done = false
  engine : m.active = s.mx.active ∧ m.shadow = s.mx.shadow ∧ m.acc = s.mx.acc ∧ m.serial = s.mx.serial

/-- The word's use of its flag, which its entry ends, and the writes `ds` that its entry will make. -/
def State.UsesFlag (s t : State) (z : BitVec 4) (ds : List PWrite := []) : Prop :=
  t.me = { s.me with
    cf := t.me.cf
    direct := s.me.direct ++ ds
    pend := s.me.pend ++ [⟨s.nextId, none, false, [], flagOf z, s.here, false, [], s.clock⟩] } ∧
  ∀ k, t.me.cfGet k = s.me.cfGet k + if k < 12 ∧ k = z.toNat then 1 else 0

/-- The matrix engine is free to take a word of the issuing stream: no other crew on its core holds it and the queue has room. -/
def State.EngineFree (s : State) : Prop := s.grantTaken = false ∧ s.mx.queue.length < 32

/-- Every tile is as it was, its PIN as the pins say; a pinned tile that is read is ready, and one that is no longer pinned while it is read is
draining (R173, R293). -/
def Pinned (before after : List Tile) (pins : List Pin) : Prop :=
  ∀ i : Nat, after[i]? = (before[i]?).map (fun t =>
    let p := pins.any (fun p => p.tile == i)
    { t with pin := p, st := if p = true ∧ t.st = 3 then 2 else if t.pin = true ∧ p = false ∧ t.st = 2 ∧ 0 < t.readers then 3 else t.st })

end Sys2Proof.Machine

/-- R29, R111, R281, R282, R285 to R288, R301: `LDSTAT` and `SWAP`. A steward's raises `ILLEGAL_OP`, a head of fewer than 32 lanes parks; the
checks of `LDSTAT` in their order; one that passes is entered, its tile pinned, and the shape recorded for the shadow plane. That an `ENGINE` trap
reports `TRAPADDR` 0 is the model's reading (log entry 14). -/
def Claims.MatrixLoads : Prop :=
  ∀ (s : State) (x : BitVec 6) (z : BitVec 4) (t : Tile),
    let w := (s.uni64 x).toNat
    let ti := w % 256
    let ks := w / 2 ^ 8 % 256
    let n := w / 2 ^ 16 % 256
    let spar := w / 2 ^ 24 % 4
    let typ := w / 2 ^ 26 % 16
    let sc := decide (w / 2 ^ 30 % 2 = 1)
    let bad : Prop := 12 ≤ typ ∨ spar = 3 ∨ (spar ≠ 0 ∧ 3 ≤ typ) ∨ (sc = true ∧ (typ = 3 ∨ typ = 4)) ∨ ks = 0 ∨ n = 0 ∨
      (if 5 ≤ typ ∧ typ ≤ 7 then 128 else 64) < ks ∨ (if (typ = 3 ∨ typ = 4) ∧ 32 < ks then 64 else 128) < n ∨
      (5 ≤ typ ∧ ks % 8 ≠ 0) ∨ (spar = 1 ∧ ks % 2 ≠ 0) ∨ w / 2 ^ 31 ≠ 0
    let go : Prop := s.me.sid ≠ 0 ∧ x.toNat % 2 = 0 ∧ s.notAll = false ∧ s.dev.reduced = false
    (s.grantTaken = true ∨ 32 ≤ s.mx.queue.length → exec .swap s = .next s ∧ exec (.ldstat x z) s = .next s) ∧
    (s.EngineFree →
      (s.me.sid = 0 → IllegalIn .swap s) ∧
      (s.me.sid ≠ 0 → s.notAll = true → exec .swap s = .next (s.trapHead 0x02 0 0)) ∧
      (s.me.sid ≠ 0 → s.notAll = false → ∃ u e m, exec .swap s = .next u ∧ s.Queues u .swap 0 e m ∧ u.me = s.me ∧ u.crew.tiles = s.crew.tiles ∧
        m.predA = s.mx.predS ∧ m.predS = s.mx.predA ∧ m.batches = s.mx.batches ∧ m.pins = s.mx.pins) ∧
      (s.crew.tiles[ti]? = some t → t.st = 1 → exec (.ldstat x z) s = .next s) ∧
      (s.crew.tiles.length ≤ ti → s.me.sid = 0 ∨ (x.toNat % 2 = 1) → IllegalIn (.ldstat x z) s) ∧
      (go → s.crew.tiles.length ≤ ti → exec (.ldstat x z) s = .next (s.trapHead 0x06 0 (BitVec.ofNat 64 ti))) ∧
      (s.crew.tiles[ti]? = some t → t.st ≠ 1 →
        (s.me.sid = 0 ∨ x.toNat % 2 = 1 → IllegalIn (.ldstat x z) s) ∧
        (s.me.sid ≠ 0 → x.toNat % 2 = 0 → s.notAll = true → exec (.ldstat x z) s = .next (s.trapHead 0x02 0 0)) ∧
        (s.me.sid ≠ 0 → x.toNat % 2 = 0 → s.notAll = false → s.dev.reduced = true → typ ∉ [0, 1, 5, 6, 7] →
          exec (.ldstat x z) s = .next (s.trapHead 0x0C 0 0)) ∧
        (go → t.st = 0 → exec (.ldstat x z) s = .next (s.trapHead 0x06 0 (BitVec.ofNat 64 ti))) ∧
        (go → t.st ≠ 0 → bad → exec (.ldstat x z) s = .next (s.trapHead 0x07 0 0)) ∧
        (go → t.st ≠ 0 → ¬bad → t.bytes < weightEnd t.pitch typ spar ks n sc →
          exec (.ldstat x z) s = .next (s.trapHead 0x06 0 (BitVec.ofNat 64 ti))) ∧
        (go → t.st ≠ 0 → ¬bad → weightEnd t.pitch typ spar ks n sc ≤ t.bytes → s.myPart.tileComp t = true →
          exec (.ldstat x z) s = .next (s.trapHead 0x07 0 0)) ∧
        (go → t.st ≠ 0 → ¬bad → weightEnd t.pitch typ spar ks n sc ≤ t.bytes → s.myPart.tileComp t = false →
          ∃ u e m, exec (.ldstat x z) s = .next u ∧ s.Queues u .ldstat (s.uni64 x) e m ∧ s.UsesFlag u z ∧
            m.predA = s.mx.predA ∧ m.predS = some ⟨typ, spar, ks, if spar = 1 then 2 * ks else if spar = 2 then 4 * ks else ks, n⟩ ∧
            m.batches = s.mx.batches ∧ m.pins = s.mx.pins ++ [⟨ti, s.nextId, none, false⟩] ∧ Pinned s.crew.tiles u.crew.tiles m.pins)))

/-- R284, R289, R290, R293, R294: `MMA` is checked against the plane that will be active when it runs, enters the sequencer, pins its tile and
joins the open batch. -/
def Claims.MatrixSteps : Prop :=
  ∀ (s : State) (a : BitVec 4) (sh : BitVec 5) (ty : BitVec 4) (r : BitVec 6) (t : Tile) (bs : List Batch) (b : Batch),
    let i : Instr := .mma a sh ty r
    let w := (s.uni32 r).toNat
    let ti := w % 256
    let sc := decide (w / 2 ^ 8 % 2 = 1)
    let typ := ty.toNat
    let m0 := 16 * (sh.toNat / 8 + 1)
    let nk (spar : Nat) := shapeTable typ spar (sh.toNat % 8)
    let comp := s.myPart.tileComp t
    let fits (p : PlaneShape) : Prop := p.typ = typ ∧ p.n = (nk p.spar).1 ∧ p.keff = (nk p.spar).2 ∧ ¬(sc = true ∧ (typ = 3 ∨ typ = 4)) ∧
      w / 2 ^ 9 = 0 ∧ (comp = true → (nk p.spar).2 % 64 = 0) ∧ activationEnd t.pitch typ m0 (nk p.spar).2 sc comp ≤ t.bytes
    (s.grantTaken = true ∨ 32 ≤ s.mx.queue.length → exec i s = .next s) ∧
    (s.EngineFree → (∀ t, s.crew.tiles[ti]? = some t → t.st ≠ 1) →
      (s.me.sid = 0 ∨ 12 ≤ typ ∨ (64 < (nk 0).1 ∧ a.toNat = 15) → IllegalIn i s) ∧
      (s.me.sid ≠ 0 → typ < 12 → ¬(64 < (nk 0).1 ∧ a.toNat = 15) →
        (s.notAll = true → exec i s = .next (s.trapHead 0x02 0 0)) ∧
        (s.notAll = false → s.dev.reduced = true → typ ∉ [0, 1, 5, 6, 7] → exec i s = .next (s.trapHead 0x0C 0 0)) ∧
        (s.notAll = false → s.dev.reduced = false →
          (s.crew.tiles.length ≤ ti → exec i s = .next (s.trapHead 0x06 0 (BitVec.ofNat 64 ti))) ∧
          (s.crew.tiles[ti]? = some t → t.st = 0 → exec i s = .next (s.trapHead 0x06 0 (BitVec.ofNat 64 ti))) ∧
          (s.crew.tiles[ti]? = some t → t.st ≠ 0 →
            ((∀ p, s.mx.predA = some p → ¬fits p) → exec i s = .next (s.trapHead 0x07 0 0)) ∧
            (∀ p, s.mx.predA = some p → fits p → s.mx.batches = bs ++ [b] → (∀ x ∈ bs, x.committed = true) → b.committed = false →
              ∃ u e m, exec i s = .next u ∧ s.Queues u (.mma typ p.spar sh.toNat a.toNat) (BitVec.ofNat 64 w) e m ∧ u.me = s.me ∧
                e.batch = s.mx.serial ∧ e.index = b.steps ∧ m.predA = s.mx.predA ∧ m.predS = s.mx.predS ∧
                m.batches = bs ++ [⟨b.serial, b.committed, b.steps + 1, b.left + 1,
                  b.accs ++ (if 64 < (nk 0).1 then [a.toNat, a.toNat + 1] else [a.toNat]), b.finished⟩] ∧
                m.pins = s.mx.pins ++ [⟨ti, s.nextId, some s.mx.serial, false⟩] ∧ Pinned s.crew.tiles u.crew.tiles m.pins)))))

namespace Sys2Proof.Machine

/-- The `DRAIN` of a mode (R297). -/
def drainOf (mode : Nat) (x y : BitVec 6) (z : BitVec 4) : Instr :=
  match mode with
  | 0 => .drainPlain x y z
  | 1 => .drainConvert x y z
  | 2 => .drainQuantise x y z
  | 3 => .drainPack x y z
  | _ => .drainElide x y z

end Sys2Proof.Machine

/-- R296 to R300: the checks of `DRAIN` and `ACLR` at issue in their order, the formats each mode takes, the layout of the rows; one that passes
is entered, and the writes of its rows and block scales, which are lane 0's, are under way. -/
def Claims.MatrixDrains : Prop :=
  ∀ (s : State) (x y : BitVec 6) (z : BitVec 4) (mode : Nat), mode < 5 →
    let i := drainOf mode x y z
    let w := (s.uni32 y).toNat
    let ti := w % 256
    let rows := if w / 2 ^ 8 % 256 = 0 then 64 else w / 2 ^ 8 % 256
    let cols := if w / 2 ^ 16 % 256 = 0 then 64 else w / 2 ^ 16 % 256
    let fmt := w / 2 ^ 24 % 32
    let takes : Prop :=
      if mode = 0 then fmt = 0
      else if mode = 1 then fmt ≤ 13
      else if mode = 2 then fmt ∈ [3, 4, 10, 5, 12]
      else fmt ≤ 13 ∧ fmt ∉ [5, 12, 13] ∧ cols = 64
    let rowBytes := if 3 ≤ mode then 16 + 64 * (fmtBits fmt / 8) else (fmtBits fmt * cols + 7) / 8
    let pitch (t : Tile) := if t.pitch = 0 then (if 3 ≤ mode then rowBytes else (rowBytes + 15) / 16 * 16) else 16 * t.pitch
    let fin (t : Tile) := if mode = 2 then max (pitch t * (rows - 1) + rowBytes) ((pitch t * rows + 2 * rows + 15) / 16 * 16 + rows)
      else pitch t * (rows - 1) + rowBytes
    let busy : Prop := ∃ b ∈ s.mx.batches, x.toNat ∈ b.accs
    (s.grantTaken = true ∨ 32 ≤ s.mx.queue.length → exec i s = .next s ∧ exec (.aclr x) s = .next s) ∧
    (s.EngineFree →
      (16 ≤ x.toNat ∨ s.me.sid = 0 → IllegalIn i s ∧ IllegalIn (.aclr x) s) ∧
      (x.toNat < 16 → s.me.sid ≠ 0 → s.notAll = true →
        exec i s = .next (s.trapHead 0x02 0 0) ∧ exec (.aclr x) s = .next (s.trapHead 0x02 0 0)) ∧
      (x.toNat < 16 → s.me.sid ≠ 0 → s.notAll = false →
        (busy → exec (.aclr x) s = .next (s.trapHead 0x05 0 (BitVec.ofNat 64 x.toNat))) ∧
        (¬busy → ∃ u e m, exec (.aclr x) s = .next u ∧ s.Queues u (.aclr x.toNat) 0 e m ∧ u.me = s.me ∧ u.crew.tiles = s.crew.tiles ∧
          m.predA = s.mx.predA ∧ m.predS = s.mx.predS ∧ m.batches = s.mx.batches ∧ m.pins = s.mx.pins) ∧
        (s.crew.tiles.length ≤ ti → exec i s = .next (s.trapHead 0x06 0 (BitVec.ofNat 64 ti))) ∧
        (∀ t, s.crew.tiles[ti]? = some t →
          (¬takes ∨ 64 < cols ∨ 64 < rows ∨ t.bytes < fin t → exec i s = .next (s.trapHead 0x07 0 0)) ∧
          (takes → cols ≤ 64 → rows ≤ 64 → fin t ≤ t.bytes →
            (busy → exec i s = .next (s.trapHead 0x05 0 (BitVec.ofNat 64 x.toNat))) ∧
            (¬busy → ∃ u e m ds, exec i s = .next u ∧ s.Queues u (.drain mode x.toNat) (BitVec.ofNat 64 w) e m ∧ s.UsesFlag u z ds ∧
              (∀ d ∈ ds, d.lane = 0 ∧ d.id = s.nextId ∧ d.rid = s.nextId ∧ d.agent = s.self ∧ d.space = .scratch) ∧
              ds.map (fun d => (d.home, d.data.length)) =
                (List.range rows).map (fun k => (s.crew.shareHome + t.offset + pitch t * k, rowBytes)) ++
                (if mode = 2 then [(s.crew.shareHome + t.offset + (pitch t * rows + 2 * rows + 15) / 16 * 16, rows)] else []) ∧
              u.crew.tiles = s.crew.tiles ∧ m.predA = s.mx.predA ∧ m.predS = s.mx.predS ∧ m.batches = s.mx.batches ∧ m.pins = s.mx.pins)))))

/-- R112, R113, R294, R295: `COMMIT` closes the open batch, whose number, from 1 to 2^32 - 1 in turn, the register holds 4 cycles after issue;
with four committed batches unfinished it does not issue. `MWAIT` stops its group until the batch and every earlier one have finished,
which are then covered; a number the crew has not committed traps. -/
def Claims.MatrixBatches : Prop :=
  ∀ (s : State) (x : BitVec 6) (bs : List Batch) (b : Batch) (t : Stream) (c : Crew) (m0 : Matrix),
    let w := s.uni32 x
    let num (n : Nat) : Nat := n % (2 ^ 32 - 1) + 1
    let unf := s.mx.batches.filter (fun b => b.committed && !b.finished)
    let e := s.ctx.ev
    (s.grantTaken = true → exec (.commit x) s = .next s ∧ exec (.mwait x) s = .next s) ∧
    (s.grantTaken = false →
      (4 ≤ unf.length → exec (.commit x) s = .next s) ∧
      (unf.length < 4 → s.me.sid = 0 ∨ x.toNat % 2 = 1 → IllegalIn (.commit x) s) ∧
      (unf.length < 4 → s.me.sid ≠ 0 → x.toNat % 2 = 0 → s.notAll = true → exec (.commit x) s = .next (s.trapHead 0x02 0 0)) ∧
      (unf.length < 4 → s.me.sid ≠ 0 → x.toNat % 2 = 0 → s.notAll = false → s.mx.batches = bs ++ [b] → (∀ y ∈ bs, y.committed = true) →
        ∃ u m p, exec (.commit x) s = .next u ∧ u = { s with
            nextId := s.nextId + 1
            me := { s.me with pend := s.me.pend ++ [p] }
            crew := { s.crew with matrix := some m, tiles := u.crew.tiles } } ∧ Pinned s.crew.tiles u.crew.tiles m.pins ∧
          m = { s.mx with serial := s.mx.serial + 1, batches := m.batches, pins := m.pins } ∧
          (∃ cs, m.batches = cs ++ [⟨s.mx.serial + 1, false, 0, 0, [], false⟩] ∧ cs.length = bs.length + 1 ∧
            ∀ (i : Nat) (y z : Batch), (bs ++ [b])[i]? = some y → cs[i]? = some z →
              z = { y with committed := true, finished := z.finished } ∧
              (z.finished = true ↔ y.finished = true ∨
                (y.left = 0 ∧ ∀ (j : Nat) (v : Batch), j < i → (bs ++ [b])[j]? = some v → v.finished = true ∨ v.left = 0))) ∧
          (∀ p, p ∈ m.pins ↔ p ∈ s.mx.pins ∧ ¬(p.fetched = true ∧ ∀ n, p.batch = some n → n < s.mx.serial + 1)) ∧
          p.due = some (s.clock + 4) ∧ p.flag = none ∧
          s.me.TakesReg p.writes 64 x.toNat s.headLanes (fun _ => BitVec.ofNat 64 (num s.mx.serial))) ∧
      (s.me.sid = 0 → IllegalIn (.mwait x) s) ∧
      (s.me.sid ≠ 0 → s.notAll = true → exec (.mwait x) s = .next (s.trapHead 0x02 0 0)) ∧
      (s.me.sid ≠ 0 → s.notAll = false →
        ((∀ n < s.mx.serial, num n ≠ w.toNat) → exec (.mwait x) s = .next (s.trapHead 0x0C 0 (zext w))) ∧
        ((∃ n < s.mx.serial, num n = w.toNat) → exec (.mwait x) s = .next { s with
          me := { s.me with blocked := some (.mwait w), blockAt := some ⟨s.pc, s.prio0, s.headMask, .ready, false⟩ }
          crew := { s.crew with matrix := some s.mx }
          agenda := s.agenda ++ [{ op := .mwaitComplete, arg := { r := s.self }, due := s.clock }] }))) ∧
    (∀ v n, e.r.crew ≠ 0 → s.streamOf e.r = some t → s.crewOf e.r.crew = some c → c.matrix = some m0 → t.blocked = some (.mwait v) →
      num n = v.toNat → n < m0.serial → (∀ k < m0.serial, num k = v.toNat → k ≤ n) →
      ((∃ y ∈ m0.batches, y.serial ≤ n ∧ y.finished = false) →
        exec .mwaitComplete s = .next { s with agenda := s.agenda ++ [{ op := .mwaitComplete, arg := e, due := s.clock }] }) ∧
      ((∀ y ∈ m0.batches, y.serial ≤ n → y.finished = true) → ∃ u c1, exec .mwaitComplete s = .next u ∧
        u = { s with me := u.me, crew := u.crew, crews := u.crews } ∧ u.streamOf e.r = some { t with blocked := none, blockAt := none } ∧
        u.crewOf e.r.crew = some c1 ∧ c1.matrix = some { m0 with batches := m0.batches.filter (fun y => n < y.serial) }))

namespace Sys2Proof.Machine

/-- The front entry of a crew's sequencer has its effect on the engine and ends `dur` cycles later: the engine is `m`, but for the entry's
mark; nothing else changes but PIN of the crew's tiles and what `u` holds of the streams; `more` goes on the agenda first. -/
def State.EntryRuns (s u : State) (c : Crew) (q : SeqEntry) (rest : List SeqEntry) (m : Matrix) (dur : Nat) (more : List Event) : Prop :=
  u.agenda = s.agenda ++ more ++ [{ op := .seqEntryEnd, arg := { a := c.id }, due := s.clock }] ∧ u.mem = s.mem ∧ u.parts = s.parts ∧ u.dev = s.dev ∧
  ∃ c1, u.crewOf c.id = some c1 ∧ c1.matrix = some { m with queue := { q with done := true, endAt := s.clock + dur } :: rest } ∧
    c1.tiles.length = c.tiles.length

end Sys2Proof.Machine

/-- R286 to R288, R300 to R304: the steps of the sequencer's front entry that reads a weight tile, exchanges the planes, clears an accumulator, and
the end of an entry, after which the next one starts. -/
def Claims.SequencerSteps : Prop :=
  ∀ (s : State) (c : Crew) (m : Matrix) (q : SeqEntry) (rest : List SeqEntry),
    let a := s.ctx.ev.a
    a ≠ 0 → s.crewOf a = some c → c.matrix = some m → m.queue = q :: rest →
    (c.saved = true ∨ c.stopAt ≠ none →
      exec .seqLdstat s = .next { s with agenda := s.agenda ++ [{ op := .seqLdstat, arg := s.ctx.ev, due := s.clock }] } ∧
      exec .seqSwap s = .next { s with agenda := s.agenda ++ [{ op := .seqSwap, arg := s.ctx.ev, due := s.clock }] } ∧
      exec .seqAclr s = .next { s with agenda := s.agenda ++ [{ op := .seqAclr, arg := s.ctx.ev, due := s.clock }] }) ∧
    (c.saved = true → exec .seqEntryEnd s = .next { s with agenda := s.agenda ++ [{ op := .seqEntryEnd, arg := s.ctx.ev, due := s.clock }] }) ∧
    (c.saved = false → c.stopAt = none → q.done = false →
      (q.kind = .swap → ∃ u, exec .seqSwap s = .next u ∧ s.EntryRuns u c q rest { m with active := m.shadow, shadow := m.active } 2 []) ∧
      (∀ n, q.kind = .aclr n → ∃ u acc, exec .seqAclr s = .next u ∧ s.EntryRuns u c q rest { m with acc := acc } 16 [] ∧
        ∀ k, tget 0#32 acc k = if k / 4096 = n then 0#32 else tget 0#32 m.acc k) ∧
      (∀ t, q.kind = .ldstat → c.tiles[q.x.toNat % 256]? = some t →
        let w := q.x.toNat
        let ks := w / 2 ^ 8 % 256
        let n := w / 2 ^ 16 % 256
        let spar := w / 2 ^ 24 % 4
        let typ := w / 2 ^ 26 % 16
        let sc := decide (w / 2 ^ 30 % 2 = 1)
        let fin := weightEnd t.pitch typ spar ks n sc
        ∃ u p more, exec .seqLdstat s = .next u ∧
          s.EntryRuns u c q rest { m with shadow := if p.metaBad = true then none else some p } (32 + (fin + 255) / 256) more ∧
          p.shape = ⟨typ, spar, ks, if spar = 1 then 2 * ks else if spar = 2 then 4 * ks else ks, n⟩ ∧ p.sc = sc ∧
          p.data = (List.range fin).map (fun i => s.mem.get (c.shareHome + t.offset + i)) ∧
          (p.metaBad = false → more = [] ∧ ∀ r, r.crew ≠ 0 → u.streamOf r = s.streamOf r) ∧
          (p.metaBad = true → ∀ g, s.streamOf ⟨a, q.group + 1⟩ = some g → g.retired = false → g.gone = false →
            more = [] ∧ u.streamOf ⟨a, q.group + 1⟩ = some { g with asyncs := g.asyncs ++ [⟨0x07, 0xFF, 0, some q.pc, []⟩] }))) ∧
    (c.saved = false → s.clock < q.endAt → exec .seqEntryEnd s = .next { s with agenda := s.agenda ++ [{ op := .seqEntryEnd, arg := s.ctx.ev, due := s.clock }] }) ∧
    (c.saved = false → q.endAt ≤ s.clock → q.done = true →
      ∃ u c1 m1, exec .seqEntryEnd s = .next u ∧ u.mem = s.mem ∧ u.crewOf a = some c1 ∧ c1.matrix = some m1 ∧
        m1 = { m with queue := rest, batches := m1.batches, pins := m1.pins } ∧ Pinned c.tiles c1.tiles m1.pins ∧
        ((q.bad = true → ∀ d n, q.kind ≠ .drain d n) →
          u.agenda = s.agenda ++ (match rest with | [] => [] | n :: _ => [{ op := n.kind.op, arg := { a := a }, due := s.clock }])) ∧
        (∀ d n g, q.bad = true → q.kind = .drain d n → s.streamOf ⟨a, q.group + 1⟩ = some g → g.retired = false → g.gone = false →
          ∃ g1, u.streamOf ⟨a, q.group + 1⟩ = some g1 ∧ g1.asyncs = g.asyncs ++ [⟨0x07, q.index, 0, some q.pc, []⟩]) ∧
        (q.kind = .swap ∨ (∃ n, q.kind = .aclr n) ∨ (∃ d n, q.kind = .drain d n) → m1.batches = m.batches ∧ m1.pins = m.pins) ∧
        (q.kind = .ldstat → m1.batches = m.batches ∧ ∀ p ∈ m1.pins, p.id = q.id → p.batch ≠ none) ∧
        (∀ ty sp sh n, q.kind = .mma ty sp sh n → m1.pins = m.pins ∧ m1.batches.length = m.batches.length ∧
          ∀ (i : Nat) (x y : Batch), m.batches[i]? = some x → m1.batches[i]? = some y →
            y = { x with left := if x.serial = q.batch then x.left - 1 else x.left, finished := y.finished } ∧
            (x.finished = true → y.finished = true) ∧
            (y.finished = true → x.finished = true ∨ (x.committed = true ∧ y.left = 0 ∧
              ∀ (j : Nat) (v : Batch), j < i → m1.batches[j]? = some v → v.finished = true))))

/-- R291 to R293, R302: a matrix step fetches and checks for 24 cycles, then runs in passes of 16 rows: each element of its rows and columns
takes its blocks of 16, in order, with one rounding each, every other element stays; a step with a slot that is not well-formed, or on an
empty plane, writes none, and on an empty plane it raises no trap of its own (R287). The scales are those fetched at its start. Nothing starts in
a crew that is stopping (R304). -/
def Claims.MatrixPasses : Prop :=
  ∀ (s : State) (c : Crew) (m : Matrix) (q : SeqEntry) (rest : List SeqEntry) (t : Tile) (typ spar sh acc : Nat),
    let a := s.ctx.ev.a
    let nk := shapeTable typ spar (sh % 8)
    let m0 := 16 * (sh / 8 + 1)
    let cyc := if typ = 3 ∨ typ = 4 ∨ spar = 2 then 2 else 1
    let again : Event := { op := .seqMmaStep, arg := { a := a }, due := s.clock }
    a ≠ 0 → s.crewOf a = some c → c.matrix = some m → m.queue = q :: rest → q.kind = .mma typ spar sh acc → c.tiles[q.x.toNat % 256]? = some t →
    sh < 32 → q.done = false →
    (c.saved = true ∨ c.stopAt ≠ none ∨ s.clock < q.endAt → exec .seqMmaStep s = .next { s with agenda := s.agenda ++ [{ op := .seqMmaStep, arg := s.ctx.ev, due := s.clock }] }) ∧
    (c.saved = false → c.stopAt = none → q.endAt ≤ s.clock →
      (q.pass = 0 → ∃ u c1, exec .seqMmaStep s = .next u ∧ u.mem = s.mem ∧ u.crewOf a = some c1 ∧
        c1.matrix = some { m with queue := { q with
          pass := 1
          bad := m.active.isSome && (s.mmaBadSlot c t typ spar sh).isSome
          endAt := s.clock + 24
          held := s.mmaFetch c t q typ spar sh } :: rest } ∧
        (m.active = none → ∀ r, r.crew ≠ 0 → u.streamOf r = s.streamOf r) ∧
        (∀ i b g, m.active ≠ none → s.mmaBadSlot c t typ spar sh = some (i, b) → s.streamOf ⟨a, q.group + 1⟩ = some g → g.retired = false → g.gone = false →
          u.streamOf ⟨a, q.group + 1⟩ = some { g with asyncs := g.asyncs ++ [⟨0x07, q.index,
            BitVec.ofNat 64 (q.x.toNat % 256 + 2 ^ 8 * (i % 256) + 2 ^ 16 * (b % 256)), some q.pc, []⟩] }) ∧
        u.agenda.getLast? = some again) ∧
      (q.pass ≠ 0 → ∃ u c1 m1, exec .seqMmaStep s = .next u ∧ u.mem = s.mem ∧ u.crewOf a = some c1 ∧ c1.matrix = some m1 ∧
        m1.active = m.active ∧ m1.shadow = m.shadow ∧
        (q.bad = true ∨ m.active = none → m1.acc = m.acc) ∧
        (∀ p, q.bad = false → m.active = some p →
          (∀ i j, i < m0 → 16 * (q.pass - 1) ≤ i → i < 16 * q.pass → j < nk.1 →
            let k := 4096 * (acc + j / 64) + 64 * i + j % 64
            tget 0#32 m1.acc k = BitVec.ofNat 32 (mmaElem p (s.mmaRow c t q typ spar sh i) (s.mmaScale c t q typ spar sh i) nk.2 j
              (tget 0#32 m.acc k).toNat)) ∧
          (∀ k, (∀ i j, 16 * (q.pass - 1) ≤ i → i < 16 * q.pass → j < nk.1 → k ≠ 4096 * (acc + j / 64) + 64 * i + j % 64) →
            tget 0#32 m1.acc k = tget 0#32 m.acc k)) ∧
        (16 * q.pass < m0 → m1.queue = { q with pass := q.pass + 1, endAt := s.clock + 16 * cyc } :: rest ∧ m1.pins = m.pins ∧
          u.agenda = s.agenda ++ [again]) ∧
        (m0 ≤ 16 * q.pass → m1.queue = { q with done := true, endAt := s.clock + 16 * cyc } :: rest ∧
          u.agenda = s.agenda ++ [{ op := .seqEntryEnd, arg := { a := a }, due := s.clock }])))

/-- R154, R156, R266, R298, R299, R302, R304: a drain waits until its tile may be written, makes it filling, and after 16 cycles and 1 or 2 for each row,
when no older write or request of its lane stands before its writes, writes the rows and makes it ready; in a crew that is stopping it does not
start; nothing outside the rows and the block scales changes, and the accumulators stay. -/
def Claims.DrainSteps : Prop :=
  ∀ (s : State) (c : Crew) (m : Matrix) (q : SeqEntry) (rest : List SeqEntry) (t : Tile) (mode acc : Nat),
    let a := s.ctx.ev.a
    let w := q.x.toNat
    let rows := if w / 2 ^ 8 % 256 = 0 then 64 else w / 2 ^ 8 % 256
    let lay := drLay t.pitch mode q.x
    let base := c.shareHome + t.offset
    a ≠ 0 → s.crewOf a = some c → c.matrix = some m → m.queue = q :: rest → q.kind = .drain mode acc → c.tiles[w % 256]? = some t →
    q.done = false → c.saved = false → drFmtOk mode q.x = true → 2 ^ 56 ≤ base → base + 2 ^ 21 < 2 ^ 58 → c.retired = false →
    (q.pass = 0 → (t.st = 1 ∨ t.st = 3 ∨ (t.st = 2 ∧ (t.pin = true ∨ 0 < t.readers)) ∨ c.stopAt ≠ none) →
      exec .seqDrain s = .next { s with agenda := s.agenda ++ [{ op := .seqDrain, arg := s.ctx.ev, due := s.clock }] }) ∧
    (q.pass = 0 → c.stopAt = none → t.st = 0 ∨ (t.st = 2 ∧ t.pin = false ∧ t.readers = 0) → ∃ u c1, exec .seqDrain s = .next u ∧ u.mem = s.mem ∧ u.crewOf a = some c1 ∧
      c1.matrix = some { m with queue := { q with pass := 1, endAt := s.clock + 16 + rows * (if mode < 2 then 1 else 2) } :: rest } ∧
      (∃ t1, c1.tiles[w % 256]? = some t1 ∧ t1.st = 1) ∧ u.agenda = s.agenda ++ [{ op := .seqDrain, arg := { a := a }, due := s.clock }]) ∧
    (q.pass ≠ 0 → s.clock < q.endAt ∨ s.drainRunsFree c t mode q = false → exec .seqDrain s = .next { s with agenda := s.agenda ++ [{ op := .seqDrain, arg := s.ctx.ev, due := s.clock }] }) ∧
    (q.pass ≠ 0 → q.endAt ≤ s.clock → s.drainRunsFree c t mode q = true → ∃ u c1 m1, exec .seqDrain s = .next u ∧
      (∀ g, s.streamOf ⟨a, q.group + 1⟩ = some g → ∃ g1, u.streamOf ⟨a, q.group + 1⟩ = some g1 ∧ g1.direct = g.direct.filter (fun w => w.rid != q.id)) ∧
      u.crewOf a = some c1 ∧ c1.matrix = some m1 ∧ m1.acc = m.acc ∧
      (∃ e, m1.queue = e :: rest ∧ e.done = true ∧ e.endAt = s.clock) ∧ (∃ t1, c1.tiles[w % 256]? = some t1 ∧ t1.st = 2) ∧
      (mode = 0 → ∀ i j b, i < rows → j < (if w / 2 ^ 16 % 256 = 0 then 64 else w / 2 ^ 16 % 256) → b < 4 → rows ≤ 64 → lay.2.1 ≤ lay.1 →
        u.mem.get (base + lay.1 * i + 4 * j + b) = BitVec.ofNat 8 ((tget 0#32 m.acc (4096 * acc + 64 * i + j)).toNat / 256 ^ b)) ∧
      (∀ h, (∀ i < rows, ¬(base + lay.1 * i ≤ h ∧ h < base + lay.1 * i + lay.2.1)) →
        (mode = 2 → ¬(base + roundUp (rows * lay.1 + 2 * rows) 16 ≤ h ∧ h < base + roundUp (rows * lay.1 + 2 * rows) 16 + rows)) →
        u.mem.get h = s.mem.get h))

/-- The words of the matrix engine. -/
def Obligations.MatrixWords : Prop :=
  Claims.MatrixLoads ∧ Claims.MatrixSteps ∧ Claims.MatrixDrains ∧ Claims.MatrixBatches

/-- What the sequencer does with its entries. -/
def Obligations.SequencerWork : Prop :=
  Claims.SequencerSteps ∧ Claims.MatrixPasses ∧ Claims.DrainSteps

/-! ### Bank commands (R14, R146, R147, R336 to R357) -/

namespace Sys2Proof.Machine

/-- `n` bytes at global address `va` of a partition have their home at `h`, within one aligned 64-byte piece, where a write has no side
effect. -/
def State.Lies (s : State) (part va n h : Nat) : Prop :=
  s.homeOf part va = some h ∧ va % 65536 + n ≤ 65536 ∧ h % 64 + n ≤ 64 ∧ h + n ≤ 2 ^ 56 ∧ isRegPage h = false ∧ (∀ p ∈ s.parts, p.2.deriveds = []) ∧
  ∀ p r v, s.regionAt h = some (p, r) → r.vaOf h = some v → r.blockAt v = none ∧ ∀ i < n, r.isDir (v + i) = false

/-- Memory after exactly the bytes `bs` have been written at `h`. -/
def Written (m m1 : Memory) (h : Nat) (bs : List Byte) : Prop :=
  ∀ a, m1.get a = if h ≤ a ∧ a < h + bs.length then bs.getD (a - h) 0 else m.get a

end Sys2Proof.Machine

/-- R29, R339, R355, R356: `BKCMD` makes its checks in their order; one that passes takes its slot, is on its way to the slice of its first row,
and `kp7` is true; a busy slot only makes `kp7` false. `BKSTAT` gives the slot's word; `BKCANCEL` removes a queued command, marks a running or
suspended one, and leaves a slot that is not busy alone. The address that a descriptor trap reports, and 0 for an `ENGINE` trap, is the model's
reading (log entry 14). -/
def Claims.BankWords : Prop :=
  ∀ (s : State) (x y : BitVec 6) (z : BitVec 4),
    let v := s.me.rdK x.toNat
    let off := v.toNat % 2 ^ 32
    let d := s.descBytes v 32
    let ent := tget [] s.myPart.tensors (field d 4 2 % 4096)
    let t := tensorOfBytes (entBytes ent)
    let slot := field d 1 1 % 16
    let st := tget BankSlot.blank s.crew.bankSlots slot
    let a := s.opN s.natW y 0
    let b := tget BankSlot.blank s.crew.bankSlots a
    let c := s.opN 64 y 0 % 16
    let mine (k : BankCmd) : Prop := k.crew = s.crew.id ∧ k.slot = c ∧ k.ended = false ∧ k.cancelled = false
    (s.me.sid ≠ 0 → IllegalIn (.bkcmd x) s ∧ IllegalIn (.bkcancel y) s) ∧
    (s.me.sid = 0 → s.dev.reduced = true → exec (.bkcmd x) s = .next (s.trapHead 0x0C 0 0)) ∧
    (s.me.sid = 0 → s.dev.reduced = false →
      (off % 32 ≠ 0 → exec (.bkcmd x) s = .next (s.trapHead 0x04 0 (BitVec.ofNat 64 (0xAF * 2 ^ 56 + off)))) ∧
      (off % 32 = 0 → 2 ^ 32 ≤ v.toNat → exec (.bkcmd x) s = .next (s.trapHead 0x03 0 v)) ∧
      (off % 32 = 0 → v.toNat < 2 ^ 32 → s.crew.shareSize < off + 32 →
        exec (.bkcmd x) s = .next (s.trapHead 0x03 0 (BitVec.ofNat 64 (0xAF * 2 ^ 56 + off)))) ∧
      (off % 32 = 0 → v.toNat < 2 ^ 32 → off + 32 ≤ s.crew.shareSize →
        (t.valid = false ∨ t.derived = true ∨ t.rows ≤ field d 8 4 → exec (.bkcmd x) s = .next (s.trapHead 0x03 0 v)) ∧
        (t.valid = true → t.derived = false → field d 8 4 < t.rows →
          ∃ k : BankCmd, k.desc = d ∧ k.ent = ent ∧ k.part = s.crew.part ∧ k.crew = s.crew.id ∧ k.id = s.nextId ∧ k.slot = slot ∧ k.pkr = s.me.pkr ∧
            k.accepted = false ∧ k.sending = false ∧ k.ready = false ∧ k.running = false ∧ k.suspended = false ∧ k.cancelled = false ∧ k.ended = false ∧ k.step = 0 ∧
            k.first = 2 ^ 32 - 1 ∧ k.npois = 0 ∧ k.code = 0 ∧
            (s.rwinOk k = false → exec (.bkcmd x) s = .next (s.trapHead 0x03 0 (BitVec.ofNat 64 k.rwin))) ∧
            (s.rwinOk k = true → s.rowHome k.part (k.rowAt 0) k.pkr false = none →
              exec (.bkcmd x) s = .next (s.trapHead 0x03 0 (BitVec.ofNat 64 (k.rowAt 0 / 65536 * 65536)))) ∧
            (s.rwinOk k = true → s.rowHome k.part (k.rowAt 0) k.pkr false ≠ none →
              (st.st ∈ [1, 2, 3] → ∃ u, exec (.bkcmd x) s = .next u ∧ s.Arrives u none [.p 224 false]) ∧
              (st.st ∉ [1, 2, 3] → ∃ (u w : State) (h : Nat), exec (.bkcmd x) s = .next u ∧ w.Arrives u none [.p 224 true] ∧
                s.homeOf k.part (k.rowAt 0) = some h ∧ k.slice = sliceOf h ∧
                w = { s with
                  nextId := s.nextId + 1
                  banks := s.banks ++ [k]
                  crew := { s.crew with bankSlots := w.crew.bankSlots }
                  agenda := s.agenda ++ [{ op := .bankAccept, arg := { a := s.nextId }, due := s.clock }] } ∧
                ∀ j, tget BankSlot.blank w.crew.bankSlots j = if j = slot then ⟨0, 0, 0, 1⟩ else tget BankSlot.blank s.crew.bankSlots j))))) ∧
    (s.me.sid = 0 ∨ x.toNat % 2 = 0 →
      (16 ≤ a → exec (.bkstat x y z) s = .next (s.trapHead 0x03 0 (BitVec.ofNat 64 a))) ∧
      (a < 16 → ∃ u ws, exec (.bkstat x y z) s = .next u ∧ s.Arrives u (flagOf z) ws ∧ s.me.TakesReg ws 64 x.toNat s.headLanes
        (fun _ => BitVec.ofNat 64 (b.step % 2 ^ 16 * 2 ^ 24 + b.cause % 256 * 2 ^ 16 + b.code % 256 * 2 ^ 8 + b.st % 256)))) ∧
    (¬(s.me.sid = 0 ∨ x.toNat % 2 = 0) → IllegalIn (.bkstat x y z) s) ∧
    (s.me.sid = 0 →
      ((∀ k ∈ s.banks, ¬mine k) → ∃ u, exec (.bkcancel y) s = .next u ∧ s.Arrives u none [.p 224 false]) ∧
      (∀ k : BankCmd, k ∈ s.banks → mine k → (∀ q ∈ s.banks, mine q → q = k) → (∀ q ∈ s.banks, q.id = k.id → q = k) →
        ∃ u w : State, exec (.bkcancel y) s = .next u ∧ w.Arrives u none [.p 224 true] ∧
        (k.running = true ∨ k.suspended = true → w = { s with banks := w.banks } ∧ w.bankOf k.id = some { k with cancelled := true }) ∧
        (k.running = false → k.suspended = false → w = { s with
            banks := w.banks
            crew := { s.crew with tiles := w.crew.tiles }
            agenda := s.agenda ++ [{ op := .bankCount, arg := { a := k.id }, due := s.clock }] } ∧
          (k.sending = false → w.crew.tiles = s.crew.tiles) ∧
          (∀ t, k.sending = true → s.crew.tiles[k.btile]? = some t → w.crew.tiles[k.btile]? = some t.endRead) ∧
          ∃ k1, w.bankOf k.id = some k1 ∧ k1.ended = true ∧ k1.code = 4 ∧ k1.cause = 0 ∧ k1.step = k.step)))

/-- R341, R342, R354: the checks at acceptance, in their order: the first that fails gives the cause. -/
def Claims.BankChecks : Prop :=
  ∀ (s : State) (c : Crew) (k : BankCmd), k.desc.length = 32 →
    let r := s.bankRefusal c k
    let t := k.tensor
    let b (i : Nat) : Nat := (k.desc.getD i 0).toNat
    let planes : Prop := 16 ≤ t.fmt ∧ t.fmt ≤ 22
    let cap : Nat := if k.elided = true then 64 * (2048 / (16 + 64 * t.esize)) else if t.fmt = 1 ∨ t.fmt = 2 then 1024 else 2048
    let vec : Nat := (if t.fmt ∈ [1, 2, 3, 4] then 2 else 1) * (if k.mode = 0 then k.elems else k.rows)
    let desc : Prop := b 0 < 8 ∧ k.mode < 2 ∧ b 1 < 16 ∧ k.tid < 4096 ∧ b 7 = 0 ∧ (∀ i ∈ [0x14, 0x15, 0x16, 0x17], b i = 0) ∧
      1 ≤ k.rows ∧ k.rows ≤ 4096 ∧ 1 ≤ k.elems ∧ k.elems ≤ 2048 ∧ 1 ≤ k.rstride ∧ k.rstride ≤ 2 ^ 24 ∧ t.valid = true ∧ t.derived = false ∧
      k.row0 + (k.rows - 1) * k.rstride < t.rows ∧ k.elems ≤ t.extent 3 ∧ k.elems ≤ cap ∧ (k.elided = true → k.elems % 64 = 0) ∧
      (planes → k.elems % 8 = 0) ∧ (k.notify = 255 ∨ k.notify < c.ngroup) ∧ (k.barrier = 255 ∨ k.barrier < 64) ∧
      ∃ x, c.tiles[k.btile]? = some x ∧ vec ≤ x.bytes
    let fmt : Prop := t.place = 2 ∧ (t.fmt ∈ [1, 2, 3, 4, 10] ∨ planes) ∧ t.comp = k.elided
    let even : Prop := ∀ i < 16, (s.bankRows k i).length ≤ 256
    let full : Prop := ∃ x, c.tiles[k.btile]? = some x ∧ x.st ≠ 0
    (¬desc → r = 1) ∧ (desc → ¬fmt → r = 2) ∧ (desc → fmt → s.bankPagesOk k = false → r = 3) ∧
    (desc → fmt → s.bankPagesOk k = true → ¬even → r = 1) ∧ (desc → fmt → s.bankPagesOk k = true → even → ¬full → r = 1) ∧
    (desc → fmt → s.bankPagesOk k = true → even → full → r = 0)

/-- R173, R341, R357: the slice accepts a command when its queue of 32 has room: the status word is written with CODE 0 in that step, and a command
that fails a check ends with CODE 2 and its cause. Once the steward's earlier writes have drained and the tile is readable the tile is draining
while the broadcast vector is read; then the tile is as before and the command may step. In a resetting partition nothing of it happens. -/
def Claims.BankAcceptance : Prop :=
  ∀ (s : State) (k : BankCmd) (c : Crew) (h : Nat),
    let e := s.ctx.ev
    let k1 : BankCmd := { k with accepted := true, ent := tget [] (s.part k.part).tensors (k.tid % 4096) }
    let tiles (w : State) (f : Tile → Tile) : Prop := w = { s with banks := w.banks, crew := w.crew, crews := w.crews } ∧
      ∃ c1, w.crewOf k.crew = some c1 ∧ c1 = { c with tiles := c1.tiles } ∧ (∀ j : Nat, j ≠ k.btile → c1.tiles[j]? = c.tiles[j]?) ∧
        ∀ t, c.tiles[k.btile]? = some t → c1.tiles[k.btile]? = some (f t)
    s.bankOf e.a = some k → k.ended = false → k.crew ≠ 0 → s.crewOf k.crew = some c →
    ((s.part k.part).resetting = true → exec .bankAccept s = .next s) ∧
    ((s.part k.part).resetting = false →
    (k.accepted = false → 32 ≤ (s.banks.filter (fun x => x.slice == k.slice && x.accepted)).length →
      exec .bankAccept s = .next { s with agenda := s.agenda ++ [{ op := .bankAccept, arg := e, due := s.clock }] }) ∧
    (k.accepted = false → k.sending = false → (s.banks.filter (fun x => x.slice == k.slice && x.accepted)).length < 32 → s.Lies k.part k.rwin 8 h →
      ∃ u w : State, exec .bankAccept s = .next u ∧
        Written s.mem u.mem h ([0, 0] ++ leBytes 2 (min 65535 k.npois) ++ leBytes 4 k.first) ∧
        w = { s with mem := u.mem, banks := w.banks, dev := { s.dev with ue := w.dev.ue, ce := w.dev.ce } } ∧
        (w.bankRefusal c k1 = 0 → u.bankOf k.id = some k1 ∧ u.agenda = s.agenda ++ [{ op := .bankAccept, arg := e, due := s.clock }]) ∧
        (w.bankRefusal c k1 ≠ 0 → u.bankOf k.id = some { k1 with
            ended := true
            sending := false
            running := false
            suspended := false
            lease := none
            code := 2
            cause := w.bankRefusal c k1 } ∧
          u.agenda = s.agenda ++ [{ op := .bankCount, arg := { a := k.id }, due := s.clock }])) ∧
    (∀ t, k.accepted = true → k.sending = false → c.tiles[k.btile]? = some t →
      let ready : Prop := (t.st = 2 ∨ t.st = 3) ∧
        s.rangeDrained ⟨k.crew, 0⟩ k.part k.upto none ((List.range k.rows).flatMap k.rowRanges) = true ∧
        s.rangeDrained ⟨k.crew, 0⟩ k.part k.upto (some k.crew) [(t.offset, k.xBytes)] = true
      (¬ready → exec .bankAccept s = .next { s with agenda := s.agenda ++ [{ op := .bankAccept, arg := e, due := s.clock }] }) ∧
      (ready → ∃ w : State, exec .bankAccept s = .next { w with agenda := s.agenda ++ [{ op := .bankAccept, arg := e, due := s.clock }] } ∧
        tiles w (fun t => { t with st := if t.pin = true then t.st else 3, readers := t.readers + 1 }) ∧
        w.bankOf k.id = some { k with sending := true })) ∧
    (∀ t, k.accepted = true → k.sending = true → c.tiles[k.btile]? = some t →
      ∃ w : State, exec .bankAccept s = .next { w with agenda := s.agenda ++ [{ op := .bankStep, arg := { a := k.id }, due := s.clock }] } ∧
        tiles w Tile.endRead ∧
        w.bankOf k.id = some { k with sending := false, ready := true, x := s.mem.bytes (c.shareHome + t.offset) k.xBytes }))

/-- R147, R343, R351: a dot unit's result for integer products is their sum modulo 2^32; for floating products without NaN or infinity it is
the blocks of 32 in order, each rounded once into an F32 accumulator that starts at +0; any NaN or infinity gives the canonical NaN. -/
def Claims.BankSums : Prop :=
  (∀ l : List Int, bankResult true (l.map (fun i => .num (decide (i < 0)) i.natAbs 0)) = (l.sum % 2 ^ 32).toNat) ∧
  (∀ ps : List FVal, (∃ p ∈ ps, ∀ n m e, p ≠ .num n m e) → bankResult false ps = 0x7FC00000) ∧
  (∀ ps : List FVal, (∀ p ∈ ps, ∃ n m e, p = .num n m e) → ps.length ≤ 32 → ps ≠ [] →
    bankResult false ps = fF32.ofVal .rne false ((fF32.decode 0).add .rne (bankBlock ps))) ∧
  (∀ ps qs : List FVal, (∀ p ∈ ps ++ qs, ∃ n m e, p = .num n m e) → ps.length % 32 = 0 → qs.length ≤ 32 → qs ≠ [] →
    bankResult false (ps ++ qs) = fF32.ofVal .rne false ((fF32.decode (bankResult false ps)).add .rne (bankBlock qs))) ∧
  poisonedResult true = 0x80000000 ∧ poisonedResult false = 0x7FC0DEAD

/-- R342, R343, R346, R349 to R352, R354: a step that reads one row waits for the command's turn, for the governor and for a repack of its row's
region, leases the row for 19.2 + 1.6·C ns, and in row-dot mode writes its result, poisoned where it uses an element of an uncorrectable half; a
slot that ELIDED may not meet stops the command; a corrected error that it meets is counted in `BERR` of its bank (log entry 12). That the effects
of a step are those of its beginning is the model's choice (log entry 12). -/
def Claims.BankSteps : Prop :=
  ∀ (s : State) (k : BankCmd) (b i h : Nat),
    let e := s.ctx.ev
    let again : State := { s with agenda := s.agenda ++ [{ op := .bankStep, arg := e, due := s.clock }] }
    let row := s.bankRead k i
    let ue := s.bankHits k i row s.dev.ue
    let ce := s.bankHits k i row s.dev.ce
    let kb : BankCmd := { k with bad := k.bad ++ ue.map (fun x => (i, x.1)) }
    let malformed := kb.slotsBad i row
    s.bankOf e.a = some k → k.ended = false → (s.part k.part).resetting = false → e.d ≠ 1 →
    (k.running = false → s.bankTurn k = false → exec .bankStep s = .next again) ∧
    (k.running = true ∨ s.bankTurn k = true → k.cancelled = false → s.stepRows k = [(b, i)] →
      (s.dev.govCols ≠ 0 ∧ 1531250 < s.dev.govCols + k.metered row ∨ s.rowsRepack k [i] = true → exec .bankStep s = .next again) ∧
      (s.dev.govCols = 0 ∨ s.dev.govCols + k.metered row ≤ 1531250 → s.rowsRepack k [i] = false →
        ∃ u k1, exec .bankStep s = .next u ∧ u.bankOf k.id = some k1 ∧
          k1 = { kb with
            running := true
            lease := some (s.clock + (192 + 16 * k.columns) * 36 / 100)
            read := k1.read
            code := if malformed = true then 5 else k.code
            cause := if malformed = true then 2 else k.cause
            first := k1.first
            npois := k1.npois } ∧
          (malformed = true ∨ k.mode ≠ 0 ∨ s.Lies k.part (k.rwin + 64 + 4 * i) 4 h →
            u.agenda = s.agenda ++ [{ op := .bankStep, arg := { a := k.id, d := 1 }, due := s.clock }]) ∧
          u.dev.govCols = s.dev.govCols + k.metered row ∧
          (malformed = true ∨ k.mode ≠ 0 → k1.npois = k.npois ∧ k1.first = k.first) ∧
          (malformed = false → k.mode ≠ 0 → tget [] k1.read i = row ∧ ∀ j, j ≠ i → tget [] k1.read j = tget [] k.read j) ∧
          (k.mode ≠ 0 ∨ malformed = true → ue = [] → ce = [] → u.mem = s.mem) ∧
          (∀ g, ue = [] → (ce.map Prod.snd).eraseDups = [g] →
            let n := sliceOf g * 16 + g / 2048 % 16
            let x := tget Berr.blank s.dev.berr n
            tget Berr.blank u.dev.berr n = { x with cecnt := min 65535 (x.cecnt + 1) }) ∧
          (let hit : Prop := ∃ j < k.elems, k1.poisoned i j = true
           k.mode = 0 → malformed = false →
            (hit → k1.npois = k.npois + 1 ∧ k1.first = min k.first i) ∧ (¬hit → k1.npois = k.npois ∧ k1.first = k.first) ∧
            (ue = [] → ce = [] → s.Lies k.part (k.rwin + 64 + 4 * i) 4 h → Written s.mem u.mem h (leBytes 4
              (if hit then poisonedResult k.isInt else bankResult k.isInt ((List.range k.elems).map (fun j =>
                ((k.bcast j).mul (k.weight row j)).mul (k.scale row j)))))))))

/-- R345, R347, R350, R356: what follows the end of a step whose slice holds no deferred reduction: the command ends when it is cancelled or has no
step left; is suspended, for at least 64 ns, when 16 requests wait or the oldest would have waited past the arbitration window at the end of the
next step; and otherwise goes on. A suspended one resumes after the handover once nothing waits, 16 requests have been served, or 464 ns have
passed. What counts as a request that waits for a slice is the model's choice (log entry 40). -/
def Claims.BankBoundaries : Prop :=
  ∀ (s : State) (k : BankCmd) (t : Nat),
    let e := s.ctx.ev
    let ends (u : State) (code cause : Nat) : Prop := ∃ k1, u.bankOf k.id = some k1 ∧ k1.ended = true ∧ k1.code = code ∧ k1.cause = cause ∧
      k1.lease = none ∧ u.agenda = s.agenda ++ [{ op := .bankCount, arg := { a := k.id }, due := s.clock }]
    s.bankOf e.a = some k → k.ended = false → (s.part k.part).resetting = false → k.crew ≠ 0 → k.sending = false →
    (e.d = 1 → k.lease = some t →
      (s.clock < t → exec .bankStep s = .next { s with agenda := s.agenda ++ [{ op := .bankStep, arg := e, due := s.clock }] }) ∧
      (t ≤ s.clock → tget [] s.dev.deferred k.slice = [] →
        (k.code = 5 → ∃ u, exec .bankStep s = .next u ∧ ends u 5 2 ∧ u.mem = s.mem) ∧
        (k.code ≠ 5 → k.cancelled = true → k.mode = 0 → ∃ u, exec .bankStep s = .next u ∧ ends u 4 0 ∧ u.mem = s.mem) ∧
        (k.code ≠ 5 → k.cancelled = false → s.bankSteps k ≤ k.step + 1 → k.mode = 0 →
          ∃ u, exec .bankStep s = .next u ∧ ends u (if k.npois = 0 then 1 else 3) (if k.npois = 0 then 0 else 5) ∧ u.mem = s.mem) ∧
        (k.code ≠ 5 → k.cancelled = false → s.bankSteps k ≤ k.step + 1 → k.mode = 1 →
          ∃ u k1, exec .bankStep s = .next u ∧ u.bankOf k.id = some k1 ∧ k1.ended = true ∧ k1.lease = none ∧ k1.step = k.step + 1 ∧
            (k1.npois = 0 → k1.code = 1 ∧ k1.cause = 0) ∧ (k1.npois ≠ 0 → k1.code = 3 ∧ k1.cause = 5)) ∧
        (k.code ≠ 5 → k.cancelled = false → k.step + 1 < s.bankSteps k →
          let w := (s.agenda.filter (fun x => x.wait == .slice k.slice)).map Event.due
          let hold : Prop := 16 ≤ w.length ∨ ∃ c ∈ w, 360 * s.dev.arbW < 100 * (s.clock - c) + 36 * (192 + 16 * k.columns)
          ∃ u k1, exec .bankStep s = .next u ∧ u.bankOf k.id = some k1 ∧ u.mem = s.mem ∧
            (hold → k1 = { k with lease := none, step := k.step + 1, running := false, suspended := true, handover := s.clock + 231, served := 0 } ∧
              u.agenda = s.agenda ++ [{ op := .bankResume, arg := { a := k.id, b := s.clock }, due := s.clock }]) ∧
            (¬hold → k1 = { k with lease := none, step := k.step + 1 } ∧
              u.agenda = s.agenda ++ [{ op := .bankStep, arg := { a := k.id }, due := s.clock }])))) ∧
    (k.suspended = false → exec .bankResume s = .next s) ∧
    (k.suspended = true → k.cancelled = false →
      let go : Prop := k.handover ≤ s.clock ∧
        ((∀ x ∈ s.agenda, x.wait ≠ .slice k.slice) ∨ 16 ≤ k.served ∨ e.b + 1670 ≤ s.clock)
      (go → ∃ u, exec .bankResume s = .next u ∧
        u.bankOf k.id = some { k with suspended := false, running := true } ∧ u.agenda = s.agenda ++ [{ op := .bankStep, arg := { a := k.id }, due := s.clock }] ∧
        u.mem = s.mem) ∧
      (¬go → exec .bankResume s = .next { s with agenda := s.agenda ++ [{ op := .bankResume, arg := e, due := s.clock }] }))

/-- R344, R345, R351: the count step writes the status word, `CLOCK` and zeros, counts the declared bytes into the barrier with the error bit
unless CODE is 1, ends the slot, and sends `DATA_POISON` with the first poisoned result's address; the command is gone. -/
def Claims.BankEndings : Prop :=
  ∀ (s : State) (k : BankCmd) (c : Crew) (h : Nat),
    let e := s.ctx.ev
    let declared := if k.mode = 0 then 64 + 4 * k.rows else 64 + 64 * k.elems
    s.bankOf e.a = some k →
    (k.ended = false → exec .bankCount s = .next s) ∧
    (k.ended = true → k.mode < 2 → k.crew ≠ 0 → s.crewOf k.crew = some c → c.retired = false → s.Lies k.part k.rwin 64 h →
      ∃ u c1, exec .bankCount s = .next u ∧ u.crewOf k.crew = some c1 ∧ (∀ x, x ∈ u.banks ↔ x ∈ s.banks ∧ x.id ≠ k.id) ∧
        Written s.mem u.mem h ([BitVec.ofNat 8 k.code, BitVec.ofNat 8 k.cause] ++ leBytes 2 (min 65535 k.npois) ++ leBytes 4 k.first ++
          leBytes 8 s.clock ++ List.replicate 48 0) ∧
        (∀ j, tget BankSlot.blank c1.bankSlots j = if j = k.slot then ⟨k.step, k.cause, k.code, 4⟩ else tget BankSlot.blank c.bankSlots j) ∧
        (k.barrier < 64 → c1.bar k.barrier = (c.bar k.barrier).count 0 declared (decide (k.code ≠ 1))) ∧
        (∀ b, b ≠ k.barrier ∨ 64 ≤ k.barrier → c1.bar b = c.bar b) ∧
        (k.npois = 0 → c1.recWait = c.recWait ∧ ∀ r, r.crew ≠ 0 → u.streamOf r = s.streamOf r) ∧
        (∀ g, k.npois ≠ 0 → k.notify ≠ 255 → s.streamOf ⟨k.crew, k.notify + 1⟩ = some g → g.retired = false → g.gone = false →
          u.streamOf ⟨k.crew, k.notify + 1⟩ = some { g with
            asyncs := g.asyncs ++ [⟨0x08, k.slot, BitVec.ofNat 64 (k.rwin + 64 + 4 * k.first), none, []⟩] }))

/-- R14, R352: a new governor window opens with nothing metered; writing 1 to UEV of a `BERR` clears UEV and both counts there, and its image in
the register page; writing 0 does nothing. -/
def Claims.GovernorAndBerr : Prop :=
  ∀ s : State,
    let e := s.ctx.ev
    let k := 16 * e.a + e.b
    let b0 := tget Berr.blank s.dev.berr k
    exec .governorWindow s = .next { s with dev := { s.dev with govCols := 0 } } ∧
    (e.q.getLsbD 63 = false → exec .berrClear s = .next s) ∧
    (e.q.getLsbD 63 = true → e.b < 16 → ∃ u, exec .berrClear s = .next u ∧ u = { s with mem := u.mem, dev := { s.dev with berr := u.dev.berr } } ∧
      (∀ j, tget Berr.blank u.dev.berr j = if j = k then { b0 with uev := false, uecnt := 0, cecnt := 0 } else tget Berr.blank s.dev.berr j) ∧
      Written s.mem u.mem (regPageHome e.a + 8 * e.b) (leBytes 8 (b0.row % 2 ^ 16 * 2 ^ 23 + b0.col % 32 * 2 ^ 18 +
        (if b0.half = true then 2 ^ 17 else 0) + b0.synd % 2 ^ 16 * 2)))

/-- Bank commands: their words, checks and acceptance. -/
def Obligations.BankCommands : Prop :=
  Claims.BankWords ∧ Claims.BankChecks ∧ Claims.BankAcceptance

/-- The work of a bank command, the row governor and `BERR`. -/
def Obligations.BankWork : Prop :=
  Claims.BankSums ∧ Claims.BankSteps ∧ Claims.BankBoundaries ∧ Claims.BankEndings ∧ Claims.GovernorAndBerr

/-! ### Succinct regions (R358 to R380) -/

namespace Sys2Proof.Machine

/-- rank1 and Excess of a string (R359). -/
def rankOne (l : List Bool) (i : Nat) : Nat := ((l.take i).filter id).length
def excessAt (l : List Bool) (i : Nat) : Int := 2 * (rankOne l i : Int) - i

end Sys2Proof.Machine

/-- R368: the results of the query forms on the logical string, by their definitions. -/
def Claims.SuccinctAnswers : Prop :=
  ∀ (l : List Bool) (i : Nat),
    let t := l.length
    let ones := rankOne l t
    let num (x : Answer) (n : Nat) : Prop := x = .ok (BitVec.ofNat 64 n)
    let least (p : Nat → Prop) (n : Nat) : Prop := p n ∧ ∀ m < n, ¬p m
    let greatest (p : Nat → Prop) (n : Nat) : Prop := p n ∧ ∀ m, n < m → ¬p m
    let one (n : Nat) : Prop := i < n ∧ n < t ∧ excessAt l (n + 1) = excessAt l i
    let back (n : Nat) : Prop := n < i ∧ excessAt l n = excessAt l (i + 1)
    let up (n : Nat) : Prop := n < i ∧ excessAt l n = excessAt l i - 1
    (i ≤ t → num (succinctAnswer l 1 i) (rankOne l i) ∧ num (succinctAnswer l 0 i) (i - rankOne l i) ∧
      succinctAnswer l 4 i = .ok (BitVec.ofInt 64 (excessAt l i))) ∧
    (t < i → succinctAnswer l 0 i = .refused ∧ succinctAnswer l 1 i = .refused ∧ succinctAnswer l 4 i = .refused) ∧
    (1 ≤ i → i ≤ ones → ∃ p, num (succinctAnswer l 3 i) p ∧ p < t ∧ least (fun n => rankOne l (n + 1) = i) p) ∧
    (i = 0 ∨ ones < i → succinctAnswer l 3 i = .refused) ∧
    (1 ≤ i → i ≤ t - ones → ∃ p, num (succinctAnswer l 2 i) p ∧ p < t ∧ least (fun n => n + 1 - rankOne l (n + 1) = i) p) ∧
    (i = 0 ∨ t - ones < i → succinctAnswer l 2 i = .refused) ∧
    (l[i]? = some true →
      (∀ n, least one n → num (succinctAnswer l 5 i) n) ∧ ((∀ n, ¬one n) → succinctAnswer l 5 i = .noMatch) ∧
      (∀ n, greatest up n → num (succinctAnswer l 7 i) n ∧ l[n]? = some true) ∧ ((∀ n, ¬up n) → succinctAnswer l 7 i = .noMatch) ∧
      succinctAnswer l 6 i = .refused) ∧
    (l[i]? = some false →
      (∀ n, greatest back n → num (succinctAnswer l 6 i) n) ∧ ((∀ n, ¬back n) → succinctAnswer l 6 i = .noMatch) ∧
      succinctAnswer l 5 i = .refused ∧ succinctAnswer l 7 i = .refused) ∧
    (t ≤ i → succinctAnswer l 5 i = .refused ∧ succinctAnswer l 6 i = .refused ∧ succinctAnswer l 7 i = .refused)

namespace Sys2Proof.Machine

/-- The query and update words (R367, R369, R376): what each asks, the step that answers, whether CNT and RECA may be set, and whether it
updates. -/
def regionForms (x y : BitVec 6) (z : BitVec 4) : List (Instr × ReqKind × Instr × Bool × Bool × Bool) :=
  [(.rank0 x y z, .succinct 0, .succinctQueryPerform, false, false, false), (.rank1 x y z, .succinct 1, .succinctQueryPerform, false, false, false),
   (.selb0 x y z, .succinct 2, .succinctQueryPerform, false, false, false), (.selb1 x y z, .succinct 3, .succinctQueryPerform, false, false, false),
   (.exc x y z, .succinct 4, .succinctQueryPerform, false, false, false), (.fclose x y z, .succinct 5, .succinctQueryPerform, false, false, false),
   (.fopen x y z, .succinct 6, .succinctQueryPerform, false, false, false), (.encl x y z, .succinct 7, .succinctQueryPerform, false, false, false),
   (.saddr x y z, .saddr, .saddrPerform, false, true, false), (.bins x y z, .bins, .binsPerform, true, false, true),
   (.bdel x y z, .bdel, .bdelPerform, true, false, true)]

end Sys2Proof.Machine

/-- R366, R367, R369, R376: each query and update word checks the query word of every head lane and asks the region's slice for one step for
each lane that passes; the others take `ACCESS` with their query word. The result goes to the first operand of a query and the second of an
update. -/
def Claims.SuccinctWords : Prop :=
  ∀ (s : State) (x y : BitVec 6) (z : BitVec 4), ∀ f ∈ regionForms x y z,
    let upd := f.2.2.2.2.2
    let word (l : Nat) : Quad := s.me.rd 64 (if upd = true then x else y).toNat l
    let region (l : Nat) : Nat := (word l).toNat / 2 ^ 52 % 1024
    let bad (l : Nat) : Prop :=
      let w := (word l).toNat
      w / 2 ^ 62 ≠ 0 ∨ w / 2 ^ 48 % 16 ≠ 0 ∨ w / 2 ^ 32 % 512 ≠ 0 ∨ (f.2.2.2.1 = false ∧ w / 2 ^ 42 % 64 ≠ 0) ∨
      (f.2.2.2.2.1 = false ∧ w / 2 ^ 41 % 2 ≠ 0) ∨ s.myPart.region (region l) = none ∨
      ∃ r, s.myPart.region (region l) = some r ∧
        (s.me.pkr.getLsbD (2 * r.key) = true ∨ (upd = true ∧ s.me.pkr.getLsbD (2 * r.key + 1) = true))
    let ok : Prop := s.me.sid = 0 ∨ (x.toNat % 2 = 0 ∧ y.toNat % 2 = 0)
    (¬ok → IllegalIn f.1 s) ∧
    (ok → ∃ fails : List (Nat × Nat × Nat × Quad), (∀ l, l ∈ fails.map Prod.fst ↔ l ∈ s.headLanes ∧ bad l) ∧ (fails.map Prod.fst).Pairwise (· < ·) ∧
      (∀ e ∈ fails, e = (e.1, 0x03, 0, word e.1)) ∧
      (s.headLanes ≠ [] → (∀ l ∈ s.headLanes, bad l) → exec f.1 s = .next (s.trapFailed fails)) ∧
      ((∃ l ∈ s.headLanes, ¬bad l) → ∃ (t : State) (ls : List LaneReq), exec f.1 s = .next (t.trapFailed fails) ∧
        t = { s with
          nextId := s.nextId + 1
          me := { s.me with
            cf := t.me.cf
            pend := s.me.pend ++ [⟨s.nextId, none, false, [], flagOf z, s.here, true, [], s.clock⟩]
            reqs := s.me.reqs ++ [⟨s.nextId, f.2.1, (if upd = true then y else x).toNat, ls, [], none⟩] }
          agenda := t.agenda } ∧
        (∀ k, t.me.cfGet k = s.me.cfGet k + if k < 12 ∧ k = z.toNat then 1 else 0) ∧
        (∀ l, l ∈ ls.map LaneReq.lane ↔ l ∈ s.headLanes ∧ ¬bad l) ∧ (ls.map LaneReq.lane).Pairwise (· < ·) ∧
        (∀ r ∈ ls, r.x = word r.lane ∧ r.y = s.me.rd 64 y.toNat r.lane ∧ r.done = false) ∧
        t.agenda.map (fun e => (e.op, e.arg)) = s.agenda.map (fun e => (e.op, e.arg)) ++ ls.map (fun r => (f.2.2.1,
          { r := s.self, a := s.nextId, b := r.lane, c := ((s.myPart.region (region r.lane)).map Region.slice).getD 0 }))))

namespace Sys2Proof.Machine

/-- The lane's result is in its word's writes, nothing else of them has changed, and they arrive with the last lane. -/
def State.Answers (s u : State) (t : Stream) (q : Req) (ws : List RegWrite) : Prop :=
  ∃ t1, u.streamOf s.ctx.ev.r = some t1 ∧ ∀ p ∈ t.pend, p.id = q.id → ∃ p1 ∈ t1.pend,
    p1 = { p with writes := p.writes ++ ws, arrived := p1.arrived, bracket := p1.bracket }

end Sys2Proof.Machine

/-- R156, R158, R346, R367 to R369, R373, R374, R379: a query lane waits for its own earlier work at the region, for a repack and for the channel of
the region's slice; then it is answered from the logical string as it stands, with its
predicate; a refusal or a missing match gives all ones, and where the region traps the lane is marked for `BRACKET`. Memory stays. -/
def Claims.SuccinctSteps : Prop :=
  ∀ (s : State) (part : Nat) (t : Stream) (q : Req) (l : LaneReq) (g : Region),
    let e := s.ctx.ev
    let pos := l.x.toNat % 2 ^ 32
    let yes (x : Quad) : List RegWrite := t.wr 64 q.d l.lane x ++ [.p (224 + l.lane) true]
    let no : List RegWrite := t.wr 64 q.d l.lane 0xFFFFFFFFFFFFFFFF ++ [.p (224 + l.lane) false]
    e.r.crew ≠ 0 → s.streamOf e.r = some t → s.queryAt = some (part, t, q, l, g) →
    (s.queryFree e.r part t q l g = false →
      exec .succinctQueryPerform s = .next { s with agenda := s.agenda ++ [{ op := .succinctQueryPerform, arg := e, due := s.clock }] } ∧
      exec .saddrPerform s = .next { s with agenda := s.agenda ++ [{ op := .saddrPerform, arg := e, due := s.clock }] }) ∧
    (∀ w, s.queryFree e.r part t q l g = true → s.regionHold g = some w →
      exec .succinctQueryPerform s = .next (s.waitFor .succinctQueryPerform w) ∧ exec .saddrPerform s = .next (s.waitFor .saddrPerform w)) ∧
    (∀ fn, q.kind = .succinct fn → s.queryFree e.r part t q l g = true → s.regionHold g = none → s.dev.ue = [] →
      ∃ u, exec .succinctQueryPerform s = .next u ∧ u.mem = s.mem ∧ u.parts = s.parts ∧
        match succinctAnswer (s.liveBits g) fn pos with
        | .ok x => s.Answers u t q (yes x)
        | .refused => s.Answers u t q no
        | .noMatch => s.Answers u t q no ∧ (g.trap = true → ∃ t1, u.streamOf e.r = some t1 ∧ ∀ p ∈ t1.pend, p.id = q.id →
            (l.lane, BitVec.ofNat 64 pos) ∈ p.bracket)) ∧
    (s.queryFree e.r part t q l g = true → s.regionHold g = none → s.dev.ue = [] → ∃ u, exec .saddrPerform s = .next u ∧ u.mem = s.mem ∧ u.parts = s.parts ∧
      (let lens := s.blockLens g
       let reca : Prop := l.x.getLsbD 41 = true
       (lens.sum ≤ pos → s.Answers u t q no) ∧
       (∀ b o, b < lens.length → (lens.take b).sum + o = pos → o < lens.getD b 0 →
         let live := s.blockLive g b
         (¬reca → s.Answers u t q (yes (BitVec.ofNat 64 ((g.blk + 64 * b + o / 8) * 8 + o % 8)))) ∧
         (reca → g.recsz = 0 ∨ live.getD o false = false → s.Answers u t q no) ∧
         (reca → g.recsz ≠ 0 → live.getD o false = true →
           s.Answers u t q (yes (BitVec.ofNat 64 (g.recs + (256 * b + rankOne live o) * g.recsz)))))))

namespace Sys2Proof.Machine

/-- The longest prefix of items that fits a block of 512 bits with at most `m` ones has `k` items (R377). -/
def Fits (m : Nat) (l : List Item) (k : Nat) : Prop := k ≤ l.length ∧ k ≤ 512 ∧ ((l.take k).filter Item.bit).length ≤ m
def Longest (m : Nat) (l : List Item) (k : Nat) : Prop := Fits m l k ∧ ∀ j, Fits m l j → j ≤ k

end Sys2Proof.Machine

/-- R377: an insertion puts the bits at POS in the block of the bit before it; each block from there on keeps the longest prefix that fits, at most
512 bits and as many ones as its records allow, and pushes the rest to the front of the next, until none is left. It changes at most five
blocks, each with what it kept; POS past the end is refused with 2, and the insertion with 1 exactly when bits are left over after the fifth
block or the last block of the region. -/
def Claims.SuccinctInsertions : Prop :=
  ∀ (s : State) (g : Region) (pos n : Nat) (x : Quad), 1 ≤ n → n ≤ 64 →
    let lens := s.blockLens g
    let r := s.insertBits g pos n x
    (lens.sum < pos ∨ 2 ^ 32 - 1 < lens.sum + n → r = (2, [])) ∧
    (pos ≤ lens.sum → lens.sum + n ≤ 2 ^ 32 - 1 → g.nblk ≠ 0 →
      ∃ b0, b0 < g.nblk ∧ pos ≤ (lens.take (b0 + 1)).sum ∧ (∀ b < b0, (lens.take (b + 1)).sum < pos) ∧
        ∃ (has : Nat → List Item) (kept : Nat → Nat),
          (let o := pos - (lens.take b0).sum
           has 0 = (s.blockItems g b0).take o ++ (List.range n).map (fun k => (⟨x.getLsbD k, none⟩ : Item)) ++ (s.blockItems g b0).drop o) ∧
          (∀ i, Longest g.maxOnes (has i) (kept i)) ∧
          (∀ i, has (i + 1) = (has i).drop (kept i) ++ if b0 + i + 1 < g.nblk then s.blockItems g (b0 + i + 1) else []) ∧
          (let ends (i : Nat) : Prop := i < 5 ∧ b0 + i < g.nblk ∧ (has i).drop (kept i) = [] ∧ ∀ j < i, (has j).drop (kept j) ≠ []
           (∀ i, ends i → r = (0, (List.range (i + 1)).map (fun j => (b0 + j, (has j).take (kept j))))) ∧
           ((∀ i, ¬ends i) → r = (1, []))))

/-- R377: a deletion takes the bits of POS to POS + n - 1 out of the blocks that hold them, which must not be more than five, and moves none
between blocks; every block that held one of them is changed, with the items left to it; the deleted bits come back in order. -/
def Claims.SuccinctDeletions : Prop :=
  ∀ (s : State) (g : Region) (pos n : Nat), 1 ≤ n →
    let lens := s.blockLens g
    let r := s.deleteBits g pos n
    (lens.sum < pos + n → r = (2, [], [])) ∧
    (pos + n ≤ lens.sum → ∃ b0 b1, b0 ≤ b1 ∧ b1 < g.nblk ∧
      (lens.take b0).sum ≤ pos ∧ pos < (lens.take (b0 + 1)).sum ∧ (lens.take b1).sum ≤ pos + n - 1 ∧ pos + n - 1 < (lens.take (b1 + 1)).sum ∧
      (5 < b1 + 1 - b0 → r = (2, [], [])) ∧
      (b1 + 1 - b0 ≤ 5 → r.1 = 0 ∧ r.2.2 = ((s.liveBits g).drop pos).take n ∧ (r.2.1.map Prod.fst).Pairwise (· < ·) ∧
        (∀ b, b ∈ r.2.1.map Prod.fst ↔ b0 ≤ b ∧ b ≤ b1 ∧ lens.getD b 0 ≠ 0) ∧
        ∀ y ∈ r.2.1, y.2 =
          (s.blockItems g y.1).take (pos - (lens.take y.1).sum) ++ (s.blockItems g y.1).drop (pos + n - (lens.take y.1).sum)))

namespace Sys2Proof.Machine

/-- A region's pages and areas are as registration leaves them (R358, R363, R364): pages of 64 KiB, each with its own home in package memory, that
hold every area; the areas are apart; no block is longer than 512 bits or has more ones than its records allow. -/
structure Region.Sound (g : Region) : Prop where
  aligned : ∀ p ∈ g.pages, p.1 % 65536 = 0 ∧ p.2 % 65536 = 0 ∧ p.2 < 2 ^ 46
  apart : g.pages.Pairwise (fun a b => a.1 ≠ b.1 ∧ a.2 ≠ b.2)
  mapped : ∀ a ∈ g.areas, ∀ p ∈ pagesOf (a.1, a.2.1), p ∈ g.pages.map Prod.fst
  whole : ∀ a ∈ g.areas, a.1 % 4096 = 0
  separate : g.areas.Pairwise (fun a b => a.1 + a.2.1 ≤ b.1 ∨ b.1 + b.2.1 ≤ a.1)

/-- The blocks of a region are within R358's and R363's limits. -/
def State.BlocksOk (s : State) (g : Region) : Prop :=
  ∀ b < g.nblk, (s.bent g b).len ≤ 512 ∧ (g.recsz ≠ 0 → rankOne (s.blockLive g b) 512 ≤ 256)

/-- `m` is the least prefix excess of a string (R360). -/
def LeastExcess (l : List Bool) (m : Int) : Prop := (∃ i ≤ l.length, m = excessAt l i) ∧ ∀ i ≤ l.length, m ≤ excessAt l i

/-- `m` is the least prefix excess over the blocks `lo` to `hi` - 1, by their entries (R361). -/
def State.LeastOver (s : State) (g : Region) (lo hi : Nat) (m : Int) : Prop :=
  let at0 (j : Nat) : Int := ((List.range j).map (fun i => (s.bent g (lo + i)).extot)).sum
  (m = 0 ∨ ∃ j < hi - lo, m = at0 j + (s.bent g (lo + j)).exmin) ∧ m ≤ 0 ∧ ∀ j < hi - lo, m ≤ at0 j + (s.bent g (lo + j)).exmin

/-- The three fields of a superblock or group entry (R361): CUMONES, CUMLEN and XMIN. -/
def State.dirField (s : State) (g : Region) (va k : Nat) : Nat := leNat (s.mem.bytes (g.home va + 4 * k) 4)

end Sys2Proof.Machine

/-- R363, R371, R378: what an update leaves. Each listed block holds the bits of its items with its gap 0; its entry has their number, their ones,
their excess and their least prefix excess, and is not stale; the record of each 1 stands in the slot of its ordinal, moved from where it was or
zero for an inserted 1, and slots that the block no longer uses are zero (log entry 63). No other byte changes, the directory above the block
entries among them. The sector's log takes, for each superblock whose totals changed, one record with its first changed block and the changes of
its ones and its bits. -/
def Claims.BlocksWritten : Prop :=
  ∀ (s : State) (part : Nat) (g : Region) (l : List (Nat × List Item)),
    let u := s.applyBlocks part g l
    let bits (x : Nat × List Item) : List Bool := x.2.map Item.bit
    let entry (x : Nat × List Item) : BEnt := s.bent g x.1
    g.Sound → s.BlocksOk g → (l.map Prod.fst).Pairwise (· < ·) → (∀ x ∈ l, x.1 < g.nblk ∧ x.2.length ≤ 512 ∧ rankOne (bits x) 512 ≤ g.maxOnes) →
    (∀ x ∈ l, u.blockLive g x.1 = bits x ∧ u.blockBits g x.1 < 2 ^ x.2.length ∧
      ∃ m, LeastExcess (bits x) m ∧ u.bent g x.1 = ⟨false, m, 2 * (rankOne (bits x) 512 : Int) - x.2.length, x.2.length, rankOne (bits x) 512⟩) ∧
    (g.recsz ≠ 0 → g.recsz ≤ 768 → ∀ x ∈ l,
      (∀ k y, (x.2.filter Item.bit)[k]? = some y → u.recordBytes g x.1 k = match y.src with
        | some (c, j) => s.recordBytes g c j
        | none => List.replicate g.recsz 0) ∧
      (∀ k, rankOne (bits x) 512 ≤ k → k < rankOne (s.blockLive g x.1) 512 → u.recordBytes g x.1 k = List.replicate g.recsz 0)) ∧
    (∀ a, (∀ x ∈ l, (∀ i < 64, g.home (g.blk + 64 * x.1 + i) ≠ a) ∧ (∀ i < 8, g.home (g.bdir + 8 * x.1 + i) ≠ a) ∧
        (g.recsz ≠ 0 → ∀ i < 256 * g.recsz, g.home (g.recordAt x.1 0 + i) ≠ a)) → u.mem.get a = s.mem.get a) ∧
    (g.recsz ≤ 768 → (∀ r ∈ (s.part part).regions, r.handle = g.handle → r = g) → (s.part part).deriveds = [] → (s.parts.map Prod.fst).Nodup →
      let d1 (sb : Nat) : Int := ((l.filter (fun x => x.1 / 64 == sb)).map (fun x => (rankOne (bits x) 512 : Int) - (entry x).ones)).sum
      let dl (sb : Nat) : Int := ((l.filter (fun x => x.1 / 64 == sb)).map (fun x => (x.2.length : Int) - (entry x).len)).sum
      ∃ ds : List Delta, (u.part part).regions = (s.part part).regions.map (fun r => if r.handle = g.handle then ds.foldl Region.append r else r) ∧
        (ds.map Delta.sb).Pairwise (· < ·) ∧
        (∀ sb, sb ∈ ds.map Delta.sb ↔ (∃ x ∈ l, x.1 / 64 = sb) ∧ (d1 sb ≠ 0 ∨ dl sb ≠ 0)) ∧
        ∀ d ∈ ds, d.d1 = d1 d.sb ∧ d.dlen = dl d.sb ∧ ((l.filter (fun x => x.1 / 64 == d.sb)).map Prod.fst).head? = some d.blk)

/-- R376, R378, R379: `BINS` and `BDEL` steps wait for their turn, for a repack and the channel, and for room in the delta logs; then they complete: they
have their effect, which `Claims.BlocksWritten` describes, and give its code, or the deleted bits, with the predicate; one that fails changes
nothing. -/
def Claims.SuccinctUpdates : Prop :=
  ∀ (s : State) (part : Nat) (t : Stream) (q : Req) (l : LaneReq) (g : Region),
    let e := s.ctx.ev
    let pos := l.x.toNat % 2 ^ 32
    let n := l.x.toNat / 2 ^ 42 % 64 + 1
    let ins := s.insertBits g pos n l.y
    let del := s.deleteBits g pos n
    let ws (v : Nat) (ok : Bool) : List RegWrite := t.wr 64 q.d l.lane (BitVec.ofNat 64 v) ++ [.p (224 + l.lane) ok]
    let wait (i : Instr) : Prop := exec i s = .next { s with agenda := s.agenda ++ [{ op := i, arg := e, due := s.clock }] }
    e.r.crew ≠ 0 → s.streamOf e.r = some t → s.queryAt = some (part, t, q, l, g) →
    (s.queryFree e.r part t q l g = false → wait .binsPerform ∧ wait .bdelPerform) ∧
    (∀ w, s.queryFree e.r part t q l g = true → s.regionHold g = some w →
      exec .binsPerform s = .next (s.waitFor .binsPerform w) ∧ exec .bdelPerform s = .next (s.waitFor .bdelPerform w)) ∧
    (s.queryFree e.r part t q l g = true → s.regionHold g = none →
      (ins.1 = 0 → g.room (s.deltasOf g ins.2) = false → wait .binsPerform) ∧
      (del.1 = 0 → g.room (s.deltasOf g del.2.1) = false → wait .bdelPerform) ∧
      (ins.1 ≠ 0 → ∃ u, exec .binsPerform s = .next u ∧ u.mem = s.mem ∧ u.parts = s.parts ∧ s.Answers u t q (ws ins.1 false)) ∧
      (del.1 ≠ 0 → ∃ u, exec .bdelPerform s = .next u ∧ u.mem = s.mem ∧ u.parts = s.parts ∧ s.Answers u t q (ws del.1 false)) ∧
      (ins.1 = 0 → g.room (s.deltasOf g ins.2) = true → ∃ u, exec .binsPerform s = .next u ∧ s.Answers u t q (ws 0 true) ∧
        u.mem = (s.applyBlocks part g ins.2).mem ∧ u.parts = (s.applyBlocks part g ins.2).parts) ∧
      (del.1 = 0 → g.room (s.deltasOf g del.2.1) = true → ∃ u, exec .bdelPerform s = .next u ∧
        s.Answers u t q (ws (((List.range del.2.2.length).map (fun i => if del.2.2.getD i false = true then 2 ^ i else 0)).sum) true) ∧
        u.mem = (s.applyBlocks part g del.2.1).mem ∧ u.parts = (s.applyBlocks part g del.2.1).parts))

/-- R324, R346, R372, R375: a fold takes the oldest record of its sector's log, with the other logs as they were, and adds its changes to the sums of
the later sectors; a region that only waited for its folds, in a reset, is gone with the last of them. A fold waits for the channel of the
region's slice. A sample gives the partition's counts; nothing else of it changes. -/
def Claims.DirectoryKeeper : Prop :=
  ∀ (s : State) (g : Region) (d : Delta) (rest : List Delta),
    let e := s.ctx.ev
    let q := s.part e.a
    q.region e.b = some g → (∀ r ∈ q.regions, r.handle = e.b → r = g) →
    (s.channelHolds (g.home g.sdir) = true → exec .deltaFold s = .next (s.deferAt .deltaFold g.slice)) ∧
    (s.channelHolds (g.home g.sdir) = false →
      (tget [] g.logs e.c = d :: rest → g.dying = false → ∃ u g1, exec .deltaFold s = .next u ∧ (u.part e.a).region e.b = some g1 ∧
        g1 = { g with logs := g1.logs, sect := g1.sect } ∧ (∀ k, tget [] g1.logs k = if k = e.c then rest else tget [] g.logs k) ∧
        g1.sect.length = g.sect.length ∧
        (∀ (i : Nat) (x y : Int × Int × Int), g.sect[i]? = some x → g1.sect[i]? = some y →
          y.1 = (if e.c < i then x.1 + d.d1 else x.1) ∧ y.2.1 = (if e.c < i then x.2.1 + d.dlen else x.2.1) ∧ (i ≠ e.c → y.2.2 = x.2.2)) ∧
        u.mem = (s.foldOne e.a g e.c).mem ∧ u.crews = s.crews ∧ u.dev = s.dev ∧ ∀ p, p ≠ e.a → u.part p = s.part p) ∧
      (tget [] g.logs e.c = [] → g.dying = false → (∀ r ∈ q.regions, r.dying = false) →
        ∃ u, exec .deltaFold s = .next u ∧ u = { s with parts := u.parts } ∧ ∀ p, u.part p = s.part p) ∧
      (g.dying = true → g.logs = [(e.c, [d])] → ∃ u, exec .deltaFold s = .next u ∧ (u.part e.a).region e.b = none) ∧
      (g.dying = true → g.logs = [(e.c, d :: rest)] → rest ≠ [] →
        ∃ u g1, exec .deltaFold s = .next u ∧ (u.part e.a).region e.b = some g1 ∧ g1.dying = true ∧ g1.logs = [(e.c, rest)])) ∧
    (let lens := q.regions.flatMap (fun r => r.logs.map (fun l => l.2.length))
     ∃ u, exec .dkstatSample s = .next u ∧ u = { s with parts := u.parts } ∧ (∀ p, p ≠ e.a → u.part p = s.part p) ∧
      u.part e.a = { q with dkstat := BitVec.ofNat 64 (q.regions.length % 2 ^ 11 * 2 ^ 53 + min 65535 lens.sum * 2 ^ 32 + q.dkHeld % 2 ^ 16 * 2 ^ 16 +
        q.dkDirwr % 2 ^ 11 * 2 ^ 5 + lens.foldl max 0 % 32) })

/-- R360, R361, R372: what folding a record writes. CUMONES and CUMLEN of the later superblocks and groups of its sector take its changes, modulo
2^32; the entry of its block, where it is stale, takes its least prefix excess, and is stale no more unless another record of the log names the
block; XMIN of its superblock and of its group is the least prefix excess over their blocks. Nothing else in memory changes. -/
def Claims.DeltaFolds : Prop :=
  ∀ (s : State) (part c : Nat) (g : Region) (d : Delta) (rest : List Delta),
    let u := s.foldOne part g c
    let nsb := (g.nblk + 63) / 64
    let ngr := (nsb + 63) / 64
    let old (va k : Nat) : Int := s.dirField g va k
    g.Sound → s.BlocksOk g → tget [] g.logs c = d :: rest → d.blk < g.nblk → d.sb = d.blk / 64 → c = d.sb / 4096 →
    (∀ i < nsb, let a := g.sdir + 16 * i
      let later : Prop := i / 4096 = c ∧ d.sb < i
      (u.dirField g a 0 : Int) = (if later then (old a 0 + d.d1) % 2 ^ 32 else old a 0) ∧
      (u.dirField g a 1 : Int) = (if later then (old a 1 + d.dlen) % 2 ^ 32 else old a 1) ∧
      (i ≠ d.sb → u.dirField g a 2 = s.dirField g a 2)) ∧
    (∀ i < ngr, let a := g.gdir + 16 * i
      let later : Prop := i / 64 = c ∧ d.sb / 64 < i
      (u.dirField g a 0 : Int) = (if later then (old a 0 + d.d1) % 2 ^ 32 else old a 0) ∧
      (u.dirField g a 1 : Int) = (if later then (old a 1 + d.dlen) % 2 ^ 32 else old a 1) ∧
      (i ≠ d.sb / 64 → u.dirField g a 2 = s.dirField g a 2)) ∧
    (∃ m, u.LeastOver g (64 * d.sb) (min g.nblk (64 * d.sb + 64)) m ∧ (u.dirField g (g.sdir + 16 * d.sb) 2 : Int) = m % 2 ^ 32) ∧
    (let gr := d.sb / 64
     ∃ m, u.LeastOver g (4096 * gr) (min g.nblk (4096 * gr + 4096)) m ∧ (u.dirField g (g.gdir + 16 * gr) 2 : Int) = m % 2 ^ 32) ∧
    (∀ b < g.nblk, b ≠ d.blk ∨ (s.bent g b).stale = false → u.bent g b = s.bent g b) ∧
    ((s.bent g d.blk).stale = true → ∃ m, LeastExcess (s.blockLive g d.blk) m ∧
      u.bent g d.blk = { s.bent g d.blk with exmin := m, stale := rest.any (fun x => x.blk == d.blk) }) ∧
    (∀ a, (∀ i < 16 * nsb, g.home (g.sdir + i) ≠ a) → (∀ i < 16 * ngr, g.home (g.gdir + i) ≠ a) → (∀ i < 8, g.home (g.bdir + 8 * d.blk + i) ≠ a) →
      u.mem.get a = s.mem.get a)

/-- R360 to R362, R364: the directory that a registration builds. Every block entry has the number of bits, the ones,
the excess and the least prefix excess of its block and is not stale; every superblock and group entry the ones and bits before it in its
sector and the least prefix excess over its blocks; the sector table the ones and bits before each sector and its least prefix excess. -/
def Claims.DirectoryBuilt : Prop :=
  ∀ (s : State) (part : Nat) (g : Region),
    let u := s.register part g
    let nsb := (g.nblk + 63) / 64
    let ngr := (nsb + 63) / 64
    let ones (lo hi : Nat) : Nat := ((List.range (hi - lo)).map (fun i => (u.bent g (lo + i)).ones)).sum
    let lens (lo hi : Nat) : Nat := ((List.range (hi - lo)).map (fun i => (u.bent g (lo + i)).len)).sum
    g.Sound → s.BlocksOk g →
    (∀ b < g.nblk, let l := s.blockLive g b
      ∃ m, LeastExcess l m ∧ u.bent g b = ⟨false, m, 2 * (rankOne l 512 : Int) - l.length, l.length, rankOne l 512⟩) ∧
    (∀ i < nsb, let a := g.sdir + 16 * i
      u.dirField g a 0 = ones (i / 4096 * 2 ^ 18) (64 * i) % 2 ^ 32 ∧ u.dirField g a 1 = lens (i / 4096 * 2 ^ 18) (64 * i) % 2 ^ 32 ∧
      ∃ m, u.LeastOver g (64 * i) (min g.nblk (64 * i + 64)) m ∧ (u.dirField g a 2 : Int) = m % 2 ^ 32) ∧
    (∀ i < ngr, let a := g.gdir + 16 * i
      u.dirField g a 0 = ones (i / 64 * 2 ^ 18) (4096 * i) % 2 ^ 32 ∧ u.dirField g a 1 = lens (i / 64 * 2 ^ 18) (4096 * i) % 2 ^ 32 ∧
      ∃ m, u.LeastOver g (4096 * i) (min g.nblk (4096 * i + 4096)) m ∧ (u.dirField g a 2 : Int) = m % 2 ^ 32) ∧
    ((∃ l, (u.part part).regions = (s.part part).regions ++ [{ g with sect := l }] ∧ l.length = (g.nblk + 2 ^ 18 - 1) / 2 ^ 18 ∧
      ∀ (i : Nat) (x : Int × Int × Int), l[i]? = some x → x.1 = ones 0 (2 ^ 18 * i) ∧ x.2.1 = lens 0 (2 ^ 18 * i) ∧
        u.LeastOver g (2 ^ 18 * i) (min g.nblk (2 ^ 18 * i + 2 ^ 18)) x.2.2))

/-- R364, R365, R379: the steward's words of registration. `SREG` checks the address of its descriptor and leaves its result to the keeper; so
does `SUNREG`; `SREPACK` needs a registered handle. -/
def Claims.RegistrationWords : Prop :=
  ∀ (s : State) (x y : BitVec 6),
    let v := s.me.rdK x.toNat
    let under (t : State) (op : Instr) (arg : EvArg) : Prop :=
      t = { s with
        nextId := s.nextId + 1
        me := { s.me with pend := s.me.pend ++ [⟨s.nextId, none, false, [], none, s.here, true, [], s.clock⟩] }
        agenda := s.agenda ++ [{ op := op, arg := arg, due := s.clock }] }
    (s.me.sid ≠ 0 → IllegalIn (.sreg x y) s ∧ IllegalIn (.sunreg x) s ∧ IllegalIn (.srepack x y) s) ∧
    (s.me.sid = 0 →
      (2 ^ 57 ≤ v.toNat → exec (.sreg x y) s = .next (s.trapHead 0x03 0 v)) ∧
      (v.toNat < 2 ^ 57 → v.toNat % 64 ≠ 0 → exec (.sreg x y) s = .next (s.trapHead 0x04 0 v)) ∧
      (v.toNat < 2 ^ 57 → v.toNat % 64 = 0 →
        let refused : Prop := ∃ leaf sh, s.walk s.crew.part v.toNat = some (leaf, sh) ∧ s.me.pkr.getLsbD (2 * bits leaf 55 51) = true
        (refused → exec (.sreg x y) s = .next (s.trapHead 0x03 0 v)) ∧
        (¬refused → ∃ t, exec (.sreg x y) s = .next t ∧ under t .sregDone { r := s.self, a := s.nextId, q := v, b := y.toNat })) ∧
      (∃ t, exec (.sunreg x) s = .next t ∧ under t .sunregDone { r := s.self, a := s.nextId, q := v }) ∧
      (s.myPart.region (v.toNat / 2 ^ 52 % 1024) = none → exec (.srepack x y) s = .next (s.trapHead 0x03 0 v)) ∧
      (s.myPart.region (v.toNat / 2 ^ 52 % 1024) ≠ none → exec (.srepack x y) s = .next { s with
        agenda := s.agenda ++ [{ op := .srepackAccept, arg := { r := s.self, q := v, a := y.toNat, b := s.crew.part }, due := s.clock }] }))

namespace Sys2Proof.Machine

/-- The result `a` of a steward arrives with these writes. -/
def State.Returns (s u : State) (ws : List RegWrite) : Prop :=
  (∃ t t1, s.streamOf s.ctx.ev.r = some t ∧ u.streamOf s.ctx.ev.r = some t1 ∧
    t1.pend = t.pend.map (fun p => if p.id = s.ctx.ev.a then { p with writes := p.writes ++ ws, arrived := true } else p)) ∧
  ({ op := .resultWriteback, arg := { r := s.ctx.ev.r, a := s.ctx.ev.a }, due := s.clock } : Event) ∈ u.agenda

end Sys2Proof.Machine

/-- R364, R365: the keeper's checks of a registration in their order; one that is refused writes STATUS and gives all ones; one that passes
gives a handle no other region of the partition has, and the region stands registered. `SUNREG` folds what is pending, and the region is gone,
unless it is not registered or a tree uses it. STATUS of a region that is registered is 1, and its directory is built as
`Claims.DirectoryBuilt` says. -/
def Claims.Registration : Prop :=
  ∀ (s : State) (t : Stream) (h : Nat),
    let e := s.ctx.ev
    let part := s.partOf e.r.crew
    let q := s.part part
    let va := e.q.toNat
    let d := s.gbytes part va 64
    let g := regionOf d va
    let cause := s.sregCause part d g (s.withPages part g)
    let hd := va / 2 ^ 52 % 1024
    let tree : Prop := ∃ x ∈ q.trees, x.region = hd ∧ x.walker ∉ s.dev.failedWalkers
    e.r.crew ≠ 0 → s.streamOf e.r = some t →
    (regionDescOk d g = false → cause = 1) ∧
    (regionDescOk d g = true → s.regionLayoutOk part g = false → cause = 2) ∧
    (regionDescOk d g = true → s.regionLayoutOk part g = true → s.withPages part g = none → cause = 3) ∧
    (∀ r, regionDescOk d g = true → s.regionLayoutOk part g = true → s.withPages part g = some r →
      let full : Prop := 64 ≤ (s.parts.flatMap (fun p => p.2.regions.filter (fun x => x.slice == r.slice))).length ∨ 1024 ≤ q.regions.length
      (s.regionPlaceOk part r = false → cause = 3) ∧ (s.regionPlaceOk part r = true → full → cause = 4) ∧
      (s.regionPlaceOk part r = true → ¬full → cause = 0)) ∧
    (∀ w, s.descHold part va = some w → exec .sregDone s = .next (s.waitFor .sregDone w)) ∧
    (cause ≠ 0 → s.descHold part va = none → s.homeHold h = none → s.Lies part (va + 0x30) 4 h → ∃ u, exec .sregDone s = .next u ∧ u.parts = s.parts ∧
      Written s.mem u.mem h [2, BitVec.ofNat 8 cause, 0, 0] ∧ s.Returns u [.k e.b 0xFFFFFFFFFFFFFFFF, .p 224 false]) ∧
    (∀ r, cause = 0 → s.withPages part g = some r → s.descHold part va = none → s.homeHold h = none → s.Lies part (va + 0x30) 4 h →
      ∃ (u s1 : State) (n : Nat) (sect : List (Int × Int × Int)), exec .sregDone s = .next u ∧
      (u.part part).regions = q.regions ++ [{ r with handle := n, sect := sect }] ∧ n < 1024 ∧ n ∉ q.regions.map Region.handle ∧
      s1.parts = s.parts ∧ Written s.mem s1.mem h [1, 0, 0, 0] ∧ u.mem = (s1.register part { r with handle := n }).mem ∧
      u.parts = (s1.register part { r with handle := n }).parts ∧
      (∀ p, p ≠ part → u.part p = s.part p) ∧ s.Returns u [.k e.b (BitVec.ofNat 64 n), .p 224 true]) ∧
    (q.region hd = none ∨ tree → ∃ u, exec .sunregDone s = .next u ∧ u.mem = s.mem ∧ u.parts = s.parts ∧ s.Returns u [.p 224 false]) ∧
    (∀ r, q.region hd = some r → ¬tree →
      (s.regionAsked part hd = true ∨ r.repacks ≠ [] → exec .sunregDone s = .next { s with agenda := s.agenda ++ [{ op := .sunregDone, arg := e, due := s.clock }] }) ∧
      (s.regionAsked part hd = false → r.repacks = [] → ∃ u, exec .sunregDone s = .next u ∧ (u.part part).region hd = none ∧
        (r.logs = [] → (u.part part).regions = q.regions.filter (fun x => x.handle != hd) ∧ u.mem = s.mem) ∧ s.Returns u [.p 224 true]))

/-- R379: a repack is checked when its turn has come: a slack above 448 or another bit is refused with 1, a string that needs more blocks with
5; refused, STATUS is written and 64 bytes are counted with the error bit; accepted, the region's accesses wait until its end, which counts too;
a second one waits behind the first. -/
def Claims.Repacks : Prop :=
  ∀ (s : State) (g : Region) (c : Crew) (h : Nat),
    let e := s.ctx.ev
    let q := s.part e.b
    let k : Repack := ⟨s.nextId, e.r.crew, e.a, e.q⟩
    let w := e.q.toNat
    let odd : Prop := 448 < w % 512 ∨ w / 2 ^ 62 ≠ 0 ∨ w / 2 ^ 9 % 2 ^ 43 ≠ 0
    let cause := s.repackCause g e.q
    let counted (u : State) (id b : Nat) (err : Bool) : Prop :=
      ∃ c1, u.crewOf id = some c1 ∧ c1.bar b = (c.bar b).count 0 64 err ∧ ∀ j, j ≠ b → c1.bar j = c.bar j
    q.region (w / 2 ^ 52 % 1024) = some g → (∀ r ∈ q.regions, r.handle = g.handle → r = g) →
    (odd → cause = 1) ∧ (¬odd → g.nblk < (s.relaid g (w % 512)).length → cause = 5) ∧ (¬odd → (s.relaid g (w % 512)).length ≤ g.nblk → cause = 0) ∧
    (g.repacks = [] → cause ≠ 0 → e.r.crew ≠ 0 → s.crewOf e.r.crew = some c → c.retired = false → s.Lies e.b (g.desc + 0x30) 4 h →
      ∃ u, exec .srepackAccept s = .next u ∧ u.parts = s.parts ∧ Written s.mem u.mem h [2, BitVec.ofNat 8 cause, 0, 0] ∧ counted u e.r.crew e.a true) ∧
    (g.repacks ≠ [] ∨ cause = 0 → ∃ u, exec .srepackAccept s = .next u ∧ u = { s with nextId := s.nextId + 1, parts := u.parts, agenda := u.agenda } ∧
      (u.part e.b).region g.handle = some { g with repacks := g.repacks ++ [k] } ∧
      u.agenda = s.agenda ++ if g.repacks = [] then [{ op := .srepackDone, arg := e, due := s.clock }] else []) ∧
    (g.repacks = [] → exec .srepackDone s = .next s) ∧
    (∀ k0 rest, g.repacks = k0 :: rest → k0.crew ≠ 0 → s.crewOf k0.crew = some c → c.retired = false →
      let s1 := if s.repackCause g k0.x = 0 then s.relay e.b g (k0.x.toNat % 512) else s
      ∃ u, exec .srepackDone s = .next u ∧ counted u k0.crew k0.barrier (decide (s.repackCause g k0.x ≠ 0)) ∧
        (s1.Lies e.b (g.desc + 0x30) 4 h → ∃ g1, (u.part e.b).region g.handle = some g1 ∧ g1.repacks = rest ∧ g1.nblk = g.nblk ∧
          (s.repackCause g k0.x = 0 → g1.logs = [] ∧ Written s1.mem u.mem h [1, 0, 0, 0]) ∧
          (s.repackCause g k0.x ≠ 0 → g1.logs = g.logs ∧ Written s.mem u.mem h [2, BitVec.ofNat 8 (s.repackCause g k0.x), 0, 0])))

/-- Queries over succinct regions. -/
def Obligations.SuccinctQueries : Prop :=
  Claims.SuccinctAnswers ∧ Claims.SuccinctWords ∧ Claims.SuccinctSteps

/-- Insertions, deletions and updates of succinct regions. -/
def Obligations.SuccinctChanges : Prop :=
  Claims.SuccinctInsertions ∧ Claims.SuccinctDeletions ∧ Claims.SuccinctUpdates ∧ Claims.BlocksWritten

/-- Registrations, repacks and the directory keeper. -/
def Obligations.SuccinctRegions : Prop :=
  Claims.DirectoryKeeper ∧ Claims.DeltaFolds ∧ Claims.DirectoryBuilt ∧ Claims.RegistrationWords ∧ Claims.Registration ∧ Claims.Repacks

/-! ### Cluster walkers (R29, R34, R148, R381 to R397) -/

/-- R29, R383, R385, R391, R395: the walker's words. A group's raise `ILLEGAL_OP`, but for `WSTAT`; in reduced service they raise `ENGINE`; `WTREE`
and `WAPPEND` leave their result to the walker, `WQUERY` sends the descriptor it reads at issue with the query registers as they stand, and `WSTAT`
gives a sample, 0 for a handle that is not bound and 2 where the tree's walker has failed. The address that a descriptor trap reports, and 0 for an
`ENGINE` trap, is the model's reading (log entry 14). -/
def Claims.WalkerWords : Prop :=
  ∀ (s : State) (x y : BitVec 6) (z : BitVec 4),
    let v := s.me.rdK x.toNat
    let off := v.toNat % 2 ^ 32
    let ea := BitVec.ofNat 64 (0xAF * 2 ^ 56 + off)
    let a := s.opN s.natW y 0
    let under (t : State) (op : Instr) : Prop :=
      t = { s with
        nextId := s.nextId + 1
        me := { s.me with pend := s.me.pend ++ [⟨s.nextId, none, false, [], none, s.here, true, [], s.clock⟩] }
        agenda := s.agenda ++ [{ op := op, arg := { r := s.self, a := s.nextId, q := v, b := y.toNat }, due := s.clock }] }
    (s.me.sid ≠ 0 → IllegalIn (.wtree x y) s ∧ IllegalIn (.wquery x y) s ∧ IllegalIn (.wappend x y) s) ∧
    (s.me.sid = 0 → s.dev.reduced = true → ∀ i ∈ [Instr.wtree x y, .wquery x y, .wappend x y], exec i s = .next (s.trapHead 0x0C 0 0)) ∧
    (s.me.sid = 0 → s.dev.reduced = false →
      (∃ t, exec (.wtree x y) s = .next t ∧ under t (if v.getLsbD 63 = true then .wtreeUnbindDone else .wtreeBindDone)) ∧
      (∃ t, exec (.wappend x y) s = .next t ∧ under t .wappendStep) ∧
      (off % 32 ≠ 0 → exec (.wquery x y) s = .next (s.trapHead 0x04 0 ea)) ∧
      (off % 32 = 0 → 2 ^ 32 ≤ v.toNat → exec (.wquery x y) s = .next (s.trapHead 0x03 0 v)) ∧
      (off % 32 = 0 → v.toNat < 2 ^ 32 → s.crew.shareSize < off + 32 → exec (.wquery x y) s = .next (s.trapHead 0x03 0 ea)) ∧
      (off % 32 = 0 → v.toNat < 2 ^ 32 → off + 32 ≤ s.crew.shareSize → ∃ k : WQuery, exec (.wquery x y) s = .next { s with
          nextId := s.nextId + 1
          queries := s.queries ++ [k]
          agenda := s.agenda ++ [{ op := .wqueryAccept, arg := { a := s.nextId }, due := s.clock }] } ∧
        k.id = s.nextId ∧ k.part = s.crew.part ∧ k.crew = s.crew.id ∧ k.task = s.crew.task ∧ k.qid = lo32 (s.me.rdK y.toNat) ∧
        k.desc = s.descBytes v 32 ∧ k.pkr = s.me.pkr ∧ k.theta = s.crew.wtheta ∧ k.tau = s.crew.wtau ∧ k.seed = s.crew.wseed ∧
        k.accepted = false ∧ k.sending = false ∧ k.walker = none ∧ k.count = 0 ∧ k.vis = 0 ∧ k.root = true ∧ k.code = 0)) ∧
    (¬(s.me.sid = 0 ∨ x.toNat % 2 = 0) → IllegalIn (.wstat x y z) s) ∧
    (s.me.sid = 0 ∨ x.toNat % 2 = 0 →
      (256 ≤ a → exec (.wstat x y z) s = .next (s.trapHead 0x03 0 (BitVec.ofNat 64 a))) ∧
      (a < 256 → ∃ u ws w, exec (.wstat x y z) s = .next u ∧ s.Arrives u (flagOf z) ws ∧
        s.me.TakesReg ws 64 x.toNat s.headLanes (fun _ => BitVec.ofNat 64 w) ∧ (s.myPart.tree a = none → w = 0) ∧
        (∀ t, s.myPart.tree a = some t → t.walker ∈ s.dev.failedWalkers → w = 2) ∧
        (∀ t g, s.myPart.tree a = some t → t.walker ∉ s.dev.failedWalkers → s.myPart.region t.region = some g →
          w = t.epoch * 2 ^ 32 + (maxExcess (s.liveBits g) 0 0).toNat % 64 * 2 ^ 26 +
            (s.queries.filter (fun k => k.walker == some t.walker)).length % 256 * 2 ^ 16 + t.walker % 256 * 2 ^ 8 + 1)))

/-- R34, R383, R384: the checks of a binding in their order; a tree is bound with a handle of the partition's and EPOCH 0, or kY gets all ones
over the cause; it waits while a repack or a bank command's step keeps the region. Unbinding ignores DIM and WSEL, waits for the tree's commands
and frees its handle; a handle that is not bound or another bit that is not 0 is answered with cause 1. That a tree whose walker has failed is
answered with cause 6 (`ENGINE`) is the model's choice (log entry 64). -/
def Claims.TreeBinding : Prop :=
  ∀ (s : State) (t : Stream),
    let e := s.ctx.ev
    let part := s.partOf e.r.crew
    let q := s.part part
    let v := e.q.toNat
    let d := if v / 2 ^ 24 % 2 = 1 then 128 else 64
    let kt := q.tensor (v / 2 ^ 40 % 4096)
    let vt := q.tensor (v / 2 ^ 28 % 4096)
    let cause := s.bindCause part e.q
    let usable (t : Tensor) : Prop := t.valid = true ∧ t.derived = false ∧ t.fmt = 2 ∧ t.rank = 2 ∧ t.extent 3 = d
    let desc : Prop := v / 2 ^ 62 % 2 = 0 ∧ v / 2 ^ 26 % 4 = 0 ∧ v % 2 ^ 24 = 0 ∧ usable kt ∧ usable vt ∧ kt.ext = vt.ext
    let live (p : Part) : List Tree := p.trees.filter (fun t => !s.dev.failedWalkers.contains t.walker)
    let no (c : Nat) : List RegWrite := [.k e.b (BitVec.ofNat 64 (2 ^ 64 - 256 + c)), .p 224 false]
    e.r.crew ≠ 0 → s.streamOf e.r = some t →
    (q.region (v / 2 ^ 52 % 1024) = none → cause = 1 ∧ ∃ u, exec .wtreeBindDone s = .next u ∧ u.parts = s.parts ∧ s.Returns u (no 1)) ∧
    (∀ g, q.region (v / 2 ^ 52 % 1024) = some g →
      let stack := stackOfSlice g.slice
      let w := 2 * stack + v / 2 ^ 25 % 2
      let placed : Prop := s.tensorOnStack part kt stack = true ∧ s.tensorOnStack part vt stack = true
      let full : Prop := 16 ≤ (s.parts.flatMap (fun p => (live p.2).filter (fun t => t.walker == w))).length ∨ 256 ≤ (live q).length
      let busy : Prop := ∃ x ∈ live q, x.region = g.handle
      (¬desc → cause = 1) ∧ (desc → s.treeShapeOk g d = false → cause = 2) ∧ (desc → s.treeShapeOk g d = true → ¬placed → cause = 3) ∧
      (desc → s.treeShapeOk g d = true → placed → full → cause = 4) ∧ (desc → s.treeShapeOk g d = true → placed → ¬full → busy → cause = 5) ∧
      (desc → s.treeShapeOk g d = true → placed → ¬full → ¬busy → cause = 0) ∧
      (∀ w, s.regionHold g = some w → exec .wtreeBindDone s = .next (s.waitFor .wtreeBindDone w)) ∧
      (s.regionHold g = none → cause ≠ 0 → ∃ u, exec .wtreeBindDone s = .next u ∧ u.parts = s.parts ∧ u.mem = s.mem ∧ s.Returns u (no cause)) ∧
      (s.regionHold g = none → cause = 0 → ∃ u h, exec .wtreeBindDone s = .next u ∧ u.mem = s.mem ∧ (q.trees.length < 256 → h < 256) ∧
        (∀ x ∈ q.trees, x.handle = h → x.walker ∈ s.dev.failedWalkers ∨ 256 ≤ q.trees.length) ∧
        (u.part part).trees = q.trees.filter (fun x => x.handle != h) ++ [⟨h, g.handle, v / 2 ^ 40 % 4096, v / 2 ^ 28 % 4096, d, w, 0⟩] ∧
        (∀ p, p ≠ part → u.part p = s.part p) ∧ s.Returns u [.k e.b (BitVec.ofNat 64 h), .p 224 true])) ∧
    (let h := v % 256
     let plain : Prop := v / 2 ^ 8 % 2 ^ 16 = 0 ∧ v / 2 ^ 26 % 2 ^ 37 = 0
     (q.tree h = none → ∃ u, exec .wtreeUnbindDone s = .next u ∧ u.parts = s.parts ∧ s.Returns u (no 1)) ∧
     (∀ x, q.tree h = some x →
      (¬plain → ∃ u, exec .wtreeUnbindDone s = .next u ∧ u.parts = s.parts ∧ s.Returns u (no 1)) ∧
      (plain → x.walker ∈ s.dev.failedWalkers → ∃ u, exec .wtreeUnbindDone s = .next u ∧ u.parts = s.parts ∧ s.Returns u (no 6)) ∧
      (plain → x.walker ∉ s.dev.failedWalkers →
        (s.queryRuns part h = true ∨ s.appendWaits part h = true →
          exec .wtreeUnbindDone s = .next { s with agenda := s.agenda ++ [{ op := .wtreeUnbindDone, arg := e, due := s.clock }] }) ∧
        (s.queryRuns part h = false → s.appendWaits part h = false → ∃ u, exec .wtreeUnbindDone s = .next u ∧ u.mem = s.mem ∧
          (u.part part).trees = q.trees.filter (fun x => x.handle != h) ∧ (∀ p, p ≠ part → u.part p = s.part p) ∧
          s.Returns u [.k e.b (BitVec.ofNat 64 h), .p 224 true]))))

namespace Sys2Proof.Machine

/-- A query ends: its code and cause stand, and its summary is due. -/
def State.QueryEnds (s u : State) (k : WQuery) (code cause : Nat) : Prop :=
  (∃ k1, u.wqueryOf k.id = some k1 ∧ k1.code = code ∧ k1.cause = cause ∧ k1.count = k.count ∧ k1.barrier = k.barrier) ∧
  u.agenda = s.agenda ++ [{ op := .wquerySummary, arg := { a := k.id }, due := s.clock }] ∧ u.mem = s.mem

end Sys2Proof.Machine

/-- R34, R173, R386, R394, R396: a query takes one of its walker's free places in its turn, counts as in flight for its task, and is checked; it
then waits for the steward's writes to its tile and for the tile, which is draining while it is read and ready again after; it is refused where
an element of the query vector is not finite or the task is quiescent; otherwise its walk begins with `WSEED`. A query whose tree is not bound
takes no place. -/
def Claims.WalkerQueries : Prop :=
  ∀ (s : State) (k : WQuery) (c : Crew),
    let e := s.ctx.ev
    let wait : State := { s with agenda := s.agenda ++ [{ op := .wqueryAccept, arg := e, due := s.clock }] }
    s.wqueryOf e.a = some k → k.crew ≠ 0 → s.crewOf k.crew = some c →
    ((s.part k.part).tree k.handle = none → ∃ u, exec .wqueryAccept s = .next u ∧ s.QueryEnds u k 2 1 ∧ u.tasks = s.tasks) ∧
    (∀ t, (s.part k.part).tree k.handle = some t →
      let held (x : WQuery) : Bool := match (s.part x.part).tree x.handle with | some y => y.walker == t.walker | none => false
      let turn : Prop := 0 < tget 64 s.dev.walkFree t.walker ∧
        (∀ x ∈ s.queries, ¬(x.accepted = false ∧ x.id < k.id ∧ x.code = 0 ∧ held x = true)) ∧
        ¬((s.part k.part).conf.det = true ∧ s.appendWaits k.part t.handle = true)
      let desc : Prop := k.wl < 16 ∧ (∀ i < 16, k.desc.getD (16 + i) 0 = 0) ∧ (k.barrier < 64 ∨ k.barrier = 255) ∧ 1 ≤ k.cap ∧ k.cap ≤ 2 ^ 20 ∧
        k.entry % 32 = 0 ∧ ∃ x, c.tiles[k.tile]? = some x ∧ x.st ≠ 0 ∧ 2 * t.d ≤ x.bytes
      (k.accepted = false → ¬turn → exec .wqueryAccept s = .next wait) ∧
      (k.accepted = false → turn →
        (¬desc → k.desc.length = 32 → ∃ u, exec .wqueryAccept s = .next u ∧ s.QueryEnds u k 2 1) ∧
        (desc → t.walker ∈ s.dev.failedWalkers → ∃ u, exec .wqueryAccept s = .next u ∧ s.QueryEnds u k 2 6) ∧
        (desc → t.walker ∉ s.dev.failedWalkers → s.entriesOk k = false → ∃ u, exec .wqueryAccept s = .next u ∧ s.QueryEnds u k 2 3) ∧
        (desc → t.walker ∉ s.dev.failedWalkers → s.entriesOk k = true → ∃ u, exec .wqueryAccept s = .next u ∧
          u.wqueryOf k.id = some { k with accepted := true, tree := t.handle, walker := some t.walker } ∧
          (∀ x, s.taskOf k.task = some x → u.taskOf k.task = some { x with inflight := x.inflight + 1 }) ∧
          tget 64 u.dev.walkFree t.walker + 1 = tget 64 s.dev.walkFree t.walker ∧
          (∀ w, w ≠ t.walker → tget 64 u.dev.walkFree w = tget 64 s.dev.walkFree w) ∧ u.agenda = wait.agenda ∧ u.mem = s.mem)) ∧
      (∀ tile, k.accepted = true → c.tiles[k.tile]? = some tile →
        let ready : Prop := (tile.st = 2 ∨ tile.st = 3) ∧ s.rangeDrained ⟨k.crew, 0⟩ k.part k.upto (some k.crew) [(tile.offset, 2 * t.d)] = true
        let q : List Nat := (List.range t.d).map (fun i => field (s.mem.bytes (c.shareHome + tile.offset) (2 * t.d)) (2 * i) 2)
        let quiet : Prop := ∃ x, s.taskOf k.task = some x ∧ x.quiet = true
        let tileOf (u : State) (x : Tile) : Prop := ∃ c1, u.crewOf k.crew = some c1 ∧ c1.tiles = setNth c.tiles k.tile x
        (k.sending = false → ¬ready → exec .wqueryAccept s = .next wait) ∧
        (k.sending = false → ready → ∃ u, exec .wqueryAccept s = .next u ∧ u.wqueryOf k.id = some { k with sending := true } ∧
          tileOf u { tile with st := if tile.pin = true then tile.st else 3, readers := tile.readers + 1 } ∧ u.agenda = wait.agenda ∧ u.mem = s.mem) ∧
        (k.sending = true → (∃ x ∈ q, ∀ n m e, fBF16.decode x ≠ .num n m e) → ∃ u, exec .wqueryAccept s = .next u ∧ s.QueryEnds u k 2 2 ∧
          tileOf u tile.endRead) ∧
        (k.sending = true → (∀ x ∈ q, ∃ n m e, fBF16.decode x = .num n m e) → quiet → ∃ u, exec .wqueryAccept s = .next u ∧ s.QueryEnds u k 2 5 ∧
          tileOf u tile.endRead) ∧
        (k.sending = true → (∀ x ∈ q, ∃ n m e, fBF16.decode x = .num n m e) → ¬quiet → ∃ u k1, exec .wqueryAccept s = .next u ∧
          u.wqueryOf k.id = some k1 ∧ k1 = { k with sending := false, q := q.map (BitVec.ofNat 32), qn := k1.qn, m := k.seed } ∧
          tileOf u tile.endRead ∧ u.agenda = s.agenda ++ [{ op := .walkerVisit, arg := { a := k.id }, due := s.clock }] ∧ u.mem = s.mem)))

/-- R387: where a walk goes: to the root first; into the first child of a node just entered; past the ")" of the child last visited to the
next one, or up; a string that is not balanced there ends it as malformed. -/
def Claims.WalkOrder : Prop :=
  ∀ (k : WQuery) (l : List Bool),
    let close (c n : Nat) : Prop := c < n ∧ n < l.length ∧ excessAt l (n + 1) = excessAt l c ∧ ∀ m, c < m → m < n → excessAt l (m + 1) ≠ excessAt l c
    (k.root = true → k.goes l = if l[0]? = some true then .visit 0 [] else .malformed) ∧
    (k.root = false → k.path = [] → k.goes l = .ended) ∧
    (∀ p up, k.root = false → k.path = p :: up → k.last = none → k.goes l = if l[p + 1]? = some true then .visit (p + 1) (p :: up) else .malformed) ∧
    (∀ p up c, k.root = false → k.path = p :: up → k.last = some c → l[c]? = some true →
      ((∀ n, ¬close c n) → k.goes l = .malformed) ∧
      (∀ n, close c n → (l[n + 1]? = none → k.goes l = .malformed) ∧ (l[n + 1]? = some true → k.goes l = .visit (n + 1) (p :: up)) ∧
        (l[n + 1]? = some false → k.goes l = ({ k with path := up, last := some p } : WQuery).goes l)))

/-- R148, R387 to R389: a visit of a node: accepted with its bound, dropped with its subtree, exact work for a leaf, or entered. An emitted entry
is written whole and its address is the next item of the list; with CAP entries written the query ends with OVERFLOW. A walk with no node left
ends with CODE 1, one that is malformed with 5, and one whose walker has failed with 4. A visit waits, as it was, while the region or the entry's
home cannot be reached (R346, R379, R394). -/
def Claims.WalkerVisits : Prop :=
  ∀ (s : State) (k : WQuery) (t : Tree) (g : Region) (h : Nat),
    let e := s.ctx.ev
    let l := s.liveBits g
    let at0 := k.entry + 32 * (k.count + 1)
    let s1 := s.serveAt (g.home g.blk)
    s.wqueryOf e.a = some k → (s.part k.part).tree k.tree = some t →
    (t.walker ∈ s.dev.failedWalkers → ∃ u, exec .walkerVisit s = .next u ∧ s.QueryEnds u k 4 6) ∧
    (t.walker ∉ s.dev.failedWalkers → (s.part k.part).region t.region = none → ∃ u, exec .walkerVisit s = .next u ∧ s.QueryEnds u k 5 2) ∧
    (t.walker ∉ s.dev.failedWalkers → (s.part k.part).region t.region = some g →
      (∀ w, s.regionHold g = some w → exec .walkerVisit s = .next (s.waitFor .walkerVisit w)) ∧
      (s.regionHold g = none →
        (k.goes l = .ended → ∃ u, exec .walkerVisit s = .next u ∧ s.QueryEnds u k 1 0) ∧
        (k.goes l = .malformed → ∃ u, exec .walkerVisit s = .next u ∧ s.QueryEnds u k 5 2) ∧
        (∀ p path, k.goes l = .visit p path →
          let r := s.node g t.d p
          let sv := wdot (k.q.map BitVec.toNat) r.c
          let dl := fF32.mul .ru k.qn.toNat r.rad
          let lo := fsub sv dl
          let accept : Prop := fcmp 3 (fF32.decode dl) (fF32.decode k.theta.toNat) = true
          let drop : Prop := flt (fF32.add .ru sv dl) (fsub k.m.toNat k.tau.toNat) = true
          let seen : WQuery := { k with vis := k.vis + 1, root := false, path := path, last := some p }
          let on (u : State) (k1 : WQuery) : Prop :=
            u.wqueryOf k.id = some k1 ∧ u.agenda = s.agenda ++ [{ op := .walkerVisit, arg := { a := k.id }, due := s.clock }]
          let emits (kind : Nat) (m : Word) : Prop :=
            (k.count = k.cap → ∃ u, exec .walkerVisit s = .next u ∧ s.QueryEnds u k 3 0) ∧
            (∀ w, k.count ≠ k.cap → s.Lies k.part at0 32 h → s1.homeHold h = some w → exec .walkerVisit s = .next (s.waitFor .walkerVisit w)) ∧
            (k.count ≠ k.cap → s.Lies k.part at0 32 h → s1.homeHold h = none → ∃ u, exec .walkerVisit s = .next u ∧ on u { seen with count := k.count + 1, m := m } ∧
              Written s.mem u.mem h (leBytes 4 k.qid.toNat ++ leBytes 4 p ++ leBytes 4 sv ++ leBytes 4 dl ++ [BitVec.ofNat 8 kind, 0, 0, 0] ++
                leBytes 4 r.n ++ leBytes 4 t.epoch ++ leBytes 4 0) ∧
              (∀ x, s.taskOf k.task = some x → ∃ y, u.taskOf k.task = some y ∧ y.list k.wl = x.list k.wl ++ [BitVec.ofNat 64 at0] ∧
                ∀ j, j ≠ k.wl → y.list j = x.list j))
          (accept → emits 0 (if flt k.m.toNat lo = true then BitVec.ofNat 32 lo else k.m)) ∧
          (¬accept → drop → ∃ u, exec .walkerVisit s = .next u ∧ on u seen ∧ u.mem = s.mem ∧ u.tasks = s.tasks) ∧
          (¬accept → ¬drop → l[p + 1]? ≠ some true → emits 1 k.m) ∧
          (¬accept → ¬drop → l[p + 1]? = some true → ∃ u, exec .walkerVisit s = .next u ∧ on u { seen with path := p :: path, last := none } ∧
            u.mem = s.mem ∧ u.tasks = s.tasks))))

/-- R386, R389, R390: a query's end writes its summary, but for a refused one whose entry 0 cannot take it, counts 32 bytes with the error bit
unless CODE is 1, and gives its place back; it waits while its home cannot be reached (R346, R379). -/
def Claims.WalkerSummaries : Prop :=
  ∀ (s : State) (k : WQuery) (c : Crew) (h : Nat),
    let e := s.ctx.ev
    let none0 : Prop := k.code = 2 ∧ (k.entry % 32 ≠ 0 ∨ s.entryPage k k.entry = false)
    let epoch := match (s.part k.part).tree k.handle with | some t => t.epoch | none => 0
    s.wqueryOf e.a = some k → k.crew ≠ 0 → s.crewOf k.crew = some c → c.retired = false → none0 ∨ s.Lies k.part k.entry 32 h →
    (∀ w, ¬none0 → s.homeHold h = some w → exec .wquerySummary s = .next (s.waitFor .wquerySummary w)) ∧
    (none0 ∨ s.homeHold h = none → ∃ u c1, exec .wquerySummary s = .next u ∧ (∀ x, x ∈ u.queries ↔ x ∈ s.queries ∧ x.id ≠ k.id) ∧ u.crewOf k.crew = some c1 ∧
      (none0 → u.mem = s.mem) ∧
      (¬none0 → Written s.mem u.mem h (leBytes 4 k.qid.toNat ++ [BitVec.ofNat 8 k.code, BitVec.ofNat 8 k.cause, 0, 0] ++ leBytes 4 k.count ++
        leBytes 4 k.m.toNat ++ leBytes 4 k.vis ++ leBytes 4 epoch ++ leBytes 8 s.clock)) ∧
      (k.barrier < 64 → c1.bar k.barrier = (c.bar k.barrier).count 0 32 (decide (k.code ≠ 1))) ∧
      (∀ b, b ≠ k.barrier ∨ 64 ≤ k.barrier → c1.bar b = c.bar b) ∧
      (∀ x, s.taskOf k.task = some x → u.taskOf k.task = some { x with inflight := if k.walker ≠ none then x.inflight - 1 else x.inflight }) ∧
      (∀ w, tget 64 u.dev.walkFree w = if k.walker = some w then tget 64 s.dev.walkFree w + 1 else tget 64 s.dev.walkFree w))

/-- R391 to R394: an append waits for the steward's earlier writes and appends, for room in the logs, in deterministic mode for the tree's queries,
and for a repack or a bank command's step at the homes it reads and writes. It is then refused, changing nothing, or takes effect with EPOCH one
more; kY tells. The root of an empty tree takes its first token as it is; the two groups of a split hold 1 to 16 of its 17 tokens each. That a
malformed string is answered with code 3 is the model's reading (log entry 42). -/
def Claims.WalkerAppends : Prop :=
  (∀ (s : State) (str : Stream),
    let e := s.ctx.ev
    let part := s.partOf e.r.crew
    let v := e.q.toNat
    let wait : State := { s with agenda := s.agenda ++ [{ op := .wappendStep, arg := e, due := s.clock }] }
    let turn : Prop := s.allDrained e.r part e.a [0] = true ∧ ∀ x ∈ s.agenda, ¬(x.op = .wappendStep ∧ x.arg.r = e.r ∧ x.arg.a < e.a)
    let no (c : Nat) : Prop := ∃ u, exec .wappendStep s = .next u ∧ u.mem = s.mem ∧ u.parts = s.parts ∧ u.queries = s.queries ∧
      s.Returns u [.k e.b (BitVec.ofNat 64 (2 ^ 64 - 2 ^ 32 + c)), .p 224 false]
    e.r.crew ≠ 0 → s.streamOf e.r = some str →
    (¬turn → exec .wappendStep s = .next wait) ∧
    (turn → (s.part part).tree (v % 256) = none → no 3) ∧
    (∀ t, turn → (s.part part).tree (v % 256) = some t →
      (v / 2 ^ 8 % 2 ^ 24 ≠ 0 → no 3) ∧
      (v / 2 ^ 8 % 2 ^ 24 = 0 → t.walker ∈ s.dev.failedWalkers → no 5) ∧
      (∀ g, v / 2 ^ 8 % 2 ^ 24 = 0 → t.walker ∉ s.dev.failedWalkers → (s.part part).region t.region = some g →
        let held : Prop := (∃ x ∈ g.logs, 14 < x.2.length) ∨ ((s.part part).conf.det = true ∧ s.queryRuns part (v % 256) = true)
        let kt := (s.part part).tensor t.ktid
        let tok := v / 2 ^ 32
        let r := s.appendTo part g t tok
        (held → exec .wappendStep s = .next wait) ∧
        (∀ w, ¬held → s.appendHold part g t tok = some w → exec .wappendStep s = .next (s.waitFor .wappendStep w)) ∧
        (¬held → s.appendHold part g t tok = none →
          (kt.rows ≤ tok ∨ (∃ x ∈ s.bf16Row part kt tok t.d, ∀ n m e, fBF16.decode x ≠ .num n m e) → no 3) ∧
          (2 ≤ r.code → no r.code) ∧
          (r.code < 2 → ∃ u, exec .wappendStep s = .next u ∧ u.mem = r.st.mem ∧ u.queries = r.st.queries ∧
            (∀ x, (u.part part).tree t.handle = some x → x.epoch = (t.epoch + 1) % 2 ^ 32) ∧
            s.Returns u [.k e.b (BitVec.ofNat 64 (r.pos % 2 ^ 32 * 2 ^ 32 + r.code)), .p 224 true]))))) ∧
  (∀ (r : NodeRec) (k v : List Nat), (r.append k v).tok = r.tok ∧ (r.n = 0 → r.append k v = ⟨k, v, 0, 1, r.tok⟩) ∧
    (r.n ≠ 0 → (r.append k v).n = (r.n + 1) % 2 ^ 32 ∧ (r.append k v).c.length = min r.c.length k.length)) ∧
  (∀ (keys : List (List Nat)) (c : List Nat), 1 ≤ (splitA keys c).length ∧ (splitA keys c).length ≤ 16 ∧
    (splitA keys c).Pairwise (· < ·) ∧ ∀ i ∈ splitA keys c, i < 17)

/-- Walker commands and the binding of trees. -/
def Obligations.WalkerCommands : Prop :=
  Claims.WalkerWords ∧ Claims.TreeBinding

/-- What the walkers do. -/
def Obligations.WalkerWork : Prop :=
  Claims.WalkerQueries ∧ Claims.WalkOrder ∧ Claims.WalkerVisits ∧ Claims.WalkerSummaries ∧ Claims.WalkerAppends

/-! ### Derived tensors (R29, R398 to R412) -/

/-- R29, R401, R404, R412: `DREG` reads its descriptor at issue and leaves its result to the checks; `DUNREG` names its tensor; `DQUERY` gives a
sample and, with FRESH on a stale tile, has its chain recomputed, innermost first, as the very next steps, each of which names the stream and the
word so that an uncorrectable granule it meets is the stream's trap (R409). The address that a descriptor trap reports, and 0 for an `ENGINE` trap,
is the model's reading (log entry 14). -/
def Claims.DerivedWords : Prop :=
  ∀ (s : State) (x y : BitVec 6) (z : BitVec 4),
    let v := s.me.rdK x.toNat
    let off := v.toNat % 2 ^ 32
    let ea := BitVec.ofNat 64 (0xAF * 2 ^ 56 + off)
    let under (t : State) (op : Instr) (arg : EvArg) : Prop :=
      t = { s with
        nextId := s.nextId + 1
        me := { s.me with pend := s.me.pend ++ [⟨s.nextId, none, false, [], none, s.here, true, [], s.clock⟩] }
        agenda := s.agenda ++ [{ op := op, arg := arg, due := s.clock }] }
    let w := (s.me.rd 64 y.toNat 0).toNat
    let tile := w / 2 ^ 32
    (s.me.sid ≠ 0 → IllegalIn (.dreg x y) s ∧ IllegalIn (.dunreg x) s) ∧
    (s.me.sid = 0 → s.dev.reduced = true → exec (.dreg x y) s = .next (s.trapHead 0x0C 0 0)) ∧
    (s.me.sid = 0 → s.dev.reduced = false →
      (off % 32 ≠ 0 → exec (.dreg x y) s = .next (s.trapHead 0x04 0 ea)) ∧
      (off % 32 = 0 → 2 ^ 32 ≤ v.toNat → exec (.dreg x y) s = .next (s.trapHead 0x03 0 v)) ∧
      (off % 32 = 0 → v.toNat < 2 ^ 32 → s.crew.shareSize < off + 32 → exec (.dreg x y) s = .next (s.trapHead 0x03 0 ea)) ∧
      (off % 32 = 0 → v.toNat < 2 ^ 32 → off + 32 ≤ s.crew.shareSize → ∃ t, exec (.dreg x y) s = .next t ∧
        under t .dregDone { r := s.self, a := s.nextId, bytes := s.descBytes v 32, b := y.toNat })) ∧
    (s.me.sid = 0 →
      (4096 ≤ v.toNat → exec (.dunreg x) s = .next (s.trapHead 0x03 0 v)) ∧
      (v.toNat < 4096 → ∃ t, exec (.dunreg x) s = .next t ∧ under t .dunregDone { r := s.self, a := s.nextId, q := v })) ∧
    (¬(s.me.sid = 0 ∨ (x.toNat % 2 = 0 ∧ y.toNat % 2 = 0)) → IllegalIn (.dquery x y z) s) ∧
    (s.me.sid = 0 ∨ (x.toNat % 2 = 0 ∧ y.toNat % 2 = 0) →
      (w / 2 ^ 13 % 2 ^ 19 ≠ 0 → exec (.dquery x y z) s = .next (s.trapHead 0x03 0 (BitVec.ofNat 64 w))) ∧
      (w / 2 ^ 13 % 2 ^ 19 = 0 → s.myPart.derived (w % 4096) = none → ∃ u ws, exec (.dquery x y z) s = .next u ∧ s.Arrives u (flagOf z) ws ∧
        s.me.TakesReg ws 64 x.toNat s.headLanes (fun _ => 0)) ∧
      (∀ d, w / 2 ^ 13 % 2 ^ 19 = 0 → s.myPart.derived (w % 4096) = some d →
        let whole : Prop := tile = 2 ^ 32 - 1
        let stale : Prop := ¬whole ∧ tile ∈ d.stale
        let sample (b : Nat) : Quad := BitVec.ofNat 64 (d.stale.length * 2 ^ 32 + d.rule * 2 ^ 30 + d.depth % 4 * 2 ^ 28 + b * 2 ^ 27 + 1)
        (¬whole → d.tr * d.tc ≤ tile → exec (.dquery x y z) s = .next (s.trapHead 0x03 0 (BitVec.ofNat 64 w))) ∧
        (whole ∨ tile < d.tr * d.tc →
          (¬stale → ∃ u ws, exec (.dquery x y z) s = .next u ∧ s.Arrives u (flagOf z) ws ∧
            s.me.TakesReg ws 64 x.toNat s.headLanes (fun _ => sample 0)) ∧
          (stale → w / 2 ^ 12 % 2 = 0 → ∃ u ws, exec (.dquery x y z) s = .next u ∧ s.Arrives u (flagOf z) ws ∧
            s.me.TakesReg ws 64 x.toNat s.headLanes (fun _ => sample 1)) ∧
          (stale → w / 2 ^ 12 % 2 = 1 → ∃ (u : State) (ws : List RegWrite) (cs : List Event), s.Arrives u (flagOf z) ws ∧
            exec (.dquery x y z) s = .next { u with agenda := cs ++ u.agenda, picks := List.replicate cs.length 1 ++ u.picks } ∧
            s.me.TakesReg ws 64 x.toNat s.headLanes (fun _ => sample 1) ∧
            (∃ c, cs.getLast? = some c ∧ c.arg.b = d.id ∧ c.arg.c = tile) ∧
            ∀ c ∈ cs, c = {
              op := .derivedRecompute
              arg := { a := s.crew.part, b := c.arg.b, c := c.arg.c, r := s.self, q := s.here.setWidth 64, d := 1 }
              due := s.clock }))))

/-- R399 to R403: the checks of a registration in their order; one that passes writes the tensor's entry, binds its pages to the object of its
bases, drops what the caches hold of them, and every tile of it is stale; a refusal gives all ones over the cause, and a cycle the steward's
`DERIVE_CYCLE` record too. That the tiles that read a new tensor are stale too is the model's reading (log entry 44). -/
def Claims.DerivedRegistration : Prop :=
  ∀ (s : State) (t : Stream) (c : Crew),
    let e := s.ctx.ev
    let part := s.partOf e.r.crew
    let q := s.part part
    let d := e.bytes
    let x := derDesc d
    let b (i : Nat) : Nat := (d.getD i 0).toNat
    let half (i : Nat) : Nat := b i + 256 * b (i + 1)
    let a := q.tensor x.a
    let bb := q.tensor x.b
    let cause := s.derCause part x
    let fields : Prop := b 0 < 4 ∧ (if b 0 = 1 then b 1 < 8 else b 1 = 0) ∧ b 2 < 32 ∧
      (if b 0 = 1 then b 2 ≤ 13 else if b 0 = 2 then b 2 ∈ [3, 4, 5, 10, 12] else b 2 = 0) ∧ b 3 = 0 ∧ half 4 < 4096 ∧ half 6 < 4096 ∧ half 8 < 4096 ∧
      (b 0 ≠ 2 → half 8 = 0) ∧ ∀ i, 10 ≤ i → i < 32 → b i = 0
    let desc : Prop := fields ∧ a.valid = true ∧ (x.rule = 2 → bb.valid = true)
    let shape : Prop := baseAOk x.rule a = true ∧ (x.rule = 2 → baseBOk a bb = true)
    e.r.crew ≠ 0 → e.r.sid = 0 → s.streamOf e.r = some t → s.crewOf e.r.crew = some c → d.length = 32 →
    (¬desc → cause = 1) ∧ (desc → ¬shape → cause = 2) ∧ (desc → shape → s.derPlace part x a bb = none → cause = 3) ∧
    (∀ la lb, desc → shape → s.derPlace part x a bb = some (la, lb) →
      let room : Prop := s.derHomes part x a la ≠ none ∧ s.derRoom part la lb = true
      let bound : Prop := q.derSync x a bb ≠ none
      let deep : Prop := ∃ y ∈ q.newDepths x, 3 < y.2
      (¬room → cause = 4) ∧ (room → ¬bound → cause = 5) ∧ (room → bound → q.closes x = true → cause = 8) ∧
      (room → bound → q.closes x = false → deep → cause = 6) ∧
      (room → bound → q.closes x = false → ¬deep → q.derived x.id ≠ none → cause = 7) ∧
      (room → bound → q.closes x = false → ¬deep → q.derived x.id = none → cause = 0 ∧
        ∀ homes o, s.derHomes part x a la = some homes → q.derSync x a bb = some o → ∃ u y base, exec .dregDone s = .next u ∧ u.mem = s.mem ∧
          (u.part part).derived x.id = some y ∧ y.rule = x.rule ∧ y.a = x.a ∧ y.b = x.b ∧ y.sync = o ∧ y.homes = homes ∧ y.base = base ∧
          y.tr = a.extent 0 ∧ y.tc = a.extent 1 ∧ y.stale = List.range (a.extent 0 * a.extent 1) ∧
          (u.part part).bindings = q.bindings ++ [⟨o, base / 4096, 16 * homes.length, some x.id⟩] ∧
          (∀ k, k ≠ x.id → tget [] (u.part part).tensors k = tget [] q.tensors k) ∧
          tget [] (u.part part).tensors x.id = entWords (derEntry x a bb base (base + 65536 * (a.extent 0 * a.extent 1))) ∧
          (∀ z, z ∈ u.tlb1 ++ u.tlb2 → ¬(z.part = part ∧ z.base < base + 65536 * homes.length ∧ base < z.base + z.size)) ∧
          (∀ p, p ≠ part → u.part p = s.part p) ∧ s.Returns u [.k e.b (BitVec.ofNat 64 base), .p 224 true])) ∧
    (cause ≠ 0 → cause ≠ 8 → ∃ u, exec .dregDone s = .next u ∧ u.mem = s.mem ∧ u.parts = s.parts ∧
      s.Returns u [.k e.b (BitVec.ofNat 64 (2 ^ 64 - 256 + cause)), .p 224 false]) ∧
    (∀ p, cause = 8 → t.pend.find? (fun p => p.id == e.a) = some p → p.writes = [] → t.wrote = [] → ∃ u t1 c1 r, exec .dregDone s = .next u ∧ u.mem = s.mem ∧
      u.parts = s.parts ∧ u.streamOf e.r = some t1 ∧ (e.b < 64 → t1.rdK e.b = BitVec.ofNat 64 (2 ^ 64 - 256 + 8)) ∧ t1.rdP 7 0 = false ∧
      u.crewOf e.r.crew = some c1 ∧ c1.recWait = c.recWait ++ [r] ∧ r.src = true ∧ r.cause = 0x0A ∧ r.code = 0 ∧ r.addr = BitVec.ofNat 64 x.id)

/-- R404: an unregistration fails where the tensor is not derived or another uses it; it waits for the accesses to its pages; then entry, binding,
stale bits, pages and cached translations are gone. -/
def Claims.DerivedRemoval : Prop :=
  ∀ (s : State) (t : Stream),
    let e := s.ctx.ev
    let part := s.partOf e.r.crew
    let q := s.part part
    let id := e.q.toNat % 4096
    e.r.crew ≠ 0 → s.streamOf e.r = some t →
    (q.derived id = none ∨ (∃ x ∈ q.deriveds, x.a = id ∨ (x.rule = 2 ∧ x.b = id)) →
      ∃ u, exec .dunregDone s = .next u ∧ u.mem = s.mem ∧ u.parts = s.parts ∧ s.Returns u [.p 224 false]) ∧
    (∀ d, q.derived id = some d → (∀ x ∈ q.deriveds, ¬(x.a = id ∨ (x.rule = 2 ∧ x.b = id))) →
      (s.derUsed part d = true → exec .dunregDone s = .next { s with agenda := s.agenda ++ [{ op := .dunregDone, arg := e, due := s.clock }] }) ∧
      (s.derUsed part d = false → ∃ u, exec .dunregDone s = .next u ∧ u.mem = s.mem ∧ (u.part part).derived id = none ∧
        tget [] (u.part part).tensors id = [] ∧ (∀ k, k ≠ id → tget [] (u.part part).tensors k = tget [] q.tensors k) ∧
        (∀ b ∈ (u.part part).bindings, b.derived ≠ some id) ∧
        (∀ x, x ∈ u.tlb1 ++ u.tlb2 → ¬(x.part = part ∧ x.base < d.base + 65536 * d.homes.length ∧ d.base < x.base + x.size)) ∧
        (∀ p, p ≠ part → u.part p = s.part p) ∧ s.Returns u [.p 224 true]))

/-- R132, R399: the elements of a recomputed tile by its rule, from the bytes of its base tile and the row scales; a row sum of F32 elements adds
them as they are, so that the first NaN among them stays. -/
def Claims.DerivedRules : Prop :=
  ∀ (d : Derived) (af df : Nat) (bs sc : List Byte), bs.length = 4096 * (fmtBits af / 8) → 8 ≤ fmtBits af →
    let n := fmtBits af / 8
    let el (i j : Nat) : Nat := field bs (n * (64 * i + j)) n
    let r := derTile d af df bs sc
    (d.rule = 0 → r.2 = [] ∧ r.1.length = 4096 ∧ ∀ i < 64, ∀ j < 64, r.1.getD (64 * i + j) 0 = el j i) ∧
    (d.rule = 1 → r.2 = [] ∧ r.1.length = 4096 ∧
      ∀ i < 64, ∀ j < 64, r.1.getD (64 * i + j) 0 = codeOf (rmode d.rm) d.sat df (codeVal af (el i j))) ∧
    (d.rule = 2 → r.2.length = 64 ∧ ∀ i < 64,
      let row := field sc (2 * i) 2
      let q := quantBlock df row ((List.range 64).map (fun j => codeVal af (el i j)))
      (bf16Normal row = true → r.2.getD i 0 = q.2 ∧ ∀ j < 64, r.1.getD (64 * i + j) 0 = q.1.getD j 0) ∧
      (bf16Normal row = false → r.2.getD i 0 = 255 ∧ ∀ j < 64, r.1.getD (64 * i + j) 0 = 0)) ∧
    (d.rule = 3 → r.2 = [] ∧ r.1.length = 64 ∧ ∀ i < 64, r.1.getD i 0 =
      (List.range 64).foldl (fun v j => fF32.add .rne v (if af = 0 then el i j else fF32.ofVal .rne false (codeVal af (el i j)))) 0)

/-- R346, R379, R407 to R409: a recompute of a stale tile whose bases can be read writes its page and clears its stale bit, in one step, and marks
nothing; a tile that is not stale, or whose base tile stayed stale, is left alone; one whose base tile is still to be recomputed, or whose bases'
homes cannot be reached, waits. An uncorrectable granule leaves the tile stale and is recorded, and the stream of a `DQUERY` that asked takes
`DATA_POISON` for it. That a recompute reads its bases through the tensor entries in force is the model's reading (log entry 44). -/
def Claims.DerivedRecomputes : Prop :=
  ∀ (s : State) (d : Derived),
    let e := s.ctx.ev
    let q := s.part e.a
    let inner : Prop := ∃ x t, q.innerTile d e.c = some (x, t) ∧ t ∈ x.stale
    q.derived e.b = some d →
    let coming : Prop := ∃ x t v, q.innerTile d e.c = some (x, t) ∧ v ∈ s.agenda ∧ v.op = .derivedRecompute ∧ v.arg.a = e.a ∧ v.arg.b = x.id ∧ v.arg.c = t
    (e.c ∉ d.stale ∨ (inner ∧ ¬coming) → exec .derivedRecompute s = .next s) ∧
    (e.c ∈ d.stale → inner → coming →
      exec .derivedRecompute s = .next { s with agenda := s.agenda ++ [{ op := .derivedRecompute, arg := e, due := s.clock }] }) ∧
    (∀ w, e.c ∈ d.stale → ¬inner → s.tileHold e.a d e.c = some w → exec .derivedRecompute s = .next (s.waitFor .derivedRecompute w)) ∧
    (∀ g, e.c ∈ d.stale → ¬inner → s.tileHold e.a d e.c = none → s.tileUe e.a d e.c = some g →
      exec .derivedRecompute s = .next (if e.d = 1 then (s.recordUe g).sendAsync e.r 0x08 0x12 (BitVec.ofNat 64 g) (some (lo32 e.q)) else s.recordUe g)) ∧
    (e.c ∈ d.stale → ¬inner → s.tileHold e.a d e.c = none → s.tileUe e.a d e.c = none → (∀ x ∈ q.deriveds, x.id = d.id → x = d) → ∃ u d1, exec .derivedRecompute s = .next u ∧
      (u.part e.a).derived e.b = some d1 ∧ d1 = { d with stale := d.stale.filter (· != e.c) } ∧
      (∀ x ∈ (u.part e.a).deriveds, x.id ≠ d.id → x ∈ q.deriveds) ∧ (∀ p, p ≠ e.a → u.part p = s.part p) ∧
      (d.rule ≠ 2 →
        let ar := d.aRange q e.c
        let fmt := (q.tensor d.id).fmt
        let bytes := packBits (fmtBits fmt) (derTile d (q.tensor d.a).fmt fmt (s.gbytes e.a ar.1 ar.2) (s.gbytes e.a (d.bRange q e.c).1 (d.bRange q e.c).2)).1
        Written s.mem u.mem (d.homes.getD e.c 0) bytes))

/-- Derived tensors: words, registration and removal. -/
def Obligations.DerivedCommands : Prop :=
  Claims.DerivedWords ∧ Claims.DerivedRegistration ∧ Claims.DerivedRemoval

/-- Derived tensors: the rules and the recomputes. -/
def Obligations.DerivedTiles : Prop :=
  Claims.DerivedRules ∧ Claims.DerivedRecomputes

/-! ### The control complex -/

namespace Sys2Proof.Machine

/-- All 65,536 bytes of the configuration store: those that nothing has written are 0. -/
def Dev.wholeStore (d : Dev) : List Byte := d.store ++ List.replicate (65536 - d.store.length) 0#8

/-- The connection to boot server `i` of a store in effect, in the layout of log entry 8 (the model's choice): through the boot port, with SLAAC
or the static address, prefix and gateway, to the server's address, TCP port (443 where it gives none), host name and path. -/
def ConnTo (live : List Byte) (i : Nat) (c : BootConn) : Prop :=
  let part (off k : Nat) : List Byte := (List.range k).map (fun j => live.getD (off + j) 0#8)
  let b := 64 + 1024 * i
  c.port = (if field live 3 1 < 18 then field live 3 1 else 0) ∧
  c.own = (if field live 6 1 = 1 then some (part 8 16, field live 7 1, part 24 16) else none) ∧ c.server.addr = part b 16 ∧
  c.server.tcp = (if field live (b + 16) 2 = 0 then 443 else field live (b + 16) 2) ∧
  c.server.name = (part (b + 32) 256).takeWhile (· != 0#8) ∧ c.server.path = (part (b + 288) 736).takeWhile (· != 0#8)

/-- The configuration store in effect after a reset (R23, log entry 8). -/
def Dev.goodStore (d : Dev) : List Byte :=
  if d.store.length = 65536 ∧ field d.store 65532 4 = (crc32c (d.store.take 65532)).toNat then d.store else []

/-- The figures that `SVCSTAT` shows (R33, R36, R37): channels, walkers, copy engines, cores and stacks in service. -/
def Dev.Figures (d : Dev) : Prop :=
  d.stacked = d.trained.length ∧ d.cpe = 32 - d.failedCpe.length ∧
  d.chan = 32 * d.trained.length - (d.failedChans.filter (fun c => d.trained.contains (stackOfSlice c))).length ∧
  d.walk = 2 * d.trained.length - (d.failedWalkers.filter (fun w => d.trained.contains (w / 2))).length ∧
  d.cores = ((if d.reduced = true then [0, 1, 2, 3, 16, 17, 18, 19] else List.range 32).map (fun h => tget 6 d.halfSize h)).sum

/-- Vector `v` of partition `p` has been raised between `s` and `u`: sent, logged while the partition is suspended, or held as egress in
lockstep (R322, R323, R326). -/
def State.Raised (s u : State) (p v : Nat) : Prop :=
  if (s.part p).suspended then (s.part p).ilogCount < (u.part p).ilogCount ∨ (u.part p).ilogOvf = true
  else if (s.part p).conf.mate.isSome then ∃ x ∈ (u.part p).pieces, Egress.irq v ∈ x.acts
  else (p, v) ∈ u.dev.irqs

/-- Degraded operation (R33) has begun or gone on at `u`, whose units in service are those of `d`. -/
def State.Degraded (s : State) (d : Dev) (u : State) : Prop :=
  u.mem = s.mem ∧ u.dev.serviceReq = true ∧ u.dev.level = (if d.level = 1 ∨ d.level = 2 then 3 else d.level) ∧ u.dev.reduced = d.reduced ∧ u.dev.Figures ∧ u.dev.trained = d.trained ∧
  u.dev.failedStacks = d.failedStacks ∧ u.dev.failedChans = d.failedChans ∧ u.dev.failedWalkers = d.failedWalkers ∧ u.dev.failedCpe = d.failedCpe ∧
  u.dev.halfSize = d.halfSize ∧ (255, 3) ∈ u.dev.irqs ∧ ∀ p, (s.part p).configured = true → s.Raised u p 0

/-- A reset of partition `p` is under way at `u`, and its end is asked for (R324). -/
def State.ResetBegun (s u : State) (p : Nat) : Prop :=
  (u.part p).resetting = true ∧ ((s.part p).resetting = false → ∃ x ∈ u.agenda, x.op = .partitionResetDone ∧ x.arg.a = p)

end Sys2Proof.Machine

/-- R23, R24, R27: after power-on or a device reset the machine is at its reset state, but for the configuration store, what stands outside
the package, and memory where power stayed on; a store that passes its CRC takes effect; ROM and configuration are measured; and the boot
fetches its image from the first server, or waits without one. That memory keeps its bytes (but for the register pages, whose registers are
reset), which values the spec leaves open hold after it, and the store's layout are the model's choice (log entries 28, 2, 8). -/
def Claims.DeviceResets : Prop :=
  ∀ (s : State),
    let d := s.dev
    let n := min 8 (field d.goodStore 2 1)
    let after (m : Memory) (c : BootConn) : State := { State.reset with
      mem := m
      nextId := s.nextId
      dev := { Dev.reset with
        store := d.store
        storeLive := d.goodStore
        measRom := Config.sha384 Config.rom
        measConf := Config.sha384 d.wholeStore
        bootst := if n = 0 then 4 else 1
        bootWait := decide (n = 0)
        fetching := decide (n ≠ 0)
        bootConn := if n = 0 then none else some c
        linkWidth := d.linkWidth
        linkSpeed := d.linkSpeed
        irqs := d.irqs
        hostWrites := d.hostWrites
        replies := d.replies
        netOut := d.netOut } }
    ∃ (m : Memory) (c : BootConn), ConnTo d.goodStore 0 c ∧ exec .powerOn s = .next (after [] c) ∧ exec .deviceReset s = .next (after m c) ∧
      ∀ a, m.get a = if 2 ^ 46 + 2 ^ 44 ≤ a ∧ a < 2 ^ 46 + 2 ^ 45 then 0 else s.mem.get a

/-- R24 to R27: an image that has arrived is verified (`BOOTST` 2); one that both signatures verify is measured and runs; any other, or a server
that fails, sends the boot to the next server; after the last the device waits 30 s and begins again with the first. The layout of the store is
the model's choice (log entry 8). -/
def Claims.BootFetches : Prop :=
  ∀ (s : State),
    let e := s.ctx.ev
    let d := s.dev
    let n := min 8 (field d.storeLive 2 1)
    let good : Prop := Config.rsaVerify e.bytes = true ∧ Config.slhVerify e.bytes = true
    let goesOn (t : State) : Prop :=
      if d.server + 1 < n then ∃ c, ConnTo d.storeLive (d.server + 1) c ∧
        t = { s with dev := { d with bootst := 1, bootWait := false, server := d.server + 1, fetching := true, bootConn := some c } }
      else t = { s with
        dev := { d with bootst := 4, bootWait := true, fetching := false, bootConn := none }
        agenda := t.agenda } ∧ ∃ x, t.agenda = s.agenda ++ [x] ∧ x.op = .bootRetryWait ∧ x.arg.b = s.clock
    (d.fetching = false → exec .imageFetchDone s = .next s ∧ exec .bootServerFailure s = .next s) ∧
    (d.fetching = true → d.bootst = 1 → e.d = 0 → exec .imageFetchDone s = .next { s with
      dev := { d with bootst := 2 }
      agenda := s.agenda ++ [{ op := .imageFetchDone, arg := { e with d := 1 }, due := s.clock }] }) ∧
    (d.fetching = true → d.bootst = 2 → e.d ≠ 0 → good → exec .imageFetchDone s =
      .next { s with dev := { d with bootst := 3, fetching := false, bootConn := none, measImage := Config.sha384 e.bytes } }) ∧
    (d.fetching = true → d.bootst = 2 → e.d ≠ 0 → ¬good → ∃ t, exec .imageFetchDone s = .next t ∧ goesOn t) ∧
    (d.fetching = true → d.bootst = 1 → ∃ t, exec .bootServerFailure s = .next t ∧ goesOn t) ∧
    (d.fetching = true → d.bootst ≠ 1 → exec .bootServerFailure s = .next s) ∧
    (d.bootWait = false ∨ n = 0 → exec .bootRetryWait s = .next s) ∧
    (d.bootWait = true → n ≠ 0 →
      (s.clock < e.b + 30 * 3600000000 → exec .bootRetryWait s = .next { s with agenda := s.agenda ++ [{ op := .bootRetryWait, arg := e, due := s.clock }] }) ∧
      (e.b + 30 * 3600000000 ≤ s.clock → ∃ c, ConnTo d.storeLive 0 c ∧
        exec .bootRetryWait s = .next { s with dev := { d with bootst := 1, bootWait := false, fetching := true, server := 0, bootConn := some c } }))

/-- R28, R31, R33, R37: reduced service starts once the image runs, with stacks 0 and 6 and the cores of two clusters of each die; full service
pre-empts every crew first, waits until all are saved, and then shows the trained stacks and all cores and restores the crews; a stack that
has not trained is a failed one. That service begun with `SERVICE_REQ` set shows `LEVEL` 3 is the model's reading (log entry 27). -/
def Claims.ServiceLevels : Prop :=
  ∀ (s : State),
    let e := s.ctx.ev
    let d := s.dev
    let run : Prop := d.reduced = true ∧ d.level ≠ 4
    let ok (x : Nat) : Prop := x < 12 ∧ (x = 0 ∨ x = 6 ∨ ∃ b ∈ e.bytes, b.toNat = x)
    (¬(d.level = 0 ∧ d.bootst = 3) → exec .reducedServiceEntry s = .next s) ∧
    (d.level = 0 → d.bootst = 3 → ∃ u, exec .reducedServiceEntry s = .next u ∧ u = { s with dev := u.dev } ∧ u.dev.reduced = true ∧
      u.dev.level = (if d.serviceReq = true then 3 else 1) ∧
      u.dev.trained = [0, 6] ∧ u.dev.Figures ∧ u.dev.stacked = 2 ∧ (d.failedChans = [] → u.dev.chan = 64) ∧ (d.failedWalkers = [] → u.dev.walk = 4) ∧
      (d.halfSize = [] → u.dev.cores = 48)) ∧
    (¬run → exec .fullServiceEntry s = .next s) ∧
    (run → e.d = 0 → ∃ t, exec .fullServiceEntry s = .next t ∧ t = { s with agenda := t.agenda } ∧
      (∀ c ∈ s.allCrews, c.retired = false → c.saved = false →
        ∃ x ∈ t.agenda, x.op = .preemptRequest ∧ x.arg.a = c.task ∧ x.arg.b = c.span) ∧
      ∃ x ∈ t.agenda, x.op = .fullServiceEntry ∧ x.arg = { e with d := 1 }) ∧
    (run → e.d ≠ 0 → (∃ c ∈ s.allCrews, c.retired = false ∧ c.saved = false) →
      exec .fullServiceEntry s = .next { s with agenda := s.agenda ++ [{ op := .fullServiceEntry, arg := e, due := s.clock }] }) ∧
    (run → e.d ≠ 0 → (∀ c ∈ s.allCrews, c.retired = false → c.saved = true) → ∃ u, exec .fullServiceEntry s = .next u ∧ u.mem = s.mem ∧
      u.dev.reduced = false ∧
      (∀ x, (x ∈ u.dev.trained ↔ ok x) ∧ (x ∈ u.dev.failedStacks ↔ x < 12 ∧ ¬ok x)) ∧ u.dev.Figures ∧
      (u.dev.level = 2 ∨ u.dev.level = 3) ∧ (u.dev.level = 3 ↔ d.serviceReq = true ∨ ∃ x < 12, ¬ok x) ∧
      ((∃ x < 12, ¬ok x) → u.dev.serviceReq = true ∧ (255, 3) ∈ u.dev.irqs ∧ ∀ p, (s.part p).configured = true → s.Raised u p 0) ∧
      ∀ c ∈ s.allCrews, c.retired = false → (s.part c.part).suspended = false →
        ∃ x ∈ u.agenda, x.op = .restore ∧ x.arg.a = c.task ∧ x.arg.b = c.span)

/-- R15, R36: a temperature sample shows in `TEMPC`; at 95 °C the alarm is raised once; at 110 °C the device halts and every configured partition
is reset. The form of the alarm to the management interface is the model's choice (log entry 26). -/
def Claims.Temperature : Prop :=
  ∀ (s : State),
    let t := s.ctx.ev.a
    let irqs := s.dev.irqs ++ if 95 ≤ t ∧ s.dev.tempc < 95 then [(255, 4)] else []
    (t < 110 ∨ s.dev.level = 4 → exec .tempSample s = .next { s with dev := { s.dev with tempc := t % 256, irqs := irqs } }) ∧
    (110 ≤ t → s.dev.level ≠ 4 → ∃ u, exec .tempSample s = .next u ∧ u.mem = s.mem ∧
      u.dev = { s.dev with tempc := t % 256, irqs := irqs, level := 4 } ∧
      ∀ p < 32, (s.part p).configured = true → s.ResetBegun u p)

/-- R32, R33, R34: the failures of units. A core that fails resets the partition that owns its half cluster, and a spare of its die takes its
place, or its half has one core less in degraded operation; a row of DRAM is replaced unseen; a channel, a walker, a copy engine or a bank that has
run out of spare rows leaves the device in degraded operation. That the driver is told by vector 0 of every configured partition, and which `LEVEL`
a failure leaves before full service, is the model's reading (log entries 49, 27). -/
def Claims.Failures : Prop :=
  ∀ (s : State),
    let n := s.ctx.ev.a
    let d := s.dev
    let h := n / 6
    let half : Dev := { d with halfSize := tset 6 d.halfSize h (tget 6 d.halfSize h - 1) }
    let own (u : State) : Prop := ∀ p, s.ownerOf h = some p → p < 32 → s.ResetBegun u p
    (192 ≤ n → exec .coreFailure s = .next s) ∧
    (n < 96 → d.spare0 ≠ 0 → ∃ u, exec .coreFailure s = .next u ∧ u.mem = s.mem ∧ u.dev = { d with spare0 := d.spare0 - 1 } ∧ own u) ∧
    (n < 96 → d.spare0 = 0 → ∃ u, exec .coreFailure s = .next u ∧ s.Degraded half u ∧ own u) ∧
    (96 ≤ n → n < 192 → d.spare1 ≠ 0 → ∃ u, exec .coreFailure s = .next u ∧ u.mem = s.mem ∧ u.dev = { d with spare1 := d.spare1 - 1 } ∧ own u) ∧
    (96 ≤ n → n < 192 → d.spare1 = 0 → ∃ u, exec .coreFailure s = .next u ∧ s.Degraded half u ∧ own u) ∧
    exec .dramRowFailure s = .next s ∧
    (384 ≤ n ∨ n ∈ d.failedChans → exec .channelFailure s = .next s) ∧
    (n < 384 → n ∉ d.failedChans → ∃ u, exec .channelFailure s = .next u ∧ s.Degraded { d with failedChans := d.failedChans ++ [n] } u) ∧
    (24 ≤ n ∨ n ∈ d.failedWalkers → exec .walkerFailure s = .next s) ∧
    (n < 24 → n ∉ d.failedWalkers → ∃ u, exec .walkerFailure s = .next u ∧ s.Degraded { d with failedWalkers := d.failedWalkers ++ [n] } u) ∧
    (32 ≤ n ∨ n ∈ d.failedCpe → exec .copyEngineFailure s = .next s) ∧
    (n < 32 → n ∉ d.failedCpe → ∃ u, exec .copyEngineFailure s = .next u ∧ s.Degraded { d with failedCpe := d.failedCpe ++ [n] } u) ∧
    ∃ u, exec .bankSpareExhausted s = .next u ∧ s.Degraded d u

/-- R16, R22, R27: the host link's width and speed, and the commands of the management interface with their replies: sensors, the configuration
store, the attestation report, the device reset. A command that is not supported, or has bad parameters, changes nothing but the reply. The numbers
of the sensors, the completion codes and the form of the replies are the model's choice (log entry 26). -/
def Claims.Management : Prop :=
  ∀ (s : State),
    let e := s.ctx.ev
    let d := s.dev
    let told (bs : List Byte) : State := { s with dev := { d with replies := d.replies ++ [bs] } }
    let done (bs : List Byte) : List Byte := 0#8 :: bs
    let full : List Byte := d.store ++ List.replicate (65536 - d.store.length) 0#8
    let figures : List Nat :=
      [if d.serviceReq then 1 else 0, d.level, d.bootst, d.chan, d.walk, d.cpe, d.cores, d.spare0, d.spare1, d.stacked, d.tempc]
    exec .hostLinkTrain s = .next { s with dev := { d with linkWidth := e.a, linkSpeed := e.b } } ∧
    (∀ v, figures[e.a]? = some v → exec .pldmSensorRead s = .next { told (done (leBytes 4 v)) with nextId := s.nextId + 1 }) ∧
    (11 ≤ e.a → e.a < 15 → exec .pldmSensorRead s =
      .next { told (done (leBytes 4 (Config.domainPower (e.a - 11) s.nextId).toNat)) with nextId := s.nextId + 1 }) ∧
    (15 ≤ e.a → exec .pldmSensorRead s = .next (told [5#8])) ∧
    (65536 < e.a + e.bytes.length → exec .configStoreWrite s = .next (told [2#8])) ∧
    (e.a + e.bytes.length ≤ 65536 → ∃ b, exec .configStoreWrite s = .next { s with dev := { d with store := b, replies := d.replies ++ [[0#8]] } } ∧
      ∀ i, b.getD i 0 = if e.a ≤ i ∧ i < e.a + e.bytes.length then e.bytes.getD (i - e.a) 0 else d.store.getD i 0) ∧
    (65536 < e.a + e.b → exec .configStoreRead s = .next (told [2#8])) ∧
    (e.a + e.b ≤ 65536 → exec .configStoreRead s = .next (told (done ((List.range e.b).map (fun i => full.getD (e.a + i) 0))))) ∧
    (64 < e.bytes.length → exec .attestationRequest s = .next (told [2#8])) ∧
    (e.bytes.length ≤ 64 → ∃ x, exec .attestationRequest s = .next (told (done (x ++ (List.range 384).map (Config.rsaSign x) ++
        (List.range 16224).map (Config.slhSign x)))) ∧
      x = (e.bytes ++ List.replicate (64 - e.bytes.length) 0#8) ++ [BitVec.ofNat 8 e.bytes.length] ++ List.replicate 7 0#8 ++
        leBytes 48 d.measRom.toNat ++ leBytes 48 d.measImage.toNat ++ leBytes 48 d.measConf.toNat ++ leBytes 8 d.svcstat.toNat) ∧
    (∃ x, exec .deviceResetRequest s = .next { told [0#8] with agenda := s.agenda ++ [x] } ∧ x.op = .deviceReset) ∧
    exec .unsupportedCommand s = .next (told [5#8])

/-- Power-on, device reset and boot. -/
def Obligations.DeviceBoot : Prop :=
  Claims.DeviceResets ∧ Claims.BootFetches

/-- Service levels, temperature, failures and management. -/
def Obligations.ServiceAndManagement : Prop :=
  Claims.ServiceLevels ∧ Claims.Temperature ∧ Claims.Failures ∧ Claims.Management

/-! ### The fabric -/

namespace Sys2Proof.Machine

/-- The receiving steps by message type (R20): all but an `ACK`. -/
def receiving : List (Nat × Instr) :=
  [(1, .write), (2, .read), (3, .data), (4, .atomic), (5, .old), (6, .reduce), (7, .arrive), (8, .permit), (10, .retry), (11, .fault),
   (12, .digest), (13, .order)]

/-- The datagram in hand has a bad CRC, version, destination package or type (R19). -/
def State.Bad (s : State) : Prop :=
  let g := s.ctx.ev.dg
  g.crc ≠ dgCrc g ∨ g.ver.toNat ≠ 1 ∨ g.dstPkg.toNat ≠ s.pkgNum ∨ g.typ.toNat = 0 ∨ 14 ≤ g.typ.toNat

/-- The machine with an error more in the counter of port `n` (R19). -/
def State.errorAt (s : State) (n : Nat) : State :=
  { s with dev := { s.dev with portErr := tset 0 s.dev.portErr n (tget 0 s.dev.portErr n + 1) } }

/-- The datagram in hand is whole, for this package, of a type, and of the kind of link that carries it (R19, R21). -/
def State.Fits (s : State) (typ : Nat) : Prop :=
  let g := s.ctx.ev.dg
  g.crc = dgCrc g ∧ g.ver.toNat = 1 ∧ g.dstPkg.toNat = s.pkgNum ∧ g.typ.toNat = typ ∧ g.dstPart.toNat < 32 ∧
  (typ ≠ 8 → typ ≠ 9 → (g.flags.getLsbD 2 = true ↔ typ = 12 ∨ typ = 13))

/-- It is the next one in order of connection `c`, which stands in `s1` (R21). -/
def State.Turn (s : State) (typ : Nat) (s1 : State) (c : Conn) : Prop :=
  s.Fits typ ∧ s.connOf s.ctx.ev.dg = some (s1, c) ∧ s1.dev.conns.find? (fun x => x.id == c.id) = some c ∧ s.ctx.ev.dg.seq = c.recvSeq + 1

/-- The datagram in hand has been taken on connection `c`: `SEQ` is recorded, and an acknowledgement has gone out, waits for its paused port, or is
asked for. -/
def State.Taken (s u : State) (c : Conn) : Prop :=
  ∃ c1, u.dev.conns.find? (fun x => x.id == c.id) = some c1 ∧ c1.recvSeq = s.ctx.ev.dg.seq ∧
    (s.ctx.ev.dg.flags.getLsbD 0 = true → c1.ackDue = false ∨ u.paused (u.sendPort c1 9 c1.nextSeq) c1.cls = true) ∧
    (s.ctx.ev.dg.flags.getLsbD 0 = false → c1.ackDue = true → ∃ x ∈ u.agenda, x.op = .ackTimer ∧ x.arg.a = c.id)

/-- A datagram with these message fields has been sent on connection `c`, waits for a permit, or is held as egress. -/
def State.Sends (u : State) (c : Conn) (typ msg off : Nat) (last : Bool) (payload : List Byte) : Prop :=
  ∃ g : Datagram, (g.typ.toNat = typ ∧ g.msgId.toNat = msg ∧ g.offset.toNat = off ∧ g.flags.getLsbD 1 = last ∧ g.payload = payload) ∧
    ((∃ c1 ∈ u.dev.conns, c1.id = c.id ∧ g ∈ c1.queue) ∨ (u.sendPort c typ g.seq, u.udpPort, g) ∈ u.dev.netOut ∨
      ∃ x ∈ (u.part c.myPart).pieces, .net c.id g ∈ x.acts)

/-- The access of the datagram in hand has been refused (R327, R335). -/
def State.RefusedAt (s u : State) (c : Conn) (why va : Nat) : Prop :=
  let g := s.ctx.ev.dg
  let p := g.dstPart.toNat
  let q := s.part p
  (q.ifUnread < 256 → (u.part p).ifUnread = q.ifUnread + 1 ∧ (u.part p).ifWr = (q.ifWr + 1) % 256 ∧
    tget [] (u.part p).iflog q.ifWr = leBytes 2 g.srcPkg.toNat ++ [g.srcPart, BitVec.ofNat 8 why] ++ leBytes 4 0 ++ leBytes 8 va ++
      leBytes 8 s.clock ++ leBytes 8 0) ∧
  (256 ≤ q.ifUnread → (u.part p).ifOvf = true ∧ (u.part p).iflog = q.iflog ∧ (u.part p).ifUnread = q.ifUnread) ∧
  s.Raised u p 0 ∧ u.Sends c 11 g.msgId.toNat 0 true ([BitVec.ofNat 8 why] ++ leBytes 3 0 ++ leBytes 8 va)

/-- Memory after exactly the bytes of `bs` have been written at the homes `f i`; where homes coincide the statement leaves the byte open. -/
def WrittenAt (m m1 : Memory) (f : Nat → Nat) (bs : List Byte) : Prop :=
  (∀ a, (∀ i < bs.length, f i ≠ a) → m1.get a = m.get a) ∧
  ∀ i < bs.length, (∀ j < bs.length, j ≠ i → f j ≠ f i) → m1.get (f i) = bs.getD i 0

end Sys2Proof.Machine

/-- R19, R21: a bad datagram is dropped and counted at its port, whatever it says it is; one that fits and is out of turn delivers nothing, and
the sequence number received stays; an `ACK` takes each datagram it covers off the connection and returns its permit, and ends a write or
reduction of which nothing is left. That one with DSTPART 32 or more, or on the wrong kind of link, is dropped and not counted is the model's
choice (log entry 66). -/
def Obligations.Datagrams : Prop :=
  ∀ (s : State),
    let e := s.ctx.ev
    let g := e.dg
    (∀ x ∈ receiving, e.d = 0 → s.Bad → exec x.2 s = .next (s.errorAt e.a)) ∧
    (∀ x ∈ receiving, e.d = 0 → ¬s.Bad → ¬s.Fits x.1 → exec x.2 s = .next s) ∧
    (∀ x ∈ receiving, ∀ s1 c, e.d = 0 → s.Fits x.1 → s.connOf g = some (s1, c) → g.seq ≠ c.recvSeq + 1 → ∃ u, exec x.2 s = .next u ∧ u.mem = s.mem ∧
      u.me = s.me ∧ u.crew = s.crew ∧ u.crews = s.crews ∧ u.tasks = s.tasks ∧ u.copies = s.copies ∧ (∀ p, (u.part p).iflog = (s.part p).iflog) ∧
      ∀ c1 ∈ u.dev.conns, ∃ c0 ∈ s1.dev.conns, c0.id = c1.id ∧ c0.recvSeq = c1.recvSeq) ∧
    (s.Bad → exec .datagramDrop s = .next (s.errorAt e.a) ∧ exec .ack s = .next (s.errorAt e.a)) ∧
    (¬s.Bad → exec .datagramDrop s = .next s) ∧ (¬s.Bad → ¬s.Fits 9 → exec .ack s = .next s) ∧
    (∀ s1 c, s.Fits 9 → s.connOf g = some (s1, c) → s1.dev.conns.find? (fun x => x.id == c.id) = some c → c.queue = [] →
      let covered (x : Datagram × Nat × Nat) : Bool := decide ((g.ack - x.1.seq).toNat < 2 ^ 31)
      let rest := c.unacked.filter (fun x => !covered x)
      ∃ u c1, exec .ack s = .next u ∧ u.mem = s.mem ∧ u.parts = s.parts ∧ u.dev.netOut = s.dev.netOut ∧
        u.dev.conns.find? (fun x => x.id == c.id) = some c1 ∧
        c1 = { c with unacked := rest, permits := c.permits + (c.unacked.filter covered).length } ∧
        ∀ m, m ∈ u.dev.msgs ↔ m ∈ s1.dev.msgs ∧ ¬(m.conn = c.id ∧ (m.dg.typ.toNat = 1 ∨ m.dg.typ.toNat = 6) ∧ m.retry = false ∧
          (∃ x ∈ c.unacked.filter covered, x.1.msgId.toNat = m.id) ∧ (∀ x ∈ rest, x.1.msgId.toNat ≠ m.id) ∧
          ∀ x ∈ (s.part c.myPart).pieces, ∀ y, .net c.id y ∈ x.acts → y.msgId.toNat ≠ m.id))

/-- R20, R327: the reasons to refuse an access to a target, in their order: a partition in reset, a range past the address space, and, page by
page upward, an unmapped page, one that may not be written, one whose key refuses, a lost one. That a page which may not be read, R being 0 or
the page host-mapped, is reported to a read as unmapped is the model's choice (log entry 67). -/
def Claims.PeerChecks : Prop :=
  ∀ (s : State) (g : Datagram) (va n : Nat) (rd wr : Bool),
    let p := g.dstPart.toNat
    let rights := Config.peerRights p g.srcPkg.toNat g.srcPart.toNat
    let why := s.ingressWhy g va n rd wr
    let page (v : Nat) (w : Nat) : Prop :=
      (s.walk p v = none → w = 1) ∧
      (∀ leaf sh, s.walk p v = some (leaf, sh) →
        let blind : Prop := rd = true ∧ leaf.getLsbD 56 = false
        let fixed : Prop := wr = true ∧ leaf.getLsbD 57 = false
        let barred : Prop := pkrRefuses rights leaf wr = true ∨ (rd = true ∧ pkrRefuses rights leaf false = true)
        (blind → w = 1) ∧ (¬blind → fixed → w = 2) ∧ (¬blind → ¬fixed → barred → w = 3) ∧
        (¬blind → ¬fixed → ¬barred → (s.placeOf p none v = .lost → w = 4) ∧ (∀ h, s.placeOf p none v = .home h → w = 0) ∧
          (∀ h, s.placeOf p none v = .host h → w = if rd then 1 else 0)))
    ((s.part p).resetting = true → why = 5) ∧
    ((s.part p).resetting = false → 2 ^ 57 < va + n → why = 1) ∧
    ((s.part p).resetting = false → va + n ≤ 2 ^ 57 → va % 65536 + n ≤ 65536 → page va why) ∧
    ((s.part p).resetting = false → va + n ≤ 2 ^ 57 → 65536 < va % 65536 + n →
      let next := (va / 65536 + 1) * 65536
      (s.ingressWhy g va (next - va) rd wr ≠ 0 → why = s.ingressWhy g va (next - va) rd wr) ∧
      (s.ingressWhy g va (next - va) rd wr = 0 → why = s.ingressWhy g next (va + n - next) rd wr))

/-- R20, R154, R327, R353, R407, R409: `WRITE` puts its data at the target address, or is refused; `READ` sends the bytes of the source in pieces
of at most 8,192 bytes, the last one marked, after the stale tiles it meets have been recomputed, or is refused. Each waits, as it was, while a
home it reaches does (R346, R371, R379); a write to plain memory that nothing holds is done. The length of the pieces and a refusal of an
uncorrectable source as of a lost page are the model's choice (log entry 9). -/
def Claims.PeerAccess : Prop :=
  ∀ (s s1 : State) (c : Conn),
    let e := s.ctx.ev
    let g := e.dg
    let p := g.dstPart.toNat
    let va := field g.payload 0 8
    let H (i : Nat) : Nat := s.targetHome p (va + i)
    (s.Turn 1 s1 c →
      let bs := g.payload.drop 8
      let why := s.ingressWhy g va bs.length false true
      let plain : Prop := ∀ i < bs.length, s.Plain (H i) ∧ isRegPage (H i) = false
      (why ≠ 0 → ∃ u, exec .write s = .next u ∧ s.Taken u c ∧ u.mem = s.mem ∧ s.RefusedAt u c why va) ∧
      (∀ w, why = 0 → s.targetPut p va bs = .error w → exec .write s = .next (s.waitFor .write w)) ∧
      (∀ t, why = 0 → s.targetPut p va bs = .ok t → ∃ u, exec .write s = .next u ∧ s.Taken u c ∧ u.mem = t.mem ∧
        (plain → WrittenAt s.mem u.mem H bs)) ∧
      (plain → (∀ x ∈ s.targetRuns p va bs.length, s.homeHold x.1 = none) → ∃ t, s.targetPut p va bs = .ok t)) ∧
    (s.Turn 2 s1 c →
      let n := field g.payload 8 4
      let why := if 2 ^ 24 < n then 1 else s.ingressWhy g va n true false
      let stale : Prop := ∃ i < n, s.staleAt (H i) ≠ []
      let bad : Prop := ∃ x ∈ s.targetRuns p va n, s.uesIn x.1 x.2 ≠ []
      (why ≠ 0 → ∃ u, exec .read s = .next u ∧ s.Taken u c ∧ u.mem = s.mem ∧ s.RefusedAt u c why va) ∧
      (∀ w, why = 0 → s.targetHold p va n = some w → exec .read s = .next (s.waitFor .read w)) ∧
      (why = 0 → s.targetHold p va n = none → e.d = 0 → s.targetStale p va n ≠ [] → ∃ cs, exec .read s = .next { s with
          agenda := cs ++ [{ op := .read, arg := { e with d := 1 }, due := s.clock }] ++ s.agenda
          picks := List.replicate (cs.length + 1) 1 ++ s.picks } ∧
        (∀ x ∈ cs, x.op = .derivedRecompute) ∧ cs.map (fun y => (y.arg.a, y.arg.b, y.arg.c)) = s.targetStale p va n) ∧
      (stale → s.targetStale p va n ≠ []) ∧
      (why = 0 → s.targetHold p va n = none → e.d ≠ 0 ∨ s.targetStale p va n = [] →
        (bad ∨ s.targetStale p va n ≠ [] → ∃ u, exec .read s = .next u ∧ s.Taken u c ∧ (∀ a < 2 ^ 46, u.mem.get a = s.mem.get a) ∧
          s.RefusedAt u c 4 va) ∧
        (¬bad → s.targetStale p va n = [] → ∃ u, exec .read s = .next u ∧ s.Taken u c ∧ u.mem = s.mem ∧
          (n = 0 → u.Sends c 3 g.msgId.toNat 0 true []) ∧
          ∀ off < n, off % 8192 = 0 → u.Sends c 3 g.msgId.toNat off (decide (n ≤ off + 8192))
            ((List.range (min 8192 (n - off))).map (fun i => s.mem.get (H (off + i)))))))

/-- R20: `ATOMIC` applies its operation at its home, in one step, and sends the old value; one that is refused, not aligned, or of an operation or
width that R20 does not list leaves memory alone; one whose home is held waits (R346, R371, R379). That one of an operation, width or alignment not
listed is not answered is the model's choice (log entry 23). -/
def Claims.PeerAtomics : Prop :=
  ∀ (s s1 : State) (c : Conn),
    let e := s.ctx.ev
    let g := e.dg
    let p := g.dstPart.toNat
    let va := field g.payload 0 8
    let op := field g.payload 8 1
    let w := field g.payload 9 1
    let why := s.ingressWhy g va w true true
    let h := s.targetHome p va
    let v := leNat ((List.range w).map (fun i => s.mem.get (s.targetHome p (va + i))))
    let listed : Prop := op < 8 ∧ (w = 4 ∨ w = 8) ∧ va % w = 0
    let ops : List AtomOp := [.add, .min, .max, .exch, .and, .or, .xor, .cas]
    s.Turn 4 s1 c →
    (¬listed → ∃ u, exec .atomic s = .next u ∧ s.Taken u c ∧ u.mem = s.mem) ∧
    (listed → why ≠ 0 → ∃ u, exec .atomic s = .next u ∧ s.Taken u c ∧ u.mem = s.mem ∧ s.RefusedAt u c why va) ∧
    (∀ o, listed → why = 0 → ops[op]? = some o →
      let new := leBytes w (AtomRel o (8 * w) v (field g.payload 16 8 % 2 ^ (8 * w)) (field g.payload 24 8 % 2 ^ (8 * w)))
      let put := ((s.targetUes p va w).foldl State.recordUe s).targetPut p va new
      (∀ x, put = .error x → exec .atomic s = .next (s.waitFor .atomic x)) ∧
      (∀ t, put = .ok t → ∃ u, exec .atomic s = .next u ∧ s.Taken u c ∧ u.mem = t.mem ∧ u.Sends c 5 g.msgId.toNat 0 true (leBytes 8 v) ∧
        (s.targetUes p va w = [] → s.Plain h → isRegPage h = false → Written s.mem u.mem h new)) ∧
      (s.Plain h → s.homeHold h = none → ∃ t, put = .ok t))

/-- R20, R350: `REDUCE` applies its operands in ascending order; at a leased row it waits in the slice's queue of 32, is answered with `RETRY` when
that is full, and is applied later, in the close of the step, whatever the bank command holds. One whose homes are held waits. That one of an
operation, width or alignment not listed is not answered is the model's choice (log entry 23). -/
def Claims.PeerReductions : Prop :=
  ∀ (s s1 : State) (c : Conn),
    let e := s.ctx.ev
    let g := e.dg
    let p := g.dstPart.toNat
    let va := field g.payload 0 8
    let op := field g.payload 8 1
    let w := field g.payload 9 1
    let n := field g.payload 10 2
    let xs := (List.range n).map (fun i => field g.payload (16 + w * i) w)
    let why := s.ingressWhy g va (w * n) true true
    let H (i : Nat) : Nat := s.targetHome p (va + w * i)
    let listed : Prop := op < 4 ∧ (w = 4 ∨ w = 8) ∧ (op = 3 → w = 4) ∧ va % w = 0 ∧ 16 + w * n ≤ g.payload.length
    let ops : List AtomOp := [.add, .min, .max, .addF32]
    let slice := s.leasedSlice p w va xs
    let queued (x : Nat) : List Datagram := tget [] s.dev.deferred x
    let plain : Prop := ∀ i < n, s.Plain (H i) ∧ isRegPage (H i) = false
    let applied (o : AtomOp) (u : State) : Prop := s.targetUes p va (w * n) = [] → plain →
      (∀ a, (∀ i < n, ¬(H i ≤ a ∧ a < H i + w)) → u.mem.get a = s.mem.get a) ∧
      ∀ i < n, (∀ j < n, j ≠ i → H j ≠ H i) → leNat (u.mem.bytes (H i) w) = AtomRel o (8 * w) (leNat (s.mem.bytes (H i) w)) (xs.getD i 0) 0
    (s.Turn 6 s1 c → ¬listed → e.d = 0 → ∃ u, exec .reduce s = .next u ∧ s.Taken u c ∧ u.mem = s.mem) ∧
    (∀ o, s.Turn 6 s1 c → listed → ops[op]? = some o → e.d = 0 →
      (why ≠ 0 → ∃ u, exec .reduce s = .next u ∧ s.Taken u c ∧ u.mem = s.mem ∧ s.RefusedAt u c why va) ∧
      (∀ x, why = 0 → slice = none → s.applyReduce p o w va xs = .error x → exec .reduce s = .next (s.waitFor .reduce x)) ∧
      (∀ t, why = 0 → slice = none → s.applyReduce p o w va xs = .ok t → ∃ u, exec .reduce s = .next u ∧ s.Taken u c ∧ u.mem = t.mem ∧ applied o u) ∧
      (plain → (∀ i < n, s.homeHold (H i) = none) → ∃ t, s.applyReduce p o w va xs = .ok t) ∧
      (∀ x, why = 0 → slice = some x → (queued x).length < 32 → ∃ u, exec .reduce s = .next u ∧ s.Taken u c ∧ u.mem = s.mem ∧
        tget [] u.dev.deferred x = queued x ++ [g] ∧ ∀ y, y ≠ x → tget [] u.dev.deferred y = queued y) ∧
      (∀ x, why = 0 → slice = some x → 32 ≤ (queued x).length → ∃ u, exec .reduce s = .next u ∧ s.Taken u c ∧ u.mem = s.mem ∧
        u.dev.deferred = s.dev.deferred ∧ u.Sends c 10 g.msgId.toNat 0 true (leBytes 4 g.msgId.toNat ++ leBytes 4 g.offset.toNat))) ∧
    (∀ o, e.d = 1 → listed → ops[op]? = some o →
      (why ≠ 0 → s.connOf g = some (s1, c) → s1.dev.conns.find? (fun x => x.id == c.id) = some c → ∃ u, exec .reduce s = .next u ∧ u.mem = s.mem ∧
        s.RefusedAt u c why va) ∧
      (∀ x, why = 0 → s.closeReduce p o w va xs = .error x → exec .reduce s = .next (s.waitFor .reduce x)) ∧
      (∀ t, why = 0 → s.closeReduce p o w va xs = .ok t → exec .reduce s = .next t ∧ applied o t ∧ t.banks = s.banks) ∧
      (plain → ∃ t, s.closeReduce p o w va xs = .ok t))

/-- R20, R21, R256, R315: `ARRIVE` counts at the named barrier of a crew, live or saved; `PERMIT` returns permits, and what waited for one is sent,
each datagram with the next sequence number and the acknowledgement of now. To which connection a `PERMIT` returns its number is the model's
reading (log entry 25). -/
def Claims.ArrivalsAndPermits : Prop :=
  ∀ (s s1 : State) (c : Conn),
    let g := s.ctx.ev.dg
    let f (i n : Nat) : Nat := field g.payload i n
    let named (x : Crew) : Bool := x.part == g.dstPart.toNat && x.taskId == f 0 2 && x.span == f 4 4 && x.rank == f 8 1
    (s.Turn 7 s1 c → (∀ x ∈ s.allCrews, named x = false) ∨ 64 ≤ f 9 1 → ∃ u, exec .arrive s = .next u ∧ s.Taken u c ∧ u.mem = s.mem ∧
      u.crew = s.crew ∧ u.crews = s.crews) ∧
    (∀ x, s.Turn 7 s1 c → s.allCrews.find? named = some x → x.id ≠ 0 → s.crewOf x.id = some x → x.retired = false → f 9 1 < 64 → ∃ u x1,
      exec .arrive s = .next u ∧ s.Taken u c ∧ u.mem = s.mem ∧ u.crewOf x.id = some x1 ∧
      x1 = { x with barriers := x1.barriers } ∧ x1.bar (f 9 1) = (x.bar (f 9 1)).count (f 10 2) (f 12 4) false ∧
      ∀ b, b ≠ f 9 1 → x1.bar b = x.bar b) ∧
    (s.Turn 8 s1 c → c.unacked = [] →
      (c.queue = [] → ∃ u c1, exec .permit s = .next u ∧ s.Taken u c ∧ u.mem = s.mem ∧ u.dev.conns.find? (fun x => x.id == c.id) = some c1 ∧
        c1.permits = c.permits + f 0 4) ∧
      (∀ x, c.queue = [x] → c.permits + f 0 4 ≠ 0 → s.paused (s.sendPort c x.typ.toNat c.nextSeq) c.cls = false →
        (g.ack - c.nextSeq).toNat ≥ 2 ^ 31 → ∃ u c1 y,
        exec .permit s = .next u ∧ s.Taken u c ∧ u.mem = s.mem ∧
        (s.sendPort c x.typ.toNat c.nextSeq, s.udpPort, y) ∈ u.dev.netOut ∧ y.payload = x.payload ∧ y.typ = x.typ ∧
        y.msgId = x.msgId ∧ y.seq = c.nextSeq ∧ y.ack = g.seq ∧ y.srcPkg = BitVec.ofNat 16 s.pkgNum ∧ y.dstPkg = BitVec.ofNat 16 c.peerPkg ∧
        y.ver = 1#8 ∧ y.crc = dgCrc y ∧ u.dev.conns.find? (fun x => x.id == c.id) = some c1 ∧ c1.queue = [] ∧
        c1.permits = c.permits + f 0 4 - 1 ∧ c1.nextSeq = c.nextSeq + 1 ∧ c1.unacked = [(y, s.clock, 20 * 3600)]))

/-- R20, R21, R278, R327, R350: the answers to messages of this package. `DATA` brings read bytes, and the last of them ends the message; `OLD`
ends its message; `RETRY` keeps a reduction for its back-off timer; `FAULT` ends its message and fails its command with `TIMEOUT`. -/
def Claims.PeerAnswers : Prop :=
  ∀ (s s1 : State) (c : Conn) (m : Msg),
    let g := s.ctx.ev.dg
    let without (u : State) : Prop := ∀ x ∈ u.dev.msgs, x.id ≠ m.id
    let mine (id : Nat) : Prop := s.dev.msgs.find? (fun x => x.conn == c.id && x.id == id) = some m
    (∀ h, s.Turn 3 s1 c → mine g.msgId.toNat → m.dst = some h → ∃ u, exec .data s = .next u ∧ s.Taken u c ∧
      Written s.mem u.mem (h + g.offset.toNat) (g.payload.take (m.len - g.offset.toNat)) ∧
      (g.flags.getLsbD 1 = true → without u ∧ ∀ k, m.cmd = some k → (∀ x ∈ s.dev.msgs, x.id ≠ m.id → x.cmd ≠ some k) →
        ∀ y ∈ u.copies, y.id = k → y.fetched = true) ∧
      (g.flags.getLsbD 1 = false → u.copies = s.copies)) ∧
    (s.Turn 5 s1 c → mine g.msgId.toNat → ∃ u, exec .old s = .next u ∧ s.Taken u c ∧ u.mem = s.mem ∧ without u) ∧
    (s.Turn 10 s1 c → mine (field g.payload 0 4) → ∃ u, exec .retry s = .next u ∧ s.Taken u c ∧ u.mem = s.mem ∧
      { m with retry := true, sentAt := s.clock } ∈ u.dev.msgs ∧
      ∃ x ∈ u.agenda, x.op = .retryBackoffTimer ∧ x.arg.a = c.id ∧ x.arg.b = m.id) ∧
    (s.Turn 11 s1 c → mine g.msgId.toNat → ∃ u, exec .fault s = .next u ∧ s.Taken u c ∧ without u ∧
      u.mem = s.mem ∧ (m.cmd.bind s.copyOf = none → u.copies = s.copies) ∧
      ∀ k, m.cmd.bind s.copyOf = some k → k.st ≠ .failing → (∀ y ∈ u.copies, y.id = k.id → y.st = .failing) ∧
        ∃ x ∈ u.agenda, x.op = .copyFail ∧ x.arg.a = k.id ∧ x.arg.b = 4)

/-- R17, R21: the timers of a connection. An `ACK` goes out where one is still due and its port is not paused; datagrams whose wait has passed go
out again where theirs is not, and the wait doubles up to 160 µs; a message that the peer timeout has passed over ends; a reduction is sent again when its back-off has passed, and the wait
doubles up to 16 µs. -/
def Claims.Timers : Prop :=
  ∀ (s : State) (c : Conn),
    let e := s.ctx.ev
    let find (u : State) (c1 : Conn) : Prop := u.dev.conns.find? (fun x => x.id == c.id) = some c1
    let port (typ : Nat) (seq : Word) : Nat := s.sendPort c typ seq
    let due (x : Datagram × Nat × Nat) : Bool := decide (x.2.1 + x.2.2 ≤ s.clock) && !s.paused (port x.1.typ.toNat x.1.seq) c.cls
    c ∈ s.dev.conns → (∀ x ∈ s.dev.conns, x.id = c.id → x = c) → e.a = c.id →
    (c.ackDue = false ∨ s.paused (port 9 c.nextSeq) c.cls = true → exec .ackTimer s = .next s) ∧
    (c.ackDue = true → s.paused (port 9 c.nextSeq) c.cls = false → ∃ u g c1, exec .ackTimer s = .next u ∧ u = { s with dev := u.dev } ∧
      u.dev.netOut = s.dev.netOut ++ [(port 9 c.nextSeq, s.udpPort, g)] ∧
      g.typ.toNat = 9 ∧ g.ack = c.recvSeq ∧ g.payload = [] ∧ find u c1 ∧ c1 = { c with ackDue := false }) ∧
    (c.unacked = [] → exec .retransmitTimer s = .next s) ∧
    (c.unacked ≠ [] → ∃ u c1, exec .retransmitTimer s = .next u ∧
      u = { s with dev := u.dev, agenda := s.agenda ++ [{ op := .retransmitTimer, arg := e, due := s.clock }] } ∧ find u c1 ∧
      c1.unacked = c.unacked.map (fun x => if due x then (x.1, s.clock, min (160 * 3600) (2 * x.2.2)) else x) ∧
      ∃ l : List Datagram, u.dev.netOut = s.dev.netOut ++ l.map (fun g => (port g.typ.toNat g.seq, s.udpPort, g)) ∧ l.map (fun g => (g.seq, g.payload, g.ack)) =
        (c.unacked.filter due).map (fun x => (x.1.seq, x.1.payload, c.recvSeq))) ∧
    (let late (m : Msg) : Prop := m.conn = c.id ∧ m.retry = false ∧ m.sentAt + 3600 * (s.part c.myPart).conf.peerTo ≤ s.clock
     ((∀ m ∈ s.dev.msgs, m.conn ≠ c.id) → exec .peerTimeout s = .next s) ∧
     ((∃ m ∈ s.dev.msgs, m.conn = c.id) → (∀ m ∈ s.dev.msgs, ¬late m) →
       exec .peerTimeout s = .next { s with agenda := s.agenda ++ [{ op := .peerTimeout, arg := e, due := s.clock }] }) ∧
     ((∃ m ∈ s.dev.msgs, late m) → ∃ u, exec .peerTimeout s = .next u ∧ (∀ m ∈ u.dev.msgs, ¬late m) ∧
       (∀ m ∈ s.dev.msgs, (∀ x ∈ s.dev.msgs, late x → x.id ≠ m.id) → m ∈ u.dev.msgs) ∧
       ∀ m ∈ s.dev.msgs, late m → ∀ k, m.cmd = some k → ∀ y, u.copyOf k = some y → y.st = .failing)) ∧
    (∀ m, s.dev.msgs.find? (fun m => m.conn == e.a && m.id == e.b && m.retry) = some m →
      (s.clock < m.sentAt + m.backoff → exec .retryBackoffTimer s = .next { s with agenda := s.agenda ++ [{ op := .retryBackoffTimer, arg := e, due := s.clock }] }) ∧
      (m.sentAt + m.backoff ≤ s.clock → ∃ u, exec .retryBackoffTimer s = .next u ∧ u.mem = s.mem ∧
        { m with retry := false, sentAt := s.clock, backoff := min (16 * 3600) (2 * m.backoff) } ∈ u.dev.msgs ∧
        u.Sends c m.dg.typ.toNat m.dg.msgId.toNat m.dg.offset.toNat (m.dg.flags.getLsbD 1) m.dg.payload)) ∧
    (s.dev.msgs.find? (fun m => m.conn == e.a && m.id == e.b && m.retry) = none → exec .retryBackoffTimer s = .next s)

/-- R17: a priority of a port that is paused holds its datagrams, and one that goes on lets go what waited for it, acknowledgements too; a value out
of range changes nothing. -/
def Claims.FlowControl : Prop :=
  ∀ (s : State),
    let e := s.ctx.ev
    let now (b : Bool) : Table Bool := tset false s.dev.pause (2 * e.a + e.b) b
    (18 ≤ e.a ∨ 2 ≤ e.b → exec .priorityFlowControl s = .next s) ∧
    (e.a < 18 → e.b < 2 → e.c ≠ 0 → exec .priorityFlowControl s = .next { s with dev := { s.dev with pause := now true } }) ∧
    (e.a < 18 → e.b < 2 → e.c = 0 → ∃ u, exec .priorityFlowControl s = .next u ∧ u.mem = s.mem ∧ u.dev.pause = now false ∧
      ∀ c ∈ u.dev.conns, min 1 c.cls = e.b → s.dev.conns.Pairwise (fun x y => x.id ≠ y.id) → (∀ x ∈ s.dev.conns, x.queue.length < 65536) →
        (c.permits = 0 ∨ ∀ x, c.queue.head? = some x → u.paused (u.sendPort c x.typ.toNat c.nextSeq) c.cls = true) ∧
        (c.ackDue = true → u.paused (u.sendPort c 9 c.nextSeq) c.cls = true))

/-- R325, R326, R324: lockstep. A piece closes at 4 KiB or 2 µs after its last byte, and its digest goes to the mate; a piece whose digests agree
is released, and one whose digests differ halts the partition, with vector 0 (which a suspended partition logs) and the management event; so does a
lost pair link; the leader's records join the follower's; a mate's reset resets this side. How pieces are numbered and classed, and the form of the
management event, is the model's choice (log entries 9, 26). -/
def Obligations.Lockstep : Prop :=
  ∀ (s s1 : State) (c : Conn),
    let e := s.ctx.ev
    let g := e.dg
    let p := g.dstPart.toNat
    let num := field g.payload 0 8
    let cls := field g.payload 8 2
    let theirs := BitVec.ofNat 384 (field g.payload 16 48)
    let halts (u : State) (p : Nat) : Prop := (u.part p).halted = true ∧
      ((s.part p).halted = false → (255, 1) ∈ u.dev.irqs ∧
        if (s.part p).suspended then (s.part p).ilogCount < (u.part p).ilogCount ∨ (u.part p).ilogOvf = true else (p, 0) ∈ u.dev.irqs)
    (s.Turn 12 s1 c → s.isLockstep p = true →
      (∀ x d, (s.part p).pieces.find? (fun x => x.cls == cls && x.num == num) = some x → x.mine = some d →
        (d = theirs → ∃ u, exec .digest s = .next u ∧ s.Taken u c ∧ u.mem = s.mem ∧ (u.part p).halted = (s.part p).halted ∧
          ∀ a ∈ x.acts, match a with
            | .host h bs => (h, bs) ∈ u.dev.hostWrites
            | .irq v => (p, v) ∈ u.dev.irqs
            | .net id y => (∃ c0 ∈ s.dev.conns, c0.id = id) → ∃ y1 : Datagram, y1.typ = y.typ ∧ y1.msgId = y.msgId ∧ y1.offset = y.offset ∧
                y1.payload = y.payload ∧ ((∃ c1 ∈ u.dev.conns, c1.id = id ∧ y1 ∈ c1.queue) ∨ ∃ port, (port, s.udpPort, y1) ∈ u.dev.netOut)) ∧
        (d ≠ theirs → ∃ u, exec .digest s = .next u ∧ s.Taken u c ∧ u.mem = s.mem ∧ halts u p ∧ u.dev.hostWrites = s.dev.hostWrites)) ∧
      ((∀ x ∈ (s.part p).pieces, ¬(x.cls = cls ∧ x.num = num ∧ x.mine ≠ none)) → ∃ u, exec .digest s = .next u ∧ s.Taken u c ∧ u.mem = s.mem ∧
        (u.part p).halted = (s.part p).halted ∧ u.dev.hostWrites = s.dev.hostWrites ∧
        ∃ y ∈ (u.part p).pieces, y.cls = cls ∧ y.num = num ∧ y.theirs = some theirs)) ∧
    (∀ x, (s.part e.a).pieces.find? (fun x => x.cls == e.c && x.num == e.b) = some x →
      (x.closed = true → exec .lockstepPieceClose s = .next s) ∧
      (x.closed = false → x.bytes.length < 4096 → s.clock < x.since + 2 * 3600 →
        exec .lockstepPieceClose s = .next { s with agenda := s.agenda ++ [{ op := .lockstepPieceClose, arg := e, due := s.clock }] }) ∧
      (x.closed = false → 4096 ≤ x.bytes.length ∨ x.since + 2 * 3600 ≤ s.clock → x.theirs = none → ∃ u, exec .lockstepPieceClose s = .next u ∧
        u.mem = s.mem ∧ (∃ y ∈ (u.part e.a).pieces, y = { x with closed := true, mine := some (Config.sha384 x.bytes) }) ∧
        ∀ pkg q c, (s.part e.a).conf.mate = some (pkg, q) → u.connFor pkg e.a q 1 = some c →
          (∀ x ∈ u.dev.conns, x.id = c.id → x = c) → u.Sends c 12 0 0 false (leBytes 8 e.b ++ leBytes 2 e.c ++ leBytes 6 0 ++ leBytes 48 (Config.sha384 x.bytes).toNat))) ∧
    (s.isLockstep e.a = true → ∃ u, exec .lockstepLinkLoss s = .next u ∧ u.mem = s.mem ∧ halts u e.a) ∧
    (s.isLockstep e.a = false → exec .lockstepLinkLoss s = .next s ∧ exec .lockstepMateReset s = .next s) ∧
    (s.isLockstep e.a = true → e.a < 32 → ∃ u, exec .lockstepMateReset s = .next u ∧ u.mem = s.mem ∧ s.ResetBegun u e.a) ∧
    (s.Turn 13 s1 c → s.isFollower p = true → ∃ u, exec .order s = .next u ∧ s.Taken u c ∧ u.mem = s.mem ∧
      (u.part p).order = (s.part p).order ++ (List.range (g.payload.length / 16)).map (fun i =>
        (field g.payload (16 * i) 8, field g.payload (16 * i + 8) 4, field g.payload (16 * i + 12) 4)))

/-- R7, R177: the host's writes to memory mapped by a partition, one aligned 64-byte piece after another; a piece waits where a write would, one
that is not mapped is lost, and one to a register page changes no register. -/
def Claims.HostMemoryWrites : Prop :=
  ∀ (s : State),
    let e := s.ctx.ev
    let k := min e.bytes.length (64 - e.b % 64)
    let now := e.bytes.take k
    let more (t u : State) : Prop := if e.bytes.length ≤ k then u.agenda = t.agenda else
      u.agenda = { op := .hostMemoryWrite, arg := { e with b := e.b + k, bytes := e.bytes.drop k }, due := s.clock } :: t.agenda
    (e.bytes = [] → exec .hostMemoryWrite s = .next s) ∧
    (e.bytes ≠ [] → s.walk e.a e.b = none → ∃ u, exec .hostMemoryWrite s = .next u ∧ u.mem = s.mem ∧ more s u) ∧
    (∀ leaf sh, e.bytes ≠ [] → s.walk e.a e.b = some (leaf, sh) →
      let h := leafHome leaf sh e.b
      let loc := leaf.toNat / 2 ^ 60 % 4
      let put := s.putRuns e.a [(h, now.map (fun b => (b, 0xFF#8)))]
      (∀ w, loc = 0 → put = .error w → exec .hostMemoryWrite s = .next (s.waitFor .hostMemoryWrite w)) ∧
      (∀ t, loc = 0 → put = .ok t → ∃ u, exec .hostMemoryWrite s = .next u ∧ u.mem = t.mem ∧ more t u ∧
        (s.Plain h → h < 2 ^ 58 → isRegPage h = false → Written s.mem u.mem h now) ∧ (isRegPage h = true → u.mem = s.mem)) ∧
      (∀ w, s.homeHold h = some w → put = .error w) ∧ (s.Plain h → s.homeHold h = none → ∃ t, put = .ok t) ∧
      (2 ≤ loc → ∃ u, exec .hostMemoryWrite s = .next u ∧ u.mem = s.mem ∧ more s u) ∧
      (loc = 1 → ∃ u, exec .hostMemoryWrite s = .next u ∧ Written s.mem u.mem h now ∧ more s u))

/-- Accesses of peers and of the host to this package. -/
def Obligations.PeerRequests : Prop :=
  Claims.PeerChecks ∧ Claims.PeerAccess ∧ Claims.PeerAtomics ∧ Claims.PeerReductions ∧ Claims.HostMemoryWrites

/-- Permits, answers, timers and flow control. -/
def Obligations.TransportRules : Prop :=
  Claims.ArrivalsAndPermits ∧ Claims.PeerAnswers ∧ Claims.Timers ∧ Claims.FlowControl

/-! ### The host interface -/

namespace Sys2Proof.Machine

/-- The launch unit may take an entry of queue `n` of partition `p` (R330, R331). -/
def State.QueueLive (s : State) (p n : Nat) : Prop :=
  let q := (s.part p).cq n
  q.en = true ∧ q.halted = false ∧ q.wait = none ∧ q.head ≠ q.tail ∧ s.dev.level ≠ 0 ∧ s.dev.level ≠ 4 ∧ (s.part p).configured = true ∧
  (s.part p).halted = false ∧ (s.part p).resetting = false

/-- The launch unit looks at the queue's next entry: its step is asked for, unless one already is; an entry that cannot be read stops the
queue with CAUSE 2. -/
def State.NextEntry (s t : State) (p n : Nat) : Prop :=
  let q := (s.part p).cq n
  let asked : Prop := ∃ x ∈ s.agenda, x.arg.a = p ∧ x.arg.b = n ∧ x.op ∈ [Instr.cqNop, .cqLaunch, .cqSignal, .cqWait, .cqEntryRefused]
  (¬s.QueueLive p n ∨ asked → t = s) ∧
  (s.QueueLive p n → ¬asked → s.cqEntry p q = none →
    t = s.updPart p (fun x => { x with queues := tset CmdQueue.blank x.queues n { q with err := true, cause := 2, halted := true } })) ∧
  (∀ d, s.QueueLive p n → ¬asked → s.cqEntry p q = some d → ∃ x, t = { s with agenda := s.agenda ++ [x] } ∧ x.op = entryStep d ∧ x.arg.a = p ∧ x.arg.b = n)

/-- `s` with queue `n` of partition `p` replaced. -/
def State.withCq (s : State) (p n : Nat) (q : CmdQueue) : State := s.updPart p (fun x => { x with queues := tset CmdQueue.blank x.queues n q })

/-- The report of an outcome and its interrupt (R250, R331): between `s` and `t` the 16 bytes at `report` have been written, where the address
is given and lies in package memory, and the vector raised. -/
def State.Reported (s t : State) (p report : Nat) (vec : Option Nat) (taskId cause status : Nat) : Prop :=
  (report = 0 → t.mem = s.mem) ∧
  (∀ h, report ≠ 0 → s.Lies p report 16 h →
    Written s.mem t.mem h ([BitVec.ofNat 8 status, BitVec.ofNat 8 cause] ++ leBytes 2 taskId ++ leBytes 4 0 ++ leBytes 8 s.clock)) ∧
  ∀ v, vec = some v → s.Raised t p v

/-- The command of the step has ended in mailbox `fn` with a result: `MBSTAT` follows. -/
def State.MbEnds (s t : State) (fn result : Nat) : Prop := ∃ x, t = { s with agenda := s.agenda ++ [x] } ∧ x.op = .mailboxDone ∧ x.arg.a = fn ∧
  x.arg.b = result ∧ x.arg.c = 0 ∧ x.arg.d = 0

/-- As `MbEnds`, with the buffer of the mailbox replaced. -/
def State.MbAnswers (s t : State) (fn result : Nat) (buf : List Byte) : Prop :=
  ∃ u : State, u = { s with dev := { s.dev with mboxes := u.dev.mboxes } } ∧ u.mbox fn = { s.mbox fn with buf := (u.mbox fn).buf } ∧
    (u.mbox fn).buf.length = 256 ∧ (∀ i < 256, (u.mbox fn).buf.getD i 0 = buf.getD i 0) ∧ (∀ f, f ≠ fn → u.mbox f = s.mbox f) ∧ u.MbEnds t fn result

end Sys2Proof.Machine

/-- R7, R8, R177, R329, R330: the registers of a command queue. A doorbell behind `QHEAD` or too far ahead of it is ignored with CAUSE 1; a good
one shows the launch unit what to take; `EN` from 0 to 1 restarts at `QTAIL`; `LOG2N` and `QBASE` keep while `EN` is 1; `ERR` clears by 1.
The named steps and the register writes agree. -/
def Claims.QueueRegisters : Prop :=
  ∀ (s : State) (p n : Nat) (v : Quad),
    let e := s.ctx.ev
    let q := (s.part p).cq n
    let lo : Word := BitVec.ofNat 32 v.toNat
    let at32 (off : Nat) : Prop := e.a = p + 1 ∧ e.b = 0x1000 + 64 * n + off ∧ e.c = 4 ∧ e.q = v
    let bell (t : State) : Prop :=
      (2 ^ q.log2n < (lo - q.head).toNat → t = s.withCq p n { q with err := true, cause := 1 }) ∧
      ((lo - q.head).toNat ≤ 2 ^ q.log2n → (s.withCq p n { q with tail := lo }).NextEntry t p n)
    let ctl (t : State) : Prop :=
      let q1 : CmdQueue := { q with en := v.getLsbD 31, log2n := if q.en then q.log2n else v.toNat % 32 }
      (v.getLsbD 31 = true → q.en = false → (s.withCq p n { q1 with head := q.tail, halted := false, wait := none }).NextEntry t p n) ∧
      (¬(v.getLsbD 31 = true ∧ q.en = false) → t = s.withCq p n q1)
    p < 32 → n < 16 →
    (e.a = p → e.b = n → e.q = v → (∃ t, exec .qtailDoorbell s = .next t ∧ bell t) ∧ ∃ t, exec .qctlWrite s = .next t ∧ ctl t) ∧
    (at32 0x10 → ∃ t, exec .registerWrite s = .next t ∧ bell t) ∧
    (at32 0x08 → ∃ t, exec .registerWrite s = .next t ∧ ctl t) ∧
    (at32 0x14 → exec .registerWrite s = .next (s.withCq p n { q with err := q.err && !v.getLsbD 31 })) ∧
    (at32 0x0C → exec .registerWrite s = .next s) ∧
    (∀ b : Nat, b < 2 → at32 (4 * b) → exec .registerWrite s = .next (s.withCq p n (if q.en then q else { q with
      qbase := BitVec.ofNat 64 (if b = 0 then q.qbase.toNat / 2 ^ 32 * 2 ^ 32 + v.toNat % 2 ^ 32 else v.toNat % 2 ^ 32 * 2 ^ 32 + q.qbase.toNat % 2 ^ 32) })))

/-- R7, R8, R329, R334, R335, R352: the other registers of BAR0. A request that is not an aligned 4-byte or 8-byte one, and a write to an offset
with no register, change nothing; the mailbox accepts a command while `BUSY` is 0; `IFPTR` and the overflow bits; `XLPART`; `UEV` of `BERR`. -/
def Claims.OtherRegisters : Prop :=
  ∀ (s : State),
    let e := s.ctx.ev
    let v := e.q.toNat % 2 ^ 32
    let p := e.a - 1
    let vf : Prop := 1 ≤ e.a ∧ e.a ≤ 32 ∧ e.c = 4
    let pf : Prop := e.a = 0 ∧ e.c = 4
    let box := tget Mailbox.blank s.dev.mboxes e.a
    let ifptr (x : Part) : Part :=
      let rd := e.q.toNat % 256
      { x with ifRd := rd, ifUnread := x.ifUnread - (rd + 256 - x.ifRd) % 256, ifOvf := x.ifOvf && !e.q.getLsbD 31 }
    exec .bar0Unsupported s = .next s ∧
    (32 < e.a ∨ ¬((e.c = 4 ∨ e.c = 8) ∧ e.b % e.c = 0) → exec .registerWrite s = .next s) ∧
    (vf ∨ pf → e.b < 0x200 → e.b % 4 = 0 → exec .registerWrite s = .next s) ∧
    (vf → 0x4000 ≤ e.b → e.b < 0x7000 → e.b % 4 = 0 → exec .registerWrite s = .next s) ∧
    exec .ifptrWrite s = .next (s.updPart e.a ifptr) ∧
    (vf → e.b = 0x7008 → exec .registerWrite s = .next (s.updPart p ifptr)) ∧
    (vf → e.b = 0x7000 → exec .registerWrite s = .next (s.updPart p (fun x => { x with ilogOvf := x.ilogOvf && !e.q.getLsbD 31 }))) ∧
    (pf → e.b = 0x208 → exec .registerWrite s = .next { s with dev := { s.dev with xlpart := v % 32 } }) ∧
    (∀ sl b, pf → sl < 384 → b < 16 → e.b = 0x100000 + 4096 * sl + 8 * b + 4 → e.q.getLsbD 31 = true → ∃ u, exec .registerWrite s = .next u ∧
      (tget Berr.blank u.dev.berr (16 * sl + b)).uev = false ∧ (tget Berr.blank u.dev.berr (16 * sl + b)).uecnt = 0 ∧
      (tget Berr.blank u.dev.berr (16 * sl + b)).cecnt = 0 ∧ (tget Berr.blank u.dev.berr (16 * sl + b)).row = (tget Berr.blank s.dev.berr (16 * sl + b)).row) ∧
    (vf ∨ pf → e.b = 0x3000 → box.busy = true → exec .registerWrite s = .next s) ∧
    (vf ∨ pf → e.b = 0x3000 → box.busy = false → ∃ u x, exec .registerWrite s = .next u ∧ u.agenda = s.agenda ++ [x] ∧ u.mem = s.mem ∧
      (u.mbox e.a) = { box with busy := true, cmd := v % 256 } ∧
      x.op = ((if e.a = 0 then ([(1, .config), (2, .readcfg), (3, .suspend), (4, .resume), (5, .reset), (6, .setwin), (7, .attest)] : List (Nat × Instr))
        else [(7, .attest), (0x10, .tensor), (0x11, .tidread), (0x12, .syncnew), (0x13, .syncfree)]).lookup v |>.getD .mbUnknownCommand) ∧
      x.arg.a = e.a ∧ (x.op = .mbUnknownCommand → x.arg.b = v)) ∧
    (∀ i, vf ∨ pf → i < 64 → e.b = 0x3100 + 4 * i → box.buf.length = 256 → ∃ u, exec .registerWrite s = .next u ∧
      (∀ k < 256, (u.mbox e.a).buf.getD k 0 = if 4 * i ≤ k ∧ k < 4 * i + 4 then BitVec.ofNat 8 (v / 256 ^ (k - 4 * i)) else box.buf.getD k 0))

/-- R331: what an entry must hold, and which step takes it; more scratchpad than a core has is the launch's CAUSE 4 (R93). -/
def Claims.EntryChecks : Prop :=
  ∀ (d : List Byte), d.length = 256 →
    let f := field d
    let zero (a n : Nat) : Prop := ∀ i < n, f (a + i) 1 = 0
    let op := f 0 1
    let given : Prop := f 0x20 1 % 2 = 1
    let geom : Prop := 1 ≤ f 0x21 1 ∧ f 0x21 1 ≤ 12 ∧ 1 ≤ f 0x22 1 ∧ f 0x22 1 ≤ 16 ∧ 1 ≤ f 0x24 4 ∧ f 0x24 4 ≤ 2 ^ 20 ∧
      f 0x28 4 % 4096 = 0 ∧ 4096 ≤ f 0x28 4
    let good : Prop := op < 4 ∧ f 1 1 < 4 ∧ f 2 2 < 4096 ∧ (op < 2 → f 2 2 = 0) ∧ zero 4 4 ∧ f 0x18 8 % 16 = 0 ∧ f 0x20 1 < 4 ∧ zero 0x23 1 ∧ zero 0x2C 4 ∧
      zero 0x38 8 ∧ zero 0xC0 64 ∧ (op = 1 → f 0x10 8 % 512 = 0 ∧ (given → geom))
    (¬good → entryStep d = .cqEntryRefused) ∧
    (good → entryStep d = if op = 0 then .cqNop else if op = 1 then .cqLaunch else if op = 2 then .cqSignal else .cqWait)

/-- R330, R331, R93, R177: a step takes the entry at `QHEAD` when it is that entry's; it has its effect, `QHEAD` advances, and the next entry is
looked at. A LAUNCH starts its task or is refused with its cause, a SIGNAL waits for the queue's live tasks, a WAIT holds the queue, and a refused
entry sets CAUSE 3. One that may have to report waits while its report cannot be written (R346, R371, R379). That a NOP entry raises no interrupt
is the model's reading (log entry 47). -/
def Claims.QueueEntries : Prop :=
  ∀ (s : State) (d : List Byte),
    let e := s.ctx.ev
    let p := e.a
    let n := e.b
    let q := (s.part p).cq n
    let f := field d
    let ops : List Instr := [.cqNop, .cqLaunch, .cqSignal, .cqWait, .cqEntryRefused]
    let taken (i : Instr) : Prop := s.QueueLive p n ∧ s.cqEntry p q = some d ∧ entryStep d = i
    let vec : Option Nat := if f 1 1 % 2 = 1 then some (n + 1) else none
    let ctrl := f 0x20 1
    let kern := s.readKernel p (f 0x10 8)
    let geom : Geom := ⟨f 0x24 4, f 0x21 1, f 0x22 1, f 0x28 4, (List.range 8).map (fun i => f (0x30 + i) 1)⟩
    let args : List Quad := (List.range 16).map (fun i => BitVec.ofNat 64 (f (0x40 + 8 * i) 8))
    let early : Option Nat := if f 1 1 / 2 % 2 = 1 then q.last else none
    let fate (g : Option Geom) : Nat := match kern, g with | some k, some g => launchCause k g | _, _ => 5
    let onward (u t : State) : Prop := (u.withCq p n { (u.part p).cq n with head := q.head + 1 }).NextEntry t p n
    let rep := if f 0x18 8 % 16 = 0 then f 0x18 8 else 0
    let free : Prop := s.reportHold p rep = none
    (∀ i w, i = .cqLaunch ∨ i = .cqEntryRefused → taken i → s.reportHold p rep = some w → exec i s = .next (s.waitFor i w)) ∧
    (∀ i ∈ ops, ¬(s.QueueLive p n ∧ (s.cqEntry p q).map entryStep = some i) → ∃ t, exec i s = .next t ∧ s.NextEntry t p n) ∧
    (taken .cqNop → ∃ t, exec .cqNop s = .next t ∧ onward s t) ∧
    (∀ g : Option Geom, taken .cqLaunch → free →
      g = (if ctrl % 2 = 1 then some geom else kern.bind (fun k => if k.hasLaunch then some (geomOf k.lgeom) else none)) →
      (fate g ≠ 0 → ∃ u t, exec .cqLaunch s = .next t ∧ onward u t ∧ u.tasks = s.tasks ∧ ((u.part p).cq n).last = some s.nextId ∧
        s.Reported u p (f 0x18 8) vec 0 (fate g) 2) ∧
      (∀ k g0, fate g = 0 → kern = some k → g = some g0 → ∃ (u t : State) (x : Task), exec .cqLaunch s = .next t ∧ onward u t ∧ u.mem = s.mem ∧
        u.tasks = s.tasks ++ [x] ∧ x.id = s.nextId ∧ x.part = p ∧ x.kernel = k ∧ x.spans = g0.spans ∧ x.crews = g0.crews ∧ x.groups = g0.groups ∧
        x.scratch = g0.scratch ∧ x.stages = g0.stages ∧ x.args = (if ctrl / 2 % 2 = 1 then args else if k.hasLaunch then k.largs else []) ∧
        x.report = BitVec.ofNat 64 (f 0x18 8) ∧ x.barrier = none ∧ x.queue = some n ∧ (x.irq = true ↔ f 1 1 % 2 = 1) ∧ x.waitsFor = early ∧ x.placed = 0 ∧
        ((u.part p).cq n).last = some s.nextId ∧
        ∃ y, u.agenda = s.agenda ++ [y] ∧ y.op = (if early = none then .spanPlace else .dependantStart) ∧ y.arg.a = s.nextId)) ∧
    (taken .cqSignal → ∃ (u t : State) (x : Signal) (y : Event), exec .cqSignal s = .next t ∧ onward u t ∧ u.mem = s.mem ∧
      ((u.part p).cq n).signals = q.signals ++ [x] ∧ x.event = f 2 2 ∧ x.value = BitVec.ofNat 64 (f 8 8) ∧ x.report = BitVec.ofNat 64 (f 0x18 8) ∧
      (x.irq = true ↔ f 1 1 % 2 = 1) ∧ (∀ i, i ∈ x.tasks ↔ ∃ t ∈ s.tasks, t.id = i ∧ t.part = p ∧ t.queue = some n) ∧
      u.agenda = s.agenda ++ [y] ∧ y.op = .signalApply ∧ y.arg.a = p ∧ y.arg.b = n ∧ y.arg.c = x.id) ∧
    (taken .cqWait → ∃ (t : State) (y : Event), exec .cqWait s = .next t ∧ t.mem = s.mem ∧
      (t.part p).cq n = { q with
        head := q.head + 1
        wait := some (f 2 2, BitVec.ofNat 64 (f 8 8), BitVec.ofNat 64 (f 0x18 8), f 1 1 % 2 == 1) } ∧
      t.agenda = s.agenda ++ [y] ∧ y.op = .waitRelease ∧ y.arg.a = p ∧ y.arg.b = n) ∧
    (taken .cqEntryRefused → free → ∃ u t, exec .cqEntryRefused s = .next t ∧ onward u t ∧
      (let c := (u.part p).cq n; c = { q with err := true, cause := 3 }) ∧
      s.Reported u p rep vec 0 5 2)

/-- R331, R332: a signal takes effect once the launches before it have ended, raising its event where its value is greater; a waiting queue
goes on once its event has reached VALUE; a write to an event counter sets it, and every waiting queue of the partition looks again. What reports
waits while the report cannot be written (R346, R371, R379). -/
def Claims.SignalsAndEvents : Prop :=
  ∀ (s : State),
    let e := s.ctx.ev
    let q := (s.part e.a).cq e.b
    let ev (u : State) (p i : Nat) : Quad := tget 0 (u.part p).events i
    let look (u : State) (p : Nat) : Prop := ∀ i, ((s.part p).cq i).wait ≠ none → ∃ y ∈ u.agenda, y.op = .waitRelease ∧ y.arg.a = p ∧ y.arg.b = i
    (q.signals.find? (fun x => x.id == e.c) = none → exec .signalApply s = .next s) ∧
    (∀ x, q.signals.find? (fun x => x.id == e.c) = some x →
      ((∃ i ∈ x.tasks, s.taskOf i ≠ none) → exec .signalApply s = .next s) ∧
      (∀ w, (∀ i ∈ x.tasks, s.taskOf i = none) → s.reportHold e.a x.report.toNat = some w → exec .signalApply s = .next (s.waitFor .signalApply w)) ∧
      ((∀ i ∈ x.tasks, s.taskOf i = none) → s.reportHold e.a x.report.toNat = none → ∃ u, exec .signalApply s = .next u ∧ ((u.part e.a).cq e.b).signals = q.signals.filter (fun y => y.id != x.id) ∧
        (ev u e.a x.event).toNat = max (ev s e.a x.event).toNat x.value.toNat ∧ (∀ i, i ≠ x.event → ev u e.a i = ev s e.a i) ∧
        ((ev s e.a x.event).toNat < x.value.toNat → look u e.a) ∧
        s.Reported u e.a x.report.toNat (if x.irq then some (e.b + 1) else none) 0 0 1)) ∧
    (q.wait = none → exec .waitRelease s = .next s) ∧
    (∀ i v r irq, q.wait = some (i, v, r, irq) →
      ((ev s e.a i).toNat < v.toNat → exec .waitRelease s = .next s) ∧
      (∀ w, v.toNat ≤ (ev s e.a i).toNat → s.reportHold e.a r.toNat = some w → exec .waitRelease s = .next (s.waitFor .waitRelease w)) ∧
      (v.toNat ≤ (ev s e.a i).toNat → s.reportHold e.a r.toNat = none → ∃ u t, exec .waitRelease s = .next t ∧ u.NextEntry t e.a e.b ∧
        (u.part e.a).cq e.b = { q with wait := none } ∧
        s.Reported u e.a r.toNat (if irq then some (e.b + 1) else none) 0 0 1)) ∧
    (4096 ≤ e.b → exec .eventCounterWrite s = .next s) ∧
    (e.b < 4096 → ∃ u, exec .eventCounterWrite s = .next u ∧ u.mem = s.mem ∧ ev u e.a e.b = e.q ∧ (∀ i, i ≠ e.b → ev u e.a i = ev s e.a i) ∧
      look u e.a)

/-- R319: an invalidation of a function runs alone; when it is done, the cached translations of its partition that it names are gone and all others
stay. What a 4-byte write to `XLINV` starts is the model's reading (log entry 47). -/
def Claims.Invalidations : Prop :=
  ∀ (s : State),
    let e := s.ctx.ev
    let p := if 1 ≤ e.a ∧ e.a ≤ 32 then e.a - 1 else s.dev.xlpart % 32
    let begun (q : Quad) (t : State) : Prop := ∃ x, t = { s.updPart p (fun y => { y with xlBusy := true, xlPend := some q }) with agenda := s.agenda ++ [x] } ∧
      x.op = .xlinvDone ∧ x.arg.a = p
    let shift : List Nat := [16, 21, 30]
    ((s.part p).xlBusy = true → exec .xlinvPage s = .next s ∧ exec .xlinvAll s = .next s) ∧
    ((s.part p).xlBusy = false → e.q.toNat % 4 = 3 → exec .xlinvPage s = .next s) ∧
    ((s.part p).xlBusy = false → e.q.toNat % 4 ≠ 3 → ∃ t q, exec .xlinvPage s = .next t ∧ begun q t ∧ q.getLsbD 57 = false ∧
      ∀ i, i ≠ 57 → q.getLsbD i = e.q.getLsbD i) ∧
    ((s.part p).xlBusy = false → ∃ t q, exec .xlinvAll s = .next t ∧ begun q t ∧ q.getLsbD 57 = true) ∧
    ((s.part e.a).xlPend = none → exec .xlinvDone s = .next s) ∧
    (∀ q, (s.part e.a).xlPend = some q →
      let size := 2 ^ shift.getD (q.toNat % 4) 16
      let va := q.toNat / 2 ^ 16 % 2 ^ 41 * 2 ^ 16 / size * size
      let hit (x : TlbEnt) : Prop := x.part = e.a ∧ (q.getLsbD 57 = true ∨ (q.toNat % 4 < 3 ∧ x.base < va + size ∧ va < x.base + x.size))
      q.getLsbD 57 = true ∨ q.toNat % 4 < 3 → ∃ u, exec .xlinvDone s = .next u ∧
        u = { s.updPart e.a (fun y => { y with xlBusy := false, xlPend := none }) with tlb1 := u.tlb1, tlb2 := u.tlb2 } ∧
        (∀ x, x ∈ u.tlb1 ↔ x ∈ s.tlb1 ∧ ¬hit x) ∧ ∀ x, x ∈ u.tlb2 ↔ x ∈ s.tlb2 ∧ ¬hit x)

/-- R334: a command of a function that may not use it gives RESULT 3, an unknown one RESULT 2, and nothing changes; `MBSTAT` shows a result once
what the command waits for has happened. -/
def Claims.MailboxRules : Prop :=
  ∀ (s : State),
    let e := s.ctx.ev
    let p := e.c
    let waits : Prop := match e.d with
      | 1 => (s.part p).suspended = true ∧ ∃ c ∈ s.allCrews, c.part = p ∧ c.saved = false ∧ c.retired = false
      | 2 => (s.part p).suspended = false ∧ (s.part p).ilogCount ≠ 0
      | 3 => (s.part p).resetting = true
      | _ => False
    (∀ i ∈ [Instr.config, .readcfg, .suspend, .resume, .reset, .setwin], e.a ≠ 0 → ∃ t, exec i s = .next t ∧ s.MbEnds t e.a 3) ∧
    (∀ i ∈ [Instr.tensor, .tidread, .syncnew, .syncfree], e.a = 0 ∨ 32 < e.a → ∃ t, exec i s = .next t ∧ s.MbEnds t e.a 3) ∧
    (∃ t, exec .mbUnknownCommand s = .next t ∧
      s.MbEnds t e.a (if e.b ∈ [1, 2, 3, 4, 5, 6, 7, 0x10, 0x11, 0x12, 0x13] then 3 else 2)) ∧
    (waits → exec .mailboxDone s = .next { s with agenda := s.agenda ++ [{ op := .mailboxDone, arg := e, due := s.clock }] }) ∧
    (¬waits → ∃ u, exec .mailboxDone s = .next u ∧ u = { s with dev := { s.dev with mboxes := u.dev.mboxes } } ∧
      u.mbox e.a = { s.mbox e.a with busy := false, result := e.b } ∧ ∀ f, f ≠ e.a → u.mbox f = s.mbox f)

/-- R320, R334: the limits of a configuration record, and where each of its items lies. -/
def Claims.ConfigurationLimits : Prop :=
  ∀ (s : State) (d : List Byte) (p : Nat), d.length = 256 → p = field d 0 1 →
    let f := field d
    let bit (n : Nat) : Prop := f 1 1 / 2 ^ n % 2 = 1
    let m := f 8 4
    let half (i : Nat) : Bool := m.testBit i
    let whole : Prop := ∀ c < 16, half (2 * c) = half (2 * c + 1)
    let one : Prop := ∃ i < 32, m = 2 ^ i ∧ (s.halfCores (2 * (i / 2))).length + (s.halfCores (2 * (i / 2) + 1)).length = 12
    let others : List Part := (s.parts.filter (fun x => x.1 != p && (x.2.configured || x.2.pending.isSome))).map Prod.snd
    let sum (g : Conf → Nat) : Nat := (others.map (fun x => g (x.pending.getD x.conf))).sum
    let cores : Nat := ((List.range 32).map (fun i => if half i then (s.halfCores i).length else 0)).sum
    (s.confOk p d = true ↔
      p < 32 ∧ f 1 1 < 16 ∧ f 2 1 < 4 ∧ f 3 1 ≤ 64 ∧ 1 ≤ f 4 2 ∧ f 4 2 ≤ 1000 ∧ f 6 2 ≤ 4096 ∧ 10 ≤ f 0xC 4 ∧ f 0xC 4 ≤ 10000 ∧
      f 0x10 8 % 4096 = 0 ∧ f 0x10 8 < 2 ^ 48 ∧ f 0x2A 1 < 32 ∧ f 0x2B 1 = 0 ∧ f 0x2C 1 ≤ 16 ∧ f 0x2D 1 ≤ 16 ∧ f 0x2E 1 = 0 ∧ f 0x2F 1 = 0 ∧
      (∀ i < 18, f (0x30 + i) 1 ≤ 100) ∧ (∀ i < 190, f (0x42 + i) 1 = 0) ∧ (bit 0 → bit 2) ∧ m ≠ 0 ∧ (whole ∨ one) ∧
      (∀ x ∈ s.parts, x.1 = p ∨ (x.2.conf.clusters.toNat &&& m = 0 ∧ (x.2.pending.getD x.2.conf).clusters.toNat &&& m = 0)) ∧
      sum Conf.weight + f 4 2 ≤ 1000 ∧ sum Conf.cpe0 + f 0x2C 1 ≤ 16 ∧ sum Conf.cpe1 + f 0x2D 1 ≤ 16 ∧
      (∀ i < 18, sum (fun c => c.fabric.getD i 0) + f (0x30 + i) 1 ≤ 100) ∧ cores * 4 * 1572864 ≤ f 0x20 8) ∧
    (let c := confOf d
     (c.det = true ↔ bit 0) ∧ (c.debug = true ↔ bit 1) ∧ c.mate = (if bit 2 then some (f 0x28 2, f 0x2A 1) else none) ∧
     c.frozen = (if bit 3 then some (f 2 1) else none) ∧ c.eddyW = f 3 1 ∧ c.weight = f 4 2 ∧ c.pool = f 6 2 ∧ c.clusters.toNat = m ∧
     c.peerTo = f 0xC 4 ∧ c.ptroot.toNat = f 0x10 8 ∧ c.saveBase.toNat = f 0x18 8 ∧ c.saveSize.toNat = f 0x20 8 ∧ c.cpe0 = f 0x2C 1 ∧
     c.cpe1 = f 0x2D 1 ∧ c.fabric = (List.range 18).map (fun i => f (0x30 + i) 1) ∧
     (s.confOk p d = true → (bit 2 ∨ f 0x28 4 = 0) → (bit 3 ∨ f 2 1 = 0) → c.bytes p = d))

/-- R27, R262, R320, R334, R347: the other commands and their results. A good configuration waits for the partition's reset; a partition's record
is read; the arbitration window; the attestation report, which waits while its buffer cannot be written (R346, R371, R379); tensor entries and
their reading; sync objects, new and freed. That a configuration waits until its partition's reset is done is the model's reading (log entry 45).
-/
def Claims.MailboxCommands : Prop :=
  ∀ (s : State),
    let e := s.ctx.ev
    let b := (s.mbox e.a).buf
    let f := field b
    let p := e.a - 1
    let q := s.part p
    let pf : Prop := e.a = 0
    let vf : Prop := 1 ≤ e.a ∧ e.a ≤ 32
    let put (off : Nat) (bs : List Byte) : List Byte := b.take off ++ bs ++ b.drop (off + bs.length)
    let report : List Byte := s.dev.report (b.take (f 64 1))
    b.length = 256 →
    (pf → s.confOk (f 0 1) b = true → ∃ t, exec .config s = .next t ∧
      (s.updPart (f 0 1) (fun x => { x with pending := some (confOf b) })).MbEnds t 0 0) ∧
    (pf → s.confOk (f 0 1) b = false → ∃ t, exec .config s = .next t ∧ s.MbEnds t 0 1) ∧
    (pf → f 0 1 < 32 → (s.part (f 0 1)).conf.fabric.length = 18 → ∃ t, exec .readcfg s = .next t ∧ s.MbAnswers t 0 0 ((s.part (f 0 1)).conf.bytes (f 0 1))) ∧
    (pf → 32 ≤ f 0 1 → ∃ t, exec .readcfg s = .next t ∧ s.MbEnds t 0 1) ∧
    (pf → f 0 2 ≤ 336 → ∃ t, exec .setwin s = .next t ∧ ({ s with dev := { s.dev with arbW := f 0 2 } } : State).MbEnds t 0 0) ∧
    (pf → 336 < f 0 2 → ∃ t, exec .setwin s = .next t ∧ s.MbEnds t 0 1) ∧
    (pf ∨ vf → 64 < f 64 1 → ∃ t, exec .attest s = .next t ∧ s.MbEnds t e.a 1) ∧
    (pf → f 64 1 ≤ 64 → 384 * 2 ^ 31 < f 72 8 + report.length → ∃ t, exec .attest s = .next t ∧ s.MbEnds t 0 1) ∧
    (∀ vf1, (vf ∧ vf1 = some p) ∨ (pf ∧ vf1 = none ∧ f 72 8 + report.length ≤ 384 * 2 ^ 31) → f 64 1 ≤ 64 →
      let put := s.mbStore vf1 (f 72 8) report
      (∀ x, put = .error x → exec .attest s = .next (s.waitFor .attest x)) ∧
      (∀ u, put = .ok u → ∃ t, exec .attest s = .next t ∧ u.MbEnds t e.a 0 ∧ u.tasks = s.tasks ∧
        (pf → (∀ h, s.Plain h) → Written s.mem u.mem (f 72 8) report)) ∧
      ((∀ h, s.Plain h ∧ s.homeHold h = none) → ∃ u, put = .ok u)) ∧
    (vf → 4096 ≤ f 0 2 → ∃ t, exec .tensor s = .next t ∧ s.MbEnds t e.a 1) ∧
    (vf → f 0 2 < 4096 → q.tensorRefuses (f 0 2) ((b.drop 64).take 64) = true → ∃ t, exec .tensor s = .next t ∧ s.MbAnswers t e.a 0 (put 0 [0#8])) ∧
    (vf → f 0 2 < 4096 → q.tensorRefuses (f 0 2) ((b.drop 64).take 64) = false → ∃ t, exec .tensor s = .next t ∧
      (s.setTensor p (f 0 2) (entryOf ((b.drop 64).take 64))).MbAnswers t e.a 0 (put 0 [1#8])) ∧
    (vf → 4096 ≤ f 0 2 → ∃ t, exec .tidread s = .next t ∧ s.MbEnds t e.a 1) ∧
    (vf → f 0 2 < 4096 → ∃ t, exec .tidread s = .next t ∧ s.MbAnswers t e.a 0 (put 64 (entBytes (tget [] q.tensors (f 0 2)) ++ List.replicate 64 0#8 |>.take 64))) ∧
    (vf → 4096 ≤ q.syncs.length → ∃ t, exec .syncnew s = .next t ∧ s.MbAnswers t e.a 0 (put 0 [0xFF#8, 0xFF#8])) ∧
    (vf → q.syncs.length < 4096 → ∃ t id, exec .syncnew s = .next t ∧ id < 4096 ∧ (∀ o ∈ q.syncs, o.id ≠ id) ∧
      (s.updPart p (fun x => { x with syncs := x.syncs ++ [⟨id, none, [], [], []⟩] })).MbAnswers t e.a 0 (put 0 (leBytes 2 id))) ∧
    (let id := f 0 2
     (vf → (∀ o ∈ q.syncs, o.id ≠ id) → ∃ t, exec .syncfree s = .next t ∧ s.MbEnds t e.a 1) ∧
     (∀ o, vf → q.syncs.find? (fun o => o.id == id) = some o →
       let used : Prop := (∃ x ∈ q.bindings, x.sync = id) ∨ o.excl ≠ none ∨ o.shared ≠ []
       (used → ∃ t, exec .syncfree s = .next t ∧ s.MbEnds t e.a 1) ∧
       (¬used → o.rs ≠ [] → exec .syncfree s = .next { s with agenda := s.agenda ++ [{ op := .syncfree, arg := e, due := s.clock }] }) ∧
       (¬used → o.rs = [] → ∃ t, exec .syncfree s = .next t ∧
         (s.updPart p (fun x => { x with syncs := x.syncs.filter (fun o => o.id != id) })).MbEnds t e.a 0)))

/-- R322, R323, R335: a suspended partition has its spans pre-empted and its interrupts logged, in order, with the overflow bit when the log is
full; a resumed one has its spans restored, and its logged vectors sent in order. -/
def Claims.Suspension : Prop :=
  ∀ (s : State),
    let e := s.ctx.ev
    let p := field (s.mbox e.a).buf 0 1
    let known : Prop := p < 32 ∧ ((s.part p).configured = true ∨ (s.part p).pending ≠ none)
    let mine (c : Crew) : Prop := c ∈ s.allCrews ∧ c.part = p ∧ c.retired = false
    let asks (t : State) (op : Instr) (c : Crew) : Prop := ∃ x ∈ t.agenda, x.op = op ∧ x.arg.a = c.task ∧ x.arg.b = c.span
    let ends (t : State) (k : Nat) : Prop := ∃ x ∈ t.agenda, x.op = .mailboxDone ∧ x.arg.a = 0 ∧ x.arg.b = 0 ∧ x.arg.c = p ∧ x.arg.d = k
    let q := s.part e.a
    (e.a = 0 → ¬known → (∃ t, exec .suspend s = .next t ∧ s.MbEnds t 0 1) ∧ ∃ t, exec .resume s = .next t ∧ s.MbEnds t 0 1) ∧
    (e.a = 0 → known → ∃ t, exec .suspend s = .next t ∧ t = { s.updPart p (fun x => { x with suspended := true }) with agenda := t.agenda } ∧ ends t 1 ∧
      ∀ c, mine c → c.saved = false → asks t .preemptRequest c) ∧
    (e.a = 0 → known → ∃ t, exec .resume s = .next t ∧ t = { s.updPart p (fun x => { x with suspended := false }) with agenda := t.agenda } ∧ ends t 2 ∧
      (∀ c, mine c → c.saved = true → asks t .restore c) ∧ ∃ x ∈ t.agenda, x.op = .interruptLogDelivery ∧ x.arg.a = p) ∧
    (q.suspended = true ∨ q.ilogCount = 0 → exec .interruptLogDelivery s = .next s) ∧
    (q.suspended = false → q.ilogCount ≠ 0 → ∃ u, exec .interruptLogDelivery s = .next u ∧ u.mem = s.mem ∧
      (u.part e.a).ilogHead = (q.ilogHead + 1) % 256 ∧ (u.part e.a).ilogCount = q.ilogCount - 1 ∧ (u.part e.a).ilog = q.ilog ∧
      s.Raised u e.a (field (tget [] q.ilog q.ilogHead) 8 1) ∧ ∃ x ∈ u.agenda, x.op = .interruptLogDelivery ∧ x.arg.a = e.a) ∧
    -- an interrupt while suspended (R323)
    (∀ v, q.suspended = true →
      (q.ilogCount < 256 → ∃ u, s.irq e.a v = u ∧ u.dev = s.dev ∧ (u.part e.a).ilogCount = q.ilogCount + 1 ∧
        tget [] (u.part e.a).ilog ((q.ilogHead + q.ilogCount) % 256) = leBytes 8 s.clock ++ [BitVec.ofNat 8 v] ++ List.replicate 7 0#8) ∧
      (256 ≤ q.ilogCount → ∃ u, s.irq e.a v = u ∧ u.dev = s.dev ∧ (u.part e.a).ilogOvf = true ∧ (u.part e.a).ilog = q.ilog))

/-- R16, R324, R332, R335, R357: a reset of a partition, asked for by the mailbox or by a function-level reset, stops it; when no step of its bank
commands is in progress and its reports can be written, its crews with their commands and translations are gone, a bank command that had begun gets
its status with CAUSE 4, its tasks are reported as aborted, its objects, registers and logs are at their reset values, a new configuration is in
effect, vector 0 is raised, and no other partition's objects have changed. That the status has CODE 4 is the model's choice (log entry 12). That
the registers of the virtual function are at their reset values after it is the model's reading (log entry 46). -/
def Claims.PartitionResets : Prop :=
  ∀ (s : State),
    let e := s.ctx.ev
    let p := field (s.mbox e.a).buf 0 1
    let known : Prop := p < 32 ∧ ((s.part p).configured = true ∨ (s.part p).pending ≠ none)
    let q := s.part e.a
    let step : Prop := ∃ k ∈ s.banks, k.part = e.a ∧ k.lease ≠ none
    let begun := s.banks.filter (fun k => k.part == e.a && !k.ended && (k.running || k.suspended))
    let mute : Prop := ∀ t ∈ s.tasks, t.part = e.a → t.report = 0
    (e.a = 0 → ¬known → ∃ t, exec .reset s = .next t ∧ s.MbEnds t 0 1) ∧
    (e.a = 0 → known → ∃ t, exec .reset s = .next t ∧ t.mem = s.mem ∧ s.ResetBegun t p ∧
      ∃ x ∈ t.agenda, x.op = .mailboxDone ∧ x.arg.a = 0 ∧ x.arg.b = 0 ∧ x.arg.c = p ∧ x.arg.d = 3) ∧
    (e.a < 32 → ∃ t, exec .functionLevelReset s = .next t ∧ t.mem = s.mem ∧ s.ResetBegun t e.a) ∧
    (32 ≤ e.a → exec .functionLevelReset s = .next s) ∧
    (q.resetting = false → exec .partitionResetDone s = .next s) ∧
    (q.resetting = true → step →
      exec .partitionResetDone s = .next { s with agenda := s.agenda ++ [{ op := .partitionResetDone, arg := e, due := s.clock }] }) ∧
    (∀ w, q.resetting = true → ¬step → s.resetHold e.a = some w → exec .partitionResetDone s = .next (s.waitFor .partitionResetDone w)) ∧
    (mute → s.resetHold e.a = none) ∧
    (q.resetting = true → ¬step → s.resetHold e.a = none → ∃ u, exec .partitionResetDone s = .next u ∧
      (∀ c ∈ u.allCrews, c.part ≠ e.a) ∧ (∀ c ∈ s.crews, (∀ x ∈ s.allCrews, x.part = e.a → x.id ≠ c.id) → ∃ c1 ∈ u.crews, c1.id = c.id ∧ c1.part = c.part) ∧
      (∀ t ∈ u.tasks, t.part ≠ e.a) ∧ (∀ t ∈ s.tasks, (∀ x ∈ s.tasks, x.part = e.a → x.id ≠ t.id) → t ∈ u.tasks) ∧
      (∀ k, (k ∈ u.copies → ∀ c ∈ s.allCrews, c.part = e.a → k.crew ≠ c.id) ∧ (k ∈ s.copies → (∀ c ∈ s.allCrews, c.part = e.a → k.crew ≠ c.id) → k ∈ u.copies)) ∧
      (∀ x, x ∈ u.tlb1 ↔ x ∈ s.tlb1 ∧ x.part ≠ e.a) ∧ (∀ x, x ∈ u.tlb2 ↔ x ∈ s.tlb2 ∧ x.part ≠ e.a) ∧
      (∀ i, i ≠ e.a → (u.part i).tensors = (s.part i).tensors ∧ (u.part i).syncs = (s.part i).syncs ∧ (u.part i).queues = (s.part i).queues ∧
        (u.part i).conf = (s.part i).conf) ∧
      (let r := u.part e.a
       r.conf = q.pending.getD q.conf ∧ r.pending = none ∧ r.configured = (q.configured || q.pending.isSome) ∧ r.suspended = false ∧ r.halted = false ∧
       r.resetting = false ∧ r.tensors = [] ∧ r.syncs = [] ∧ r.bindings = [] ∧ r.events = [] ∧ r.queues = [] ∧ r.ilog = [] ∧ r.ilogCount = 0 ∧
       r.iflog = [] ∧ r.ifUnread = 0 ∧ r.trees = [] ∧ r.deriveds = [] ∧ r.order = [] ∧
       (mute → begun = [] → ∀ x, x ∈ r.regions ↔ ∃ y ∈ q.regions, y.logs ≠ [] ∧ x = { y with dying := true, repacks := [] }) ∧
       ((q.pending.getD q.conf).mate = none → (e.a, 0) ∈ u.dev.irqs)) ∧
      u.mbox (e.a + 1) = Mailbox.blank ∧ (mute → begun = [] → ∀ a < 2 ^ 60, u.mem.get a = s.mem.get a) ∧
      ∀ k h, mute → begun = [k] → s.Lies e.a k.rwin 8 h → ∀ a < 2 ^ 60, u.mem.get a =
        if h ≤ a ∧ a < h + 8 then ([4, 4] ++ leBytes 2 (min 65535 k.npois) ++ leBytes 4 k.first).getD (a - h) 0 else s.mem.get a)

/-- R36, R329, R330, R334, R335: what a read of BAR0 shows. That `MBCMD` reads 0 is the model's choice (log entry 62). -/
def Claims.RegisterReads : Prop :=
  ∀ (s : State) (fn p n : Nat),
    let d := s.dev
    let q := (s.part p).cq n
    let x := s.part p
    let r (off : Nat) : Nat := s.reg32 (p + 1) off
    let b (c : Bool) : Nat := if c then 1 else 0
    p < 32 → n < 16 →
    (d.level < 8 → d.bootst < 16 → d.chan < 512 → d.walk < 32 → d.cpe < 64 → d.cores < 256 → d.spare0 < 16 → d.spare1 < 16 → d.stacked < 16 →
      d.tempc < 256 → s.reg32 fn 0x100 + 2 ^ 32 * s.reg32 fn 0x104 = b d.serviceReq * 2 ^ 63 + d.level * 2 ^ 60 + d.bootst * 2 ^ 56 + d.chan * 2 ^ 47 +
        d.walk * 2 ^ 42 + d.cpe * 2 ^ 36 + d.cores * 2 ^ 28 + d.spare0 * 2 ^ 24 + d.spare1 * 2 ^ 20 + d.stacked * 2 ^ 16 + d.tempc * 2 ^ 8) ∧
    r (0x1000 + 64 * n) + 2 ^ 32 * r (0x1004 + 64 * n) = q.qbase.toNat ∧
    (q.log2n < 32 → r (0x1008 + 64 * n) = b q.en * 2 ^ 31 + q.log2n) ∧ r (0x100C + 64 * n) = q.head.toNat ∧ r (0x1010 + 64 * n) = q.tail.toNat ∧
    (q.cause < 256 → r (0x1014 + 64 * n) = b q.err * 2 ^ 31 + q.cause * 2 ^ 8) ∧
    (∀ i < 4096, r (0x8000 + 8 * i) + 2 ^ 32 * r (0x8004 + 8 * i) = (tget 0 x.events i : Quad).toNat) ∧
    ((s.mbox fn).cmd < 256 → (s.mbox fn).result < 256 →
      s.reg32 fn 0x3004 = b (s.mbox fn).busy * 2 ^ 31 + (s.mbox fn).cmd * 2 ^ 8 + (s.mbox fn).result) ∧
    s.reg32 fn 0x3000 = 0 ∧ (∀ i < 64, s.reg32 fn (0x3100 + 4 * i) = field (s.mbox fn).buf (4 * i) 4) ∧
    (∀ i < 256, ∀ k < 4, r (0x4000 + 16 * i + 4 * k) = field (tget [] x.ilog i) (4 * k) 4) ∧
    (∀ i < 256, ∀ k < 8, r (0x5000 + 32 * i + 4 * k) = field (tget [] x.iflog i) (4 * k) 4) ∧
    (x.ilogCount ≤ 256 → x.ilogHead < 256 → r 0x7000 = b x.ilogOvf * 2 ^ 31 + x.ilogCount * 2 ^ 8 + x.ilogHead) ∧
    (x.ifUnread ≤ 256 → x.ifWr < 256 → x.ifRd < 256 → r 0x7008 = b x.ifOvf * 2 ^ 31 + x.ifUnread * 2 ^ 16 + x.ifWr * 2 ^ 8 + x.ifRd) ∧
    r 0x208 = 0 ∧ r 0x2000 = 0 ∧ s.reg32 0 0x208 = d.xlpart % 32 ∧ s.reg32 0 0x1000 = 0

/-- The registers of BAR0, written and read, and the invalidations. -/
def Obligations.HostRegisters : Prop :=
  Claims.QueueRegisters ∧ Claims.OtherRegisters ∧ Claims.RegisterReads ∧ Claims.Invalidations

/-- Command queues, signals and events. -/
def Obligations.HostQueues : Prop :=
  Claims.EntryChecks ∧ Claims.QueueEntries ∧ Claims.SignalsAndEvents

/-- The mailbox and its commands. -/
def Obligations.Mailbox : Prop :=
  Claims.MailboxRules ∧ Claims.ConfigurationLimits ∧ Claims.MailboxCommands

/-- Suspension, resumption and reset of a partition. -/
def Obligations.SuspensionAndReset : Prop :=
  Claims.Suspension ∧ Claims.PartitionResets

/-! ### The machine as a whole -/

namespace Sys2Proof.Machine

/-- The word at a place of the issuing stream's code: four bytes, little-endian, 12 bytes to a packet (R3, R69). -/
def State.FetchesWord (f : State) (c : Pc) (w : Word) : Prop :=
  ∃ b0 b1 b2 b3 : Byte, f.gread f.crew.part (f.codeBase f.crew f.me.sid + 12 * c.packet + 4 * c.slot) 4 = some [b0, b1, b2, b3] ∧
    w.toNat = b0.toNat + 2 ^ 8 * b1.toNat + 2 ^ 16 * b2.toNat + 2 ^ 24 * b3.toNat

end Sys2Proof.Machine

/-- R69 to R90: words written out from the encodings of spec/ and the instructions they stand for. -/
def Obligations.DecodeWords : Prop :=
  let reads (w : Word) (i : Instr) : Prop := (decodeWord w).map Prod.snd = some i
  reads 0x12894084#32 (.iaddImm 10#6 2#6 0#1) ∧ reads 0x0148C17C#32 (.stS4 6#6 2#6 15#4 0#1) ∧ reads 0x01608510#32 (.atomAdd 4#6 10#6 2#4 0#1) ∧
  reads 0x001A801C#32 (.call 5#4 0#3 28#12) ∧ reads 0x00010822#32 (.srd 8#6 34#8) ∧ reads 0x8008061A#32 .imx ∧ reads 0x0180A00B#32 (.bwait 5#6 1#3) ∧
  reads 0x0190001C#32 .fence ∧ reads 0x01C90003#32 (.commit 8#6) ∧ reads 0x01F08000#32 (.bkcmd 4#6) ∧ reads 0x01E0C281#32 (.rank1 6#6 5#6 0#4) ∧
  reads 0x01F8C2FA#32 (.dquery 6#6 5#6 15#4)

/-- R70 to R90: the word of every instruction, with every operand at every value the encoding admits, under every header, reads back as that
header and that instruction. -/
def Obligations.EncodeDecode : Prop :=
  ∀ (h : Hdr) (i : Instr), i.isWord = true → i.wf = true → (i = .fence → h.imm.toNat % 8 < 5) →
    decodeWord (encode h i) = some ({ h with imm := keptImm h.imm i }, i)

/-- R70 to R91: a word that the decoder reads is the word of what it read, so that no bit of a word is dropped and no two words read as one. -/
def Obligations.DecodeEncode : Prop :=
  ∀ (w : Word) (h : Hdr) (i : Instr), decodeWord w = some (h, i) → encode h i = w ∧ i.wf = true ∧ i.isWord = true

/-- Every instruction, and every step of the device, answers a next state: none is refused and none faults. -/
def Claims.EveryStepAnswers : Prop := ∀ (i : Instr) (s : State), ∃ t, exec i s = .next t

/-- R69, R105, R112: where the bytes at the head's PC are a word that decodes to an instruction (a packet is fetched whole), and the stream is the one that issues, a step is
`exec` of that instruction on that stream, with what an issue leaves around it; a device step whose turn it is is `exec` of it; and where
no stream can issue the cycle ends. -/
def Obligations.StepRunsDecoded : Prop :=
  ∀ (s : State),
    let s0 : State := { s with picks := s.picks.drop 1, ctx := Ctx.blank }
    (∀ (r : Ref) (e : Entry) (w : Word) (h : Hdr) (i : Instr),
      let f := s0.focus r
      let c : State := { f with ctx := { f.ctx with slot := 0, len := 1, imm := h.imm, lit := none } }
      s.turn = none → s0.nextIssue = some r → r ∈ s0.refs → f.me.head = some e → e.pc.slot < 3 → e.pc.packet < f.packets → f.FetchesWord e.pc w →
      (∀ j, e.pc.slot < j → j < 3 → ∃ w1, f.FetchesWord ⟨e.pc.packet, j⟩ w1) →
      w.getLsbD 31 = false → decodeWord w = some (h, i) → i ≠ .imx → f.me.asyncs = [] → c.waits i = false →
      (∀ t, exec i c = .next t → step s = .next (f.issued [(w, i)] t)) ∧ (∀ x, exec i c = .fault x → step s = .fault x) ∧
      ∀ x, exec i c = .refused x → step s = .refused x) ∧
    (∀ k x, s.turn = some k → s.agenda[k]? = some x → step s = exec x.op { s with
      picks := s.picks.drop 1
      tries := s.tries - 1
      agenda := s.agenda.eraseIdx k
      ctx := { Ctx.blank with ev := x.arg, wait := x.wait, since := x.due } }) ∧
    (s.turn = none → s0.nextIssue = none → step s = .next s0.tick)

/-- R69, R105, R107, R112, R119, R120, R207: what an issue of one word leaves beside its effect. Lanes that stand where they stood go on at the
next word, unless the word moves them itself; the frontier stays in order; the stream has issued in this cycle, loses its promotion and is marked
where the word says so; a word that has trapped in some lane does not count for `CLOCK`; registers, results and memory are as the word left them.
That a chain that traps in some of its lanes counts none of its words is the model's reading (log entry 34). -/
def Claims.IssueAdvances : Prop :=
  ∀ (f t : State) (w : Word) (i : Instr),
    let u := f.issued [(w, i)] t
    (movesPc i = true → u.me.frontier = t.me.frontier) ∧
    (movesPc i = false → FrontierOk t.me.frontier → FrontierOk u.me.frontier ∧ ∀ l < 32,
      u.me.place l = if t.me.place l = some (f.pc0, f.prio0, .ready) then some (f.pc0.succ, f.prio0, .ready) else t.me.place l) ∧
    u.me.lastIssue = some f.clock ∧ u.me.promoted = none ∧ u.me.ymark = w.getLsbD 30 ∧ u.me.v = t.me.v ∧ u.me.k = t.me.k ∧ u.me.p = t.me.p ∧
    u.me.pend = t.me.pend ∧ u.me.cf = t.me.cf ∧ u.mem = t.mem ∧ u.parts = t.parts ∧ u.crew = t.crew ∧ u.crews = t.crews ∧ u.clock = t.clock ∧
    (t.crew.recWait.length ≤ f.crew.recWait.length → u.me.issued = t.me.issued + 1) ∧
    (f.crew.recWait.length < t.crew.recWait.length → u.me.issued = t.me.issued)

/-- R70, R71, R74, R112, R117 to R119, R221, R222, R269, R312, R385: a chain that issues meets every condition of issue: its crew is placed and not
being pre-empted, its stream is not stopped, its partition runs, D cycles have passed, the flags of W are 0, no marker holds it, its pipes are
free, no counter would pass 63, no page that a lane of the head names, guarded or not, misses the TLB, the write buffer has room, and the engine it
goes to takes one more. -/
def Claims.Eligibility : Prop :=
  ∀ (s : State) (cs : List (State × Word × Instr)), s.plan = .run cs →
    ∃ ws : List Word, ws ≠ [] ∧ cs.map (fun c => c.2.1) = ws ∧
      s.crew.saved = false ∧ s.crew.stopAt = none ∧ s.crew.retired = false ∧ s.me.stopped = false ∧ s.me.retired = false ∧ s.me.blocked = none ∧
      s.me.yieldUntil ≤ s.clock ∧ s.myPart.halted = false ∧ s.myPart.suspended = false ∧ s.myPart.resetting = false ∧
      (∃ e, s.me.head = some e ∧ e.spilled = false ∧ e.pc.packet < s.packets) ∧
      (∀ n, s.me.lastIssue = some n → n + [1, 2, 4, 6].getD ((ws.headD 0).toNat / 2 ^ 28 % 4) 0 ≤ s.clock) ∧
      (∀ k < 12, s.waitMask ((ws.headD 0).toNat / 2 ^ 25 % 8) / 2 ^ k % 2 = 1 → s.me.cfGet k = 0) ∧
      ¬(s.me.ymark = true ∧ (∃ p ∈ s.me.pend, p.reg = true)) ∧
      (∀ w ∈ ws, pipeOf w ≠ .none → tget 0 s.pipeFree (8 * s.myPort + (pipeOf w).num) ≤ s.clock) ∧
      (∀ w ∈ ws, ∀ k, flagField w = some k → s.me.cfGet k < 63) ∧
      ∀ c ∈ cs, c.1.me.bufferUsed + c.1.bufferNeed c.2.1 ≤ 64 ∧ c.1.waits c.2.2 = false ∧ c.1.descWaits c.2.2 = false ∧
        (∀ nib, gForm c.2.1 = some nib → ∀ l ∈ c.1.headLanes,
          let ea := (c.1.eaG (wordA c.2.1) l).toNat
          ea / 2 ^ 63 = 0 → ea / 2 ^ 58 % 32 = 0 → (nib = true ∨ ea / 2 ^ 57 % 2 = 0) →
            tlbFind c.1.tlb1 c.1.crew.core c.1.crew.part (ea / 2 ^ 16 % 2 ^ 41 * 65536) ≠ none) ∧
        (∀ x y, c.2.2 = .copy x y ∨ c.2.2 = .xform x y → (c.1.copies.filter (fun k => k.crew == c.1.crew.id)).length < 16) ∧
        (∀ x y, c.2.2 = .wquery x y ∨ c.2.2 = .wappend x y → c.1.walkerCommands < 16)

/-- R120, R122: a port picks a promoted stream first, the earliest promoted; then the higher level, the older crew, the lower group; in
deterministic mode the first in slot order after the last that issued. That slots are counted by crew slot and then by stream, and that crews
placed in one cycle are equally old, is the model's choice (log entry 37). -/
def Claims.PickOrder : Prop :=
  ∀ (l : List Cand) (last : Nat) (c : Cand),
    (pickOf false last l = some c → c ∈ l ∧ ∀ x ∈ l,
      (c.promoted = none → x.promoted = none) ∧
      (∀ n m, c.promoted = some n → x.promoted = some m → n ≤ m ∧ (n = m → c.place ≤ x.place)) ∧
      (c.promoted = none → x.level ≤ c.level ∧ (x.level = c.level → c.placed ≤ x.placed ∧ (x.placed = c.placed → c.sid ≤ x.sid)))) ∧
    (pickOf true last l = some c → c ∈ l ∧
      (last < c.place → ∀ x ∈ l, last < x.place → c.place ≤ x.place) ∧
      (c.place ≤ last → ∀ x ∈ l, x.place ≤ last ∧ c.place ≤ x.place)) ∧
    (∀ d, pickOf d last l = none ↔ l = [])

/-- R77, R115: a write that reaches its register is performed, unless a later word, or a word of a higher slot of its chain, has written that
register: that of the later word in this cycle, that of the higher slot in any. That the higher slot prevails whatever the latencies is the model's
reading of R77 (log entry 11). -/
def Claims.WriteOrder : Prop :=
  ∀ (t : Stream) (now issue slot : Nat) (w : RegWrite),
    let u := t.land now issue slot [w]
    let later : Prop := ∃ e ∈ t.wrote, e.w.same w = true ∧ ((e.cyc = now ∧ issue < e.issue) ∨ (e.issue = issue ∧ slot < e.slot))
    (later → u.v = t.v ∧ u.k = t.k ∧ u.p = t.p ∧ u.wrote = t.wrote) ∧
    (¬later → u.v = (t.write w).v ∧ u.k = (t.write w).k ∧ u.p = (t.write w).p ∧ u.wrote = t.wrote ++ [⟨now, issue, slot, w⟩]) ∧
    u.pend = t.pend ∧ u.frontier = t.frontier ∧ u.cf = t.cf ∧
    (∀ x y : RegWrite, x.same y = true → ∀ s : Stream, ((s.write x).write y).v = (s.write y).v ∧ ((s.write x).write y).k = (s.write y).k ∧
      ((s.write x).write y).p = (s.write y).p)

/-- R109, R115, R120, R215: the end of a cycle advances the clock by one, and every fixed-latency result that is due then writes back; a new level
is in effect, and entries released or resumed in the cycle before are ready; a stream changes in nothing else but its count of eligible cycles. -/
def Claims.CycleEnds : Prop :=
  ∀ (s : State) (r : Ref) (t : Stream),
    let s0 := s.unfocus
    let n := s.clock + 1
    let now (p : Pend) : Prop := ∃ d, p.due = some d ∧ d ≤ n
    r.crew ≠ 0 → s0.crews.Pairwise (fun a b => a.id ≠ b.id) → (∀ c ∈ s0.crews, c.late = []) → s0.streamOf r = some t →
    t.pend.Pairwise (fun a b => a.id ≠ b.id) →
    s.tick.clock = n ∧ s.tick.mem = s.mem ∧ s.tick.parts = s.parts ∧ s.tick.dev = s.dev ∧
    ∃ u, s.tick.streamOf r = some u ∧ u = { t with
        v := u.v
        k := u.k
        p := u.p
        cf := u.cf
        pend := u.pend
        wrote := u.wrote
        level := t.newLevel.getD t.level
        newLevel := none
        frontier := t.turnOver.frontier
        eligFor := u.eligFor
        promoted := u.promoted } ∧
      ((∀ e ∈ t.frontier, e.st ≠ .resuming) → u.frontier = t.frontier) ∧
      (∀ p, p ∈ u.pend ↔ p ∈ t.pend ∧ ¬now p) ∧
      ((∀ p ∈ t.pend, ¬now p) → u.v = t.v ∧ u.k = t.k ∧ u.p = t.p ∧ u.cf = t.cf) ∧
      (∀ p, p ∈ t.pend → now p → t.wrote = [] → (∀ q ∈ t.pend, now q → q = p) →
        u.v = (t.writes p.writes).v ∧ u.k = (t.writes p.writes).k ∧ u.p = (t.writes p.writes).p)

/-- The only way in which a step does not go on is the fetch of a word whose page is not mapped to package memory, by the stream whose turn it is. -/
def Claims.StepOutcomes : Prop :=
  ∀ (s : State),
    let s0 : State := { s with picks := s.picks.drop 1, ctx := Ctx.blank }
    (∃ t, step s = .next t) ∨ ∃ p r, step s = .fault (.codeUnmapped p) ∧ s.turn.bind (fun k => s.agenda[k]?) = none ∧ s0.nextIssue = some r ∧
      (s0.focus r).headChain (s0.focus r).crew (s0.focus r).me = none

/-- R154: no word but `LAUNCH`, whose refusal is reported at once, changes memory or the clock when it issues: what it stores waits for a step of
its own. -/
def Obligations.WordsLeaveMemory : Prop :=
  ∀ (i : Instr) (s t : State), i.isWord = true → (∀ x, i ≠ .launch x) → exec i s = .next t → t.mem = s.mem ∧ t.clock = s.clock

/-- Every step keeps memory in its one canonical form: rising addresses, and no entry equal to what an unlisted byte reads as. -/
def Obligations.StepKeepsMemory : Prop := ∀ (s t : State), s.Inv → step s = .next t → t.Inv

/-- R36, R330, R332, R334, R335, R352: what device reset leaves, where the spec gives a value, and that memory has its canonical form. -/
def Obligations.ResetState : Prop :=
  let s := State.reset
  s.Inv ∧ s.dev.serviceReq = false ∧ s.dev.level = 0 ∧ s.dev.bootst = 0 ∧ s.dev.chan = 0 ∧ s.dev.walk = 0 ∧ s.dev.cpe = 0 ∧ s.dev.cores = 0 ∧
  s.dev.spare0 = 8 ∧ s.dev.spare1 = 8 ∧ s.dev.stacked = 0 ∧ s.crews = [] ∧ s.tasks = [] ∧
  ∀ p < 32, ∀ n < 16, (s.part p).cq n = CmdQueue.blank ∧ (s.part p).ilogCount = 0 ∧ (s.part p).ifUnread = 0 ∧ s.mbox (p + 1) = Mailbox.blank ∧
    (∀ i < 4096, tget 0 (s.part p).events i = (0 : Quad)) ∧ ∀ k < 6144, tget Berr.blank s.dev.berr k = Berr.blank

/-- What an issue leaves, which of two writes prevails, and what the end of a cycle brings. -/
def Obligations.IssueAndCycle : Prop :=
  Claims.IssueAdvances ∧ Claims.WriteOrder ∧ Claims.CycleEnds

/-- When a chain may issue, and which one is picked. -/
def Obligations.IssueRules : Prop :=
  Claims.Eligibility ∧ Claims.PickOrder

/-- Every instruction answers, and a step stops in one case only. -/
def Obligations.StepAnswers : Prop :=
  Claims.EveryStepAnswers ∧ Claims.StepOutcomes
end

