-- ==== Sys2Proof/Laws/Table.lean ====
section
/-! SUPPORT. Laws of sparse tables and of memory: a read after a write, writes elsewhere, and that every operation keeps the
canonical form, in which equal tables are equal data. -/

namespace Sys2Proof.Machine

section
variable {α : Type} [DecidableEq α] (d : α)

/-! ### Reading after writing -/

omit [DecidableEq α] in
theorem tget_tdel (t : List (Nat × α)) (k j : Nat) : tget d (tdel t k) j = if k = j then d else tget d t j := by
  induction t with
  | nil => simp [tdel, tget]
  | cons p t ih =>
    simp only [tdel]
    split
    · next e =>
      rw [ih, tget]
      split
      · rfl
      · next hne => rw [if_neg (by omega)]
    · next e =>
      simp only [tget, ih]
      split
      · next e' => rw [if_neg (by omega)]
      · rfl

omit [DecidableEq α] in
theorem tdel_keys {t : List (Nat × α)} {k : Nat} : ∀ p ∈ tdel t k, p.1 ≠ k := by
  induction t with
  | nil => simp [tdel]
  | cons p t ih =>
    simp only [tdel]
    split
    · exact ih
    · next e =>
      intro q hq
      rcases List.mem_cons.mp hq with h | h
      · subst h; exact e
      · exact ih q h

omit [DecidableEq α] in
theorem tget_tput {t : List (Nat × α)} {k : Nat} (x : α) (h : ∀ p ∈ t, p.1 ≠ k) (j : Nat) :
    tget d (tput t k x) j = if k = j then x else tget d t j := by
  induction t with
  | nil => rfl
  | cons p t ih =>
    simp only [tput]
    split
    · rfl
    · simp only [tget, ih (fun q hq => h q (List.mem_cons_of_mem _ hq))]
      have := h p (List.mem_cons_self ..)
      by_cases e : k = j
      · subst e; simp [this]
      · simp [e]

theorem tget_tset (t : List (Nat × α)) (k j : Nat) (x : α) : tget d (tset d t k x) j = if k = j then x else tget d t j := by
  unfold tset
  split
  · next e => rw [tget_tdel, e]
  · rw [tget_tput d x tdel_keys, tget_tdel]
    split <;> rfl

/-- A read after a write of the same key gives the value written. -/
@[simp] theorem tget_tset_same (t : List (Nat × α)) (k : Nat) (x : α) : tget d (tset d t k x) k = x := by
  rw [tget_tset, if_pos rfl]

/-- A write leaves every other key alone. -/
theorem tget_tset_other (t : List (Nat × α)) {k j : Nat} (x : α) (hne : k ≠ j) : tget d (tset d t k x) j = tget d t j := by
  rw [tget_tset, if_neg hne]

/-! ### The canonical form -/

theorem twfFrom_mono {n m : Nat} {t : List (Nat × α)} (h : twfFrom d m t = true) (hn : n ≤ m) : twfFrom d n t = true := by
  cases t with
  | nil => rfl
  | cons p t =>
    simp only [twfFrom, Bool.and_eq_true, decide_eq_true_eq] at h ⊢
    exact ⟨⟨by omega, h.1.2⟩, h.2⟩

theorem twfFrom_tdel {n k : Nat} {t : List (Nat × α)} (h : twfFrom d n t = true) : twfFrom d n (tdel t k) = true := by
  induction t generalizing n with
  | nil => rfl
  | cons p t ih =>
    simp only [twfFrom, Bool.and_eq_true, decide_eq_true_eq] at h
    simp only [tdel]
    split
    · exact ih (twfFrom_mono d h.2 (by omega))
    · simp [twfFrom, h.1, ih h.2]

theorem twfFrom_tput {n k : Nat} {x : α} {t : List (Nat × α)} (h : twfFrom d n t = true) (hk : n ≤ k) (hx : x ≠ d)
    (hne : ∀ p ∈ t, p.1 ≠ k) : twfFrom d n (tput t k x) = true := by
  induction t generalizing n with
  | nil => simp [tput, twfFrom, hk, hx]
  | cons p t ih =>
    simp only [twfFrom, Bool.and_eq_true, decide_eq_true_eq] at h
    simp only [tput]
    have := hne p (List.mem_cons_self ..)
    split
    · next hlt => simp [twfFrom, hk, hx, h.1.2, h.2, Nat.succ_le_of_lt hlt]
    · simp [twfFrom, h.1, ih h.2 (by omega) (fun q hq => hne q (List.mem_cons_of_mem _ hq))]

/-- Writing keeps the canonical form. -/
theorem twf_tset {t : List (Nat × α)} (h : twf d t = true) (k : Nat) (x : α) : twf d (tset d t k x) = true := by
  unfold tset
  split
  · exact twfFrom_tdel d h
  · next hx => exact twfFrom_tput d (twfFrom_tdel d h) (Nat.zero_le k) hx tdel_keys

theorem tget_below {n k : Nat} {t : List (Nat × α)} (h : twfFrom d n t = true) (hk : k < n) : tget d t k = d := by
  induction t generalizing n with
  | nil => rfl
  | cons p t ih =>
    simp only [twfFrom, Bool.and_eq_true, decide_eq_true_eq] at h
    simp only [tget]
    rw [if_neg (by omega)]
    exact ih h.2 (by omega)

/-- Two tables in canonical form that read alike at every key are the same data. -/
theorem twf_ext {n : Nat} {t u : List (Nat × α)} (ht : twfFrom d n t = true) (hu : twfFrom d n u = true)
    (h : ∀ k, tget d t k = tget d u k) : t = u := by
  induction t generalizing n u with
  | nil =>
    cases u with
    | nil => rfl
    | cons p u =>
      simp only [twfFrom, Bool.and_eq_true, decide_eq_true_eq] at hu
      have := h p.1
      simp only [tget, if_pos] at this
      exact absurd this.symm hu.1.2
  | cons p t ih =>
    simp only [twfFrom, Bool.and_eq_true, decide_eq_true_eq] at ht
    have hp := h p.1
    simp only [tget, if_pos] at hp
    cases u with
    | nil => exact absurd hp ht.1.2
    | cons q u =>
      simp only [twfFrom, Bool.and_eq_true, decide_eq_true_eq] at hu
      have hq := h q.1
      have hk : p.1 = q.1 := by
        rcases Nat.lt_trichotomy p.1 q.1 with hl | he | hl
        · simp only [tget] at hp
          rw [if_neg (by omega), tget_below d hu.2 (by omega)] at hp
          exact absurd hp ht.1.2
        · exact he
        · simp only [tget, if_pos] at hq
          rw [if_neg (by omega), tget_below d ht.2 (by omega)] at hq
          exact absurd hq.symm hu.1.2
      simp only [tget, hk, if_pos] at hp
      have hpq : p = q := Prod.ext hk hp
      subst hpq
      congr 1
      refine ih ht.2 hu.2 (fun i => ?_)
      by_cases e : p.1 = i
      · subst e; rw [tget_below d ht.2 (by omega), tget_below d hu.2 (by omega)]
      · have := h i
        simpa [tget, e] using this

end

/-! ### Memory -/

@[simp] theorem Memory.wf_nil : Memory.wf [] = true := rfl

/-- Writing a byte keeps the canonical form. -/
@[simp] theorem Memory.wf_set {m : Memory} (h : m.wf = true) (a : Nat) (b : Byte) : (m.set a b).wf = true :=
  twf_tset memDefault h a b

/-- Writing bytes keeps the canonical form. -/
@[simp] theorem Memory.wf_put {m : Memory} (h : m.wf = true) (a : Nat) (bs : List Byte) : (m.put a bs).wf = true := by
  induction bs generalizing m a with
  | nil => exact h
  | cons b bs ih => exact ih (Memory.wf_set h a b) _

/-- Writing bytes under masks keeps the canonical form. -/
@[simp] theorem Memory.wf_putMasked {m : Memory} (h : m.wf = true) (a : Nat) (bs : List (Byte × Byte)) :
    (m.putMasked a bs).wf = true := by
  induction bs generalizing m a with
  | nil => exact h
  | cons b bs ih =>
    simp only [Memory.putMasked]
    refine ih ?_ _
    split
    · exact h
    · exact Memory.wf_set h _ _

@[simp] theorem Memory.get_set_same (m : Memory) (a : Nat) (b : Byte) : (m.set a b).get a = b :=
  tget_tset_same memDefault m a b

theorem Memory.get_set_other (m : Memory) {a c : Nat} (b : Byte) (hne : a ≠ c) : (m.set a b).get c = m.get c :=
  tget_tset_other memDefault m b hne

/-- A write of bytes leaves every byte outside its run alone. -/
theorem Memory.get_put_other (m : Memory) {a c : Nat} (bs : List Byte) (hc : c < a ∨ a + bs.length ≤ c) :
    (m.put a bs).get c = m.get c := by
  induction bs generalizing m a with
  | nil => rfl
  | cons b bs ih =>
    simp only [List.length_cons] at hc
    simp only [Memory.put]
    rw [ih _ (by omega), Memory.get_set_other _ b (by omega)]

/-- A read of a byte in the run of a write gives the byte written. -/
theorem Memory.get_put_in (m : Memory) (a : Nat) (bs : List Byte) {i : Nat} (hi : i < bs.length) :
    (m.put a bs).get (a + i) = bs[i] := by
  induction bs generalizing m a i with
  | nil => exact absurd hi (by simp)
  | cons b bs ih =>
    simp only [Memory.put]
    cases i with
    | zero =>
      simp only [Nat.add_zero, List.getElem_cons_zero]
      rw [Memory.get_put_other _ bs (by omega), Memory.get_set_same]
    | succ i =>
      have := ih (m.set a b) (a + 1) (i := i) (by simpa using hi)
      simpa [Nat.add_assoc, Nat.add_comm 1] using this

/-- A masked write leaves every byte outside its run alone. -/
theorem Memory.get_putMasked_other (m : Memory) {a c : Nat} (bs : List (Byte × Byte))
    (hc : c < a ∨ a + bs.length ≤ c) : (m.putMasked a bs).get c = m.get c := by
  induction bs generalizing m a with
  | nil => rfl
  | cons b bs ih =>
    simp only [List.length_cons] at hc
    simp only [Memory.putMasked]
    split
    · rw [ih m (by omega)]
    · rw [ih _ (by omega), Memory.get_set_other _ _ (by omega)]

/-- Bits outside a byte's mask keep their value; those in it take the value written (R159). -/
theorem Memory.get_putMasked_in (m : Memory) (a : Nat) (bs : List (Byte × Byte)) {i : Nat} (hi : i < bs.length) :
    (m.putMasked a bs).get (a + i) = (bs[i].1 &&& bs[i].2) ||| (m.get (a + i) &&& ~~~bs[i].2) := by
  induction bs generalizing m a i with
  | nil => exact absurd hi (by simp)
  | cons b bs ih =>
    simp only [Memory.putMasked]
    cases i with
    | zero =>
      split
      · next h0 =>
        simp only [Nat.add_zero, List.getElem_cons_zero]
        rw [Memory.get_putMasked_other _ bs (by omega), h0]
        simp only [BitVec.and_zero, BitVec.zero_or]
        exact (BitVec.and_allOnes (x := m.get a)).symm
      · simp only [Nat.add_zero, List.getElem_cons_zero]
        rw [Memory.get_putMasked_other _ bs (by omega), Memory.get_set_same]
    | succ i =>
      have e : a + (i + 1) = a + 1 + i := by omega
      rw [e]
      split
      · exact ih m (a + 1) (i := i) (by simpa using hi)
      · rw [ih _ (a + 1) (i := i) (by simpa using hi), Memory.get_set_other _ _ (by omega)]
        rfl

@[simp] theorem Memory.length_bytes (m : Memory) (a n : Nat) : (m.bytes a n).length = n := by
  induction n generalizing a with
  | zero => rfl
  | succ n ih => simp [Memory.bytes, ih]

end Sys2Proof.Machine
end

