-- ==== Sys2Proof/Laws/State.lean ====
section
/-! SUPPORT. What the updates of the state leave alone, one lemma for each field and update, and what they do to the field they
change. -/

namespace Sys2Proof.Machine

/-! ### `State.push` -/

@[simp] theorem State.push_clock (s : State) (op : Instr) (a : EvArg) : (s.push op a).clock = s.clock := rfl
@[simp] theorem State.push_mem (s : State) (op : Instr) (a : EvArg) : (s.push op a).mem = s.mem := rfl
@[simp] theorem State.push_me (s : State) (op : Instr) (a : EvArg) : (s.push op a).me = s.me := rfl
@[simp] theorem State.push_crew (s : State) (op : Instr) (a : EvArg) : (s.push op a).crew = s.crew := rfl
@[simp] theorem State.push_crews (s : State) (op : Instr) (a : EvArg) : (s.push op a).crews = s.crews := rfl
@[simp] theorem State.push_tasks (s : State) (op : Instr) (a : EvArg) : (s.push op a).tasks = s.tasks := rfl
@[simp] theorem State.push_parts (s : State) (op : Instr) (a : EvArg) : (s.push op a).parts = s.parts := rfl
@[simp] theorem State.push_dev (s : State) (op : Instr) (a : EvArg) : (s.push op a).dev = s.dev := rfl
@[simp] theorem State.push_copies (s : State) (op : Instr) (a : EvArg) : (s.push op a).copies = s.copies := rfl
@[simp] theorem State.push_banks (s : State) (op : Instr) (a : EvArg) : (s.push op a).banks = s.banks := rfl
@[simp] theorem State.push_queries (s : State) (op : Instr) (a : EvArg) : (s.push op a).queries = s.queries := rfl
@[simp] theorem State.push_tlb1 (s : State) (op : Instr) (a : EvArg) : (s.push op a).tlb1 = s.tlb1 := rfl
@[simp] theorem State.push_tlb2 (s : State) (op : Instr) (a : EvArg) : (s.push op a).tlb2 = s.tlb2 := rfl
@[simp] theorem State.push_eddy (s : State) (op : Instr) (a : EvArg) : (s.push op a).eddy = s.eddy := rfl
@[simp] theorem State.push_watch (s : State) (op : Instr) (a : EvArg) : (s.push op a).watch = s.watch := rfl
@[simp] theorem State.push_lastIssued (s : State) (op : Instr) (a : EvArg) : (s.push op a).lastIssued = s.lastIssued := rfl
@[simp] theorem State.push_pipeFree (s : State) (op : Instr) (a : EvArg) : (s.push op a).pipeFree = s.pipeFree := rfl
@[simp] theorem State.push_port (s : State) (op : Instr) (a : EvArg) : (s.push op a).port = s.port := rfl
@[simp] theorem State.push_ctx (s : State) (op : Instr) (a : EvArg) : (s.push op a).ctx = s.ctx := rfl
@[simp] theorem State.push_picks (s : State) (op : Instr) (a : EvArg) : (s.push op a).picks = s.picks := rfl
@[simp] theorem State.push_tries (s : State) (op : Instr) (a : EvArg) : (s.push op a).tries = s.tries := rfl
@[simp] theorem State.push_nextId (s : State) (op : Instr) (a : EvArg) : (s.push op a).nextId = s.nextId := rfl

/-! ### `State.pushAll` -/

@[simp] theorem State.pushAll_clock (s : State) (op : Instr) (l : List EvArg) : (s.pushAll op l).clock = s.clock := rfl
@[simp] theorem State.pushAll_mem (s : State) (op : Instr) (l : List EvArg) : (s.pushAll op l).mem = s.mem := rfl
@[simp] theorem State.pushAll_me (s : State) (op : Instr) (l : List EvArg) : (s.pushAll op l).me = s.me := rfl
@[simp] theorem State.pushAll_crew (s : State) (op : Instr) (l : List EvArg) : (s.pushAll op l).crew = s.crew := rfl
@[simp] theorem State.pushAll_crews (s : State) (op : Instr) (l : List EvArg) : (s.pushAll op l).crews = s.crews := rfl
@[simp] theorem State.pushAll_tasks (s : State) (op : Instr) (l : List EvArg) : (s.pushAll op l).tasks = s.tasks := rfl
@[simp] theorem State.pushAll_parts (s : State) (op : Instr) (l : List EvArg) : (s.pushAll op l).parts = s.parts := rfl
@[simp] theorem State.pushAll_dev (s : State) (op : Instr) (l : List EvArg) : (s.pushAll op l).dev = s.dev := rfl
@[simp] theorem State.pushAll_copies (s : State) (op : Instr) (l : List EvArg) : (s.pushAll op l).copies = s.copies := rfl
@[simp] theorem State.pushAll_banks (s : State) (op : Instr) (l : List EvArg) : (s.pushAll op l).banks = s.banks := rfl
@[simp] theorem State.pushAll_queries (s : State) (op : Instr) (l : List EvArg) : (s.pushAll op l).queries = s.queries := rfl
@[simp] theorem State.pushAll_tlb1 (s : State) (op : Instr) (l : List EvArg) : (s.pushAll op l).tlb1 = s.tlb1 := rfl
@[simp] theorem State.pushAll_tlb2 (s : State) (op : Instr) (l : List EvArg) : (s.pushAll op l).tlb2 = s.tlb2 := rfl
@[simp] theorem State.pushAll_eddy (s : State) (op : Instr) (l : List EvArg) : (s.pushAll op l).eddy = s.eddy := rfl
@[simp] theorem State.pushAll_watch (s : State) (op : Instr) (l : List EvArg) : (s.pushAll op l).watch = s.watch := rfl
@[simp] theorem State.pushAll_lastIssued (s : State) (op : Instr) (l : List EvArg) : (s.pushAll op l).lastIssued = s.lastIssued := rfl
@[simp] theorem State.pushAll_pipeFree (s : State) (op : Instr) (l : List EvArg) : (s.pushAll op l).pipeFree = s.pipeFree := rfl
@[simp] theorem State.pushAll_port (s : State) (op : Instr) (l : List EvArg) : (s.pushAll op l).port = s.port := rfl
@[simp] theorem State.pushAll_ctx (s : State) (op : Instr) (l : List EvArg) : (s.pushAll op l).ctx = s.ctx := rfl
@[simp] theorem State.pushAll_picks (s : State) (op : Instr) (l : List EvArg) : (s.pushAll op l).picks = s.picks := rfl
@[simp] theorem State.pushAll_tries (s : State) (op : Instr) (l : List EvArg) : (s.pushAll op l).tries = s.tries := rfl
@[simp] theorem State.pushAll_nextId (s : State) (op : Instr) (l : List EvArg) : (s.pushAll op l).nextId = s.nextId := rfl

/-! ### `State.defer` -/

@[simp] theorem State.defer_clock (s : State) (op : Instr) : (s.defer op).clock = s.clock := rfl
@[simp] theorem State.defer_mem (s : State) (op : Instr) : (s.defer op).mem = s.mem := rfl
@[simp] theorem State.defer_me (s : State) (op : Instr) : (s.defer op).me = s.me := rfl
@[simp] theorem State.defer_crew (s : State) (op : Instr) : (s.defer op).crew = s.crew := rfl
@[simp] theorem State.defer_crews (s : State) (op : Instr) : (s.defer op).crews = s.crews := rfl
@[simp] theorem State.defer_tasks (s : State) (op : Instr) : (s.defer op).tasks = s.tasks := rfl
@[simp] theorem State.defer_parts (s : State) (op : Instr) : (s.defer op).parts = s.parts := rfl
@[simp] theorem State.defer_dev (s : State) (op : Instr) : (s.defer op).dev = s.dev := rfl
@[simp] theorem State.defer_copies (s : State) (op : Instr) : (s.defer op).copies = s.copies := rfl
@[simp] theorem State.defer_banks (s : State) (op : Instr) : (s.defer op).banks = s.banks := rfl
@[simp] theorem State.defer_queries (s : State) (op : Instr) : (s.defer op).queries = s.queries := rfl
@[simp] theorem State.defer_tlb1 (s : State) (op : Instr) : (s.defer op).tlb1 = s.tlb1 := rfl
@[simp] theorem State.defer_tlb2 (s : State) (op : Instr) : (s.defer op).tlb2 = s.tlb2 := rfl
@[simp] theorem State.defer_eddy (s : State) (op : Instr) : (s.defer op).eddy = s.eddy := rfl
@[simp] theorem State.defer_watch (s : State) (op : Instr) : (s.defer op).watch = s.watch := rfl
@[simp] theorem State.defer_lastIssued (s : State) (op : Instr) : (s.defer op).lastIssued = s.lastIssued := rfl
@[simp] theorem State.defer_pipeFree (s : State) (op : Instr) : (s.defer op).pipeFree = s.pipeFree := rfl
@[simp] theorem State.defer_port (s : State) (op : Instr) : (s.defer op).port = s.port := rfl
@[simp] theorem State.defer_ctx (s : State) (op : Instr) : (s.defer op).ctx = s.ctx := rfl
@[simp] theorem State.defer_picks (s : State) (op : Instr) : (s.defer op).picks = s.picks := rfl
@[simp] theorem State.defer_tries (s : State) (op : Instr) : (s.defer op).tries = s.tries := rfl
@[simp] theorem State.defer_nextId (s : State) (op : Instr) : (s.defer op).nextId = s.nextId := rfl

/-! ### `State.deferAt` -/

@[simp] theorem State.deferAt_clock (s : State) (op : Instr) (n : Nat) : (s.deferAt op n).clock = s.clock := rfl
@[simp] theorem State.deferAt_mem (s : State) (op : Instr) (n : Nat) : (s.deferAt op n).mem = s.mem := rfl
@[simp] theorem State.deferAt_me (s : State) (op : Instr) (n : Nat) : (s.deferAt op n).me = s.me := rfl
@[simp] theorem State.deferAt_crew (s : State) (op : Instr) (n : Nat) : (s.deferAt op n).crew = s.crew := rfl
@[simp] theorem State.deferAt_crews (s : State) (op : Instr) (n : Nat) : (s.deferAt op n).crews = s.crews := rfl
@[simp] theorem State.deferAt_tasks (s : State) (op : Instr) (n : Nat) : (s.deferAt op n).tasks = s.tasks := rfl
@[simp] theorem State.deferAt_parts (s : State) (op : Instr) (n : Nat) : (s.deferAt op n).parts = s.parts := rfl
@[simp] theorem State.deferAt_dev (s : State) (op : Instr) (n : Nat) : (s.deferAt op n).dev = s.dev := rfl
@[simp] theorem State.deferAt_copies (s : State) (op : Instr) (n : Nat) : (s.deferAt op n).copies = s.copies := rfl
@[simp] theorem State.deferAt_banks (s : State) (op : Instr) (n : Nat) : (s.deferAt op n).banks = s.banks := rfl
@[simp] theorem State.deferAt_queries (s : State) (op : Instr) (n : Nat) : (s.deferAt op n).queries = s.queries := rfl
@[simp] theorem State.deferAt_tlb1 (s : State) (op : Instr) (n : Nat) : (s.deferAt op n).tlb1 = s.tlb1 := rfl
@[simp] theorem State.deferAt_tlb2 (s : State) (op : Instr) (n : Nat) : (s.deferAt op n).tlb2 = s.tlb2 := rfl
@[simp] theorem State.deferAt_eddy (s : State) (op : Instr) (n : Nat) : (s.deferAt op n).eddy = s.eddy := rfl
@[simp] theorem State.deferAt_watch (s : State) (op : Instr) (n : Nat) : (s.deferAt op n).watch = s.watch := rfl
@[simp] theorem State.deferAt_lastIssued (s : State) (op : Instr) (n : Nat) : (s.deferAt op n).lastIssued = s.lastIssued := rfl
@[simp] theorem State.deferAt_pipeFree (s : State) (op : Instr) (n : Nat) : (s.deferAt op n).pipeFree = s.pipeFree := rfl
@[simp] theorem State.deferAt_port (s : State) (op : Instr) (n : Nat) : (s.deferAt op n).port = s.port := rfl
@[simp] theorem State.deferAt_ctx (s : State) (op : Instr) (n : Nat) : (s.deferAt op n).ctx = s.ctx := rfl
@[simp] theorem State.deferAt_picks (s : State) (op : Instr) (n : Nat) : (s.deferAt op n).picks = s.picks := rfl
@[simp] theorem State.deferAt_tries (s : State) (op : Instr) (n : Nat) : (s.deferAt op n).tries = s.tries := rfl
@[simp] theorem State.deferAt_nextId (s : State) (op : Instr) (n : Nat) : (s.deferAt op n).nextId = s.nextId := rfl

/-! ### `State.fresh` -/

@[simp] theorem State.fresh_clock (s : State) : (s.fresh).clock = s.clock := rfl
@[simp] theorem State.fresh_mem (s : State) : (s.fresh).mem = s.mem := rfl
@[simp] theorem State.fresh_me (s : State) : (s.fresh).me = s.me := rfl
@[simp] theorem State.fresh_crew (s : State) : (s.fresh).crew = s.crew := rfl
@[simp] theorem State.fresh_crews (s : State) : (s.fresh).crews = s.crews := rfl
@[simp] theorem State.fresh_tasks (s : State) : (s.fresh).tasks = s.tasks := rfl
@[simp] theorem State.fresh_parts (s : State) : (s.fresh).parts = s.parts := rfl
@[simp] theorem State.fresh_dev (s : State) : (s.fresh).dev = s.dev := rfl
@[simp] theorem State.fresh_copies (s : State) : (s.fresh).copies = s.copies := rfl
@[simp] theorem State.fresh_banks (s : State) : (s.fresh).banks = s.banks := rfl
@[simp] theorem State.fresh_queries (s : State) : (s.fresh).queries = s.queries := rfl
@[simp] theorem State.fresh_tlb1 (s : State) : (s.fresh).tlb1 = s.tlb1 := rfl
@[simp] theorem State.fresh_tlb2 (s : State) : (s.fresh).tlb2 = s.tlb2 := rfl
@[simp] theorem State.fresh_eddy (s : State) : (s.fresh).eddy = s.eddy := rfl
@[simp] theorem State.fresh_watch (s : State) : (s.fresh).watch = s.watch := rfl
@[simp] theorem State.fresh_lastIssued (s : State) : (s.fresh).lastIssued = s.lastIssued := rfl
@[simp] theorem State.fresh_pipeFree (s : State) : (s.fresh).pipeFree = s.pipeFree := rfl
@[simp] theorem State.fresh_port (s : State) : (s.fresh).port = s.port := rfl
@[simp] theorem State.fresh_ctx (s : State) : (s.fresh).ctx = s.ctx := rfl
@[simp] theorem State.fresh_agenda (s : State) : (s.fresh).agenda = s.agenda := rfl
@[simp] theorem State.fresh_picks (s : State) : (s.fresh).picks = s.picks := rfl
@[simp] theorem State.fresh_tries (s : State) : (s.fresh).tries = s.tries := rfl

/-! ### `State.updPart` -/

@[simp] theorem State.updPart_clock (s : State) (p : Nat) (f : Part → Part) : (s.updPart p f).clock = s.clock := rfl
@[simp] theorem State.updPart_mem (s : State) (p : Nat) (f : Part → Part) : (s.updPart p f).mem = s.mem := rfl
@[simp] theorem State.updPart_me (s : State) (p : Nat) (f : Part → Part) : (s.updPart p f).me = s.me := rfl
@[simp] theorem State.updPart_crew (s : State) (p : Nat) (f : Part → Part) : (s.updPart p f).crew = s.crew := rfl
@[simp] theorem State.updPart_crews (s : State) (p : Nat) (f : Part → Part) : (s.updPart p f).crews = s.crews := rfl
@[simp] theorem State.updPart_tasks (s : State) (p : Nat) (f : Part → Part) : (s.updPart p f).tasks = s.tasks := rfl
@[simp] theorem State.updPart_dev (s : State) (p : Nat) (f : Part → Part) : (s.updPart p f).dev = s.dev := rfl
@[simp] theorem State.updPart_copies (s : State) (p : Nat) (f : Part → Part) : (s.updPart p f).copies = s.copies := rfl
@[simp] theorem State.updPart_banks (s : State) (p : Nat) (f : Part → Part) : (s.updPart p f).banks = s.banks := rfl
@[simp] theorem State.updPart_queries (s : State) (p : Nat) (f : Part → Part) : (s.updPart p f).queries = s.queries := rfl
@[simp] theorem State.updPart_tlb1 (s : State) (p : Nat) (f : Part → Part) : (s.updPart p f).tlb1 = s.tlb1 := rfl
@[simp] theorem State.updPart_tlb2 (s : State) (p : Nat) (f : Part → Part) : (s.updPart p f).tlb2 = s.tlb2 := rfl
@[simp] theorem State.updPart_eddy (s : State) (p : Nat) (f : Part → Part) : (s.updPart p f).eddy = s.eddy := rfl
@[simp] theorem State.updPart_watch (s : State) (p : Nat) (f : Part → Part) : (s.updPart p f).watch = s.watch := rfl
@[simp] theorem State.updPart_lastIssued (s : State) (p : Nat) (f : Part → Part) : (s.updPart p f).lastIssued = s.lastIssued := rfl
@[simp] theorem State.updPart_pipeFree (s : State) (p : Nat) (f : Part → Part) : (s.updPart p f).pipeFree = s.pipeFree := rfl
@[simp] theorem State.updPart_port (s : State) (p : Nat) (f : Part → Part) : (s.updPart p f).port = s.port := rfl
@[simp] theorem State.updPart_ctx (s : State) (p : Nat) (f : Part → Part) : (s.updPart p f).ctx = s.ctx := rfl
@[simp] theorem State.updPart_agenda (s : State) (p : Nat) (f : Part → Part) : (s.updPart p f).agenda = s.agenda := rfl
@[simp] theorem State.updPart_picks (s : State) (p : Nat) (f : Part → Part) : (s.updPart p f).picks = s.picks := rfl
@[simp] theorem State.updPart_tries (s : State) (p : Nat) (f : Part → Part) : (s.updPart p f).tries = s.tries := rfl
@[simp] theorem State.updPart_nextId (s : State) (p : Nat) (f : Part → Part) : (s.updPart p f).nextId = s.nextId := rfl

/-! ### `State.updDev` -/

@[simp] theorem State.updDev_clock (s : State) (f : Dev → Dev) : (s.updDev f).clock = s.clock := rfl
@[simp] theorem State.updDev_mem (s : State) (f : Dev → Dev) : (s.updDev f).mem = s.mem := rfl
@[simp] theorem State.updDev_me (s : State) (f : Dev → Dev) : (s.updDev f).me = s.me := rfl
@[simp] theorem State.updDev_crew (s : State) (f : Dev → Dev) : (s.updDev f).crew = s.crew := rfl
@[simp] theorem State.updDev_crews (s : State) (f : Dev → Dev) : (s.updDev f).crews = s.crews := rfl
@[simp] theorem State.updDev_tasks (s : State) (f : Dev → Dev) : (s.updDev f).tasks = s.tasks := rfl
@[simp] theorem State.updDev_parts (s : State) (f : Dev → Dev) : (s.updDev f).parts = s.parts := rfl
@[simp] theorem State.updDev_copies (s : State) (f : Dev → Dev) : (s.updDev f).copies = s.copies := rfl
@[simp] theorem State.updDev_banks (s : State) (f : Dev → Dev) : (s.updDev f).banks = s.banks := rfl
@[simp] theorem State.updDev_queries (s : State) (f : Dev → Dev) : (s.updDev f).queries = s.queries := rfl
@[simp] theorem State.updDev_tlb1 (s : State) (f : Dev → Dev) : (s.updDev f).tlb1 = s.tlb1 := rfl
@[simp] theorem State.updDev_tlb2 (s : State) (f : Dev → Dev) : (s.updDev f).tlb2 = s.tlb2 := rfl
@[simp] theorem State.updDev_eddy (s : State) (f : Dev → Dev) : (s.updDev f).eddy = s.eddy := rfl
@[simp] theorem State.updDev_watch (s : State) (f : Dev → Dev) : (s.updDev f).watch = s.watch := rfl
@[simp] theorem State.updDev_lastIssued (s : State) (f : Dev → Dev) : (s.updDev f).lastIssued = s.lastIssued := rfl
@[simp] theorem State.updDev_pipeFree (s : State) (f : Dev → Dev) : (s.updDev f).pipeFree = s.pipeFree := rfl
@[simp] theorem State.updDev_port (s : State) (f : Dev → Dev) : (s.updDev f).port = s.port := rfl
@[simp] theorem State.updDev_ctx (s : State) (f : Dev → Dev) : (s.updDev f).ctx = s.ctx := rfl
@[simp] theorem State.updDev_agenda (s : State) (f : Dev → Dev) : (s.updDev f).agenda = s.agenda := rfl
@[simp] theorem State.updDev_picks (s : State) (f : Dev → Dev) : (s.updDev f).picks = s.picks := rfl
@[simp] theorem State.updDev_tries (s : State) (f : Dev → Dev) : (s.updDev f).tries = s.tries := rfl
@[simp] theorem State.updDev_nextId (s : State) (f : Dev → Dev) : (s.updDev f).nextId = s.nextId := rfl

/-! ### `State.updTask` -/

@[simp] theorem State.updTask_clock (s : State) (i : Nat) (f : Task → Task) : (s.updTask i f).clock = s.clock := rfl
@[simp] theorem State.updTask_mem (s : State) (i : Nat) (f : Task → Task) : (s.updTask i f).mem = s.mem := rfl
@[simp] theorem State.updTask_me (s : State) (i : Nat) (f : Task → Task) : (s.updTask i f).me = s.me := rfl
@[simp] theorem State.updTask_crew (s : State) (i : Nat) (f : Task → Task) : (s.updTask i f).crew = s.crew := rfl
@[simp] theorem State.updTask_crews (s : State) (i : Nat) (f : Task → Task) : (s.updTask i f).crews = s.crews := rfl
@[simp] theorem State.updTask_parts (s : State) (i : Nat) (f : Task → Task) : (s.updTask i f).parts = s.parts := rfl
@[simp] theorem State.updTask_dev (s : State) (i : Nat) (f : Task → Task) : (s.updTask i f).dev = s.dev := rfl
@[simp] theorem State.updTask_copies (s : State) (i : Nat) (f : Task → Task) : (s.updTask i f).copies = s.copies := rfl
@[simp] theorem State.updTask_banks (s : State) (i : Nat) (f : Task → Task) : (s.updTask i f).banks = s.banks := rfl
@[simp] theorem State.updTask_queries (s : State) (i : Nat) (f : Task → Task) : (s.updTask i f).queries = s.queries := rfl
@[simp] theorem State.updTask_tlb1 (s : State) (i : Nat) (f : Task → Task) : (s.updTask i f).tlb1 = s.tlb1 := rfl
@[simp] theorem State.updTask_tlb2 (s : State) (i : Nat) (f : Task → Task) : (s.updTask i f).tlb2 = s.tlb2 := rfl
@[simp] theorem State.updTask_eddy (s : State) (i : Nat) (f : Task → Task) : (s.updTask i f).eddy = s.eddy := rfl
@[simp] theorem State.updTask_watch (s : State) (i : Nat) (f : Task → Task) : (s.updTask i f).watch = s.watch := rfl
@[simp] theorem State.updTask_lastIssued (s : State) (i : Nat) (f : Task → Task) : (s.updTask i f).lastIssued = s.lastIssued := rfl
@[simp] theorem State.updTask_pipeFree (s : State) (i : Nat) (f : Task → Task) : (s.updTask i f).pipeFree = s.pipeFree := rfl
@[simp] theorem State.updTask_port (s : State) (i : Nat) (f : Task → Task) : (s.updTask i f).port = s.port := rfl
@[simp] theorem State.updTask_ctx (s : State) (i : Nat) (f : Task → Task) : (s.updTask i f).ctx = s.ctx := rfl
@[simp] theorem State.updTask_agenda (s : State) (i : Nat) (f : Task → Task) : (s.updTask i f).agenda = s.agenda := rfl
@[simp] theorem State.updTask_picks (s : State) (i : Nat) (f : Task → Task) : (s.updTask i f).picks = s.picks := rfl
@[simp] theorem State.updTask_tries (s : State) (i : Nat) (f : Task → Task) : (s.updTask i f).tries = s.tries := rfl
@[simp] theorem State.updTask_nextId (s : State) (i : Nat) (f : Task → Task) : (s.updTask i f).nextId = s.nextId := rfl

/-! ### `State.updCrew` -/

@[simp] theorem State.updCrew_clock (s : State) (i : Nat) (f : Crew → Crew) : (s.updCrew i f).clock = s.clock := by unfold State.updCrew; split <;> rfl
@[simp] theorem State.updCrew_mem (s : State) (i : Nat) (f : Crew → Crew) : (s.updCrew i f).mem = s.mem := by unfold State.updCrew; split <;> rfl
@[simp] theorem State.updCrew_me (s : State) (i : Nat) (f : Crew → Crew) : (s.updCrew i f).me = s.me := by unfold State.updCrew; split <;> rfl
@[simp] theorem State.updCrew_tasks (s : State) (i : Nat) (f : Crew → Crew) : (s.updCrew i f).tasks = s.tasks := by unfold State.updCrew; split <;> rfl
@[simp] theorem State.updCrew_parts (s : State) (i : Nat) (f : Crew → Crew) : (s.updCrew i f).parts = s.parts := by unfold State.updCrew; split <;> rfl
@[simp] theorem State.updCrew_dev (s : State) (i : Nat) (f : Crew → Crew) : (s.updCrew i f).dev = s.dev := by unfold State.updCrew; split <;> rfl
@[simp] theorem State.updCrew_copies (s : State) (i : Nat) (f : Crew → Crew) : (s.updCrew i f).copies = s.copies := by unfold State.updCrew; split <;> rfl
@[simp] theorem State.updCrew_banks (s : State) (i : Nat) (f : Crew → Crew) : (s.updCrew i f).banks = s.banks := by unfold State.updCrew; split <;> rfl
@[simp] theorem State.updCrew_queries (s : State) (i : Nat) (f : Crew → Crew) : (s.updCrew i f).queries = s.queries := by unfold State.updCrew; split <;> rfl
@[simp] theorem State.updCrew_tlb1 (s : State) (i : Nat) (f : Crew → Crew) : (s.updCrew i f).tlb1 = s.tlb1 := by unfold State.updCrew; split <;> rfl
@[simp] theorem State.updCrew_tlb2 (s : State) (i : Nat) (f : Crew → Crew) : (s.updCrew i f).tlb2 = s.tlb2 := by unfold State.updCrew; split <;> rfl
@[simp] theorem State.updCrew_eddy (s : State) (i : Nat) (f : Crew → Crew) : (s.updCrew i f).eddy = s.eddy := by unfold State.updCrew; split <;> rfl
@[simp] theorem State.updCrew_watch (s : State) (i : Nat) (f : Crew → Crew) : (s.updCrew i f).watch = s.watch := by unfold State.updCrew; split <;> rfl
@[simp] theorem State.updCrew_lastIssued (s : State) (i : Nat) (f : Crew → Crew) : (s.updCrew i f).lastIssued = s.lastIssued := by unfold State.updCrew; split <;> rfl
@[simp] theorem State.updCrew_pipeFree (s : State) (i : Nat) (f : Crew → Crew) : (s.updCrew i f).pipeFree = s.pipeFree := by unfold State.updCrew; split <;> rfl
@[simp] theorem State.updCrew_port (s : State) (i : Nat) (f : Crew → Crew) : (s.updCrew i f).port = s.port := by unfold State.updCrew; split <;> rfl
@[simp] theorem State.updCrew_ctx (s : State) (i : Nat) (f : Crew → Crew) : (s.updCrew i f).ctx = s.ctx := by unfold State.updCrew; split <;> rfl
@[simp] theorem State.updCrew_agenda (s : State) (i : Nat) (f : Crew → Crew) : (s.updCrew i f).agenda = s.agenda := by unfold State.updCrew; split <;> rfl
@[simp] theorem State.updCrew_picks (s : State) (i : Nat) (f : Crew → Crew) : (s.updCrew i f).picks = s.picks := by unfold State.updCrew; split <;> rfl
@[simp] theorem State.updCrew_tries (s : State) (i : Nat) (f : Crew → Crew) : (s.updCrew i f).tries = s.tries := by unfold State.updCrew; split <;> rfl
@[simp] theorem State.updCrew_nextId (s : State) (i : Nat) (f : Crew → Crew) : (s.updCrew i f).nextId = s.nextId := by unfold State.updCrew; split <;> rfl

/-! ### `State.updStream` -/

@[simp] theorem State.updStream_clock (s : State) (r : Ref) (f : Stream → Stream) : (s.updStream r f).clock = s.clock := by unfold State.updStream; split <;> simp
@[simp] theorem State.updStream_mem (s : State) (r : Ref) (f : Stream → Stream) : (s.updStream r f).mem = s.mem := by unfold State.updStream; split <;> simp
@[simp] theorem State.updStream_tasks (s : State) (r : Ref) (f : Stream → Stream) : (s.updStream r f).tasks = s.tasks := by unfold State.updStream; split <;> simp
@[simp] theorem State.updStream_parts (s : State) (r : Ref) (f : Stream → Stream) : (s.updStream r f).parts = s.parts := by unfold State.updStream; split <;> simp
@[simp] theorem State.updStream_dev (s : State) (r : Ref) (f : Stream → Stream) : (s.updStream r f).dev = s.dev := by unfold State.updStream; split <;> simp
@[simp] theorem State.updStream_copies (s : State) (r : Ref) (f : Stream → Stream) : (s.updStream r f).copies = s.copies := by unfold State.updStream; split <;> simp
@[simp] theorem State.updStream_banks (s : State) (r : Ref) (f : Stream → Stream) : (s.updStream r f).banks = s.banks := by unfold State.updStream; split <;> simp
@[simp] theorem State.updStream_queries (s : State) (r : Ref) (f : Stream → Stream) : (s.updStream r f).queries = s.queries := by unfold State.updStream; split <;> simp
@[simp] theorem State.updStream_tlb1 (s : State) (r : Ref) (f : Stream → Stream) : (s.updStream r f).tlb1 = s.tlb1 := by unfold State.updStream; split <;> simp
@[simp] theorem State.updStream_tlb2 (s : State) (r : Ref) (f : Stream → Stream) : (s.updStream r f).tlb2 = s.tlb2 := by unfold State.updStream; split <;> simp
@[simp] theorem State.updStream_eddy (s : State) (r : Ref) (f : Stream → Stream) : (s.updStream r f).eddy = s.eddy := by unfold State.updStream; split <;> simp
@[simp] theorem State.updStream_watch (s : State) (r : Ref) (f : Stream → Stream) : (s.updStream r f).watch = s.watch := by unfold State.updStream; split <;> simp
@[simp] theorem State.updStream_lastIssued (s : State) (r : Ref) (f : Stream → Stream) : (s.updStream r f).lastIssued = s.lastIssued := by unfold State.updStream; split <;> simp
@[simp] theorem State.updStream_pipeFree (s : State) (r : Ref) (f : Stream → Stream) : (s.updStream r f).pipeFree = s.pipeFree := by unfold State.updStream; split <;> simp
@[simp] theorem State.updStream_port (s : State) (r : Ref) (f : Stream → Stream) : (s.updStream r f).port = s.port := by unfold State.updStream; split <;> simp
@[simp] theorem State.updStream_ctx (s : State) (r : Ref) (f : Stream → Stream) : (s.updStream r f).ctx = s.ctx := by unfold State.updStream; split <;> simp
@[simp] theorem State.updStream_agenda (s : State) (r : Ref) (f : Stream → Stream) : (s.updStream r f).agenda = s.agenda := by unfold State.updStream; split <;> simp
@[simp] theorem State.updStream_picks (s : State) (r : Ref) (f : Stream → Stream) : (s.updStream r f).picks = s.picks := by unfold State.updStream; split <;> simp
@[simp] theorem State.updStream_tries (s : State) (r : Ref) (f : Stream → Stream) : (s.updStream r f).tries = s.tries := by unfold State.updStream; split <;> simp
@[simp] theorem State.updStream_nextId (s : State) (r : Ref) (f : Stream → Stream) : (s.updStream r f).nextId = s.nextId := by unfold State.updStream; split <;> simp

/-! ### `State.pushFront` -/

@[simp] theorem State.pushFront_clock (s : State) (l : List Event) : (s.pushFront l).clock = s.clock := rfl
@[simp] theorem State.pushFront_mem (s : State) (l : List Event) : (s.pushFront l).mem = s.mem := rfl
@[simp] theorem State.pushFront_me (s : State) (l : List Event) : (s.pushFront l).me = s.me := rfl
@[simp] theorem State.pushFront_crew (s : State) (l : List Event) : (s.pushFront l).crew = s.crew := rfl
@[simp] theorem State.pushFront_crews (s : State) (l : List Event) : (s.pushFront l).crews = s.crews := rfl
@[simp] theorem State.pushFront_tasks (s : State) (l : List Event) : (s.pushFront l).tasks = s.tasks := rfl
@[simp] theorem State.pushFront_parts (s : State) (l : List Event) : (s.pushFront l).parts = s.parts := rfl
@[simp] theorem State.pushFront_dev (s : State) (l : List Event) : (s.pushFront l).dev = s.dev := rfl
@[simp] theorem State.pushFront_copies (s : State) (l : List Event) : (s.pushFront l).copies = s.copies := rfl
@[simp] theorem State.pushFront_banks (s : State) (l : List Event) : (s.pushFront l).banks = s.banks := rfl
@[simp] theorem State.pushFront_queries (s : State) (l : List Event) : (s.pushFront l).queries = s.queries := rfl
@[simp] theorem State.pushFront_tlb1 (s : State) (l : List Event) : (s.pushFront l).tlb1 = s.tlb1 := rfl
@[simp] theorem State.pushFront_tlb2 (s : State) (l : List Event) : (s.pushFront l).tlb2 = s.tlb2 := rfl
@[simp] theorem State.pushFront_eddy (s : State) (l : List Event) : (s.pushFront l).eddy = s.eddy := rfl
@[simp] theorem State.pushFront_watch (s : State) (l : List Event) : (s.pushFront l).watch = s.watch := rfl
@[simp] theorem State.pushFront_lastIssued (s : State) (l : List Event) : (s.pushFront l).lastIssued = s.lastIssued := rfl
@[simp] theorem State.pushFront_pipeFree (s : State) (l : List Event) : (s.pushFront l).pipeFree = s.pipeFree := rfl
@[simp] theorem State.pushFront_port (s : State) (l : List Event) : (s.pushFront l).port = s.port := rfl
@[simp] theorem State.pushFront_ctx (s : State) (l : List Event) : (s.pushFront l).ctx = s.ctx := rfl
@[simp] theorem State.pushFront_tries (s : State) (l : List Event) : (s.pushFront l).tries = s.tries := rfl
@[simp] theorem State.pushFront_nextId (s : State) (l : List Event) : (s.pushFront l).nextId = s.nextId := rfl

/-! ### The fields that change -/

@[simp] theorem State.push_agenda (s : State) (op : Instr) (a : EvArg) : (s.push op a).agenda = s.agenda ++ [{ op := op, arg := a, due := s.clock }] := rfl
@[simp] theorem State.pushAll_agenda (s : State) (op : Instr) (l : List EvArg) :
    (s.pushAll op l).agenda = s.agenda ++ l.map (fun a => { op := op, arg := a, due := s.clock + typical op a }) := rfl
@[simp] theorem State.defer_agenda (s : State) (op : Instr) : (s.defer op).agenda = s.agenda ++ [{ op := op, arg := s.ctx.ev, due := s.clock }] := rfl
@[simp] theorem State.deferAt_agenda (s : State) (op : Instr) (n : Nat) : (s.deferAt op n).agenda = s.agenda ++
    [{ op := op, arg := s.ctx.ev, due := if s.ctx.wait = .slice n then s.ctx.since else s.clock, wait := .slice n }] := rfl
@[simp] theorem State.fresh_nextId (s : State) : s.fresh.nextId = s.nextId + 1 := rfl
@[simp] theorem State.updDev_dev (s : State) (f : Dev → Dev) : (s.updDev f).dev = f s.dev := rfl
@[simp] theorem State.updTask_tasks (s : State) (i : Nat) (f : Task → Task) :
    (s.updTask i f).tasks = updIf (fun t => t.id == i) f s.tasks := rfl

/-- A partition after its own update. -/
@[simp] theorem State.part_updPart_same (s : State) (p : Nat) (f : Part → Part) :
    (s.updPart p f).part p = f (s.part p) := tget_tset_same Part.blank _ p _

/-- A partition after another one's update. -/
theorem State.part_updPart_other (s : State) {p q : Nat} (f : Part → Part) (hne : p ≠ q) :
    (s.updPart p f).part q = s.part q := tget_tset_other Part.blank _ _ hne

/-- The issuing stream after its own update. -/
@[simp] theorem State.updStream_self_me (s : State) (f : Stream → Stream) : (s.updStream s.self f).me = f s.me := by
  simp [State.updStream, State.self]

@[simp] theorem State.updStream_self_crew (s : State) (f : Stream → Stream) : (s.updStream s.self f).crew = s.crew := by
  simp [State.updStream, State.self]

@[simp] theorem State.updStream_self_crews (s : State) (f : Stream → Stream) : (s.updStream s.self f).crews = s.crews := by
  simp [State.updStream, State.self]

/-- The issuing crew after its own update. -/
@[simp] theorem State.updCrew_self_crew (s : State) (f : Crew → Crew) : (s.updCrew s.crew.id f).crew = f s.crew := by
  simp [State.updCrew]

@[simp] theorem State.updCrew_self_crews (s : State) (f : Crew → Crew) : (s.updCrew s.crew.id f).crews = s.crews := by
  simp [State.updCrew]

end Sys2Proof.Machine
end

