-- ==== Sys2Proof/Laws/Regs.lean ====
section
/-! SUPPORT. Laws of registers and predicates: what a write, and the writes of a result, do to every register of a stream. -/

namespace Sys2Proof.Machine

/-! ### One write -/

@[simp] theorem Stream.rdV_write_v (t : Stream) (key r l : Nat) (x : Word) :
    (t.write (.v key x)).rdV r l = if key = 32 * r + l then x else t.rdV r l := tget_tset 0#32 t.v key _ x
@[simp] theorem Stream.rdV_write_k (t : Stream) (k r l : Nat) (x : Quad) : (t.write (.k k x)).rdV r l = t.rdV r l := rfl
@[simp] theorem Stream.rdV_write_p (t : Stream) (key r l : Nat) (b : Bool) : (t.write (.p key b)).rdV r l = t.rdV r l := rfl
@[simp] theorem Stream.rdK_write_v (t : Stream) (key r : Nat) (x : Word) : (t.write (.v key x)).rdK r = t.rdK r := rfl
@[simp] theorem Stream.rdK_write_k (t : Stream) (k r : Nat) (x : Quad) :
    (t.write (.k k x)).rdK r = if k = r then x else t.rdK r := tget_tset 0#64 t.k k _ x
@[simp] theorem Stream.rdK_write_p (t : Stream) (key r : Nat) (b : Bool) : (t.write (.p key b)).rdK r = t.rdK r := rfl
@[simp] theorem Stream.rdP_write_v (t : Stream) (key r l : Nat) (x : Word) : (t.write (.v key x)).rdP r l = t.rdP r l := rfl
@[simp] theorem Stream.rdP_write_k (t : Stream) (k r l : Nat) (x : Quad) : (t.write (.k k x)).rdP r l = t.rdP r l := rfl
@[simp] theorem Stream.rdP_write_p (t : Stream) (key r l : Nat) (b : Bool) :
    (t.write (.p key b)).rdP r l = if key = 32 * r + l then b else t.rdP r l := tget_tset false t.p key _ b

@[simp] theorem Stream.writes_nil (t : Stream) : t.writes [] = t := rfl
@[simp] theorem Stream.writes_cons (t : Stream) (w : RegWrite) (ws : List RegWrite) :
    t.writes (w :: ws) = (t.write w).writes ws := rfl
theorem Stream.writes_append (t : Stream) (ws us : List RegWrite) : t.writes (ws ++ us) = (t.writes ws).writes us := by
  simp [Stream.writes, List.foldl_append]

/-- Writes touch the registers and predicates of a stream only. -/
theorem Stream.writes_rest (t : Stream) (ws : List RegWrite) :
    t.writes ws = { t with v := (t.writes ws).v, k := (t.writes ws).k, p := (t.writes ws).p } := by
  induction ws generalizing t with
  | nil => rfl
  | cons w ws ih =>
    rw [Stream.writes_cons, ih (t.write w)]
    cases w <;> rfl

@[simp] theorem Stream.sid_write (t : Stream) (w : RegWrite) : (t.write w).sid = t.sid := by cases w <;> rfl
@[simp] theorem Stream.sid_writes (t : Stream) (ws : List RegWrite) : (t.writes ws).sid = t.sid := by
  rw [Stream.writes_rest]

/-! ### The writes of a result -/

/-- Whether a register write is one of a predicate. -/
def RegWrite.isP : RegWrite → Bool
  | .p _ _ => true
  | _ => false

theorem Stream.p_writes (t : Stream) (ws : List RegWrite) (h : ∀ w ∈ ws, w.isP = false) : (t.writes ws).p = t.p := by
  induction ws generalizing t with
  | nil => rfl
  | cons w ws ih =>
    rw [Stream.writes_cons, ih _ (fun x hx => h x (List.mem_cons_of_mem _ hx))]
    have := h w (List.mem_cons_self ..)
    cases w <;> first | rfl | simp [RegWrite.isP] at this

theorem lanesOf_lt {m : Word} {l : Nat} (h : l ∈ lanesOf m) : l < 32 := by
  simp [lanesOf] at h; exact h.1

theorem State.lanes_lt (s : State) (g : BitVec 1) {l : Nat} (h : l ∈ s.lanes g) : l < 32 := by
  unfold State.lanes at h
  split at h
  · exact lanesOf_lt (List.mem_filter.mp h).1
  · exact lanesOf_lt h

/-- The 32-bit writes of a group's lanes. -/
theorem Stream.rdV_writes32 (t : Stream) (d : Nat) (f : Nat → Word) (ls : List Nat) (hl : ∀ l ∈ ls, l < 32) (r l : Nat)
    (h : l < 32) : (t.writes (ls.flatMap (fun l => [.v (32 * d + l) (f l)]))).rdV r l =
      if r = d ∧ l ∈ ls then f l else t.rdV r l := by
  induction ls generalizing t with
  | nil => simp
  | cons a ls ih =>
    have ha := hl a (List.mem_cons_self ..)
    simp only [List.flatMap_cons, List.singleton_append, Stream.writes_cons]
    rw [ih _ (fun x hx => hl x (List.mem_cons_of_mem _ hx)), Stream.rdV_write_v]
    by_cases h1 : r = d ∧ l ∈ ls
    · simp [h1]
    · by_cases h2 : 32 * d + a = 32 * r + l
      · have h3 : r = d := by omega
        have h4 : l = a := by omega
        simp [h3, h4]
      · have : ¬(r = d ∧ l = a) := by omega
        simp only [h1, h2, List.mem_cons, if_false]
        rw [if_neg (by tauto)]

/-- The 64-bit writes of a group's lanes: a pair. -/
theorem Stream.rdV_writes64 (t : Stream) (d : Nat) (f : Nat → Quad) (ls : List Nat) (hl : ∀ l ∈ ls, l < 32) (r l : Nat)
    (h : l < 32) : (t.writes (ls.flatMap (fun l => [.v (32 * d + l) (lo32 (f l)), .v (32 * (d + 1) + l) (hi32 (f l))]))).rdV r l =
      if r = d ∧ l ∈ ls then lo32 (f l) else if r = d + 1 ∧ l ∈ ls then hi32 (f l) else t.rdV r l := by
  induction ls generalizing t with
  | nil => simp
  | cons a ls ih =>
    have ha := hl a (List.mem_cons_self ..)
    simp only [List.flatMap_cons, List.cons_append, List.nil_append, Stream.writes_cons]
    rw [ih _ (fun x hx => hl x (List.mem_cons_of_mem _ hx)), Stream.rdV_write_v, Stream.rdV_write_v]
    by_cases hm : l ∈ ls
    · by_cases h1 : r = d
      · simp [h1, hm]
      · by_cases h2 : r = d + 1
        · simp [h2, hm]
        · rw [if_neg (by tauto), if_neg (by tauto), if_neg (by omega), if_neg (by omega), if_neg (by tauto), if_neg (by tauto)]
    · by_cases hla : l = a
      · subst hla
        by_cases h1 : r = d
        · subst h1; simp [hm]
        · by_cases h2 : r = d + 1
          · subst h2; simp [hm]
          · rw [if_neg (by tauto), if_neg (by tauto), if_neg (by omega), if_neg (by omega), if_neg (by tauto), if_neg (by tauto)]
      · rw [if_neg (by tauto), if_neg (by tauto), if_neg (by omega), if_neg (by omega), if_neg, if_neg] <;>
          simp [hm, hla]

theorem Stream.rdV_writes_k (t : Stream) (d : Nat) (f : Nat → Quad) (ls : List Nat) (r l : Nat) :
    (t.writes (ls.flatMap (fun l => [.k d (f l)]))).rdV r l = t.rdV r l := by
  induction ls generalizing t with
  | nil => rfl
  | cons a ls ih => simp [ih]

theorem Stream.rdK_writes_v (t : Stream) (f : Nat → List RegWrite) (hf : ∀ l, ∀ w ∈ f l, ∃ k x, w = .v k x) (ls : List Nat) (r : Nat) :
    (t.writes (ls.flatMap f)).rdK r = t.rdK r := by
  have key : ∀ (ws : List RegWrite), (∀ w ∈ ws, ∃ k x, w = RegWrite.v k x) → ∀ t : Stream, (t.writes ws).rdK r = t.rdK r := by
    intro ws
    induction ws with
    | nil => intro _ t; rfl
    | cons w ws ih =>
      intro h t
      obtain ⟨k, x, rfl⟩ := h w (List.mem_cons_self ..)
      rw [Stream.writes_cons, ih (fun x hx => h x (List.mem_cons_of_mem _ hx)), Stream.rdK_write_v]
  refine key _ (fun w hw => ?_) t
  obtain ⟨l, _, hl⟩ := List.mem_flatMap.mp hw
  exact hf l w hl

theorem Stream.rdK_writes_k (t : Stream) (d : Nat) (f : Nat → Quad) (ls : List Nat) (r : Nat) (h : r ≠ d ∨ ls = []) :
    (t.writes (ls.flatMap (fun l => [.k d (f l)]))).rdK r = t.rdK r := by
  rcases h with h | h
  · induction ls generalizing t with
    | nil => rfl
    | cons a ls ih =>
      simp only [List.flatMap_cons, List.singleton_append, Stream.writes_cons]
      rw [ih, Stream.rdK_write_k, if_neg (by omega)]
  · subst h; rfl

theorem zext_lo32_of_lt {x : Quad} (h : x.toNat < 2 ^ 32) : zext (lo32 x) = x := by
  apply BitVec.eq_of_toNat_eq
  simp [zext, lo32, BitVec.toNat_setWidth]
  omega

theorem pairOf_halves (x : Quad) : pairOf (lo32 x) (hi32 x) = x := by
  apply BitVec.eq_of_getLsbD_eq
  intro i hi
  simp only [pairOf, lo32, hi32, BitVec.getLsbD_append, BitVec.getLsbD_setWidth, BitVec.getLsbD_extractLsb']
  split
  · next h => simp [h]
  · next h =>
    have h1 : i - 32 < 32 := by omega
    have h2 : 32 + (i - 32) = i := by omega
    simp [h1, h2]

/-- The writes of one result, one value for each lane, do what `TakesReg` says. -/
theorem Stream.takesReg_wr (t : Stream) (w d : Nat) (hw : w = 32 ∨ w = 64) (ls : List Nat) (hl : ∀ l ∈ ls, l < 32)
    (f : Nat → Quad) (hf : w = 32 → ∀ l ∈ ls, (f l).toNat < 2 ^ 32) :
    t.TakesReg (ls.flatMap (fun l => t.wr w d l (f l))) w d ls f := by
  have hp : (t.writes (ls.flatMap (fun l => t.wr w d l (f l)))).p = t.p := by
    refine Stream.p_writes _ _ (fun x hx => ?_)
    obtain ⟨l, _, h⟩ := List.mem_flatMap.mp hx
    unfold Stream.wr at h
    split at h
    · simp at h; subst h; rfl
    · split at h
      · simp at h; rcases h with h | h <;> subst h <;> rfl
      · simp at h; subst h; rfl
  have hrest : t.writes (ls.flatMap (fun l => t.wr w d l (f l))) =
      { t with
        v := (t.writes (ls.flatMap (fun l => t.wr w d l (f l)))).v
        k := (t.writes (ls.flatMap (fun l => t.wr w d l (f l)))).k } := by
    have := Stream.writes_rest t (ls.flatMap (fun l => t.wr w d l (f l)))
    rw [hp] at this
    exact this
  refine ⟨hrest, ?_, ?_, ?_, ?_⟩
  · intro hs l hm
    rcases hw with rfl | rfl
    · have e : (fun l => t.wr 32 d l (f l)) = fun l => [RegWrite.v (32 * d + l) (lo32 (f l))] := by
        funext l; simp [Stream.wr, hs]
      rw [e]
      simp only [Stream.rd, Stream.sid_writes, if_neg hs]
      rw [if_neg (by decide), Stream.rdV_writes32 t d (fun l => lo32 (f l)) ls hl d l (hl l hm), if_pos ⟨rfl, hm⟩]
      exact zext_lo32_of_lt (hf rfl l hm)
    · have e : (fun l => t.wr 64 d l (f l)) =
          fun l => [RegWrite.v (32 * d + l) (lo32 (f l)), RegWrite.v (32 * (d + 1) + l) (hi32 (f l))] := by
        funext l; simp [Stream.wr, hs]
      rw [e]
      simp only [Stream.rd, Stream.sid_writes, if_neg hs, if_true, Stream.rdPair]
      rw [Stream.rdV_writes64 t d f ls hl d l (hl l hm), Stream.rdV_writes64 t d f ls hl (d + 1) l (hl l hm)]
      simp [hm, pairOf_halves]
  · intro hs l hm
    subst hm
    rcases hw with rfl | rfl
    · simp [Stream.wr, hs, Stream.rd]
      rw [zext_lo32_of_lt (hf rfl l (List.mem_singleton.mpr rfl))]
      exact zext_lo32_of_lt (hf rfl l (List.mem_singleton.mpr rfl))
    · simp [Stream.wr, hs, Stream.rd]
  · intro r l h32 h
    by_cases hs : t.sid = 0
    · have e : (fun l => t.wr w d l (f l)) = fun l => [RegWrite.k d (if w = 64 then f l else zext (lo32 (f l)))] := by
        funext l; simp [Stream.wr, hs]
      rw [e, Stream.rdV_writes_k t d (fun l => if w = 64 then f l else zext (lo32 (f l)))]
    · rcases hw with rfl | rfl
      · have e : (fun l => t.wr 32 d l (f l)) = fun l => [RegWrite.v (32 * d + l) (lo32 (f l))] := by
          funext l; simp [Stream.wr, hs]
        rw [e, Stream.rdV_writes32 t d (fun l => lo32 (f l)) ls hl r l h32, if_neg (by tauto)]
      · have e : (fun l => t.wr 64 d l (f l)) =
            fun l => [RegWrite.v (32 * d + l) (lo32 (f l)), RegWrite.v (32 * (d + 1) + l) (hi32 (f l))] := by
          funext l; simp [Stream.wr, hs]
        rw [e, Stream.rdV_writes64 t d f ls hl r l h32, if_neg (by tauto), if_neg (by tauto)]
  · intro r h
    by_cases hs : t.sid = 0
    · have e : (fun l => t.wr w d l (f l)) = fun l => [RegWrite.k d (if w = 64 then f l else zext (lo32 (f l)))] := by
        funext l; simp [Stream.wr, hs]
      rw [e]
      exact Stream.rdK_writes_k t d (fun l => if w = 64 then f l else zext (lo32 (f l))) ls r h
    · refine Stream.rdK_writes_v t _ (fun l x hx => ?_) ls r
      unfold Stream.wr at hx
      rw [if_neg hs] at hx
      split at hx
      · simp at hx; rcases hx with hx | hx <;> exact ⟨_, _, hx⟩
      · simp at hx; exact ⟨_, _, hx⟩

/-- The writes of one predicate, one value for each lane, do what `TakesPred` says. -/
theorem Stream.takesPred_map (t : Stream) (p : Nat) (ls : List Nat) (hl : ∀ l ∈ ls, l < 32) (f : Nat → Bool) :
    t.TakesPred (ls.map (fun l => .p (32 * p + l) (f l))) p ls f := by
  have key : ∀ (ls : List Nat) (t : Stream) (r l : Nat), (∀ l ∈ ls, l < 32) → l < 32 →
      (t.writes (ls.map (fun l => .p (32 * p + l) (f l)))).rdP r l = if r = p ∧ l ∈ ls then f l else t.rdP r l := by
    intro ls
    induction ls with
    | nil => intro t r l _ _; simp
    | cons a ls ih =>
      intro t r l hl h
      have ha := hl a (List.mem_cons_self ..)
      simp only [List.map_cons, Stream.writes_cons]
      rw [ih _ _ _ (fun x hx => hl x (List.mem_cons_of_mem _ hx)) h, Stream.rdP_write_p]
      by_cases h1 : r = p ∧ l ∈ ls
      · simp [h1]
      · by_cases h2 : 32 * p + a = 32 * r + l
        · have h3 : r = p := by omega
          have h4 : l = a := by omega
          simp [h3, h4]
        · have : ¬(r = p ∧ l = a) := by omega
          simp only [h1, h2, List.mem_cons, if_false]
          rw [if_neg (by tauto)]
  have rest : ∀ (ls : List Nat) (t : Stream), t.writes (ls.map (fun l => .p (32 * p + l) (f l))) =
      { t with p := (t.writes (ls.map (fun l => .p (32 * p + l) (f l)))).p } := by
    intro ls
    induction ls with
    | nil => intro t; rfl
    | cons a ls ih => intro t; rw [List.map_cons, Stream.writes_cons, ih]; rfl
  exact ⟨rest ls t, fun l hm => by rw [key ls t p l hl (hl l hm), if_pos ⟨rfl, hm⟩],
    fun r l h h' => by rw [key ls t r l hl h, if_neg (by tauto)]⟩

end Sys2Proof.Machine
end

