-- ==== Sys2Proof/Laws/Alu.lean ====
section
/-! SUPPORT. Laws of the operand forms: what a word whose meaning is one of the shared forms gives. -/

namespace Sys2Proof.Machine

theorem GivesReg.congr {i : Instr} {s : State} {lat w : Nat} {d : BitVec 6} {ls : List Nat} {f f' : Nat → Quad}
    (h : GivesReg i s lat w d ls f) (e : ∀ l ∈ ls, f l = f' l) : GivesReg i s lat w d ls f' := by
  obtain ⟨t, p, h1, h2, h3, h4, h5⟩ := h
  refine ⟨t, p, h1, h2, h3, h4, ⟨h5.rest, fun hs l hl => (h5.lane hs l hl).trans (e l hl), fun hs l hl => ?_, h5.frameV, h5.frameK⟩⟩
  exact (h5.steward hs l hl).trans (e l (by simp [hl]))

theorem GivesPred.congr {i : Instr} {s : State} {lat : Nat} {p : BitVec 3} {ls : List Nat} {f f' : Nat → Bool}
    (h : GivesPred i s lat p ls f) (e : ∀ l ∈ ls, f l = f' l) : GivesPred i s lat p ls f' := by
  obtain ⟨t, q, h1, h2, h3, h4, h5⟩ := h
  exact ⟨t, q, h1, h2, h3, h4, ⟨h5.rest, fun l hl => (h5.lane l hl).trans (e l hl), h5.frame⟩⟩

/-- A word that writes one value for each active lane gives it. -/
theorem givesReg_aluWrite {i : Instr} {s : State} {lat w : Nat} {g : BitVec 1} {d : BitVec 6} {f : Nat → Quad}
    (h : exec i s = .next (s.aluWrite lat w g d f)) (hw : w = 32 ∨ w = 64)
    (hf : w = 32 → ∀ l ∈ s.lanes g, (f l).toNat < 2 ^ 32) : GivesReg i s lat w d (s.lanes g) f :=
  ⟨_, _, h, rfl, rfl, rfl, Stream.takesReg_wr s.me w d.toNat hw _ (fun _ hl => s.lanes_lt g hl) f hf⟩

/-- A word that writes one truth value for each active lane gives it. -/
theorem givesPred_predWrite {i : Instr} {s : State} {g : BitVec 1} {p : BitVec 3} {f : Nat → Bool}
    (h : exec i s = .next (s.predWrite g p f)) : GivesPred i s 2 p (s.lanes g) f :=
  ⟨_, _, h, rfl, rfl, rfl, Stream.takesPred_map s.me p.toNat _ (fun _ hl => s.lanes_lt g hl) f⟩

@[simp] theorem State.width_false (s : State) : s.width false = s.natW := by
  simp [State.width, State.natW, State.isSteward]

@[simp] theorem State.width_true (s : State) : s.width true = s.otherW := by
  simp only [State.width, State.otherW, State.isSteward]
  by_cases h : s.me.sid = 0 <;> simp [h]

theorem State.natW_cases (s : State) : s.natW = 32 ∨ s.natW = 64 := by
  unfold State.natW; split <;> simp

theorem State.otherW_cases (s : State) : s.otherW = 32 ∨ s.otherW = 64 := by
  unfold State.otherW; split <;> simp

theorem atWidth_lt (f : AluFn) {w : Nat} (h : w = 32) (x y z : Quad) : (atWidth f w x y z).toNat < 2 ^ 32 := by
  subst h
  simp only [atWidth, BitVec.toNat_setWidth]
  have := (f 32 (x.setWidth 32) (y.setWidth 32) (z.setWidth 32)).isLt
  omega

/-- The three-address form. -/
theorem givesReg_rrr {i : Instr} {s : State} {lat : Nat} {f : AluFn} {d a b : BitVec 6} {g : BitVec 1}
    (h : exec i s = .next (s.rrr lat f d a b g)) :
    GivesReg i s lat s.natW d (s.lanes g) (fun l =>
      atWidth f s.natW (s.me.rd s.natW a.toNat l) (s.me.rd s.natW b.toNat l) (s.me.rd s.natW d.toNat l)) := by
  unfold State.rrr at h
  simp only [State.width_false] at h
  exact givesReg_aluWrite h s.natW_cases (fun hw _ _ => atWidth_lt f hw ..)

theorem State.rd_lt (t : Stream) (r l : Nat) : (t.rd 32 r l).toNat < 2 ^ 32 := by
  unfold Stream.rd
  have key : ∀ x : Word, (zext x).toNat < 2 ^ 32 := fun x => by
    simp only [zext, BitVec.toNat_setWidth]; have := x.isLt; omega
  split <;> split
  · next h => exact absurd h (by decide)
  · exact key _
  · next h => exact absurd h (by decide)
  · exact key _

end Sys2Proof.Machine
end

