-- ==== Sys2Proof/Laws/Effects.lean ====
section
/-! SUPPORT. Laws of writes at a home, of egress, of outcomes and of traps: what each of these shared operations does to memory, that each
keeps the canonical form of memory, and the whole of what taking a trap does. -/

namespace Sys2Proof.Machine

/-! ### Marks and egress leave memory alone -/

@[simp] theorem State.markStale_mem (s : State) (h n : Nat) : (s.markStale h n).mem = s.mem := by
  have step : ∀ (l : List (Nat × Part)) (a : State), (l.foldl (fun s1 p =>
      if p.2.deriveds = [] then s1
      else
        let x := (s1.part p.1).closure 3 (s1.directTiles p.1 h n)
        if x = [] then s1 else s1.updPart p.1 (fun q => q.mark x)) a).mem = a.mem := by
    intro l
    induction l with
    | nil => intro a; rfl
    | cons p l ih =>
      intro a
      rw [List.foldl_cons, ih]
      dsimp only
      split
      · rfl
      · split <;> rfl
  exact step s.parts s

/-- Where no partition has a derived tensor, a write marks nothing (R406). -/
theorem State.markStale_plain {s : State} (hd : ∀ p ∈ s.parts, p.2.deriveds = []) (h n : Nat) : s.markStale h n = s := by
  have step : ∀ l : List (Nat × Part), (∀ p ∈ l, p.2.deriveds = []) → ∀ a : State, l.foldl (fun s1 p =>
      if p.2.deriveds = [] then s1
      else
        let x := (s1.part p.1).closure 3 (s1.directTiles p.1 h n)
        if x = [] then s1 else s1.updPart p.1 (fun q => q.mark x)) a = a := by
    intro l
    induction l with
    | nil => intro _ a; rfl
    | cons p l ih =>
      intro hl a
      rw [List.foldl_cons, if_pos (hl p (by simp))]
      exact ih (fun q hq => hl q (by simp [hq])) a
  exact step s.parts hd s

@[simp] theorem State.pushOnce_mem (s : State) (op : Instr) (a : EvArg) : (s.pushOnce op a).mem = s.mem := by
  unfold State.pushOnce; split <;> rfl

@[simp] theorem State.pump_mem (s : State) (id fuel : Nat) : (s.pump id fuel).mem = s.mem := by
  induction fuel generalizing s with
  | zero => rfl
  | succ n ih =>
    unfold State.pump
    split
    · rfl
    · split
      · rfl
      · dsimp only
        split
        · rfl
        · rw [ih, State.pushOnce_mem]; rfl

@[simp] theorem State.submit_mem (s : State) (id : Nat) (g : Datagram) : (s.submit id g).mem = s.mem := by
  unfold State.submit; rw [State.pump_mem]; rfl

@[simp] theorem State.release_mem (s : State) (p : Nat) (e : Egress) : (s.release p e).mem = s.mem := by
  cases e with
  | net id g => exact s.submit_mem id g
  | _ => rfl

@[simp] theorem State.egressOut_mem (s : State) (p : Nat) (e : Egress) : (s.egressOut p e).mem = s.mem := by
  unfold State.egressOut; split
  · rfl
  · exact s.release_mem p e

@[simp] theorem State.irq_mem (s : State) (p v : Nat) : (s.irq p v).mem = s.mem := by
  unfold State.irq; dsimp only; split
  · rfl
  · exact s.egressOut_mem p _

@[simp] theorem State.countBar_mem (s : State) (c b a n : Nat) (e : Bool) : (s.countBar c b a n e).mem = s.mem := by
  unfold State.countBar State.updCrew; split <;> rfl

/-! ### Writes at a home keep the canonical form -/

theorem State.writeRegion_inv {s : State} (hs : s.Inv) (p : Nat) (r : Region) (h va : Nat) (data : List (Byte × Byte)) :
    (s.writeRegion p r h va data).Inv := by
  unfold State.writeRegion
  dsimp only
  by_cases hc : ((data.mapIdx (fun i x => r.isDir (va + i) && x.2 != 0#8)).any id) = true
  · rw [if_pos hc]
    split
    · exact Memory.wf_putMasked hs _ _
    · split
      · exact Memory.wf_putMasked hs _ _
      · exact Memory.wf_put (Memory.wf_putMasked hs _ _) _ _
  · rw [if_neg hc]
    split
    · exact Memory.wf_putMasked hs _ _
    · split
      · exact Memory.wf_putMasked hs _ _
      · exact Memory.wf_put (Memory.wf_putMasked hs _ _) _ _

theorem State.writeBytes_inv {s : State} (hs : s.Inv) (h : Nat) (data : List (Byte × Byte)) : (s.writeBytes h data).1.Inv := by
  have plain : (s.mem.putMasked h data).wf = true := Memory.wf_putMasked hs h data
  unfold State.writeBytes
  split
  · split
    · exact State.writeRegion_inv hs _ _ _ _ _
    · exact plain
  · exact plain

theorem State.writePiece_inv {s : State} (hs : s.Inv) (h : Nat) (data : List (Byte × Byte)) : (s.writePiece h data).Inv := by
  unfold State.writePiece
  split
  · exact Memory.wf_putMasked hs h data
  · split
    · exact hs
    · dsimp only
      split
      · exact State.writeBytes_inv hs h data
      · show (State.markStale _ _ _).mem.wf = true
        rw [State.markStale_mem]
        exact State.writeBytes_inv hs h data

theorem State.writeHome_inv {s : State} (hs : s.Inv) (h fuel : Nat) (data : List (Byte × Byte)) : (s.writeHome h fuel data).Inv := by
  induction fuel generalizing s h data with
  | zero => exact hs
  | succ n ih =>
    unfold State.writeHome
    split
    · exact hs
    · exact ih (State.writePiece_inv hs _ _) _ _

theorem State.putHome_inv {s : State} (hs : s.Inv) (h : Nat) (bs : List Byte) : (s.putHome h bs).Inv := State.writeHome_inv hs _ _ _

theorem State.hostWrite_inv {s : State} (hs : s.Inv) (p a : Nat) (bs : List Byte) : (s.hostWrite p a bs).Inv := by
  unfold State.hostWrite State.Inv
  rw [State.egressOut_mem]
  exact Memory.wf_put hs _ _

theorem State.writeAt_inv {s : State} (hs : s.Inv) (p h : Nat) (data : List (Byte × Byte)) : (s.writeAt p h data).Inv := by
  unfold State.writeAt
  split
  · exact State.hostWrite_inv hs _ _ _
  · exact State.writeHome_inv hs _ _ _

/-- All that the writes of one step can do: each of them is made, none of which has to wait, or nothing is. -/
theorem State.putRuns_cons_ok {s t : State} {p h : Nat} {data : List (Byte × Byte)} {l : List (Nat × List (Byte × Byte))}
    (he : s.putRuns p ((h, data) :: l) = .ok t) :
    s.homeHold h = none ∧ s.logHolds h data = none ∧ (s.writeAt p h data).putRuns p l = .ok t := by
  unfold State.putRuns at he
  split at he
  · cases he
  · cases he
  · exact ⟨‹_›, ‹_›, he⟩

theorem State.putRuns_inv {p : Nat} (l : List (Nat × List (Byte × Byte))) {s t : State} (hs : s.Inv) (he : s.putRuns p l = .ok t) : t.Inv := by
  induction l generalizing s with
  | nil => cases he; exact hs
  | cons x l ih => exact ih (State.writeAt_inv hs _ _ _) (State.putRuns_cons_ok he).2.2

theorem State.gput_inv {s : State} (hs : s.Inv) (part va : Nat) (bs : List Byte) : (s.gput part va bs).Inv := by
  unfold State.gput
  split
  · rename_i runs _
    have step : ∀ (l : List (Nat × Nat)) (acc : State × List Byte), acc.1.Inv →
        (l.foldl (fun (acc : State × List Byte) run =>
          (acc.1.writeAt part run.1 ((acc.2.take run.2).map (fun b => (b, 0xFF#8))), acc.2.drop run.2)) acc).1.Inv := by
      intro l
      induction l with
      | nil => intro acc h; exact h
      | cons x l ih => intro acc h; exact ih _ (State.writeAt_inv h _ _ _)
    exact step runs (s, bs) hs
  · exact hs

theorem State.gputTry_inv {s t : State} (hs : s.Inv) {part va : Nat} {bs : List Byte} (he : s.gputTry part va bs = .ok t) : t.Inv := by
  unfold State.gputTry at he
  split at he
  · exact State.putRuns_inv _ hs he
  · cases he; exact hs

theorem State.devWrite_inv {s : State} (hs : s.Inv) (p va : Nat) (bs : List Byte) : (s.devWrite p va bs).Inv := by
  unfold State.devWrite
  split
  · split
    · exact State.hostWrite_inv hs _ _ _
    · exact State.gput_inv hs _ _ _
  · exact hs

theorem State.outcome_inv {s : State} (hs : s.Inv) (p report : Nat) (barrier : Option (Nat × Nat)) (vec : Option Nat) (taskId cause status : Nat) :
    (s.outcome p report barrier vec taskId cause status).Inv := by
  have h1 : (if report = 0 then s else s.devWrite p report (s.reportBytes taskId cause status)).Inv := by
    split
    · exact hs
    · exact State.devWrite_inv hs _ _ _
  unfold State.outcome State.Inv at *
  cases barrier <;> cases vec <;> simpa using h1

theorem State.endTask_inv {s : State} (hs : s.Inv) (t : Task) (cause status : Nat) : (s.endTask t cause status).Inv := by
  unfold State.endTask State.askSignals State.askDependants State.Inv
  simp only [State.pushAll_mem]
  exact State.outcome_inv (s := { s with tasks := s.tasks.filter (fun x => x.id != t.id) }) hs _ _ _ _ _ _ _

/-! ### What a write at a plain home does -/

/-- Where no registered region holds the home and no partition has a derived tensor, a write within one aligned piece of package memory
changes memory by its bytes, under their masks, and clears the errors it covers; nothing else changes (R159, R353). -/
theorem State.writePiece_plain {s : State} {h : Nat} (hr : s.regionAt h = none) (hd : ∀ p ∈ s.parts, p.2.deriveds = []) (hh : h < 2 ^ 46)
    (data : List (Byte × Byte)) (hne : data.all (fun b => b.2 == 0#8) = false) :
    s.writePiece h data = { s with
      mem := s.mem.putMasked h data
      dev := { s.dev with ue := clearUe s.dev.ue h data, ce := clearUe s.dev.ce h data } } := by
  have hp : isRegPage h = false := by unfold isRegPage; simp; omega
  have hb : s.writeBytes h data = ({ s with mem := s.mem.putMasked h data }, data) := by unfold State.writeBytes; rw [hr]
  unfold State.writePiece
  rw [if_neg (by omega), hp, hb]
  simp only [hne, Bool.false_eq_true, if_false]
  exact State.markStale_plain (s := { s with
    mem := s.mem.putMasked h data
    dev := { s.dev with ue := clearUe s.dev.ue h data, ce := clearUe s.dev.ce h data } }) hd h data.length

/-- A write of scratchpad, host memory or the model's own homes changes memory alone. -/
theorem State.writePiece_scratch (s : State) {h : Nat} (h1 : 2 ^ 56 ≤ h) (data : List (Byte × Byte)) :
    s.writePiece h data = { s with mem := s.mem.putMasked h data } := by
  unfold State.writePiece
  rw [if_pos h1]

/-- A write of whole bytes within one aligned piece is one piece. -/
theorem State.putHome_piece (s : State) (h : Nat) (bs : List Byte) (hn : bs ≠ []) (hl : h % 64 + bs.length ≤ 64) :
    s.putHome h bs = s.writePiece h (bs.map (fun b => (b, 0xFF#8))) := by
  have hm : bs.map (fun b => (b, 0xFF#8)) ≠ [] := by simpa using hn
  have hlen : (bs.map (fun b => (b, 0xFF#8))).length ≤ 64 - h % 64 := by rw [List.length_map]; omega
  show s.writeHome h (bs.length + 1) _ = _
  unfold State.writeHome
  rw [if_neg hm]
  dsimp only
  rw [List.take_of_length_le hlen, List.drop_of_length_le hlen]
  cases bs.length <;> rfl

/-! ### Taking a trap -/

/-- All that a trap taken at issue does (R306, R308): its lanes are parked, its record stands behind those that wait, and the record's
device step is asked for. -/
theorem State.trapAt_eq (s : State) (cause code : Nat) (addr : Quad) {m : Word} (hm : m ≠ 0#32) (at0 at1 : Pc) :
    s.trapAt cause code addr m at0 at1 = { s with
      me := s.me.moveHead m [s.parkEntry cause m at0]
      crew := { s.crew with recWait := s.crew.recWait ++ [s.trapRec cause code addr m at1] }
      agenda := s.agenda ++ [{ op := .trapRecordEnqueue, arg := { a := s.crew.id }, due := s.clock }] } := by
  unfold State.trapAt State.record State.updCrew
  rw [if_neg hm]
  dsimp only
  rw [if_pos rfl]
  rfl

@[simp] theorem State.trapAt_zero (s : State) (cause code : Nat) (addr : Quad) (at0 at1 : Pc) : s.trapAt cause code addr 0#32 at0 at1 = s := if_pos rfl

@[simp] theorem State.trapAt_mem (s : State) (cause code : Nat) (addr : Quad) (m : Word) (at0 at1 : Pc) :
    (s.trapAt cause code addr m at0 at1).mem = s.mem := by
  by_cases hm : m = 0#32
  · rw [hm, State.trapAt_zero]
  · rw [State.trapAt_eq s _ _ _ hm]

@[simp] theorem State.illegal_mem (s : State) : s.illegal.mem = s.mem := s.trapAt_mem _ _ _ _ _ _

/-- Going back to the word in which a stream waits changes no register. -/
theorem Stream.rewind_regs (t : Stream) : t.rewind.v = t.v ∧ t.rewind.k = t.k ∧ t.rewind.p = t.p := by
  unfold Stream.rewind; split <;> exact ⟨rfl, rfl, rfl⟩

/-- A handler is entered at `TVEC.PACKET`, slot 0, with the record in the four trap registers (R209, R309). -/
@[simp] theorem Stream.enterHandler_regs (t : Stream) (r : TrapRec) : (t.enterHandler r).v = t.v ∧ (t.enterHandler r).k = t.k ∧
    (t.enterHandler r).p = t.p ∧ (t.enterHandler r).trappc = r.pc ∧ (t.enterHandler r).trapmask = r.mask ∧ (t.enterHandler r).trapaddr = r.addr :=
  let h := t.rewind_regs
  ⟨h.1, h.2.1, h.2.2, rfl, rfl, rfl⟩

end Sys2Proof.Machine
end

