-- ==== Sys2Proof/Laws/Frontier.lean ====
section
/-! SUPPORT. Laws of the frontier (R104 to R108): `normFrontier` keeps every lane where it stands and leaves the frontier in order,
merged and without empty entries. -/

namespace Sys2Proof.Machine

theorem insertBy_perm {α : Type} (lt : α → α → Bool) (x : α) (l : List α) : (insertBy lt x l).Perm (x :: l) := by
  induction l with
  | nil => exact List.Perm.refl _
  | cons y t ih =>
    unfold insertBy
    split
    · exact List.Perm.refl _
    · exact (ih.cons y).trans (List.Perm.swap x y t)

/-- Some entry of a list holds a lane at a place. -/
def Holds (l : List Entry) (lane : Nat) (p : Pc × Nat × EntrySt) : Prop := ∃ e ∈ l, e.mask.getLsbD lane = true ∧ e.place = p

theorem holds_append {l l' : List Entry} {lane : Nat} {p : Pc × Nat × EntrySt} :
    Holds (l ++ l') lane p ↔ Holds l lane p ∨ Holds l' lane p := by
  unfold Holds; simp only [List.mem_append, or_and_right, exists_or]

theorem holds_cons {e : Entry} {l : List Entry} {lane : Nat} {p : Pc × Nat × EntrySt} :
    Holds (e :: l) lane p ↔ (e.mask.getLsbD lane = true ∧ e.place = p) ∨ Holds l lane p := by
  unfold Holds; simp only [List.mem_cons, or_and_right, exists_or, exists_eq_left]

theorem holds_nil {lane : Nat} {p : Pc × Nat × EntrySt} : ¬Holds [] lane p := by simp [Holds]

theorem bit_apart {a b : Word} (h : a &&& b = 0#32) (i : Nat) (ha : a.getLsbD i = true) : b.getLsbD i = false := by
  have := congrArg (fun m => m.getLsbD i) h
  simpa [ha] using this

theorem Apart.symm_iff {l l' : List Entry} (h : l.Perm l') : Apart l → Apart l' := by
  intro ha
  exact (h.pairwise_iff (fun {a b} hab => by rw [BitVec.and_comm]; exact hab)).1 ha

theorem Merged.symm_iff {l l' : List Entry} (h : l.Perm l') : Merged l → Merged l' := by
  intro ha
  exact (h.pairwise_iff (fun {a b} hab => by tauto)).1 ha

/-- Where lanes are apart, the place of a lane is that of the one entry that holds it. -/
theorem find_place {l : List Entry} (h : Apart l) (lane : Nat) (p : Pc × Nat × EntrySt) :
    (l.find? (fun e => e.mask.getLsbD lane)).map Entry.place = some p ↔ Holds l lane p := by
  induction l with
  | nil => simp [Holds]
  | cons e t ih =>
    have h2 := List.pairwise_cons.1 h
    by_cases he : e.mask.getLsbD lane = true
    · have hf : (e :: t).find? (fun e => e.mask.getLsbD lane) = some e := by simp only [List.find?_cons, he]
      rw [hf]
      constructor
      · intro hp; exact ⟨e, by simp, he, by simpa using hp⟩
      · rintro ⟨x, hx, hm, rfl⟩
        rcases List.mem_cons.1 hx with rfl | hx
        · rfl
        · have := bit_apart (h2.1 x hx) lane he; rw [hm] at this; cases this
    · have hf : (e :: t).find? (fun e => e.mask.getLsbD lane) = t.find? (fun e => e.mask.getLsbD lane) := by
        simp only [List.find?_cons, Bool.eq_false_iff.2 he]
      rw [hf, ih h2.2]
      constructor
      · rintro ⟨x, hx, hm⟩; exact ⟨x, by simp [hx], hm⟩
      · rintro ⟨x, hx, hm, hp⟩
        rcases List.mem_cons.1 hx with rfl | hx
        · exact absurd hm he
        · exact ⟨x, hx, hm, hp⟩

theorem Stream.place_eq {t : Stream} (h : Apart t.frontier) (lane : Nat) (p : Pc × Nat × EntrySt) :
    t.place lane = some p ↔ Holds t.frontier lane p := find_place h lane p

/-- Two frontiers whose entries hold the same lanes at the same places give every lane one place. -/
theorem place_congr {l l' : List Entry} (h : Apart l) (h' : Apart l') (e : ∀ lane p, Holds l lane p ↔ Holds l' lane p) (lane : Nat) :
    (l.find? (fun e => e.mask.getLsbD lane)).map Entry.place = (l'.find? (fun e => e.mask.getLsbD lane)).map Entry.place := by
  apply Option.ext
  intro p
  rw [find_place h, e, ← find_place h']

theorem bool_merge : ∀ a b e ka kb : Bool, (a && b) = false → (e && a) = false → (e && b) = false → ¬(ka = true ∧ kb = true) →
    ((a || (ka && e)) && (b || (kb && e))) = false := by decide

theorem bool_keep : ∀ m a e k : Bool, (m && a) = false → (m && e) = false → (m && (a || (k && e))) = false := by decide

/-- What one merge of R106 does. -/
theorem addEntry_spec (e : Entry) (l : List Entry) (ha : Apart (e :: l)) (hm : Merged l) :
    Apart (addEntry e l) ∧ Merged (addEntry e l) ∧
    (∀ lane p, Holds (addEntry e l) lane p ↔ Holds (e :: l) lane p) ∧
    (∀ m : Word, (∀ x ∈ e :: l, m &&& x.mask = 0#32) → ∀ x ∈ addEntry e l, m &&& x.mask = 0#32) := by
  have h2 := List.pairwise_cons.1 ha
  unfold addEntry
  split
  · next h0 =>
    refine ⟨h2.2, hm, fun lane p => ?_, fun m h x hx => h x (by simp [hx])⟩
    constructor
    · rintro ⟨x, hx, h⟩; exact ⟨x, by simp [hx], h⟩
    · rintro ⟨x, hx, h, hp⟩
      rcases List.mem_cons.1 hx with rfl | hx
      · rw [h0] at h; simp at h
      · exact ⟨x, hx, h, hp⟩
  · split
    · next h0 h1 =>
      simp only [Bool.and_eq_true, decide_eq_true_eq, List.any_eq_true, beq_iff_eq] at h1
      obtain ⟨hr, y, hy, ⟨hy1, hy2⟩, hy3⟩ := h1
      let k : Entry → Bool := fun x => x.st == .ready && x.pc == e.pc && x.prio == e.prio
      have kt : ∀ x, k x = true ↔ x.st = .ready ∧ x.pc = e.pc ∧ x.prio = e.prio := fun x => by
        simp only [k, Bool.and_eq_true, beq_iff_eq, and_assoc]
      let f : Entry → Entry := fun x => if k x then { x with mask := x.mask ||| e.mask, spilled := x.spilled && e.spilled } else x
      have hf : ∀ x, (f x).place = x.place := fun x => by simp only [f]; split <;> rfl
      have hbit : ∀ x lane, (f x).mask.getLsbD lane = (x.mask.getLsbD lane || (k x && e.mask.getLsbD lane)) := fun x lane => by
        simp only [f]; split
        · next h => simp [h]
        · next h => simp [h]
      have huniq : ∀ a b : Entry, ¬(a.st = .ready ∧ b.st = .ready ∧ a.pc = b.pc ∧ a.prio = b.prio) → ¬(k a = true ∧ k b = true) := by
        intro a b hn ⟨h1, h2⟩
        rw [kt] at h1 h2
        exact hn ⟨h1.1, h2.1, h1.2.1.trans h2.2.1.symm, h1.2.2.trans h2.2.2.symm⟩
      change Apart (l.map f) ∧ Merged (l.map f) ∧ (∀ lane p, Holds (l.map f) lane p ↔ _) ∧ _
      refine ⟨?_, ?_, ?_, ?_⟩
      · unfold Apart
        rw [List.pairwise_map]
        refine (List.Pairwise.and_mem.1 (h2.2.and hm)).imp ?_
        rintro a b ⟨hA, hB, hab, hmm⟩
        have hk := huniq a b hmm
        apply BitVec.eq_of_getLsbD_eq
        intro i hi
        have := congrArg (fun m => m.getLsbD i) hab
        have ea := congrArg (fun m => m.getLsbD i) (h2.1 a hA)
        have eb := congrArg (fun m => m.getLsbD i) (h2.1 b hB)
        simp only [BitVec.getLsbD_and, BitVec.getLsbD_zero] at this ea eb ⊢
        rw [hbit, hbit]
        exact bool_merge _ _ _ _ _ this ea eb hk
      · unfold Merged
        rw [List.pairwise_map]
        refine hm.imp ?_
        intro a b h
        have e1 := hf a; have e2 := hf b
        simp only [Entry.place, Prod.mk.injEq] at e1 e2
        rw [e1.1, e1.2.1, e1.2.2, e2.1, e2.2.1, e2.2.2]; exact h
      · intro lane p
        constructor
        · rintro ⟨x, hx, h, rfl⟩
          obtain ⟨x, hx', rfl⟩ := List.mem_map.1 hx
          rw [hbit, Bool.or_eq_true, Bool.and_eq_true] at h
          rcases h with h | ⟨hk, h⟩
          · exact ⟨x, by simp [hx'], h, (hf x).symm⟩
          · refine ⟨e, by simp, h, ?_⟩
            rw [kt] at hk
            rw [hf]; simp only [Entry.place, hk.1, hk.2.1, hk.2.2, hr]
        · rintro ⟨x, hx, h, rfl⟩
          rcases List.mem_cons.1 hx with rfl | hx
          · refine ⟨f y, List.mem_map_of_mem hy, ?_, ?_⟩
            · rw [hbit, (kt y).2 ⟨hy1, hy2, hy3⟩, h]; simp
            · rw [hf]; simp only [Entry.place, hy1, hy2, hy3, hr]
          · exact ⟨f x, List.mem_map_of_mem hx, by rw [hbit, h]; rfl, hf x⟩
      · intro m h x hx
        obtain ⟨x, hx', rfl⟩ := List.mem_map.1 hx
        have h1 := h x (by simp [hx'])
        have h3 := h e (by simp)
        apply BitVec.eq_of_getLsbD_eq
        intro i hi
        have e1 := congrArg (fun m => m.getLsbD i) h1
        have e3 := congrArg (fun m => m.getLsbD i) h3
        simp only [BitVec.getLsbD_and, BitVec.getLsbD_zero] at e1 e3 ⊢
        rw [hbit]
        exact bool_keep _ _ _ _ e1 e3
    · next h0 h1 =>
      have hp := insertBy_perm Entry.before e l
      refine ⟨Apart.symm_iff hp.symm ha, Merged.symm_iff hp.symm (List.pairwise_cons.2 ⟨fun x hx => ?_, hm⟩), fun lane p => ?_,
        fun m h x hx => h x (hp.mem_iff.1 hx)⟩
      · rintro ⟨a, b, c, d⟩
        apply h1
        simp only [Bool.and_eq_true, decide_eq_true_eq, List.any_eq_true, beq_iff_eq]
        exact ⟨a, x, hx, ⟨b, c.symm⟩, d.symm⟩
      · constructor
        · rintro ⟨x, hx, h⟩; exact ⟨x, hp.mem_iff.1 hx, h⟩
        · rintro ⟨x, hx, h⟩; exact ⟨x, hp.mem_iff.2 hx, h⟩

theorem foldl_addEntry (es acc : List Entry) (ha : Apart (acc ++ es)) (hm : Merged acc) :
    Apart (es.foldl (fun a e => addEntry e a) acc) ∧ Merged (es.foldl (fun a e => addEntry e a) acc) ∧
    ∀ lane p, Holds (es.foldl (fun a e => addEntry e a) acc) lane p ↔ Holds (acc ++ es) lane p := by
  induction es generalizing acc with
  | nil => simp only [List.foldl_nil, List.append_nil] at ha ⊢; exact ⟨ha, hm, fun _ _ => trivial⟩
  | cons e t ih =>
    have hp : (acc ++ e :: t).Perm (e :: (acc ++ t)) := List.perm_middle
    have ha2 : Apart (e :: (acc ++ t)) := Apart.symm_iff hp ha
    have hc := List.pairwise_cons.1 ha2
    have happ := List.pairwise_append.1 hc.2
    obtain ⟨h1, h2, h3, h4⟩ := addEntry_spec e acc (List.pairwise_cons.2 ⟨fun x hx => hc.1 x (by simp [hx]), happ.1⟩) hm
    have ha3 : Apart (addEntry e acc ++ t) := by
      refine List.pairwise_append.2 ⟨h1, happ.2.1, fun x hx y hy => ?_⟩
      rw [BitVec.and_comm]
      refine h4 y.mask (fun z hz => ?_) x hx
      rcases List.mem_cons.1 hz with rfl | hz
      · rw [BitVec.and_comm]; exact hc.1 y (by simp [hy])
      · rw [BitVec.and_comm]; exact happ.2.2 z hz y hy
    obtain ⟨a, b, c⟩ := ih (addEntry e acc) ha3 h2
    refine ⟨a, b, fun lane p => (c lane p).trans ?_⟩
    rw [holds_append, h3, holds_cons, holds_append, holds_cons, or_assoc, or_left_comm]

theorem spillBeyond_map {β : Type} (f : Entry → β) (hf : ∀ e b, f { e with spilled := b } = f e) (n : Nat) (l : List Entry) :
    (spillBeyond n l).map f = l.map f := by
  induction l generalizing n with
  | nil => cases n <;> rfl
  | cons e t ih => cases n <;> simp [spillBeyond, hf, ih]

theorem pairwise_spill {R : Entry → Entry → Prop} (hR : ∀ a b x y, R { a with spilled := x } { b with spilled := y } ↔ R a b)
    (n : Nat) (l : List Entry) : (spillBeyond n l).Pairwise R ↔ l.Pairwise R := by
  let f : Entry → Entry := fun e => { e with spilled := false }
  have h1 : ∀ l : List Entry, l.Pairwise R ↔ (l.map f).Pairwise R := fun l => by
    rw [List.pairwise_map]
    exact List.Pairwise.iff (fun a b => (hR a b false false).symm)
  rw [h1, spillBeyond_map f (fun _ _ => rfl), ← h1]

theorem holds_spill (n : Nat) (l : List Entry) (lane : Nat) (p : Pc × Nat × EntrySt) :
    Holds (spillBeyond n l) lane p ↔ Holds l lane p := by
  have h := spillBeyond_map (fun e => (e.mask, e.place)) (fun _ _ => rfl) n l
  have key : ∀ l : List Entry, Holds l lane p ↔ ∃ x ∈ l.map (fun e => (e.mask, e.place)), x.1.getLsbD lane = true ∧ x.2 = p :=
    fun l => by
      constructor
      · rintro ⟨e, he, h⟩; exact ⟨_, List.mem_map_of_mem he, h⟩
      · rintro ⟨x, hx, h⟩; obtain ⟨e, he, rfl⟩ := List.mem_map.1 hx; exact ⟨e, he, h⟩
  rw [key, h, ← key]

theorem before_place {a b c d : Entry} (h : a.place = c.place) (h' : b.place = d.place) : a.before b = c.before d := by
  simp only [Entry.place, Prod.mk.injEq] at h h'
  simp only [Entry.before, h.1, h.2.1, h'.1, h'.2.1]

/-- The order of R105 is a total preorder. -/
theorem before_trans {a b c : Entry} (h1 : b.before a = false) (h2 : c.before b = false) : c.before a = false := by
  simp only [Entry.before, Pc.lt, Bool.or_eq_false_iff, Bool.and_eq_false_iff, decide_eq_false_iff_not, beq_eq_false_iff_ne] at *
  omega

theorem before_asymm {a b : Entry} (h : a.before b = true) : b.before a = false := by
  simp only [Entry.before, Pc.lt, Bool.or_eq_true, Bool.and_eq_true, decide_eq_true_eq, beq_iff_eq, Bool.or_eq_false_iff,
    Bool.and_eq_false_iff, decide_eq_false_iff_not, beq_eq_false_iff_ne] at *
  omega

theorem insertBy_ordered (e : Entry) (l : List Entry) (h : Ordered l) : Ordered (insertBy Entry.before e l) := by
  induction l with
  | nil => exact List.pairwise_singleton _ _
  | cons y t ih =>
    have h2 := List.pairwise_cons.1 h
    unfold insertBy
    split
    · next hb =>
      refine List.pairwise_cons.2 ⟨fun x hx => ?_, h⟩
      have hy := before_asymm hb
      rcases List.mem_cons.1 hx with rfl | hx
      · exact hy
      · exact before_trans hy (h2.1 x hx)
    · next hb =>
      refine List.pairwise_cons.2 ⟨fun x hx => ?_, ih h2.2⟩
      rcases List.mem_cons.1 ((insertBy_perm _ _ _).mem_iff.1 hx) with rfl | hx
      · simpa using hb
      · exact h2.1 x hx

theorem addEntry_ordered (e : Entry) (l : List Entry) (h : Ordered l) (hf : ∀ x ∈ l, x.mask ≠ 0#32) :
    Ordered (addEntry e l) ∧ ∀ x ∈ addEntry e l, x.mask ≠ 0#32 := by
  unfold addEntry
  split
  · exact ⟨h, hf⟩
  · next h0 =>
    split
    · constructor
      · unfold Ordered updIf
        rw [List.pairwise_map]
        refine h.imp (fun {a b} hab => ?_)
        rw [← hab]
        apply before_place <;> (split <;> rfl)
      · intro x hx
        obtain ⟨x, hx', rfl⟩ := List.mem_map.1 hx
        have := hf x hx'
        split
        · intro hz
          apply this
          apply BitVec.eq_of_getLsbD_eq
          intro i hi
          have := congrArg (fun m => m.getLsbD i) hz
          simp only [BitVec.getLsbD_or, BitVec.getLsbD_zero, Bool.or_eq_false_iff] at this ⊢
          exact this.1
        · exact this
    · refine ⟨insertBy_ordered e l h, fun x hx => ?_⟩
      rcases List.mem_cons.1 ((insertBy_perm _ _ _).mem_iff.1 hx) with rfl | hx
      · exact h0
      · exact hf x hx

theorem foldl_ordered (es acc : List Entry) (h : Ordered acc) (hf : ∀ x ∈ acc, x.mask ≠ 0#32) :
    Ordered (es.foldl (fun a e => addEntry e a) acc) ∧ ∀ x ∈ es.foldl (fun a e => addEntry e a) acc, x.mask ≠ 0#32 := by
  induction es generalizing acc with
  | nil => exact ⟨h, hf⟩
  | cons e t ih => exact ih _ (addEntry_ordered e acc h hf).1 (addEntry_ordered e acc h hf).2

/-- `normFrontier` leaves a frontier as R104 to R108 have it. -/
theorem normFrontier_ok {l : List Entry} (h : Apart l) : FrontierOk (normFrontier l) := by
  obtain ⟨h1, h2, -⟩ := foldl_addEntry l [] (by simpa using h) List.Pairwise.nil
  obtain ⟨h4, h5⟩ := foldl_ordered l [] List.Pairwise.nil (by simp)
  refine ⟨(pairwise_spill (fun _ _ _ _ => Iff.rfl) _ _).2 h1, fun e he => ?_,
    (pairwise_spill (fun _ _ _ _ => Iff.rfl) _ _).2 h4, (pairwise_spill (fun _ _ _ _ => Iff.rfl) _ _).2 h2⟩
  have := spillBeyond_map (fun e => e.mask) (fun _ _ => rfl) 8 (l.foldl (fun a e => addEntry e a) [])
  have hm : e.mask ∈ (normFrontier l).map (fun e => e.mask) := List.mem_map_of_mem he
  unfold normFrontier at hm
  rw [this] at hm
  obtain ⟨x, hx, hxe⟩ := List.mem_map.1 hm
  rw [← hxe]; exact h5 x hx

/-- `normFrontier` keeps every lane where it stands. -/
theorem holds_normFrontier {l : List Entry} (h : Apart l) (lane : Nat) (p : Pc × Nat × EntrySt) :
    Holds (normFrontier l) lane p ↔ Holds l lane p := by
  obtain ⟨-, -, h3⟩ := foldl_addEntry l [] (by simpa using h) List.Pairwise.nil
  unfold normFrontier
  rw [holds_spill, h3]; rfl

/-- The same for a stream. -/
theorem place_normFrontier (t : Stream) {l : List Entry} (h : Apart l) (lane : Nat) :
    Stream.place { t with frontier := normFrontier l } lane = Stream.place { t with frontier := l } lane :=
  place_congr (normFrontier_ok h).apart h (holds_normFrontier h) lane

/-- Taking lanes out of the head: they are gone from it, and nothing else has changed. -/
theorem dropHead_spec {l : List Entry} {e : Entry} {m : Word} (h : Apart l) (hh : l.find? (fun e => e.st == .ready) = some e)
    (hm : m &&& ~~~e.mask = 0#32) :
    Apart (dropHead l m) ∧ (∀ x ∈ dropHead l m, x.mask &&& m = 0#32) ∧
    ∀ lane p, Holds (dropHead l m) lane p ↔ Holds l lane p ∧ m.getLsbD lane = false := by
  have sub : ∀ i, m.getLsbD i = true → e.mask.getLsbD i = true := fun i hi => by
    have hlt : i < 32 := BitVec.lt_of_getLsbD hi
    have := congrArg (fun m => m.getLsbD i) hm
    simpa [hi, hlt] using this
  induction l with
  | nil => cases hh
  | cons a t ih =>
    have h2 := List.pairwise_cons.1 h
    unfold dropHead
    by_cases ha : a.st = .ready
    · have he : a = e := by
        simp only [List.find?_cons, ha, beq_self_eq_true, Option.some.injEq] at hh
        exact hh
      subst he
      rw [if_pos ha]
      refine ⟨List.pairwise_cons.2 ⟨fun x hx => ?_, h2.2⟩, ?_, fun lane p => ?_⟩
      · apply BitVec.eq_of_getLsbD_eq
        intro i hi
        have := congrArg (fun m => m.getLsbD i) (h2.1 x hx)
        simp only [BitVec.getLsbD_and, BitVec.getLsbD_zero, BitVec.getLsbD_not] at this ⊢
        revert this
        cases a.mask.getLsbD i <;> cases x.mask.getLsbD i <;> simp
      · intro x hx
        apply BitVec.eq_of_getLsbD_eq
        intro i hi
        rcases List.mem_cons.1 hx with rfl | hx
        · simp only [BitVec.getLsbD_and, BitVec.getLsbD_zero, BitVec.getLsbD_not]
          cases m.getLsbD i <;> simp
        · simp only [BitVec.getLsbD_and, BitVec.getLsbD_zero]
          cases hmi : m.getLsbD i
          · simp
          · rw [bit_apart (h2.1 x hx) i (sub i hmi)]; rfl
      · rw [holds_cons, holds_cons]
        constructor
        · rintro (⟨hb, hp⟩ | ht)
          · have hlt : lane < 32 := BitVec.lt_of_getLsbD hb
            simp only [BitVec.getLsbD_and, BitVec.getLsbD_not, hlt, decide_true, Bool.true_and, Bool.and_eq_true,
              Bool.not_eq_true'] at hb
            exact ⟨.inl ⟨hb.1, hp⟩, hb.2⟩
          · refine ⟨.inr ht, ?_⟩
            obtain ⟨x, hx, hxb, -⟩ := ht
            by_contra hc
            have := bit_apart (h2.1 x hx) lane (sub lane (by simpa using hc))
            rw [hxb] at this; cases this
        · rintro ⟨⟨hb, hp⟩ | ht, hc⟩
          · have hlt : lane < 32 := BitVec.lt_of_getLsbD hb
            left
            refine ⟨?_, hp⟩
            simp only [BitVec.getLsbD_and, BitVec.getLsbD_not, hlt, decide_true, Bool.true_and, hb, hc, Bool.not_false]
          · exact .inr ht
    · have hh' : t.find? (fun e => e.st == .ready) = some e := by
        have : (a.st == .ready) = false := by simpa using ha
        simpa only [List.find?_cons, this] using hh
      obtain ⟨i1, i2, i3⟩ := ih h2.2 hh'
      have hea : e ∈ t := List.mem_of_find?_eq_some hh'
      rw [if_neg ha]
      refine ⟨List.pairwise_cons.2 ⟨fun x hx => ?_, i1⟩, ?_, fun lane p => ?_⟩
      · apply BitVec.eq_of_getLsbD_eq
        intro i hi
        simp only [BitVec.getLsbD_and, BitVec.getLsbD_zero]
        cases hxi : x.mask.getLsbD i
        · simp
        · obtain ⟨y, hy, hyb, -⟩ := ((i3 i x.place).1 ⟨x, hx, hxi, rfl⟩).1
          cases hai : a.mask.getLsbD i
          · rfl
          · have := bit_apart (h2.1 y hy) i hai; rw [hyb] at this; cases this
      · intro x hx
        rcases List.mem_cons.1 hx with rfl | hx
        · apply BitVec.eq_of_getLsbD_eq
          intro i hi
          simp only [BitVec.getLsbD_and, BitVec.getLsbD_zero]
          cases hmi : m.getLsbD i
          · simp
          · cases hxi : x.mask.getLsbD i
            · rfl
            · have := bit_apart (h2.1 e hea) i hxi; rw [sub i hmi] at this; cases this
        · exact i2 x hx
      · rw [holds_cons, holds_cons, i3]
        constructor
        · rintro (⟨hb, hp⟩ | ⟨ht, hc⟩)
          · refine ⟨.inl ⟨hb, hp⟩, ?_⟩
            by_contra hc
            have := bit_apart (h2.1 e hea) lane hb
            rw [sub lane (by simpa using hc)] at this; cases this
          · exact ⟨.inr ht, hc⟩
        · rintro ⟨hb | ht, hc⟩
          · exact .inl hb
          · exact .inr ⟨ht, hc⟩

/-- Lanes of the head that stand in new entries (R107): they stand there, and every other lane where it stood. -/
theorem moveHead_spec {t : Stream} {e : Entry} {m : Word} {es : List Entry} (h : Apart t.frontier) (hh : t.head = some e)
    (hm : m &&& ~~~e.mask = 0#32) (hes : Apart es) (hsub : ∀ x ∈ es, x.mask &&& ~~~m = 0#32) :
    FrontierOk (t.moveHead m es).frontier ∧
    ∀ lane p, (t.moveHead m es).place lane = some p ↔ Holds es lane p ∨ (t.place lane = some p ∧ m.getLsbD lane = false) := by
  obtain ⟨h1, h2, h3⟩ := dropHead_spec h hh hm
  have ha : Apart (dropHead t.frontier m ++ es) := by
    refine List.pairwise_append.2 ⟨h1, hes, fun x hx y hy => ?_⟩
    apply BitVec.eq_of_getLsbD_eq
    intro i hi
    have a := congrArg (fun m => m.getLsbD i) (h2 x hx)
    have b := congrArg (fun m => m.getLsbD i) (hsub y hy)
    simp only [BitVec.getLsbD_and, BitVec.getLsbD_zero, BitVec.getLsbD_not, hi, decide_true, Bool.true_and] at a b ⊢
    revert a b
    cases x.mask.getLsbD i <;> cases y.mask.getLsbD i <;> cases m.getLsbD i <;> simp
  have hok := normFrontier_ok ha
  refine ⟨hok, fun lane p => ?_⟩
  rw [Stream.place_eq (t := t.moveHead m es) hok.apart, Stream.place_eq h]
  change Holds (normFrontier _) lane p ↔ _
  rw [holds_normFrontier ha, holds_append, h3, or_comm]

end Sys2Proof.Machine
end

