-- ==== Sys2Proof/Laws/PerInstr.lean ====
section
/-! SUPPORT. The family of statements `Encoding`, for each constructor of `Instr`: the word written from an instruction reads back as that
instruction. -/

namespace Sys2Proof.Laws

theorem part_hi {m n : Nat} (x : BitVec m) (y : BitVec n) (s l : Nat) (h : n ≤ s) : (x ++ y).extractLsb' s l = x.extractLsb' (s - n) l := by
  ext i hi
  simp only [BitVec.getElem_extractLsb', BitVec.getLsbD_append]
  rw [if_neg (by omega)]
  congr 1
  omega

theorem part_lo {m n : Nat} (x : BitVec m) (y : BitVec n) (s l : Nat) (h : s + l ≤ n) : (x ++ y).extractLsb' s l = y.extractLsb' s l := by
  ext i hi
  simp only [BitVec.getElem_extractLsb', BitVec.getLsbD_append]
  rw [if_pos (by omega)]

theorem part_all {n : Nat} (x : BitVec n) : x.extractLsb' 0 n = x := by
  ext i hi
  simp

/-- A field that reaches past its low part differs where the low part does. -/
theorem part_cross {m n : Nat} (x : BitVec m) (y : BitVec n) (l : Nat) (c : BitVec l) (h : n ≤ l) (hc : c.extractLsb' 0 n ≠ y) :
    ¬((x ++ y).extractLsb' 0 l = c) := by
  rintro rfl
  apply hc
  ext i hi
  simp only [BitVec.getElem_extractLsb', BitVec.getLsbD_append, BitVec.getLsbD_extractLsb', Nat.zero_add]
  rw [if_pos (by omega)]
  have : i < l := by omega
  simp [this, BitVec.getLsbD_eq_getElem hi]

/-- A value whose high part differs is another one. -/
theorem part_top {m n : Nat} (x : BitVec m) (y : BitVec n) (c : BitVec (m + n)) (hc : c.extractLsb' n m ≠ x) : ¬(x ++ y = c) := by
  rintro rfl
  apply hc
  rw [part_hi _ _ _ _ (Nat.le_refl n), Nat.sub_self]
  exact part_all x

/-- What the decoder reads from a word of a header, an opcode and a payload. -/
theorem decode_packWord (h : Hdr) (op : BitVec 6) (p : BitVec 19) {i : Instr} (hd : decodePayload op p = some i) (hw : i.wf = true) :
    decodeWord (packWord h op p) = some ({ h with imm := immOf i p }, i) := by
  have h1 : opOf (packWord h op p) = op := by
    simp only [opOf, packWord]
    rw [part_hi _ _ _ _ (by decide), part_lo _ _ _ _ (by decide)]
    exact part_all _
  have h2 : payloadOf (packWord h op p) = p := by
    simp only [payloadOf, packWord]
    rw [part_lo _ _ _ _ (by decide)]
    exact part_all _
  have h3 : ∀ n, hdrOf (packWord h op p) n = { h with imm := n } := by
    intro n
    have e1 : (packWord h op p).extractLsb' 28 2 = h.d := by
      simp only [packWord]
      rw [part_hi _ _ _ _ (by decide), part_hi _ _ _ _ (by decide), part_hi _ _ _ _ (by decide), part_lo _ _ _ _ (by decide)]
      exact part_all _
    have e2 : (packWord h op p).extractLsb' 25 3 = h.w := by
      simp only [packWord]
      rw [part_hi _ _ _ _ (by decide), part_hi _ _ _ _ (by decide), part_lo _ _ _ _ (by decide)]
      exact part_all _
    have e3 : (packWord h op p).getLsbD 31 = h.c := by
      simp only [packWord, BitVec.getLsbD_append, BitVec.getLsbD_ofBool]
      rfl
    have e4 : (packWord h op p).getLsbD 30 = h.y := by
      simp only [packWord, BitVec.getLsbD_append, BitVec.getLsbD_ofBool]
      rfl
    simp only [hdrOf, e1, e2, e3, e4]
  simp only [decodeWord, h1, h2, h3, hd, hw, if_true]

namespace Encoding

set_option linter.unusedSimpArgs false

/-- The word of an instruction, under any header, decodes to that header and that instruction. -/
def Statement (i : Instr) : Prop :=
  i.wf = true → i.isWord = true → ∀ h : Hdr, (i = .fence → h.imm.toNat % 8 < 5) →
    decodeWord (encode h i) = some ({ h with imm := Machine.keptImm h.imm i }, i)


theorem bra (p : BitVec 4) (c : BitVec 3) (o : BitVec 12) : Statement (.bra p c o) := by
  intro hw _ h _
  refine decode_packWord h _ _ ?_ hw
  show decodeOp02 _ = _
  simp (disch := decide) only [decodeOp02, part_hi, part_lo, part_all, part_cross, part_top, Nat.reduceSub, BitVec.reduceEq, BitVec.reduceExtractLsb', and_true, and_false, true_and, false_and, if_true, if_false, reduceIte]

theorem call (p : BitVec 4) (c : BitVec 3) (o : BitVec 12) : Statement (.call p c o) := by
  intro hw _ h _
  refine decode_packWord h _ _ ?_ hw
  show decodeOp03 _ = _
  simp (disch := decide) only [decodeOp03, part_hi, part_lo, part_all, part_cross, part_top, Nat.reduceSub, BitVec.reduceEq, BitVec.reduceExtractLsb', and_true, and_false, true_and, false_and, if_true, if_false, reduceIte]

theorem brx (p : BitVec 4) (c : BitVec 3) (a : BitVec 6) : Statement (.brx p c a) := by
  intro hw _ h _
  refine decode_packWord h _ _ ?_ hw
  show decodeOp04 _ = _
  simp (disch := decide) only [decodeOp04, part_hi, part_lo, part_all, part_cross, part_top, Nat.reduceSub, BitVec.reduceEq, BitVec.reduceExtractLsb', and_true, and_false, true_and, false_and, if_true, if_false, reduceIte]

theorem ret (c : BitVec 3) : Statement (.ret c) := by
  intro hw _ h _
  refine decode_packWord h _ _ ?_ hw
  show decodeOp05 _ = _
  simp (disch := decide) only [decodeOp05, part_hi, part_lo, part_all, part_cross, part_top, Nat.reduceSub, BitVec.reduceEq, BitVec.reduceExtractLsb', and_true, and_false, true_and, false_and, if_true, if_false, reduceIte]

theorem exit (c : BitVec 3) : Statement (.exit c) := by
  intro hw _ h _
  refine decode_packWord h _ _ ?_ hw
  show decodeOp07 _ = _
  simp (disch := decide) only [decodeOp07, part_hi, part_lo, part_all, part_cross, part_top, Nat.reduceSub, BitVec.reduceEq, BitVec.reduceExtractLsb', and_true, and_false, true_and, false_and, if_true, if_false, reduceIte]

theorem iadd (d : BitVec 6) (a : BitVec 6) (b : BitVec 6) (g : BitVec 1) : Statement (.iadd d a b g) := by
  intro hw _ h _
  refine decode_packWord h _ _ ?_ hw
  show decodeOp08 _ = _
  simp (disch := decide) only [decodeOp08, part_hi, part_lo, part_all, part_cross, part_top, Nat.reduceSub, BitVec.reduceEq, BitVec.reduceExtractLsb', and_true, and_false, true_and, false_and, if_true, if_false, reduceIte]

theorem isub (d : BitVec 6) (a : BitVec 6) (b : BitVec 6) (g : BitVec 1) : Statement (.isub d a b g) := by
  intro hw _ h _
  refine decode_packWord h _ _ ?_ hw
  show decodeOp09 _ = _
  simp (disch := decide) only [decodeOp09, part_hi, part_lo, part_all, part_cross, part_top, Nat.reduceSub, BitVec.reduceEq, BitVec.reduceExtractLsb', and_true, and_false, true_and, false_and, if_true, if_false, reduceIte]

theorem imul (d : BitVec 6) (a : BitVec 6) (b : BitVec 6) (g : BitVec 1) : Statement (.imul d a b g) := by
  intro hw _ h _
  refine decode_packWord h _ _ ?_ hw
  show decodeOp0A _ = _
  simp (disch := decide) only [decodeOp0A, part_hi, part_lo, part_all, part_cross, part_top, Nat.reduceSub, BitVec.reduceEq, BitVec.reduceExtractLsb', and_true, and_false, true_and, false_and, if_true, if_false, reduceIte]

theorem imad (d : BitVec 6) (a : BitVec 6) (b : BitVec 6) (g : BitVec 1) : Statement (.imad d a b g) := by
  intro hw _ h _
  refine decode_packWord h _ _ ?_ hw
  show decodeOp0B _ = _
  simp (disch := decide) only [decodeOp0B, part_hi, part_lo, part_all, part_cross, part_top, Nat.reduceSub, BitVec.reduceEq, BitVec.reduceExtractLsb', and_true, and_false, true_and, false_and, if_true, if_false, reduceIte]

theorem and (d : BitVec 6) (a : BitVec 6) (b : BitVec 6) (g : BitVec 1) : Statement (.and d a b g) := by
  intro hw _ h _
  refine decode_packWord h _ _ ?_ hw
  show decodeOp0C _ = _
  simp (disch := decide) only [decodeOp0C, part_hi, part_lo, part_all, part_cross, part_top, Nat.reduceSub, BitVec.reduceEq, BitVec.reduceExtractLsb', and_true, and_false, true_and, false_and, if_true, if_false, reduceIte]

theorem or (d : BitVec 6) (a : BitVec 6) (b : BitVec 6) (g : BitVec 1) : Statement (.or d a b g) := by
  intro hw _ h _
  refine decode_packWord h _ _ ?_ hw
  show decodeOp0D _ = _
  simp (disch := decide) only [decodeOp0D, part_hi, part_lo, part_all, part_cross, part_top, Nat.reduceSub, BitVec.reduceEq, BitVec.reduceExtractLsb', and_true, and_false, true_and, false_and, if_true, if_false, reduceIte]

theorem xor (d : BitVec 6) (a : BitVec 6) (b : BitVec 6) (g : BitVec 1) : Statement (.xor d a b g) := by
  intro hw _ h _
  refine decode_packWord h _ _ ?_ hw
  show decodeOp0E _ = _
  simp (disch := decide) only [decodeOp0E, part_hi, part_lo, part_all, part_cross, part_top, Nat.reduceSub, BitVec.reduceEq, BitVec.reduceExtractLsb', and_true, and_false, true_and, false_and, if_true, if_false, reduceIte]

theorem csel (d : BitVec 6) (a : BitVec 6) (b : BitVec 6) : Statement (.csel d a b) := by
  intro hw _ h _
  refine decode_packWord h _ _ ?_ hw
  show decodeOp0F _ = _
  simp (disch := decide) only [decodeOp0F, part_hi, part_lo, part_all, part_cross, part_top, Nat.reduceSub, BitVec.reduceEq, BitVec.reduceExtractLsb', and_true, and_false, true_and, false_and, if_true, if_false, reduceIte]

theorem mov (d : BitVec 6) (a : BitVec 6) (g : BitVec 1) : Statement (.mov d a g) := by
  intro hw _ h _
  refine decode_packWord h _ _ ?_ hw
  show decodeOp10 _ = _
  simp (disch := decide) only [decodeOp10, part_hi, part_lo, part_all, part_cross, part_top, Nat.reduceSub, BitVec.reduceEq, BitVec.reduceExtractLsb', and_true, and_false, true_and, false_and, if_true, if_false, reduceIte]

theorem not (d : BitVec 6) (a : BitVec 6) (g : BitVec 1) : Statement (.not d a g) := by
  intro hw _ h _
  refine decode_packWord h _ _ ?_ hw
  show decodeOp10 _ = _
  simp (disch := decide) only [decodeOp10, part_hi, part_lo, part_all, part_cross, part_top, Nat.reduceSub, BitVec.reduceEq, BitVec.reduceExtractLsb', and_true, and_false, true_and, false_and, if_true, if_false, reduceIte]

theorem iabs (d : BitVec 6) (a : BitVec 6) (g : BitVec 1) : Statement (.iabs d a g) := by
  intro hw _ h _
  refine decode_packWord h _ _ ?_ hw
  show decodeOp10 _ = _
  simp (disch := decide) only [decodeOp10, part_hi, part_lo, part_all, part_cross, part_top, Nat.reduceSub, BitVec.reduceEq, BitVec.reduceExtractLsb', and_true, and_false, true_and, false_and, if_true, if_false, reduceIte]

theorem popc (d : BitVec 6) (a : BitVec 6) (g : BitVec 1) : Statement (.popc d a g) := by
  intro hw _ h _
  refine decode_packWord h _ _ ?_ hw
  show decodeOp10 _ = _
  simp (disch := decide) only [decodeOp10, part_hi, part_lo, part_all, part_cross, part_top, Nat.reduceSub, BitVec.reduceEq, BitVec.reduceExtractLsb', and_true, and_false, true_and, false_and, if_true, if_false, reduceIte]

theorem clz (d : BitVec 6) (a : BitVec 6) (g : BitVec 1) : Statement (.clz d a g) := by
  intro hw _ h _
  refine decode_packWord h _ _ ?_ hw
  show decodeOp10 _ = _
  simp (disch := decide) only [decodeOp10, part_hi, part_lo, part_all, part_cross, part_top, Nat.reduceSub, BitVec.reduceEq, BitVec.reduceExtractLsb', and_true, and_false, true_and, false_and, if_true, if_false, reduceIte]

theorem brev (d : BitVec 6) (a : BitVec 6) (g : BitVec 1) : Statement (.brev d a g) := by
  intro hw _ h _
  refine decode_packWord h _ _ ?_ hw
  show decodeOp10 _ = _
  simp (disch := decide) only [decodeOp10, part_hi, part_lo, part_all, part_cross, part_top, Nat.reduceSub, BitVec.reduceEq, BitVec.reduceExtractLsb', and_true, and_false, true_and, false_and, if_true, if_false, reduceIte]

theorem shl (d : BitVec 6) (a : BitVec 6) (g : BitVec 1) : Statement (.shl d a g) := by
  intro hw _ h _
  refine decode_packWord h _ _ ?_ hw
  show decodeOp10 _ = _
  simp (disch := decide) only [decodeOp10, part_hi, part_lo, part_all, part_cross, part_top, Nat.reduceSub, BitVec.reduceEq, BitVec.reduceExtractLsb', and_true, and_false, true_and, false_and, if_true, if_false, reduceIte]

theorem shr (d : BitVec 6) (a : BitVec 6) (g : BitVec 1) : Statement (.shr d a g) := by
  intro hw _ h _
  refine decode_packWord h _ _ ?_ hw
  show decodeOp10 _ = _
  simp (disch := decide) only [decodeOp10, part_hi, part_lo, part_all, part_cross, part_top, Nat.reduceSub, BitVec.reduceEq, BitVec.reduceExtractLsb', and_true, and_false, true_and, false_and, if_true, if_false, reduceIte]

theorem sar (d : BitVec 6) (a : BitVec 6) (g : BitVec 1) : Statement (.sar d a g) := by
  intro hw _ h _
  refine decode_packWord h _ _ ?_ hw
  show decodeOp10 _ = _
  simp (disch := decide) only [decodeOp10, part_hi, part_lo, part_all, part_cross, part_top, Nat.reduceSub, BitVec.reduceEq, BitVec.reduceExtractLsb', and_true, and_false, true_and, false_and, if_true, if_false, reduceIte]

theorem iminI (d : BitVec 6) (a : BitVec 6) (g : BitVec 1) : Statement (.iminI d a g) := by
  intro hw _ h _
  refine decode_packWord h _ _ ?_ hw
  show decodeOp10 _ = _
  simp (disch := decide) only [decodeOp10, part_hi, part_lo, part_all, part_cross, part_top, Nat.reduceSub, BitVec.reduceEq, BitVec.reduceExtractLsb', and_true, and_false, true_and, false_and, if_true, if_false, reduceIte]

theorem iminN (d : BitVec 6) (a : BitVec 6) (g : BitVec 1) : Statement (.iminN d a g) := by
  intro hw _ h _
  refine decode_packWord h _ _ ?_ hw
  show decodeOp10 _ = _
  simp (disch := decide) only [decodeOp10, part_hi, part_lo, part_all, part_cross, part_top, Nat.reduceSub, BitVec.reduceEq, BitVec.reduceExtractLsb', and_true, and_false, true_and, false_and, if_true, if_false, reduceIte]

theorem imaxI (d : BitVec 6) (a : BitVec 6) (g : BitVec 1) : Statement (.imaxI d a g) := by
  intro hw _ h _
  refine decode_packWord h _ _ ?_ hw
  show decodeOp10 _ = _
  simp (disch := decide) only [decodeOp10, part_hi, part_lo, part_all, part_cross, part_top, Nat.reduceSub, BitVec.reduceEq, BitVec.reduceExtractLsb', and_true, and_false, true_and, false_and, if_true, if_false, reduceIte]

theorem imaxN (d : BitVec 6) (a : BitVec 6) (g : BitVec 1) : Statement (.imaxN d a g) := by
  intro hw _ h _
  refine decode_packWord h _ _ ?_ hw
  show decodeOp10 _ = _
  simp (disch := decide) only [decodeOp10, part_hi, part_lo, part_all, part_cross, part_top, Nat.reduceSub, BitVec.reduceEq, BitVec.reduceExtractLsb', and_true, and_false, true_and, false_and, if_true, if_false, reduceIte]

theorem imulhI (d : BitVec 6) (a : BitVec 6) (g : BitVec 1) : Statement (.imulhI d a g) := by
  intro hw _ h _
  refine decode_packWord h _ _ ?_ hw
  show decodeOp10 _ = _
  simp (disch := decide) only [decodeOp10, part_hi, part_lo, part_all, part_cross, part_top, Nat.reduceSub, BitVec.reduceEq, BitVec.reduceExtractLsb', and_true, and_false, true_and, false_and, if_true, if_false, reduceIte]

theorem imulhN (d : BitVec 6) (a : BitVec 6) (g : BitVec 1) : Statement (.imulhN d a g) := by
  intro hw _ h _
  refine decode_packWord h _ _ ?_ hw
  show decodeOp10 _ = _
  simp (disch := decide) only [decodeOp10, part_hi, part_lo, part_all, part_cross, part_top, Nat.reduceSub, BitVec.reduceEq, BitVec.reduceExtractLsb', and_true, and_false, true_and, false_and, if_true, if_false, reduceIte]

theorem movOw (d : BitVec 6) (a : BitVec 6) (g : BitVec 1) : Statement (.movOw d a g) := by
  intro hw _ h _
  refine decode_packWord h _ _ ?_ hw
  show decodeOp10 _ = _
  simp (disch := decide) only [decodeOp10, part_hi, part_lo, part_all, part_cross, part_top, Nat.reduceSub, BitVec.reduceEq, BitVec.reduceExtractLsb', and_true, and_false, true_and, false_and, if_true, if_false, reduceIte]

theorem notOw (d : BitVec 6) (a : BitVec 6) (g : BitVec 1) : Statement (.notOw d a g) := by
  intro hw _ h _
  refine decode_packWord h _ _ ?_ hw
  show decodeOp10 _ = _
  simp (disch := decide) only [decodeOp10, part_hi, part_lo, part_all, part_cross, part_top, Nat.reduceSub, BitVec.reduceEq, BitVec.reduceExtractLsb', and_true, and_false, true_and, false_and, if_true, if_false, reduceIte]

theorem iabsOw (d : BitVec 6) (a : BitVec 6) (g : BitVec 1) : Statement (.iabsOw d a g) := by
  intro hw _ h _
  refine decode_packWord h _ _ ?_ hw
  show decodeOp10 _ = _
  simp (disch := decide) only [decodeOp10, part_hi, part_lo, part_all, part_cross, part_top, Nat.reduceSub, BitVec.reduceEq, BitVec.reduceExtractLsb', and_true, and_false, true_and, false_and, if_true, if_false, reduceIte]

theorem popcOw (d : BitVec 6) (a : BitVec 6) (g : BitVec 1) : Statement (.popcOw d a g) := by
  intro hw _ h _
  refine decode_packWord h _ _ ?_ hw
  show decodeOp10 _ = _
  simp (disch := decide) only [decodeOp10, part_hi, part_lo, part_all, part_cross, part_top, Nat.reduceSub, BitVec.reduceEq, BitVec.reduceExtractLsb', and_true, and_false, true_and, false_and, if_true, if_false, reduceIte]

theorem clzOw (d : BitVec 6) (a : BitVec 6) (g : BitVec 1) : Statement (.clzOw d a g) := by
  intro hw _ h _
  refine decode_packWord h _ _ ?_ hw
  show decodeOp10 _ = _
  simp (disch := decide) only [decodeOp10, part_hi, part_lo, part_all, part_cross, part_top, Nat.reduceSub, BitVec.reduceEq, BitVec.reduceExtractLsb', and_true, and_false, true_and, false_and, if_true, if_false, reduceIte]

theorem brevOw (d : BitVec 6) (a : BitVec 6) (g : BitVec 1) : Statement (.brevOw d a g) := by
  intro hw _ h _
  refine decode_packWord h _ _ ?_ hw
  show decodeOp10 _ = _
  simp (disch := decide) only [decodeOp10, part_hi, part_lo, part_all, part_cross, part_top, Nat.reduceSub, BitVec.reduceEq, BitVec.reduceExtractLsb', and_true, and_false, true_and, false_and, if_true, if_false, reduceIte]

theorem shlOw (d : BitVec 6) (a : BitVec 6) (g : BitVec 1) : Statement (.shlOw d a g) := by
  intro hw _ h _
  refine decode_packWord h _ _ ?_ hw
  show decodeOp10 _ = _
  simp (disch := decide) only [decodeOp10, part_hi, part_lo, part_all, part_cross, part_top, Nat.reduceSub, BitVec.reduceEq, BitVec.reduceExtractLsb', and_true, and_false, true_and, false_and, if_true, if_false, reduceIte]

theorem shrOw (d : BitVec 6) (a : BitVec 6) (g : BitVec 1) : Statement (.shrOw d a g) := by
  intro hw _ h _
  refine decode_packWord h _ _ ?_ hw
  show decodeOp10 _ = _
  simp (disch := decide) only [decodeOp10, part_hi, part_lo, part_all, part_cross, part_top, Nat.reduceSub, BitVec.reduceEq, BitVec.reduceExtractLsb', and_true, and_false, true_and, false_and, if_true, if_false, reduceIte]

theorem sarOw (d : BitVec 6) (a : BitVec 6) (g : BitVec 1) : Statement (.sarOw d a g) := by
  intro hw _ h _
  refine decode_packWord h _ _ ?_ hw
  show decodeOp10 _ = _
  simp (disch := decide) only [decodeOp10, part_hi, part_lo, part_all, part_cross, part_top, Nat.reduceSub, BitVec.reduceEq, BitVec.reduceExtractLsb', and_true, and_false, true_and, false_and, if_true, if_false, reduceIte]

theorem iminIOw (d : BitVec 6) (a : BitVec 6) (g : BitVec 1) : Statement (.iminIOw d a g) := by
  intro hw _ h _
  refine decode_packWord h _ _ ?_ hw
  show decodeOp10 _ = _
  simp (disch := decide) only [decodeOp10, part_hi, part_lo, part_all, part_cross, part_top, Nat.reduceSub, BitVec.reduceEq, BitVec.reduceExtractLsb', and_true, and_false, true_and, false_and, if_true, if_false, reduceIte]

theorem iminNOw (d : BitVec 6) (a : BitVec 6) (g : BitVec 1) : Statement (.iminNOw d a g) := by
  intro hw _ h _
  refine decode_packWord h _ _ ?_ hw
  show decodeOp10 _ = _
  simp (disch := decide) only [decodeOp10, part_hi, part_lo, part_all, part_cross, part_top, Nat.reduceSub, BitVec.reduceEq, BitVec.reduceExtractLsb', and_true, and_false, true_and, false_and, if_true, if_false, reduceIte]

theorem imaxIOw (d : BitVec 6) (a : BitVec 6) (g : BitVec 1) : Statement (.imaxIOw d a g) := by
  intro hw _ h _
  refine decode_packWord h _ _ ?_ hw
  show decodeOp10 _ = _
  simp (disch := decide) only [decodeOp10, part_hi, part_lo, part_all, part_cross, part_top, Nat.reduceSub, BitVec.reduceEq, BitVec.reduceExtractLsb', and_true, and_false, true_and, false_and, if_true, if_false, reduceIte]

theorem imaxNOw (d : BitVec 6) (a : BitVec 6) (g : BitVec 1) : Statement (.imaxNOw d a g) := by
  intro hw _ h _
  refine decode_packWord h _ _ ?_ hw
  show decodeOp10 _ = _
  simp (disch := decide) only [decodeOp10, part_hi, part_lo, part_all, part_cross, part_top, Nat.reduceSub, BitVec.reduceEq, BitVec.reduceExtractLsb', and_true, and_false, true_and, false_and, if_true, if_false, reduceIte]

theorem imulhIOw (d : BitVec 6) (a : BitVec 6) (g : BitVec 1) : Statement (.imulhIOw d a g) := by
  intro hw _ h _
  refine decode_packWord h _ _ ?_ hw
  show decodeOp10 _ = _
  simp (disch := decide) only [decodeOp10, part_hi, part_lo, part_all, part_cross, part_top, Nat.reduceSub, BitVec.reduceEq, BitVec.reduceExtractLsb', and_true, and_false, true_and, false_and, if_true, if_false, reduceIte]

theorem imulhNOw (d : BitVec 6) (a : BitVec 6) (g : BitVec 1) : Statement (.imulhNOw d a g) := by
  intro hw _ h _
  refine decode_packWord h _ _ ?_ hw
  show decodeOp10 _ = _
  simp (disch := decide) only [decodeOp10, part_hi, part_lo, part_all, part_cross, part_top, Nat.reduceSub, BitVec.reduceEq, BitVec.reduceExtractLsb', and_true, and_false, true_and, false_and, if_true, if_false, reduceIte]

theorem iaddOw (d : BitVec 6) (a : BitVec 6) (g : BitVec 1) : Statement (.iaddOw d a g) := by
  intro hw _ h _
  refine decode_packWord h _ _ ?_ hw
  show decodeOp10 _ = _
  simp (disch := decide) only [decodeOp10, part_hi, part_lo, part_all, part_cross, part_top, Nat.reduceSub, BitVec.reduceEq, BitVec.reduceExtractLsb', and_true, and_false, true_and, false_and, if_true, if_false, reduceIte]

theorem isubOw (d : BitVec 6) (a : BitVec 6) (g : BitVec 1) : Statement (.isubOw d a g) := by
  intro hw _ h _
  refine decode_packWord h _ _ ?_ hw
  show decodeOp10 _ = _
  simp (disch := decide) only [decodeOp10, part_hi, part_lo, part_all, part_cross, part_top, Nat.reduceSub, BitVec.reduceEq, BitVec.reduceExtractLsb', and_true, and_false, true_and, false_and, if_true, if_false, reduceIte]

theorem imulOw (d : BitVec 6) (a : BitVec 6) (g : BitVec 1) : Statement (.imulOw d a g) := by
  intro hw _ h _
  refine decode_packWord h _ _ ?_ hw
  show decodeOp10 _ = _
  simp (disch := decide) only [decodeOp10, part_hi, part_lo, part_all, part_cross, part_top, Nat.reduceSub, BitVec.reduceEq, BitVec.reduceExtractLsb', and_true, and_false, true_and, false_and, if_true, if_false, reduceIte]

theorem andOw (d : BitVec 6) (a : BitVec 6) (g : BitVec 1) : Statement (.andOw d a g) := by
  intro hw _ h _
  refine decode_packWord h _ _ ?_ hw
  show decodeOp10 _ = _
  simp (disch := decide) only [decodeOp10, part_hi, part_lo, part_all, part_cross, part_top, Nat.reduceSub, BitVec.reduceEq, BitVec.reduceExtractLsb', and_true, and_false, true_and, false_and, if_true, if_false, reduceIte]

theorem orOw (d : BitVec 6) (a : BitVec 6) (g : BitVec 1) : Statement (.orOw d a g) := by
  intro hw _ h _
  refine decode_packWord h _ _ ?_ hw
  show decodeOp10 _ = _
  simp (disch := decide) only [decodeOp10, part_hi, part_lo, part_all, part_cross, part_top, Nat.reduceSub, BitVec.reduceEq, BitVec.reduceExtractLsb', and_true, and_false, true_and, false_and, if_true, if_false, reduceIte]

theorem xorOw (d : BitVec 6) (a : BitVec 6) (g : BitVec 1) : Statement (.xorOw d a g) := by
  intro hw _ h _
  refine decode_packWord h _ _ ?_ hw
  show decodeOp10 _ = _
  simp (disch := decide) only [decodeOp10, part_hi, part_lo, part_all, part_cross, part_top, Nat.reduceSub, BitVec.reduceEq, BitVec.reduceExtractLsb', and_true, and_false, true_and, false_and, if_true, if_false, reduceIte]

theorem movi (d : BitVec 6) (i : BitVec 6) (g : BitVec 1) : Statement (.movi d i g) := by
  intro hw _ h _
  refine decode_packWord h _ _ ?_ hw
  show decodeOp11 _ = _
  simp (disch := decide) only [decodeOp11, part_hi, part_lo, part_all, part_cross, part_top, Nat.reduceSub, BitVec.reduceEq, BitVec.reduceExtractLsb', and_true, and_false, true_and, false_and, if_true, if_false, reduceIte]

theorem iaddImm (d : BitVec 6) (i : BitVec 6) (g : BitVec 1) : Statement (.iaddImm d i g) := by
  intro hw _ h _
  refine decode_packWord h _ _ ?_ hw
  show decodeOp11 _ = _
  simp (disch := decide) only [decodeOp11, part_hi, part_lo, part_all, part_cross, part_top, Nat.reduceSub, BitVec.reduceEq, BitVec.reduceExtractLsb', and_true, and_false, true_and, false_and, if_true, if_false, reduceIte]

theorem imulImm (d : BitVec 6) (i : BitVec 6) (g : BitVec 1) : Statement (.imulImm d i g) := by
  intro hw _ h _
  refine decode_packWord h _ _ ?_ hw
  show decodeOp11 _ = _
  simp (disch := decide) only [decodeOp11, part_hi, part_lo, part_all, part_cross, part_top, Nat.reduceSub, BitVec.reduceEq, BitVec.reduceExtractLsb', and_true, and_false, true_and, false_and, if_true, if_false, reduceIte]

theorem andImm (d : BitVec 6) (i : BitVec 6) (g : BitVec 1) : Statement (.andImm d i g) := by
  intro hw _ h _
  refine decode_packWord h _ _ ?_ hw
  show decodeOp11 _ = _
  simp (disch := decide) only [decodeOp11, part_hi, part_lo, part_all, part_cross, part_top, Nat.reduceSub, BitVec.reduceEq, BitVec.reduceExtractLsb', and_true, and_false, true_and, false_and, if_true, if_false, reduceIte]

theorem orImm (d : BitVec 6) (i : BitVec 6) (g : BitVec 1) : Statement (.orImm d i g) := by
  intro hw _ h _
  refine decode_packWord h _ _ ?_ hw
  show decodeOp11 _ = _
  simp (disch := decide) only [decodeOp11, part_hi, part_lo, part_all, part_cross, part_top, Nat.reduceSub, BitVec.reduceEq, BitVec.reduceExtractLsb', and_true, and_false, true_and, false_and, if_true, if_false, reduceIte]

theorem xorImm (d : BitVec 6) (i : BitVec 6) (g : BitVec 1) : Statement (.xorImm d i g) := by
  intro hw _ h _
  refine decode_packWord h _ _ ?_ hw
  show decodeOp11 _ = _
  simp (disch := decide) only [decodeOp11, part_hi, part_lo, part_all, part_cross, part_top, Nat.reduceSub, BitVec.reduceEq, BitVec.reduceExtractLsb', and_true, and_false, true_and, false_and, if_true, if_false, reduceIte]

theorem shlImm (d : BitVec 6) (i : BitVec 6) (g : BitVec 1) : Statement (.shlImm d i g) := by
  intro hw _ h _
  refine decode_packWord h _ _ ?_ hw
  show decodeOp11 _ = _
  simp (disch := decide) only [decodeOp11, part_hi, part_lo, part_all, part_cross, part_top, Nat.reduceSub, BitVec.reduceEq, BitVec.reduceExtractLsb', and_true, and_false, true_and, false_and, if_true, if_false, reduceIte]

theorem shrImm (d : BitVec 6) (i : BitVec 6) (g : BitVec 1) : Statement (.shrImm d i g) := by
  intro hw _ h _
  refine decode_packWord h _ _ ?_ hw
  show decodeOp11 _ = _
  simp (disch := decide) only [decodeOp11, part_hi, part_lo, part_all, part_cross, part_top, Nat.reduceSub, BitVec.reduceEq, BitVec.reduceExtractLsb', and_true, and_false, true_and, false_and, if_true, if_false, reduceIte]

theorem sarImm (d : BitVec 6) (i : BitVec 6) (g : BitVec 1) : Statement (.sarImm d i g) := by
  intro hw _ h _
  refine decode_packWord h _ _ ?_ hw
  show decodeOp11 _ = _
  simp (disch := decide) only [decodeOp11, part_hi, part_lo, part_all, part_cross, part_top, Nat.reduceSub, BitVec.reduceEq, BitVec.reduceExtractLsb', and_true, and_false, true_and, false_and, if_true, if_false, reduceIte]

theorem iminIImm (d : BitVec 6) (i : BitVec 6) (g : BitVec 1) : Statement (.iminIImm d i g) := by
  intro hw _ h _
  refine decode_packWord h _ _ ?_ hw
  show decodeOp11 _ = _
  simp (disch := decide) only [decodeOp11, part_hi, part_lo, part_all, part_cross, part_top, Nat.reduceSub, BitVec.reduceEq, BitVec.reduceExtractLsb', and_true, and_false, true_and, false_and, if_true, if_false, reduceIte]

theorem imaxIImm (d : BitVec 6) (i : BitVec 6) (g : BitVec 1) : Statement (.imaxIImm d i g) := by
  intro hw _ h _
  refine decode_packWord h _ _ ?_ hw
  show decodeOp11 _ = _
  simp (disch := decide) only [decodeOp11, part_hi, part_lo, part_all, part_cross, part_top, Nat.reduceSub, BitVec.reduceEq, BitVec.reduceExtractLsb', and_true, and_false, true_and, false_and, if_true, if_false, reduceIte]

theorem iminNImm (d : BitVec 6) (i : BitVec 6) (g : BitVec 1) : Statement (.iminNImm d i g) := by
  intro hw _ h _
  refine decode_packWord h _ _ ?_ hw
  show decodeOp11 _ = _
  simp (disch := decide) only [decodeOp11, part_hi, part_lo, part_all, part_cross, part_top, Nat.reduceSub, BitVec.reduceEq, BitVec.reduceExtractLsb', and_true, and_false, true_and, false_and, if_true, if_false, reduceIte]

theorem imaxNImm (d : BitVec 6) (i : BitVec 6) (g : BitVec 1) : Statement (.imaxNImm d i g) := by
  intro hw _ h _
  refine decode_packWord h _ _ ?_ hw
  show decodeOp11 _ = _
  simp (disch := decide) only [decodeOp11, part_hi, part_lo, part_all, part_cross, part_top, Nat.reduceSub, BitVec.reduceEq, BitVec.reduceExtractLsb', and_true, and_false, true_and, false_and, if_true, if_false, reduceIte]

theorem moviOw (d : BitVec 6) (i : BitVec 6) (g : BitVec 1) : Statement (.moviOw d i g) := by
  intro hw _ h _
  refine decode_packWord h _ _ ?_ hw
  show decodeOp11 _ = _
  simp (disch := decide) only [decodeOp11, part_hi, part_lo, part_all, part_cross, part_top, Nat.reduceSub, BitVec.reduceEq, BitVec.reduceExtractLsb', and_true, and_false, true_and, false_and, if_true, if_false, reduceIte]

theorem iaddImmOw (d : BitVec 6) (i : BitVec 6) (g : BitVec 1) : Statement (.iaddImmOw d i g) := by
  intro hw _ h _
  refine decode_packWord h _ _ ?_ hw
  show decodeOp11 _ = _
  simp (disch := decide) only [decodeOp11, part_hi, part_lo, part_all, part_cross, part_top, Nat.reduceSub, BitVec.reduceEq, BitVec.reduceExtractLsb', and_true, and_false, true_and, false_and, if_true, if_false, reduceIte]

theorem imulImmOw (d : BitVec 6) (i : BitVec 6) (g : BitVec 1) : Statement (.imulImmOw d i g) := by
  intro hw _ h _
  refine decode_packWord h _ _ ?_ hw
  show decodeOp11 _ = _
  simp (disch := decide) only [decodeOp11, part_hi, part_lo, part_all, part_cross, part_top, Nat.reduceSub, BitVec.reduceEq, BitVec.reduceExtractLsb', and_true, and_false, true_and, false_and, if_true, if_false, reduceIte]

theorem andImmOw (d : BitVec 6) (i : BitVec 6) (g : BitVec 1) : Statement (.andImmOw d i g) := by
  intro hw _ h _
  refine decode_packWord h _ _ ?_ hw
  show decodeOp11 _ = _
  simp (disch := decide) only [decodeOp11, part_hi, part_lo, part_all, part_cross, part_top, Nat.reduceSub, BitVec.reduceEq, BitVec.reduceExtractLsb', and_true, and_false, true_and, false_and, if_true, if_false, reduceIte]

theorem orImmOw (d : BitVec 6) (i : BitVec 6) (g : BitVec 1) : Statement (.orImmOw d i g) := by
  intro hw _ h _
  refine decode_packWord h _ _ ?_ hw
  show decodeOp11 _ = _
  simp (disch := decide) only [decodeOp11, part_hi, part_lo, part_all, part_cross, part_top, Nat.reduceSub, BitVec.reduceEq, BitVec.reduceExtractLsb', and_true, and_false, true_and, false_and, if_true, if_false, reduceIte]

theorem xorImmOw (d : BitVec 6) (i : BitVec 6) (g : BitVec 1) : Statement (.xorImmOw d i g) := by
  intro hw _ h _
  refine decode_packWord h _ _ ?_ hw
  show decodeOp11 _ = _
  simp (disch := decide) only [decodeOp11, part_hi, part_lo, part_all, part_cross, part_top, Nat.reduceSub, BitVec.reduceEq, BitVec.reduceExtractLsb', and_true, and_false, true_and, false_and, if_true, if_false, reduceIte]

theorem shlImmOw (d : BitVec 6) (i : BitVec 6) (g : BitVec 1) : Statement (.shlImmOw d i g) := by
  intro hw _ h _
  refine decode_packWord h _ _ ?_ hw
  show decodeOp11 _ = _
  simp (disch := decide) only [decodeOp11, part_hi, part_lo, part_all, part_cross, part_top, Nat.reduceSub, BitVec.reduceEq, BitVec.reduceExtractLsb', and_true, and_false, true_and, false_and, if_true, if_false, reduceIte]

theorem shrImmOw (d : BitVec 6) (i : BitVec 6) (g : BitVec 1) : Statement (.shrImmOw d i g) := by
  intro hw _ h _
  refine decode_packWord h _ _ ?_ hw
  show decodeOp11 _ = _
  simp (disch := decide) only [decodeOp11, part_hi, part_lo, part_all, part_cross, part_top, Nat.reduceSub, BitVec.reduceEq, BitVec.reduceExtractLsb', and_true, and_false, true_and, false_and, if_true, if_false, reduceIte]

theorem sarImmOw (d : BitVec 6) (i : BitVec 6) (g : BitVec 1) : Statement (.sarImmOw d i g) := by
  intro hw _ h _
  refine decode_packWord h _ _ ?_ hw
  show decodeOp11 _ = _
  simp (disch := decide) only [decodeOp11, part_hi, part_lo, part_all, part_cross, part_top, Nat.reduceSub, BitVec.reduceEq, BitVec.reduceExtractLsb', and_true, and_false, true_and, false_and, if_true, if_false, reduceIte]

theorem iminIImmOw (d : BitVec 6) (i : BitVec 6) (g : BitVec 1) : Statement (.iminIImmOw d i g) := by
  intro hw _ h _
  refine decode_packWord h _ _ ?_ hw
  show decodeOp11 _ = _
  simp (disch := decide) only [decodeOp11, part_hi, part_lo, part_all, part_cross, part_top, Nat.reduceSub, BitVec.reduceEq, BitVec.reduceExtractLsb', and_true, and_false, true_and, false_and, if_true, if_false, reduceIte]

theorem imaxIImmOw (d : BitVec 6) (i : BitVec 6) (g : BitVec 1) : Statement (.imaxIImmOw d i g) := by
  intro hw _ h _
  refine decode_packWord h _ _ ?_ hw
  show decodeOp11 _ = _
  simp (disch := decide) only [decodeOp11, part_hi, part_lo, part_all, part_cross, part_top, Nat.reduceSub, BitVec.reduceEq, BitVec.reduceExtractLsb', and_true, and_false, true_and, false_and, if_true, if_false, reduceIte]

theorem iminNImmOw (d : BitVec 6) (i : BitVec 6) (g : BitVec 1) : Statement (.iminNImmOw d i g) := by
  intro hw _ h _
  refine decode_packWord h _ _ ?_ hw
  show decodeOp11 _ = _
  simp (disch := decide) only [decodeOp11, part_hi, part_lo, part_all, part_cross, part_top, Nat.reduceSub, BitVec.reduceEq, BitVec.reduceExtractLsb', and_true, and_false, true_and, false_and, if_true, if_false, reduceIte]

theorem imaxNImmOw (d : BitVec 6) (i : BitVec 6) (g : BitVec 1) : Statement (.imaxNImmOw d i g) := by
  intro hw _ h _
  refine decode_packWord h _ _ ?_ hw
  show decodeOp11 _ = _
  simp (disch := decide) only [decodeOp11, part_hi, part_lo, part_all, part_cross, part_top, Nat.reduceSub, BitVec.reduceEq, BitVec.reduceExtractLsb', and_true, and_false, true_and, false_and, if_true, if_false, reduceIte]

theorem bfe (d : BitVec 6) (a : BitVec 6) (b : BitVec 6) (g : BitVec 1) : Statement (.bfe d a b g) := by
  intro hw _ h _
  refine decode_packWord h _ _ ?_ hw
  show decodeOp12 _ = _
  simp (disch := decide) only [decodeOp12, part_hi, part_lo, part_all, part_cross, part_top, Nat.reduceSub, BitVec.reduceEq, BitVec.reduceExtractLsb', and_true, and_false, true_and, false_and, if_true, if_false, reduceIte]

theorem bfi (d : BitVec 6) (a : BitVec 6) (b : BitVec 6) (g : BitVec 1) : Statement (.bfi d a b g) := by
  intro hw _ h _
  refine decode_packWord h _ _ ?_ hw
  show decodeOp13 _ = _
  simp (disch := decide) only [decodeOp13, part_hi, part_lo, part_all, part_cross, part_top, Nat.reduceSub, BitVec.reduceEq, BitVec.reduceExtractLsb', and_true, and_false, true_and, false_and, if_true, if_false, reduceIte]

theorem faddF32 (d : BitVec 6) (a : BitVec 6) (b : BitVec 6) (g : BitVec 1) : Statement (.faddF32 d a b g) := by
  intro hw _ h _
  refine decode_packWord h _ _ ?_ hw
  show decodeOp14 _ = _
  simp (disch := decide) only [decodeOp14, part_hi, part_lo, part_all, part_cross, part_top, Nat.reduceSub, BitVec.reduceEq, BitVec.reduceExtractLsb', and_true, and_false, true_and, false_and, if_true, if_false, reduceIte]

theorem fmulF32 (d : BitVec 6) (a : BitVec 6) (b : BitVec 6) (g : BitVec 1) : Statement (.fmulF32 d a b g) := by
  intro hw _ h _
  refine decode_packWord h _ _ ?_ hw
  show decodeOp15 _ = _
  simp (disch := decide) only [decodeOp15, part_hi, part_lo, part_all, part_cross, part_top, Nat.reduceSub, BitVec.reduceEq, BitVec.reduceExtractLsb', and_true, and_false, true_and, false_and, if_true, if_false, reduceIte]

theorem fmaF32 (d : BitVec 6) (a : BitVec 6) (b : BitVec 6) (g : BitVec 1) : Statement (.fmaF32 d a b g) := by
  intro hw _ h _
  refine decode_packWord h _ _ ?_ hw
  show decodeOp16 _ = _
  simp (disch := decide) only [decodeOp16, part_hi, part_lo, part_all, part_cross, part_top, Nat.reduceSub, BitVec.reduceEq, BitVec.reduceExtractLsb', and_true, and_false, true_and, false_and, if_true, if_false, reduceIte]

theorem faddF32Imm (d : BitVec 6) (a : BitVec 6) (i : BitVec 6) (g : BitVec 1) : Statement (.faddF32Imm d a i g) := by
  intro hw _ h _
  refine decode_packWord h _ _ ?_ hw
  show decodeOp17 _ = _
  simp (disch := decide) only [decodeOp17, part_hi, part_lo, part_all, part_cross, part_top, Nat.reduceSub, BitVec.reduceEq, BitVec.reduceExtractLsb', and_true, and_false, true_and, false_and, if_true, if_false, reduceIte]

theorem fmulF32Imm (d : BitVec 6) (a : BitVec 6) (i : BitVec 6) (g : BitVec 1) : Statement (.fmulF32Imm d a i g) := by
  intro hw _ h _
  refine decode_packWord h _ _ ?_ hw
  show decodeOp18 _ = _
  simp (disch := decide) only [decodeOp18, part_hi, part_lo, part_all, part_cross, part_top, Nat.reduceSub, BitVec.reduceEq, BitVec.reduceExtractLsb', and_true, and_false, true_and, false_and, if_true, if_false, reduceIte]

theorem fmaF16 (d : BitVec 6) (a : BitVec 6) (b : BitVec 6) (g : BitVec 1) : Statement (.fmaF16 d a b g) := by
  intro hw _ h _
  refine decode_packWord h _ _ ?_ hw
  show decodeOp19 _ = _
  simp (disch := decide) only [decodeOp19, part_hi, part_lo, part_all, part_cross, part_top, Nat.reduceSub, BitVec.reduceEq, BitVec.reduceExtractLsb', and_true, and_false, true_and, false_and, if_true, if_false, reduceIte]

theorem fmaBf16 (d : BitVec 6) (a : BitVec 6) (b : BitVec 6) (g : BitVec 1) : Statement (.fmaBf16 d a b g) := by
  intro hw _ h _
  refine decode_packWord h _ _ ?_ hw
  show decodeOp1A _ = _
  simp (disch := decide) only [decodeOp1A, part_hi, part_lo, part_all, part_cross, part_top, Nat.reduceSub, BitVec.reduceEq, BitVec.reduceExtractLsb', and_true, and_false, true_and, false_and, if_true, if_false, reduceIte]

theorem faddF16 (d : BitVec 6) (a : BitVec 6) (b : BitVec 6) (g : BitVec 1) : Statement (.faddF16 d a b g) := by
  intro hw _ h _
  refine decode_packWord h _ _ ?_ hw
  show decodeOp1B _ = _
  simp (disch := decide) only [decodeOp1B, part_hi, part_lo, part_all, part_cross, part_top, Nat.reduceSub, BitVec.reduceEq, BitVec.reduceExtractLsb', and_true, and_false, true_and, false_and, if_true, if_false, reduceIte]

theorem fcmp (p : BitVec 3) (c : BitVec 3) (a : BitVec 6) (b : BitVec 6) (g : BitVec 1) : Statement (.fcmp p c a b g) := by
  intro hw _ h _
  refine decode_packWord h _ _ ?_ hw
  show decodeOp1C _ = _
  simp (disch := decide) only [decodeOp1C, part_hi, part_lo, part_all, part_cross, part_top, Nat.reduceSub, BitVec.reduceEq, BitVec.reduceExtractLsb', and_true, and_false, true_and, false_and, if_true, if_false, reduceIte]

theorem fminF32 (d : BitVec 6) (a : BitVec 6) (g : BitVec 1) : Statement (.fminF32 d a g) := by
  intro hw _ h _
  refine decode_packWord h _ _ ?_ hw
  show decodeOp1D _ = _
  simp (disch := decide) only [decodeOp1D, part_hi, part_lo, part_all, part_cross, part_top, Nat.reduceSub, BitVec.reduceEq, BitVec.reduceExtractLsb', and_true, and_false, true_and, false_and, if_true, if_false, reduceIte]

theorem fmaxF32 (d : BitVec 6) (a : BitVec 6) (g : BitVec 1) : Statement (.fmaxF32 d a g) := by
  intro hw _ h _
  refine decode_packWord h _ _ ?_ hw
  show decodeOp1D _ = _
  simp (disch := decide) only [decodeOp1D, part_hi, part_lo, part_all, part_cross, part_top, Nat.reduceSub, BitVec.reduceEq, BitVec.reduceExtractLsb', and_true, and_false, true_and, false_and, if_true, if_false, reduceIte]

theorem frcp (d : BitVec 6) (a : BitVec 6) (g : BitVec 1) : Statement (.frcp d a g) := by
  intro hw _ h _
  refine decode_packWord h _ _ ?_ hw
  show decodeOp1D _ = _
  simp (disch := decide) only [decodeOp1D, part_hi, part_lo, part_all, part_cross, part_top, Nat.reduceSub, BitVec.reduceEq, BitVec.reduceExtractLsb', and_true, and_false, true_and, false_and, if_true, if_false, reduceIte]

theorem frsq (d : BitVec 6) (a : BitVec 6) (g : BitVec 1) : Statement (.frsq d a g) := by
  intro hw _ h _
  refine decode_packWord h _ _ ?_ hw
  show decodeOp1D _ = _
  simp (disch := decide) only [decodeOp1D, part_hi, part_lo, part_all, part_cross, part_top, Nat.reduceSub, BitVec.reduceEq, BitVec.reduceExtractLsb', and_true, and_false, true_and, false_and, if_true, if_false, reduceIte]

theorem fsqrt (d : BitVec 6) (a : BitVec 6) (g : BitVec 1) : Statement (.fsqrt d a g) := by
  intro hw _ h _
  refine decode_packWord h _ _ ?_ hw
  show decodeOp1D _ = _
  simp (disch := decide) only [decodeOp1D, part_hi, part_lo, part_all, part_cross, part_top, Nat.reduceSub, BitVec.reduceEq, BitVec.reduceExtractLsb', and_true, and_false, true_and, false_and, if_true, if_false, reduceIte]

theorem fex2 (d : BitVec 6) (a : BitVec 6) (g : BitVec 1) : Statement (.fex2 d a g) := by
  intro hw _ h _
  refine decode_packWord h _ _ ?_ hw
  show decodeOp1D _ = _
  simp (disch := decide) only [decodeOp1D, part_hi, part_lo, part_all, part_cross, part_top, Nat.reduceSub, BitVec.reduceEq, BitVec.reduceExtractLsb', and_true, and_false, true_and, false_and, if_true, if_false, reduceIte]

theorem flg2 (d : BitVec 6) (a : BitVec 6) (g : BitVec 1) : Statement (.flg2 d a g) := by
  intro hw _ h _
  refine decode_packWord h _ _ ?_ hw
  show decodeOp1D _ = _
  simp (disch := decide) only [decodeOp1D, part_hi, part_lo, part_all, part_cross, part_top, Nat.reduceSub, BitVec.reduceEq, BitVec.reduceExtractLsb', and_true, and_false, true_and, false_and, if_true, if_false, reduceIte]

theorem faddBf16 (d : BitVec 6) (a : BitVec 6) (g : BitVec 1) : Statement (.faddBf16 d a g) := by
  intro hw _ h _
  refine decode_packWord h _ _ ?_ hw
  show decodeOp1D _ = _
  simp (disch := decide) only [decodeOp1D, part_hi, part_lo, part_all, part_cross, part_top, Nat.reduceSub, BitVec.reduceEq, BitVec.reduceExtractLsb', and_true, and_false, true_and, false_and, if_true, if_false, reduceIte]

theorem fmulBf16 (d : BitVec 6) (a : BitVec 6) (g : BitVec 1) : Statement (.fmulBf16 d a g) := by
  intro hw _ h _
  refine decode_packWord h _ _ ?_ hw
  show decodeOp1D _ = _
  simp (disch := decide) only [decodeOp1D, part_hi, part_lo, part_all, part_cross, part_top, Nat.reduceSub, BitVec.reduceEq, BitVec.reduceExtractLsb', and_true, and_false, true_and, false_and, if_true, if_false, reduceIte]

theorem fmulF16 (d : BitVec 6) (a : BitVec 6) (g : BitVec 1) : Statement (.fmulF16 d a g) := by
  intro hw _ h _
  refine decode_packWord h _ _ ?_ hw
  show decodeOp1D _ = _
  simp (disch := decide) only [decodeOp1D, part_hi, part_lo, part_all, part_cross, part_top, Nat.reduceSub, BitVec.reduceEq, BitVec.reduceExtractLsb', and_true, and_false, true_and, false_and, if_true, if_false, reduceIte]

theorem fminF16 (d : BitVec 6) (a : BitVec 6) (g : BitVec 1) : Statement (.fminF16 d a g) := by
  intro hw _ h _
  refine decode_packWord h _ _ ?_ hw
  show decodeOp1D _ = _
  simp (disch := decide) only [decodeOp1D, part_hi, part_lo, part_all, part_cross, part_top, Nat.reduceSub, BitVec.reduceEq, BitVec.reduceExtractLsb', and_true, and_false, true_and, false_and, if_true, if_false, reduceIte]

theorem fmaxF16 (d : BitVec 6) (a : BitVec 6) (g : BitVec 1) : Statement (.fmaxF16 d a g) := by
  intro hw _ h _
  refine decode_packWord h _ _ ?_ hw
  show decodeOp1D _ = _
  simp (disch := decide) only [decodeOp1D, part_hi, part_lo, part_all, part_cross, part_top, Nat.reduceSub, BitVec.reduceEq, BitVec.reduceExtractLsb', and_true, and_false, true_and, false_and, if_true, if_false, reduceIte]

theorem fminBf16 (d : BitVec 6) (a : BitVec 6) (g : BitVec 1) : Statement (.fminBf16 d a g) := by
  intro hw _ h _
  refine decode_packWord h _ _ ?_ hw
  show decodeOp1D _ = _
  simp (disch := decide) only [decodeOp1D, part_hi, part_lo, part_all, part_cross, part_top, Nat.reduceSub, BitVec.reduceEq, BitVec.reduceExtractLsb', and_true, and_false, true_and, false_and, if_true, if_false, reduceIte]

theorem fmaxBf16 (d : BitVec 6) (a : BitVec 6) (g : BitVec 1) : Statement (.fmaxBf16 d a g) := by
  intro hw _ h _
  refine decode_packWord h _ _ ?_ hw
  show decodeOp1D _ = _
  simp (disch := decide) only [decodeOp1D, part_hi, part_lo, part_all, part_cross, part_top, Nat.reduceSub, BitVec.reduceEq, BitVec.reduceExtractLsb', and_true, and_false, true_and, false_and, if_true, if_false, reduceIte]

theorem faddF32Rz (d : BitVec 6) (a : BitVec 6) (g : BitVec 1) : Statement (.faddF32Rz d a g) := by
  intro hw _ h _
  refine decode_packWord h _ _ ?_ hw
  show decodeOp1D _ = _
  simp (disch := decide) only [decodeOp1D, part_hi, part_lo, part_all, part_cross, part_top, Nat.reduceSub, BitVec.reduceEq, BitVec.reduceExtractLsb', and_true, and_false, true_and, false_and, if_true, if_false, reduceIte]

theorem faddF32Ru (d : BitVec 6) (a : BitVec 6) (g : BitVec 1) : Statement (.faddF32Ru d a g) := by
  intro hw _ h _
  refine decode_packWord h _ _ ?_ hw
  show decodeOp1D _ = _
  simp (disch := decide) only [decodeOp1D, part_hi, part_lo, part_all, part_cross, part_top, Nat.reduceSub, BitVec.reduceEq, BitVec.reduceExtractLsb', and_true, and_false, true_and, false_and, if_true, if_false, reduceIte]

theorem faddF32Rd (d : BitVec 6) (a : BitVec 6) (g : BitVec 1) : Statement (.faddF32Rd d a g) := by
  intro hw _ h _
  refine decode_packWord h _ _ ?_ hw
  show decodeOp1D _ = _
  simp (disch := decide) only [decodeOp1D, part_hi, part_lo, part_all, part_cross, part_top, Nat.reduceSub, BitVec.reduceEq, BitVec.reduceExtractLsb', and_true, and_false, true_and, false_and, if_true, if_false, reduceIte]

theorem fmulF32Rz (d : BitVec 6) (a : BitVec 6) (g : BitVec 1) : Statement (.fmulF32Rz d a g) := by
  intro hw _ h _
  refine decode_packWord h _ _ ?_ hw
  show decodeOp1D _ = _
  simp (disch := decide) only [decodeOp1D, part_hi, part_lo, part_all, part_cross, part_top, Nat.reduceSub, BitVec.reduceEq, BitVec.reduceExtractLsb', and_true, and_false, true_and, false_and, if_true, if_false, reduceIte]

theorem fmulF32Ru (d : BitVec 6) (a : BitVec 6) (g : BitVec 1) : Statement (.fmulF32Ru d a g) := by
  intro hw _ h _
  refine decode_packWord h _ _ ?_ hw
  show decodeOp1D _ = _
  simp (disch := decide) only [decodeOp1D, part_hi, part_lo, part_all, part_cross, part_top, Nat.reduceSub, BitVec.reduceEq, BitVec.reduceExtractLsb', and_true, and_false, true_and, false_and, if_true, if_false, reduceIte]

theorem fmulF32Rd (d : BitVec 6) (a : BitVec 6) (g : BitVec 1) : Statement (.fmulF32Rd d a g) := by
  intro hw _ h _
  refine decode_packWord h _ _ ?_ hw
  show decodeOp1D _ = _
  simp (disch := decide) only [decodeOp1D, part_hi, part_lo, part_all, part_cross, part_top, Nat.reduceSub, BitVec.reduceEq, BitVec.reduceExtractLsb', and_true, and_false, true_and, false_and, if_true, if_false, reduceIte]

theorem cvtFromF32 (d : BitVec 6) (a : BitVec 6) (m : BitVec 2) (c : BitVec 4) (g : BitVec 1) : Statement (.cvtFromF32 d a m c g) := by
  intro hw _ h _
  refine decode_packWord h _ _ ?_ hw
  show decodeOp1E _ = _
  simp (disch := decide) only [decodeOp1E, part_hi, part_lo, part_all, part_cross, part_top, Nat.reduceSub, BitVec.reduceEq, BitVec.reduceExtractLsb', and_true, and_false, true_and, false_and, if_true, if_false, reduceIte]

theorem cvtToF32 (d : BitVec 6) (a : BitVec 6) (m : BitVec 2) (c : BitVec 4) (g : BitVec 1) : Statement (.cvtToF32 d a m c g) := by
  intro hw _ h _
  refine decode_packWord h _ _ ?_ hw
  show decodeOp1F _ = _
  simp (disch := decide) only [decodeOp1F, part_hi, part_lo, part_all, part_cross, part_top, Nat.reduceSub, BitVec.reduceEq, BitVec.reduceExtractLsb', and_true, and_false, true_and, false_and, if_true, if_false, reduceIte]

theorem icmp (p : BitVec 3) (c : BitVec 3) (a : BitVec 6) (b : BitVec 6) (g : BitVec 1) : Statement (.icmp p c a b g) := by
  intro hw _ h _
  refine decode_packWord h _ _ ?_ hw
  show decodeOp20 _ = _
  simp (disch := decide) only [decodeOp20, part_hi, part_lo, part_all, part_cross, part_top, Nat.reduceSub, BitVec.reduceEq, BitVec.reduceExtractLsb', and_true, and_false, true_and, false_and, if_true, if_false, reduceIte]

theorem icmpN (p : BitVec 3) (c : BitVec 3) (a : BitVec 6) (b : BitVec 6) (g : BitVec 1) : Statement (.icmpN p c a b g) := by
  intro hw _ h _
  refine decode_packWord h _ _ ?_ hw
  show decodeOp21 _ = _
  simp (disch := decide) only [decodeOp21, part_hi, part_lo, part_all, part_cross, part_top, Nat.reduceSub, BitVec.reduceEq, BitVec.reduceExtractLsb', and_true, and_false, true_and, false_and, if_true, if_false, reduceIte]

theorem pand (p : BitVec 3) (a : BitVec 3) (n : BitVec 1) (b : BitVec 3) (m : BitVec 1) (g : BitVec 1) : Statement (.pand p a n b m g) := by
  intro hw _ h _
  refine decode_packWord h _ _ ?_ hw
  show decodeOp22 _ = _
  simp (disch := decide) only [decodeOp22, part_hi, part_lo, part_all, part_cross, part_top, Nat.reduceSub, BitVec.reduceEq, BitVec.reduceExtractLsb', and_true, and_false, true_and, false_and, if_true, if_false, reduceIte]

theorem por (p : BitVec 3) (a : BitVec 3) (n : BitVec 1) (b : BitVec 3) (m : BitVec 1) (g : BitVec 1) : Statement (.por p a n b m g) := by
  intro hw _ h _
  refine decode_packWord h _ _ ?_ hw
  show decodeOp22 _ = _
  simp (disch := decide) only [decodeOp22, part_hi, part_lo, part_all, part_cross, part_top, Nat.reduceSub, BitVec.reduceEq, BitVec.reduceExtractLsb', and_true, and_false, true_and, false_and, if_true, if_false, reduceIte]

theorem pxor (p : BitVec 3) (a : BitVec 3) (n : BitVec 1) (b : BitVec 3) (m : BitVec 1) (g : BitVec 1) : Statement (.pxor p a n b m g) := by
  intro hw _ h _
  refine decode_packWord h _ _ ?_ hw
  show decodeOp22 _ = _
  simp (disch := decide) only [decodeOp22, part_hi, part_lo, part_all, part_cross, part_top, Nat.reduceSub, BitVec.reduceEq, BitVec.reduceExtractLsb', and_true, and_false, true_and, false_and, if_true, if_false, reduceIte]

theorem pnot (p : BitVec 3) (a : BitVec 3) (n : BitVec 1) (g : BitVec 1) : Statement (.pnot p a n g) := by
  intro hw _ h _
  refine decode_packWord h _ _ ?_ hw
  show decodeOp22 _ = _
  simp (disch := decide) only [decodeOp22, part_hi, part_lo, part_all, part_cross, part_top, Nat.reduceSub, BitVec.reduceEq, BitVec.reduceExtractLsb', and_true, and_false, true_and, false_and, if_true, if_false, reduceIte]

theorem pmov (p : BitVec 3) (a : BitVec 3) (n : BitVec 1) (g : BitVec 1) : Statement (.pmov p a n g) := by
  intro hw _ h _
  refine decode_packWord h _ _ ?_ hw
  show decodeOp22 _ = _
  simp (disch := decide) only [decodeOp22, part_hi, part_lo, part_all, part_cross, part_top, Nat.reduceSub, BitVec.reduceEq, BitVec.reduceExtractLsb', and_true, and_false, true_and, false_and, if_true, if_false, reduceIte]

theorem voteAll (p : BitVec 3) (a : BitVec 3) (n : BitVec 1) (g : BitVec 1) : Statement (.voteAll p a n g) := by
  intro hw _ h _
  refine decode_packWord h _ _ ?_ hw
  show decodeOp22 _ = _
  simp (disch := decide) only [decodeOp22, part_hi, part_lo, part_all, part_cross, part_top, Nat.reduceSub, BitVec.reduceEq, BitVec.reduceExtractLsb', and_true, and_false, true_and, false_and, if_true, if_false, reduceIte]

theorem voteAny (p : BitVec 3) (a : BitVec 3) (n : BitVec 1) (g : BitVec 1) : Statement (.voteAny p a n g) := by
  intro hw _ h _
  refine decode_packWord h _ _ ?_ hw
  show decodeOp22 _ = _
  simp (disch := decide) only [decodeOp22, part_hi, part_lo, part_all, part_cross, part_top, Nat.reduceSub, BitVec.reduceEq, BitVec.reduceExtractLsb', and_true, and_false, true_and, false_and, if_true, if_false, reduceIte]

theorem voteEq (p : BitVec 3) (a : BitVec 3) (n : BitVec 1) (g : BitVec 1) : Statement (.voteEq p a n g) := by
  intro hw _ h _
  refine decode_packWord h _ _ ?_ hw
  show decodeOp22 _ = _
  simp (disch := decide) only [decodeOp22, part_hi, part_lo, part_all, part_cross, part_top, Nat.reduceSub, BitVec.reduceEq, BitVec.reduceExtractLsb', and_true, and_false, true_and, false_and, if_true, if_false, reduceIte]

theorem ballot (d : BitVec 6) (a : BitVec 3) (n : BitVec 1) (g : BitVec 1) : Statement (.ballot d a n g) := by
  intro hw _ h _
  refine decode_packWord h _ _ ?_ hw
  show decodeOp22 _ = _
  simp (disch := decide) only [decodeOp22, part_hi, part_lo, part_all, part_cross, part_top, Nat.reduceSub, BitVec.reduceEq, BitVec.reduceExtractLsb', and_true, and_false, true_and, false_and, if_true, if_false, reduceIte]

theorem matchLanes (d : BitVec 6) (a : BitVec 6) (g : BitVec 1) : Statement (.matchLanes d a g) := by
  intro hw _ h _
  refine decode_packWord h _ _ ?_ hw
  show decodeOp22 _ = _
  simp (disch := decide) only [decodeOp22, part_hi, part_lo, part_all, part_cross, part_top, Nat.reduceSub, BitVec.reduceEq, BitVec.reduceExtractLsb', and_true, and_false, true_and, false_and, if_true, if_false, reduceIte]

theorem shfl (d : BitVec 6) (a : BitVec 6) (m : BitVec 2) (n : BitVec 5) : Statement (.shfl d a m n) := by
  intro hw _ h _
  refine decode_packWord h _ _ ?_ hw
  show decodeOp23 _ = _
  simp (disch := decide) only [decodeOp23, part_hi, part_lo, part_all, part_cross, part_top, Nat.reduceSub, BitVec.reduceEq, BitVec.reduceExtractLsb', and_true, and_false, true_and, false_and, if_true, if_false, reduceIte]

theorem clock (d : BitVec 6) : Statement (.clock d) := by
  intro hw _ h _
  refine decode_packWord h _ _ ?_ hw
  show decodeOp00 _ = _
  simp (disch := decide) only [decodeOp00, part_hi, part_lo, part_all, part_cross, part_top, Nat.reduceSub, BitVec.reduceEq, BitVec.reduceExtractLsb', and_true, and_false, true_and, false_and, if_true, if_false, reduceIte]

theorem srd (d : BitVec 6) (x : BitVec 8) : Statement (.srd d x) := by
  intro hw _ h _
  refine decode_packWord h _ _ ?_ hw
  show decodeOp00 _ = _
  simp (disch := decide) only [decodeOp00, part_hi, part_lo, part_all, part_cross, part_top, Nat.reduceSub, BitVec.reduceEq, BitVec.reduceExtractLsb', and_true, and_false, true_and, false_and, if_true, if_false, reduceIte]

theorem swr (d : BitVec 6) (x : BitVec 8) : Statement (.swr d x) := by
  intro hw _ h _
  refine decode_packWord h _ _ ?_ hw
  show decodeOp00 _ = _
  simp (disch := decide) only [decodeOp00, part_hi, part_lo, part_all, part_cross, part_top, Nat.reduceSub, BitVec.reduceEq, BitVec.reduceExtractLsb', and_true, and_false, true_and, false_and, if_true, if_false, reduceIte]

theorem gresume (a : BitVec 6) : Statement (.gresume a) := by
  intro hw _ h _
  refine decode_packWord h _ _ ?_ hw
  show decodeOp00 _ = _
  simp (disch := decide) only [decodeOp00, part_hi, part_lo, part_all, part_cross, part_top, Nat.reduceSub, BitVec.reduceEq, BitVec.reduceExtractLsb', and_true, and_false, true_and, false_and, if_true, if_false, reduceIte]

theorem gkill (a : BitVec 6) : Statement (.gkill a) := by
  intro hw _ h _
  refine decode_packWord h _ _ ?_ hw
  show decodeOp00 _ = _
  simp (disch := decide) only [decodeOp00, part_hi, part_lo, part_all, part_cross, part_top, Nat.reduceSub, BitVec.reduceEq, BitVec.reduceExtractLsb', and_true, and_false, true_and, false_and, if_true, if_false, reduceIte]

theorem grd (d : BitVec 6) (a : BitVec 6) : Statement (.grd d a) := by
  intro hw _ h _
  refine decode_packWord h _ _ ?_ hw
  show decodeOp00 _ = _
  simp (disch := decide) only [decodeOp00, part_hi, part_lo, part_all, part_cross, part_top, Nat.reduceSub, BitVec.reduceEq, BitVec.reduceExtractLsb', and_true, and_false, true_and, false_and, if_true, if_false, reduceIte]
  rw [if_neg (part_top 10#5 d 512#11 (by decide)), if_neg (part_top 10#5 d 576#11 (by decide))]

theorem gwr (d : BitVec 6) (a : BitVec 6) : Statement (.gwr d a) := by
  intro hw _ h _
  refine decode_packWord h _ _ ?_ hw
  show decodeOp00 _ = _
  simp (disch := decide) only [decodeOp00, part_hi, part_lo, part_all, part_cross, part_top, Nat.reduceSub, BitVec.reduceEq, BitVec.reduceExtractLsb', and_true, and_false, true_and, false_and, if_true, if_false, reduceIte]
  rw [if_neg (part_top 11#5 d 512#11 (by decide)), if_neg (part_top 11#5 d 576#11 (by decide))]

theorem ldG8 (d : BitVec 6) (a : BitVec 6) (f : BitVec 4) (g : BitVec 1) : Statement (.ldG8 d a f g) := by
  intro hw _ h _
  refine decode_packWord h _ _ ?_ hw
  show decodeOp24 _ = _
  simp (disch := decide) only [decodeOp24, part_hi, part_lo, part_all, part_cross, part_top, Nat.reduceSub, BitVec.reduceEq, BitVec.reduceExtractLsb', and_true, and_false, true_and, false_and, if_true, if_false, reduceIte]

theorem ldG16 (d : BitVec 6) (a : BitVec 6) (f : BitVec 4) (g : BitVec 1) : Statement (.ldG16 d a f g) := by
  intro hw _ h _
  refine decode_packWord h _ _ ?_ hw
  show decodeOp24 _ = _
  simp (disch := decide) only [decodeOp24, part_hi, part_lo, part_all, part_cross, part_top, Nat.reduceSub, BitVec.reduceEq, BitVec.reduceExtractLsb', and_true, and_false, true_and, false_and, if_true, if_false, reduceIte]

theorem ldG32 (d : BitVec 6) (a : BitVec 6) (f : BitVec 4) (g : BitVec 1) : Statement (.ldG32 d a f g) := by
  intro hw _ h _
  refine decode_packWord h _ _ ?_ hw
  show decodeOp24 _ = _
  simp (disch := decide) only [decodeOp24, part_hi, part_lo, part_all, part_cross, part_top, Nat.reduceSub, BitVec.reduceEq, BitVec.reduceExtractLsb', and_true, and_false, true_and, false_and, if_true, if_false, reduceIte]

theorem ldG64 (d : BitVec 6) (a : BitVec 6) (f : BitVec 4) (g : BitVec 1) : Statement (.ldG64 d a f g) := by
  intro hw _ h _
  refine decode_packWord h _ _ ?_ hw
  show decodeOp24 _ = _
  simp (disch := decide) only [decodeOp24, part_hi, part_lo, part_all, part_cross, part_top, Nat.reduceSub, BitVec.reduceEq, BitVec.reduceExtractLsb', and_true, and_false, true_and, false_and, if_true, if_false, reduceIte]

theorem ldG4 (d : BitVec 6) (a : BitVec 6) (f : BitVec 4) (g : BitVec 1) : Statement (.ldG4 d a f g) := by
  intro hw _ h _
  refine decode_packWord h _ _ ?_ hw
  show decodeOp25 _ = _
  simp (disch := decide) only [decodeOp25, part_hi, part_lo, part_all, part_cross, part_top, Nat.reduceSub, BitVec.reduceEq, BitVec.reduceExtractLsb', and_true, and_false, true_and, false_and, if_true, if_false, reduceIte]

theorem ldG128 (d : BitVec 6) (a : BitVec 6) (f : BitVec 4) (g : BitVec 1) : Statement (.ldG128 d a f g) := by
  intro hw _ h _
  refine decode_packWord h _ _ ?_ hw
  show decodeOp25 _ = _
  simp (disch := decide) only [decodeOp25, part_hi, part_lo, part_all, part_cross, part_top, Nat.reduceSub, BitVec.reduceEq, BitVec.reduceExtractLsb', and_true, and_false, true_and, false_and, if_true, if_false, reduceIte]

theorem ldS4 (d : BitVec 6) (a : BitVec 6) (f : BitVec 4) (g : BitVec 1) : Statement (.ldS4 d a f g) := by
  intro hw _ h _
  refine decode_packWord h _ _ ?_ hw
  show decodeOp25 _ = _
  simp (disch := decide) only [decodeOp25, part_hi, part_lo, part_all, part_cross, part_top, Nat.reduceSub, BitVec.reduceEq, BitVec.reduceExtractLsb', and_true, and_false, true_and, false_and, if_true, if_false, reduceIte]

theorem ldS128 (d : BitVec 6) (a : BitVec 6) (f : BitVec 4) (g : BitVec 1) : Statement (.ldS128 d a f g) := by
  intro hw _ h _
  refine decode_packWord h _ _ ?_ hw
  show decodeOp25 _ = _
  simp (disch := decide) only [decodeOp25, part_hi, part_lo, part_all, part_cross, part_top, Nat.reduceSub, BitVec.reduceEq, BitVec.reduceExtractLsb', and_true, and_false, true_and, false_and, if_true, if_false, reduceIte]

theorem ldS8 (d : BitVec 6) (a : BitVec 6) (f : BitVec 4) (g : BitVec 1) : Statement (.ldS8 d a f g) := by
  intro hw _ h _
  refine decode_packWord h _ _ ?_ hw
  show decodeOp26 _ = _
  simp (disch := decide) only [decodeOp26, part_hi, part_lo, part_all, part_cross, part_top, Nat.reduceSub, BitVec.reduceEq, BitVec.reduceExtractLsb', and_true, and_false, true_and, false_and, if_true, if_false, reduceIte]

theorem ldS16 (d : BitVec 6) (a : BitVec 6) (f : BitVec 4) (g : BitVec 1) : Statement (.ldS16 d a f g) := by
  intro hw _ h _
  refine decode_packWord h _ _ ?_ hw
  show decodeOp26 _ = _
  simp (disch := decide) only [decodeOp26, part_hi, part_lo, part_all, part_cross, part_top, Nat.reduceSub, BitVec.reduceEq, BitVec.reduceExtractLsb', and_true, and_false, true_and, false_and, if_true, if_false, reduceIte]

theorem ldS32 (d : BitVec 6) (a : BitVec 6) (f : BitVec 4) (g : BitVec 1) : Statement (.ldS32 d a f g) := by
  intro hw _ h _
  refine decode_packWord h _ _ ?_ hw
  show decodeOp26 _ = _
  simp (disch := decide) only [decodeOp26, part_hi, part_lo, part_all, part_cross, part_top, Nat.reduceSub, BitVec.reduceEq, BitVec.reduceExtractLsb', and_true, and_false, true_and, false_and, if_true, if_false, reduceIte]

theorem ldS64 (d : BitVec 6) (a : BitVec 6) (f : BitVec 4) (g : BitVec 1) : Statement (.ldS64 d a f g) := by
  intro hw _ h _
  refine decode_packWord h _ _ ?_ hw
  show decodeOp26 _ = _
  simp (disch := decide) only [decodeOp26, part_hi, part_lo, part_all, part_cross, part_top, Nat.reduceSub, BitVec.reduceEq, BitVec.reduceExtractLsb', and_true, and_false, true_and, false_and, if_true, if_false, reduceIte]

theorem ldpf (d : BitVec 6) (a : BitVec 6) (f : BitVec 4) (g : BitVec 1) : Statement (.ldpf d a f g) := by
  intro hw _ h _
  refine decode_packWord h _ _ ?_ hw
  show decodeOp27 _ = _
  simp (disch := decide) only [decodeOp27, part_hi, part_lo, part_all, part_cross, part_top, Nat.reduceSub, BitVec.reduceEq, BitVec.reduceExtractLsb', and_true, and_false, true_and, false_and, if_true, if_false, reduceIte]

theorem ldG4Signed (d : BitVec 6) (a : BitVec 6) (f : BitVec 4) (g : BitVec 1) : Statement (.ldG4Signed d a f g) := by
  intro hw _ h _
  refine decode_packWord h _ _ ?_ hw
  show decodeOp27 _ = _
  simp (disch := decide) only [decodeOp27, part_hi, part_lo, part_all, part_cross, part_top, Nat.reduceSub, BitVec.reduceEq, BitVec.reduceExtractLsb', and_true, and_false, true_and, false_and, if_true, if_false, reduceIte]

theorem ldS4Signed (d : BitVec 6) (a : BitVec 6) (f : BitVec 4) (g : BitVec 1) : Statement (.ldS4Signed d a f g) := by
  intro hw _ h _
  refine decode_packWord h _ _ ?_ hw
  show decodeOp27 _ = _
  simp (disch := decide) only [decodeOp27, part_hi, part_lo, part_all, part_cross, part_top, Nat.reduceSub, BitVec.reduceEq, BitVec.reduceExtractLsb', and_true, and_false, true_and, false_and, if_true, if_false, reduceIte]

theorem ldG32Signed (d : BitVec 6) (a : BitVec 6) (f : BitVec 4) (g : BitVec 1) : Statement (.ldG32Signed d a f g) := by
  intro hw _ h _
  refine decode_packWord h _ _ ?_ hw
  show decodeOp27 _ = _
  simp (disch := decide) only [decodeOp27, part_hi, part_lo, part_all, part_cross, part_top, Nat.reduceSub, BitVec.reduceEq, BitVec.reduceExtractLsb', and_true, and_false, true_and, false_and, if_true, if_false, reduceIte]

theorem stG8 (d : BitVec 6) (a : BitVec 6) (f : BitVec 4) (g : BitVec 1) : Statement (.stG8 d a f g) := by
  intro hw _ h _
  refine decode_packWord h _ _ ?_ hw
  show decodeOp28 _ = _
  simp (disch := decide) only [decodeOp28, part_hi, part_lo, part_all, part_cross, part_top, Nat.reduceSub, BitVec.reduceEq, BitVec.reduceExtractLsb', and_true, and_false, true_and, false_and, if_true, if_false, reduceIte]

theorem stG16 (d : BitVec 6) (a : BitVec 6) (f : BitVec 4) (g : BitVec 1) : Statement (.stG16 d a f g) := by
  intro hw _ h _
  refine decode_packWord h _ _ ?_ hw
  show decodeOp28 _ = _
  simp (disch := decide) only [decodeOp28, part_hi, part_lo, part_all, part_cross, part_top, Nat.reduceSub, BitVec.reduceEq, BitVec.reduceExtractLsb', and_true, and_false, true_and, false_and, if_true, if_false, reduceIte]

theorem stG32 (d : BitVec 6) (a : BitVec 6) (f : BitVec 4) (g : BitVec 1) : Statement (.stG32 d a f g) := by
  intro hw _ h _
  refine decode_packWord h _ _ ?_ hw
  show decodeOp28 _ = _
  simp (disch := decide) only [decodeOp28, part_hi, part_lo, part_all, part_cross, part_top, Nat.reduceSub, BitVec.reduceEq, BitVec.reduceExtractLsb', and_true, and_false, true_and, false_and, if_true, if_false, reduceIte]

theorem stG64 (d : BitVec 6) (a : BitVec 6) (f : BitVec 4) (g : BitVec 1) : Statement (.stG64 d a f g) := by
  intro hw _ h _
  refine decode_packWord h _ _ ?_ hw
  show decodeOp28 _ = _
  simp (disch := decide) only [decodeOp28, part_hi, part_lo, part_all, part_cross, part_top, Nat.reduceSub, BitVec.reduceEq, BitVec.reduceExtractLsb', and_true, and_false, true_and, false_and, if_true, if_false, reduceIte]

theorem stG4 (d : BitVec 6) (a : BitVec 6) (f : BitVec 4) (g : BitVec 1) : Statement (.stG4 d a f g) := by
  intro hw _ h _
  refine decode_packWord h _ _ ?_ hw
  show decodeOp29 _ = _
  simp (disch := decide) only [decodeOp29, part_hi, part_lo, part_all, part_cross, part_top, Nat.reduceSub, BitVec.reduceEq, BitVec.reduceExtractLsb', and_true, and_false, true_and, false_and, if_true, if_false, reduceIte]

theorem stG128 (d : BitVec 6) (a : BitVec 6) (f : BitVec 4) (g : BitVec 1) : Statement (.stG128 d a f g) := by
  intro hw _ h _
  refine decode_packWord h _ _ ?_ hw
  show decodeOp29 _ = _
  simp (disch := decide) only [decodeOp29, part_hi, part_lo, part_all, part_cross, part_top, Nat.reduceSub, BitVec.reduceEq, BitVec.reduceExtractLsb', and_true, and_false, true_and, false_and, if_true, if_false, reduceIte]

theorem stS4 (d : BitVec 6) (a : BitVec 6) (f : BitVec 4) (g : BitVec 1) : Statement (.stS4 d a f g) := by
  intro hw _ h _
  refine decode_packWord h _ _ ?_ hw
  show decodeOp29 _ = _
  simp (disch := decide) only [decodeOp29, part_hi, part_lo, part_all, part_cross, part_top, Nat.reduceSub, BitVec.reduceEq, BitVec.reduceExtractLsb', and_true, and_false, true_and, false_and, if_true, if_false, reduceIte]

theorem stS128 (d : BitVec 6) (a : BitVec 6) (f : BitVec 4) (g : BitVec 1) : Statement (.stS128 d a f g) := by
  intro hw _ h _
  refine decode_packWord h _ _ ?_ hw
  show decodeOp29 _ = _
  simp (disch := decide) only [decodeOp29, part_hi, part_lo, part_all, part_cross, part_top, Nat.reduceSub, BitVec.reduceEq, BitVec.reduceExtractLsb', and_true, and_false, true_and, false_and, if_true, if_false, reduceIte]

theorem stS8 (d : BitVec 6) (a : BitVec 6) (f : BitVec 4) (g : BitVec 1) : Statement (.stS8 d a f g) := by
  intro hw _ h _
  refine decode_packWord h _ _ ?_ hw
  show decodeOp2A _ = _
  simp (disch := decide) only [decodeOp2A, part_hi, part_lo, part_all, part_cross, part_top, Nat.reduceSub, BitVec.reduceEq, BitVec.reduceExtractLsb', and_true, and_false, true_and, false_and, if_true, if_false, reduceIte]

theorem stS16 (d : BitVec 6) (a : BitVec 6) (f : BitVec 4) (g : BitVec 1) : Statement (.stS16 d a f g) := by
  intro hw _ h _
  refine decode_packWord h _ _ ?_ hw
  show decodeOp2A _ = _
  simp (disch := decide) only [decodeOp2A, part_hi, part_lo, part_all, part_cross, part_top, Nat.reduceSub, BitVec.reduceEq, BitVec.reduceExtractLsb', and_true, and_false, true_and, false_and, if_true, if_false, reduceIte]

theorem stS32 (d : BitVec 6) (a : BitVec 6) (f : BitVec 4) (g : BitVec 1) : Statement (.stS32 d a f g) := by
  intro hw _ h _
  refine decode_packWord h _ _ ?_ hw
  show decodeOp2A _ = _
  simp (disch := decide) only [decodeOp2A, part_hi, part_lo, part_all, part_cross, part_top, Nat.reduceSub, BitVec.reduceEq, BitVec.reduceExtractLsb', and_true, and_false, true_and, false_and, if_true, if_false, reduceIte]

theorem stS64 (d : BitVec 6) (a : BitVec 6) (f : BitVec 4) (g : BitVec 1) : Statement (.stS64 d a f g) := by
  intro hw _ h _
  refine decode_packWord h _ _ ?_ hw
  show decodeOp2A _ = _
  simp (disch := decide) only [decodeOp2A, part_hi, part_lo, part_all, part_cross, part_top, Nat.reduceSub, BitVec.reduceEq, BitVec.reduceExtractLsb', and_true, and_false, true_and, false_and, if_true, if_false, reduceIte]

theorem tlook (d : BitVec 6) (a : BitVec 6) (f : BitVec 4) (g : BitVec 1) : Statement (.tlook d a f g) := by
  intro hw _ h _
  refine decode_packWord h _ _ ?_ hw
  show decodeOp2B _ = _
  simp (disch := decide) only [decodeOp2B, part_hi, part_lo, part_all, part_cross, part_top, Nat.reduceSub, BitVec.reduceEq, BitVec.reduceExtractLsb', and_true, and_false, true_and, false_and, if_true, if_false, reduceIte]

theorem tins (d : BitVec 6) (a : BitVec 6) (f : BitVec 4) (g : BitVec 1) : Statement (.tins d a f g) := by
  intro hw _ h _
  refine decode_packWord h _ _ ?_ hw
  show decodeOp2B _ = _
  simp (disch := decide) only [decodeOp2B, part_hi, part_lo, part_all, part_cross, part_top, Nat.reduceSub, BitVec.reduceEq, BitVec.reduceExtractLsb', and_true, and_false, true_and, false_and, if_true, if_false, reduceIte]

theorem tevict (d : BitVec 6) (f : BitVec 4) (g : BitVec 1) : Statement (.tevict d f g) := by
  intro hw _ h _
  refine decode_packWord h _ _ ?_ hw
  show decodeOp2B _ = _
  simp (disch := decide) only [decodeOp2B, part_hi, part_lo, part_all, part_cross, part_top, Nat.reduceSub, BitVec.reduceEq, BitVec.reduceExtractLsb', and_true, and_false, true_and, false_and, if_true, if_false, reduceIte]

theorem tinv (d : BitVec 6) (a : BitVec 6) (f : BitVec 4) (g : BitVec 1) : Statement (.tinv d a f g) := by
  intro hw _ h _
  refine decode_packWord h _ _ ?_ hw
  show decodeOp2B _ = _
  simp (disch := decide) only [decodeOp2B, part_hi, part_lo, part_all, part_cross, part_top, Nat.reduceSub, BitVec.reduceEq, BitVec.reduceExtractLsb', and_true, and_false, true_and, false_and, if_true, if_false, reduceIte]

theorem atomAdd (d : BitVec 6) (a : BitVec 6) (f : BitVec 4) (g : BitVec 1) : Statement (.atomAdd d a f g) := by
  intro hw _ h _
  refine decode_packWord h _ _ ?_ hw
  show decodeOp2C _ = _
  simp (disch := decide) only [decodeOp2C, part_hi, part_lo, part_all, part_cross, part_top, Nat.reduceSub, BitVec.reduceEq, BitVec.reduceExtractLsb', and_true, and_false, true_and, false_and, if_true, if_false, reduceIte]

theorem atomMin (d : BitVec 6) (a : BitVec 6) (f : BitVec 4) (g : BitVec 1) : Statement (.atomMin d a f g) := by
  intro hw _ h _
  refine decode_packWord h _ _ ?_ hw
  show decodeOp2C _ = _
  simp (disch := decide) only [decodeOp2C, part_hi, part_lo, part_all, part_cross, part_top, Nat.reduceSub, BitVec.reduceEq, BitVec.reduceExtractLsb', and_true, and_false, true_and, false_and, if_true, if_false, reduceIte]

theorem atomMax (d : BitVec 6) (a : BitVec 6) (f : BitVec 4) (g : BitVec 1) : Statement (.atomMax d a f g) := by
  intro hw _ h _
  refine decode_packWord h _ _ ?_ hw
  show decodeOp2C _ = _
  simp (disch := decide) only [decodeOp2C, part_hi, part_lo, part_all, part_cross, part_top, Nat.reduceSub, BitVec.reduceEq, BitVec.reduceExtractLsb', and_true, and_false, true_and, false_and, if_true, if_false, reduceIte]

theorem atomExch (d : BitVec 6) (a : BitVec 6) (f : BitVec 4) (g : BitVec 1) : Statement (.atomExch d a f g) := by
  intro hw _ h _
  refine decode_packWord h _ _ ?_ hw
  show decodeOp2C _ = _
  simp (disch := decide) only [decodeOp2C, part_hi, part_lo, part_all, part_cross, part_top, Nat.reduceSub, BitVec.reduceEq, BitVec.reduceExtractLsb', and_true, and_false, true_and, false_and, if_true, if_false, reduceIte]

theorem atomAnd (d : BitVec 6) (a : BitVec 6) (f : BitVec 4) (g : BitVec 1) : Statement (.atomAnd d a f g) := by
  intro hw _ h _
  refine decode_packWord h _ _ ?_ hw
  show decodeOp2D _ = _
  simp (disch := decide) only [decodeOp2D, part_hi, part_lo, part_all, part_cross, part_top, Nat.reduceSub, BitVec.reduceEq, BitVec.reduceExtractLsb', and_true, and_false, true_and, false_and, if_true, if_false, reduceIte]

theorem atomOr (d : BitVec 6) (a : BitVec 6) (f : BitVec 4) (g : BitVec 1) : Statement (.atomOr d a f g) := by
  intro hw _ h _
  refine decode_packWord h _ _ ?_ hw
  show decodeOp2D _ = _
  simp (disch := decide) only [decodeOp2D, part_hi, part_lo, part_all, part_cross, part_top, Nat.reduceSub, BitVec.reduceEq, BitVec.reduceExtractLsb', and_true, and_false, true_and, false_and, if_true, if_false, reduceIte]

theorem atomXor (d : BitVec 6) (a : BitVec 6) (f : BitVec 4) (g : BitVec 1) : Statement (.atomXor d a f g) := by
  intro hw _ h _
  refine decode_packWord h _ _ ?_ hw
  show decodeOp2D _ = _
  simp (disch := decide) only [decodeOp2D, part_hi, part_lo, part_all, part_cross, part_top, Nat.reduceSub, BitVec.reduceEq, BitVec.reduceExtractLsb', and_true, and_false, true_and, false_and, if_true, if_false, reduceIte]

theorem cas (d : BitVec 6) (a : BitVec 6) (f : BitVec 4) (g : BitVec 1) : Statement (.cas d a f g) := by
  intro hw _ h _
  refine decode_packWord h _ _ ?_ hw
  show decodeOp2D _ = _
  simp (disch := decide) only [decodeOp2D, part_hi, part_lo, part_all, part_cross, part_top, Nat.reduceSub, BitVec.reduceEq, BitVec.reduceExtractLsb', and_true, and_false, true_and, false_and, if_true, if_false, reduceIte]

theorem redAdd (d : BitVec 6) (a : BitVec 6) (f : BitVec 4) (g : BitVec 1) : Statement (.redAdd d a f g) := by
  intro hw _ h _
  refine decode_packWord h _ _ ?_ hw
  show decodeOp2E _ = _
  simp (disch := decide) only [decodeOp2E, part_hi, part_lo, part_all, part_cross, part_top, Nat.reduceSub, BitVec.reduceEq, BitVec.reduceExtractLsb', and_true, and_false, true_and, false_and, if_true, if_false, reduceIte]

theorem redMin (d : BitVec 6) (a : BitVec 6) (f : BitVec 4) (g : BitVec 1) : Statement (.redMin d a f g) := by
  intro hw _ h _
  refine decode_packWord h _ _ ?_ hw
  show decodeOp2E _ = _
  simp (disch := decide) only [decodeOp2E, part_hi, part_lo, part_all, part_cross, part_top, Nat.reduceSub, BitVec.reduceEq, BitVec.reduceExtractLsb', and_true, and_false, true_and, false_and, if_true, if_false, reduceIte]

theorem redMax (d : BitVec 6) (a : BitVec 6) (f : BitVec 4) (g : BitVec 1) : Statement (.redMax d a f g) := by
  intro hw _ h _
  refine decode_packWord h _ _ ?_ hw
  show decodeOp2E _ = _
  simp (disch := decide) only [decodeOp2E, part_hi, part_lo, part_all, part_cross, part_top, Nat.reduceSub, BitVec.reduceEq, BitVec.reduceExtractLsb', and_true, and_false, true_and, false_and, if_true, if_false, reduceIte]

theorem redAddF32 (d : BitVec 6) (a : BitVec 6) (f : BitVec 4) (g : BitVec 1) : Statement (.redAddF32 d a f g) := by
  intro hw _ h _
  refine decode_packWord h _ _ ?_ hw
  show decodeOp2E _ = _
  simp (disch := decide) only [decodeOp2E, part_hi, part_lo, part_all, part_cross, part_top, Nat.reduceSub, BitVec.reduceEq, BitVec.reduceExtractLsb', and_true, and_false, true_and, false_and, if_true, if_false, reduceIte]

theorem tkget (d : BitVec 6) (a : BitVec 6) (f : BitVec 4) (g : BitVec 1) : Statement (.tkget d a f g) := by
  intro hw _ h _
  refine decode_packWord h _ _ ?_ hw
  show decodeOp2F _ = _
  simp (disch := decide) only [decodeOp2F, part_hi, part_lo, part_all, part_cross, part_top, Nat.reduceSub, BitVec.reduceEq, BitVec.reduceExtractLsb', and_true, and_false, true_and, false_and, if_true, if_false, reduceIte]

theorem tkwait (d : BitVec 6) (a : BitVec 6) (g : BitVec 1) : Statement (.tkwait d a g) := by
  intro hw _ h _
  refine decode_packWord h _ _ ?_ hw
  show decodeOp2F _ = _
  simp (disch := decide) only [decodeOp2F, part_hi, part_lo, part_all, part_cross, part_top, Nat.reduceSub, BitVec.reduceEq, BitVec.reduceExtractLsb', and_true, and_false, true_and, false_and, if_true, if_false, reduceIte]

theorem tknext (d : BitVec 6) (a : BitVec 6) (f : BitVec 4) (g : BitVec 1) : Statement (.tknext d a f g) := by
  intro hw _ h _
  refine decode_packWord h _ _ ?_ hw
  show decodeOp2F _ = _
  simp (disch := decide) only [decodeOp2F, part_hi, part_lo, part_all, part_cross, part_top, Nat.reduceSub, BitVec.reduceEq, BitVec.reduceExtractLsb', and_true, and_false, true_and, false_and, if_true, if_false, reduceIte]

theorem ldS32Signed (d : BitVec 6) (a : BitVec 6) (f : BitVec 4) (g : BitVec 1) : Statement (.ldS32Signed d a f g) := by
  intro hw _ h _
  refine decode_packWord h _ _ ?_ hw
  show decodeOp2F _ = _
  simp (disch := decide) only [decodeOp2F, part_hi, part_lo, part_all, part_cross, part_top, Nat.reduceSub, BitVec.reduceEq, BitVec.reduceExtractLsb', and_true, and_false, true_and, false_and, if_true, if_false, reduceIte]

theorem gath32 (d : BitVec 6) (a : BitVec 6) (f : BitVec 4) (g : BitVec 1) : Statement (.gath32 d a f g) := by
  intro hw _ h _
  refine decode_packWord h _ _ ?_ hw
  show decodeOp36 _ = _
  simp (disch := decide) only [decodeOp36, part_hi, part_lo, part_all, part_cross, part_top, Nat.reduceSub, BitVec.reduceEq, BitVec.reduceExtractLsb', and_true, and_false, true_and, false_and, if_true, if_false, reduceIte]

theorem gath64 (d : BitVec 6) (a : BitVec 6) (f : BitVec 4) (g : BitVec 1) : Statement (.gath64 d a f g) := by
  intro hw _ h _
  refine decode_packWord h _ _ ?_ hw
  show decodeOp36 _ = _
  simp (disch := decide) only [decodeOp36, part_hi, part_lo, part_all, part_cross, part_top, Nat.reduceSub, BitVec.reduceEq, BitVec.reduceExtractLsb', and_true, and_false, true_and, false_and, if_true, if_false, reduceIte]

theorem scat32 (d : BitVec 6) (a : BitVec 6) (f : BitVec 4) (g : BitVec 1) : Statement (.scat32 d a f g) := by
  intro hw _ h _
  refine decode_packWord h _ _ ?_ hw
  show decodeOp36 _ = _
  simp (disch := decide) only [decodeOp36, part_hi, part_lo, part_all, part_cross, part_top, Nat.reduceSub, BitVec.reduceEq, BitVec.reduceExtractLsb', and_true, and_false, true_and, false_and, if_true, if_false, reduceIte]

theorem scat64 (d : BitVec 6) (a : BitVec 6) (f : BitVec 4) (g : BitVec 1) : Statement (.scat64 d a f g) := by
  intro hw _ h _
  refine decode_packWord h _ _ ?_ hw
  show decodeOp36 _ = _
  simp (disch := decide) only [decodeOp36, part_hi, part_lo, part_all, part_cross, part_top, Nat.reduceSub, BitVec.reduceEq, BitVec.reduceExtractLsb', and_true, and_false, true_and, false_and, if_true, if_false, reduceIte]

theorem ldG8Signed (d : BitVec 6) (a : BitVec 6) (f : BitVec 4) (g : BitVec 1) : Statement (.ldG8Signed d a f g) := by
  intro hw _ h _
  refine decode_packWord h _ _ ?_ hw
  show decodeOp3B _ = _
  simp (disch := decide) only [decodeOp3B, part_hi, part_lo, part_all, part_cross, part_top, Nat.reduceSub, BitVec.reduceEq, BitVec.reduceExtractLsb', and_true, and_false, true_and, false_and, if_true, if_false, reduceIte]

theorem ldG16Signed (d : BitVec 6) (a : BitVec 6) (f : BitVec 4) (g : BitVec 1) : Statement (.ldG16Signed d a f g) := by
  intro hw _ h _
  refine decode_packWord h _ _ ?_ hw
  show decodeOp3B _ = _
  simp (disch := decide) only [decodeOp3B, part_hi, part_lo, part_all, part_cross, part_top, Nat.reduceSub, BitVec.reduceEq, BitVec.reduceExtractLsb', and_true, and_false, true_and, false_and, if_true, if_false, reduceIte]

theorem ldS8Signed (d : BitVec 6) (a : BitVec 6) (f : BitVec 4) (g : BitVec 1) : Statement (.ldS8Signed d a f g) := by
  intro hw _ h _
  refine decode_packWord h _ _ ?_ hw
  show decodeOp3B _ = _
  simp (disch := decide) only [decodeOp3B, part_hi, part_lo, part_all, part_cross, part_top, Nat.reduceSub, BitVec.reduceEq, BitVec.reduceExtractLsb', and_true, and_false, true_and, false_and, if_true, if_false, reduceIte]

theorem ldS16Signed (d : BitVec 6) (a : BitVec 6) (f : BitVec 4) (g : BitVec 1) : Statement (.ldS16Signed d a f g) := by
  intro hw _ h _
  refine decode_packWord h _ _ ?_ hw
  show decodeOp3B _ = _
  simp (disch := decide) only [decodeOp3B, part_hi, part_lo, part_all, part_cross, part_top, Nat.reduceSub, BitVec.reduceEq, BitVec.reduceExtractLsb', and_true, and_false, true_and, false_and, if_true, if_false, reduceIte]

theorem binit (x : BitVec 6) (y : BitVec 6) : Statement (.binit x y) := by
  intro hw _ h _
  refine decode_packWord h _ _ ?_ hw
  show decodeOp30 _ = _
  simp (disch := decide) only [decodeOp30, part_hi, part_lo, part_all, part_cross, part_top, Nat.reduceSub, BitVec.reduceEq, BitVec.reduceExtractLsb', and_true, and_false, true_and, false_and, if_true, if_false, reduceIte]

theorem bexpect (x : BitVec 6) (y : BitVec 6) : Statement (.bexpect x y) := by
  intro hw _ h _
  refine decode_packWord h _ _ ?_ hw
  show decodeOp30 _ = _
  simp (disch := decide) only [decodeOp30, part_hi, part_lo, part_all, part_cross, part_top, Nat.reduceSub, BitVec.reduceEq, BitVec.reduceExtractLsb', and_true, and_false, true_and, false_and, if_true, if_false, reduceIte]

theorem barrive (x : BitVec 6) : Statement (.barrive x) := by
  intro hw _ h _
  refine decode_packWord h _ _ ?_ hw
  show decodeOp30 _ = _
  simp (disch := decide) only [decodeOp30, part_hi, part_lo, part_all, part_cross, part_top, Nat.reduceSub, BitVec.reduceEq, BitVec.reduceExtractLsb', and_true, and_false, true_and, false_and, if_true, if_false, reduceIte]

theorem bwait (x : BitVec 6) (z : BitVec 3) : Statement (.bwait x z) := by
  intro hw _ h _
  refine decode_packWord h _ _ ?_ hw
  show decodeOp30 _ = _
  simp (disch := decide) only [decodeOp30, part_hi, part_lo, part_all, part_cross, part_top, Nat.reduceSub, BitVec.reduceEq, BitVec.reduceExtractLsb', and_true, and_false, true_and, false_and, if_true, if_false, reduceIte]

theorem btest (x : BitVec 6) (z : BitVec 3) : Statement (.btest x z) := by
  intro hw _ h _
  refine decode_packWord h _ _ ?_ hw
  show decodeOp30 _ = _
  simp (disch := decide) only [decodeOp30, part_hi, part_lo, part_all, part_cross, part_top, Nat.reduceSub, BitVec.reduceEq, BitVec.reduceExtractLsb', and_true, and_false, true_and, false_and, if_true, if_false, reduceIte]

theorem qpush (x : BitVec 6) (y : BitVec 6) : Statement (.qpush x y) := by
  intro hw _ h _
  refine decode_packWord h _ _ ?_ hw
  show decodeOp31 _ = _
  simp (disch := decide) only [decodeOp31, part_hi, part_lo, part_all, part_cross, part_top, Nat.reduceSub, BitVec.reduceEq, BitVec.reduceExtractLsb', and_true, and_false, true_and, false_and, if_true, if_false, reduceIte]

theorem qpop (x : BitVec 6) (y : BitVec 6) : Statement (.qpop x y) := by
  intro hw _ h _
  refine decode_packWord h _ _ ?_ hw
  show decodeOp31 _ = _
  simp (disch := decide) only [decodeOp31, part_hi, part_lo, part_all, part_cross, part_top, Nat.reduceSub, BitVec.reduceEq, BitVec.reduceExtractLsb', and_true, and_false, true_and, false_and, if_true, if_false, reduceIte]

theorem qtryPush (x : BitVec 6) (y : BitVec 6) (z : BitVec 3) : Statement (.qtryPush x y z) := by
  intro hw _ h _
  refine decode_packWord h _ _ ?_ hw
  show decodeOp31 _ = _
  simp (disch := decide) only [decodeOp31, part_hi, part_lo, part_all, part_cross, part_top, Nat.reduceSub, BitVec.reduceEq, BitVec.reduceExtractLsb', and_true, and_false, true_and, false_and, if_true, if_false, reduceIte]

theorem qtryPop (x : BitVec 6) (y : BitVec 6) (z : BitVec 3) : Statement (.qtryPop x y z) := by
  intro hw _ h _
  refine decode_packWord h _ _ ?_ hw
  show decodeOp31 _ = _
  simp (disch := decide) only [decodeOp31, part_hi, part_lo, part_all, part_cross, part_top, Nat.reduceSub, BitVec.reduceEq, BitVec.reduceExtractLsb', and_true, and_false, true_and, false_and, if_true, if_false, reduceIte]

theorem lqsend (x : BitVec 6) (y : BitVec 6) : Statement (.lqsend x y) := by
  intro hw _ h _
  refine decode_packWord h _ _ ?_ hw
  show decodeOp31 _ = _
  simp (disch := decide) only [decodeOp31, part_hi, part_lo, part_all, part_cross, part_top, Nat.reduceSub, BitVec.reduceEq, BitVec.reduceExtractLsb', and_true, and_false, true_and, false_and, if_true, if_false, reduceIte]

theorem lqrecv (x : BitVec 6) (y : BitVec 6) : Statement (.lqrecv x y) := by
  intro hw _ h _
  refine decode_packWord h _ _ ?_ hw
  show decodeOp31 _ = _
  simp (disch := decide) only [decodeOp31, part_hi, part_lo, part_all, part_cross, part_top, Nat.reduceSub, BitVec.reduceEq, BitVec.reduceExtractLsb', and_true, and_false, true_and, false_and, if_true, if_false, reduceIte]

theorem xfset (x : BitVec 6) : Statement (.xfset x) := by
  intro hw _ h _
  refine decode_packWord h _ _ ?_ hw
  show decodeOp31 _ = _
  simp (disch := decide) only [decodeOp31, part_hi, part_lo, part_all, part_cross, part_top, Nat.reduceSub, BitVec.reduceEq, BitVec.reduceExtractLsb', and_true, and_false, true_and, false_and, if_true, if_false, reduceIte]

theorem xfwait (x : BitVec 6) : Statement (.xfwait x) := by
  intro hw _ h _
  refine decode_packWord h _ _ ?_ hw
  show decodeOp31 _ = _
  simp (disch := decide) only [decodeOp31, part_hi, part_lo, part_all, part_cross, part_top, Nat.reduceSub, BitVec.reduceEq, BitVec.reduceExtractLsb', and_true, and_false, true_and, false_and, if_true, if_false, reduceIte]

theorem bind (x : BitVec 6) (y : BitVec 6) : Statement (.bind x y) := by
  intro hw _ h _
  refine decode_packWord h _ _ ?_ hw
  show decodeOp32 _ = _
  simp (disch := decide) only [decodeOp32, part_hi, part_lo, part_all, part_cross, part_top, Nat.reduceSub, BitVec.reduceEq, BitVec.reduceExtractLsb', and_true, and_false, true_and, false_and, if_true, if_false, reduceIte]

theorem unbind (y : BitVec 6) : Statement (.unbind y) := by
  intro hw _ h _
  refine decode_packWord h _ _ ?_ hw
  show decodeOp32 _ = _
  simp (disch := decide) only [decodeOp32, part_hi, part_lo, part_all, part_cross, part_top, Nat.reduceSub, BitVec.reduceEq, BitVec.reduceExtractLsb', and_true, and_false, true_and, false_and, if_true, if_false, reduceIte]

theorem acq (x : BitVec 6) (z : BitVec 3) : Statement (.acq x z) := by
  intro hw _ h _
  refine decode_packWord h _ _ ?_ hw
  show decodeOp32 _ = _
  simp (disch := decide) only [decodeOp32, part_hi, part_lo, part_all, part_cross, part_top, Nat.reduceSub, BitVec.reduceEq, BitVec.reduceExtractLsb', and_true, and_false, true_and, false_and, if_true, if_false, reduceIte]

theorem rel (x : BitVec 6) : Statement (.rel x) := by
  intro hw _ h _
  refine decode_packWord h _ _ ?_ hw
  show decodeOp32 _ = _
  simp (disch := decide) only [decodeOp32, part_hi, part_lo, part_all, part_cross, part_top, Nat.reduceSub, BitVec.reduceEq, BitVec.reduceExtractLsb', and_true, and_false, true_and, false_and, if_true, if_false, reduceIte]

theorem launch (x : BitVec 6) : Statement (.launch x) := by
  intro hw _ h _
  refine decode_packWord h _ _ ?_ hw
  show decodeOp33 _ = _
  simp (disch := decide) only [decodeOp33, part_hi, part_lo, part_all, part_cross, part_top, Nat.reduceSub, BitVec.reduceEq, BitVec.reduceExtractLsb', and_true, and_false, true_and, false_and, if_true, if_false, reduceIte]

theorem tidset (x : BitVec 6) (y : BitVec 6) : Statement (.tidset x y) := by
  intro hw _ h _
  refine decode_packWord h _ _ ?_ hw
  show decodeOp34 _ = _
  simp (disch := decide) only [decodeOp34, part_hi, part_lo, part_all, part_cross, part_top, Nat.reduceSub, BitVec.reduceEq, BitVec.reduceExtractLsb', and_true, and_false, true_and, false_and, if_true, if_false, reduceIte]

theorem tidget (x : BitVec 6) (y : BitVec 6) (z : BitVec 3) : Statement (.tidget x y z) := by
  intro hw _ h _
  refine decode_packWord h _ _ ?_ hw
  show decodeOp34 _ = _
  simp (disch := decide) only [decodeOp34, part_hi, part_lo, part_all, part_cross, part_top, Nat.reduceSub, BitVec.reduceEq, BitVec.reduceExtractLsb', and_true, and_false, true_and, false_and, if_true, if_false, reduceIte]

theorem tlset (x : BitVec 6) (y : BitVec 6) : Statement (.tlset x y) := by
  intro hw _ h _
  refine decode_packWord h _ _ ?_ hw
  show decodeOp34 _ = _
  simp (disch := decide) only [decodeOp34, part_hi, part_lo, part_all, part_cross, part_top, Nat.reduceSub, BitVec.reduceEq, BitVec.reduceExtractLsb', and_true, and_false, true_and, false_and, if_true, if_false, reduceIte]

theorem tlstate (x : BitVec 6) (y : BitVec 6) : Statement (.tlstate x y) := by
  intro hw _ h _
  refine decode_packWord h _ _ ?_ hw
  show decodeOp34 _ = _
  simp (disch := decide) only [decodeOp34, part_hi, part_lo, part_all, part_cross, part_top, Nat.reduceSub, BitVec.reduceEq, BitVec.reduceExtractLsb', and_true, and_false, true_and, false_and, if_true, if_false, reduceIte]

theorem copy (x : BitVec 6) (y : BitVec 6) : Statement (.copy x y) := by
  intro hw _ h _
  refine decode_packWord h _ _ ?_ hw
  show decodeOp35 _ = _
  simp (disch := decide) only [decodeOp35, part_hi, part_lo, part_all, part_cross, part_top, Nat.reduceSub, BitVec.reduceEq, BitVec.reduceExtractLsb', and_true, and_false, true_and, false_and, if_true, if_false, reduceIte]

theorem xform (x : BitVec 6) (y : BitVec 6) : Statement (.xform x y) := by
  intro hw _ h _
  refine decode_packWord h _ _ ?_ hw
  show decodeOp35 _ = _
  simp (disch := decide) only [decodeOp35, part_hi, part_lo, part_all, part_cross, part_top, Nat.reduceSub, BitVec.reduceEq, BitVec.reduceExtractLsb', and_true, and_false, true_and, false_and, if_true, if_false, reduceIte]

theorem wlpush (x : BitVec 6) (y : BitVec 6) : Statement (.wlpush x y) := by
  intro hw _ h _
  refine decode_packWord h _ _ ?_ hw
  show decodeOp37 _ = _
  simp (disch := decide) only [decodeOp37, part_hi, part_lo, part_all, part_cross, part_top, Nat.reduceSub, BitVec.reduceEq, BitVec.reduceExtractLsb', and_true, and_false, true_and, false_and, if_true, if_false, reduceIte]

theorem wlpop (x : BitVec 6) (y : BitVec 6) (z : BitVec 4) : Statement (.wlpop x y z) := by
  intro hw _ h _
  refine decode_packWord h _ _ ?_ hw
  show decodeOp37 _ = _
  simp (disch := decide) only [decodeOp37, part_hi, part_lo, part_all, part_cross, part_top, Nat.reduceSub, BitVec.reduceEq, BitVec.reduceExtractLsb', and_true, and_false, true_and, false_and, if_true, if_false, reduceIte]

theorem mma (e : BitVec 4) (s : BitVec 5) (t : BitVec 4) (r : BitVec 6) : Statement (.mma e s t r) := by
  intro hw _ h _
  refine decode_packWord h _ _ ?_ hw
  show decodeOp38 _ = _
  simp (disch := decide) only [decodeOp38, part_hi, part_lo, part_all, part_cross, part_top, Nat.reduceSub, BitVec.reduceEq, BitVec.reduceExtractLsb', and_true, and_false, true_and, false_and, if_true, if_false, reduceIte]

theorem ldstat (x : BitVec 6) (z : BitVec 4) : Statement (.ldstat x z) := by
  intro hw _ h _
  refine decode_packWord h _ _ ?_ hw
  show decodeOp39 _ = _
  simp (disch := decide) only [decodeOp39, part_hi, part_lo, part_all, part_cross, part_top, Nat.reduceSub, BitVec.reduceEq, BitVec.reduceExtractLsb', and_true, and_false, true_and, false_and, if_true, if_false, reduceIte]

theorem aclr (x : BitVec 6) : Statement (.aclr x) := by
  intro hw _ h _
  refine decode_packWord h _ _ ?_ hw
  show decodeOp39 _ = _
  simp (disch := decide) only [decodeOp39, part_hi, part_lo, part_all, part_cross, part_top, Nat.reduceSub, BitVec.reduceEq, BitVec.reduceExtractLsb', and_true, and_false, true_and, false_and, if_true, if_false, reduceIte]

theorem commit (x : BitVec 6) : Statement (.commit x) := by
  intro hw _ h _
  refine decode_packWord h _ _ ?_ hw
  show decodeOp39 _ = _
  simp (disch := decide) only [decodeOp39, part_hi, part_lo, part_all, part_cross, part_top, Nat.reduceSub, BitVec.reduceEq, BitVec.reduceExtractLsb', and_true, and_false, true_and, false_and, if_true, if_false, reduceIte]

theorem mwait (x : BitVec 6) : Statement (.mwait x) := by
  intro hw _ h _
  refine decode_packWord h _ _ ?_ hw
  show decodeOp39 _ = _
  simp (disch := decide) only [decodeOp39, part_hi, part_lo, part_all, part_cross, part_top, Nat.reduceSub, BitVec.reduceEq, BitVec.reduceExtractLsb', and_true, and_false, true_and, false_and, if_true, if_false, reduceIte]

theorem drainPlain (x : BitVec 6) (y : BitVec 6) (z : BitVec 4) : Statement (.drainPlain x y z) := by
  intro hw _ h _
  refine decode_packWord h _ _ ?_ hw
  show decodeOp3A _ = _
  simp (disch := decide) only [decodeOp3A, part_hi, part_lo, part_all, part_cross, part_top, Nat.reduceSub, BitVec.reduceEq, BitVec.reduceExtractLsb', and_true, and_false, true_and, false_and, if_true, if_false, reduceIte]

theorem drainConvert (x : BitVec 6) (y : BitVec 6) (z : BitVec 4) : Statement (.drainConvert x y z) := by
  intro hw _ h _
  refine decode_packWord h _ _ ?_ hw
  show decodeOp3A _ = _
  simp (disch := decide) only [decodeOp3A, part_hi, part_lo, part_all, part_cross, part_top, Nat.reduceSub, BitVec.reduceEq, BitVec.reduceExtractLsb', and_true, and_false, true_and, false_and, if_true, if_false, reduceIte]

theorem drainQuantise (x : BitVec 6) (y : BitVec 6) (z : BitVec 4) : Statement (.drainQuantise x y z) := by
  intro hw _ h _
  refine decode_packWord h _ _ ?_ hw
  show decodeOp3A _ = _
  simp (disch := decide) only [decodeOp3A, part_hi, part_lo, part_all, part_cross, part_top, Nat.reduceSub, BitVec.reduceEq, BitVec.reduceExtractLsb', and_true, and_false, true_and, false_and, if_true, if_false, reduceIte]

theorem drainPack (x : BitVec 6) (y : BitVec 6) (z : BitVec 4) : Statement (.drainPack x y z) := by
  intro hw _ h _
  refine decode_packWord h _ _ ?_ hw
  show decodeOp3A _ = _
  simp (disch := decide) only [decodeOp3A, part_hi, part_lo, part_all, part_cross, part_top, Nat.reduceSub, BitVec.reduceEq, BitVec.reduceExtractLsb', and_true, and_false, true_and, false_and, if_true, if_false, reduceIte]

theorem drainElide (x : BitVec 6) (y : BitVec 6) (z : BitVec 4) : Statement (.drainElide x y z) := by
  intro hw _ h _
  refine decode_packWord h _ _ ?_ hw
  show decodeOp3A _ = _
  simp (disch := decide) only [decodeOp3A, part_hi, part_lo, part_all, part_cross, part_top, Nat.reduceSub, BitVec.reduceEq, BitVec.reduceExtractLsb', and_true, and_false, true_and, false_and, if_true, if_false, reduceIte]

theorem rank0 (x : BitVec 6) (y : BitVec 6) (z : BitVec 4) : Statement (.rank0 x y z) := by
  intro hw _ h _
  refine decode_packWord h _ _ ?_ hw
  show decodeOp3C _ = _
  simp (disch := decide) only [decodeOp3C, part_hi, part_lo, part_all, part_cross, part_top, Nat.reduceSub, BitVec.reduceEq, BitVec.reduceExtractLsb', and_true, and_false, true_and, false_and, if_true, if_false, reduceIte]

theorem rank1 (x : BitVec 6) (y : BitVec 6) (z : BitVec 4) : Statement (.rank1 x y z) := by
  intro hw _ h _
  refine decode_packWord h _ _ ?_ hw
  show decodeOp3C _ = _
  simp (disch := decide) only [decodeOp3C, part_hi, part_lo, part_all, part_cross, part_top, Nat.reduceSub, BitVec.reduceEq, BitVec.reduceExtractLsb', and_true, and_false, true_and, false_and, if_true, if_false, reduceIte]

theorem selb0 (x : BitVec 6) (y : BitVec 6) (z : BitVec 4) : Statement (.selb0 x y z) := by
  intro hw _ h _
  refine decode_packWord h _ _ ?_ hw
  show decodeOp3C _ = _
  simp (disch := decide) only [decodeOp3C, part_hi, part_lo, part_all, part_cross, part_top, Nat.reduceSub, BitVec.reduceEq, BitVec.reduceExtractLsb', and_true, and_false, true_and, false_and, if_true, if_false, reduceIte]

theorem selb1 (x : BitVec 6) (y : BitVec 6) (z : BitVec 4) : Statement (.selb1 x y z) := by
  intro hw _ h _
  refine decode_packWord h _ _ ?_ hw
  show decodeOp3C _ = _
  simp (disch := decide) only [decodeOp3C, part_hi, part_lo, part_all, part_cross, part_top, Nat.reduceSub, BitVec.reduceEq, BitVec.reduceExtractLsb', and_true, and_false, true_and, false_and, if_true, if_false, reduceIte]

theorem exc (x : BitVec 6) (y : BitVec 6) (z : BitVec 4) : Statement (.exc x y z) := by
  intro hw _ h _
  refine decode_packWord h _ _ ?_ hw
  show decodeOp3C _ = _
  simp (disch := decide) only [decodeOp3C, part_hi, part_lo, part_all, part_cross, part_top, Nat.reduceSub, BitVec.reduceEq, BitVec.reduceExtractLsb', and_true, and_false, true_and, false_and, if_true, if_false, reduceIte]

theorem fclose (x : BitVec 6) (y : BitVec 6) (z : BitVec 4) : Statement (.fclose x y z) := by
  intro hw _ h _
  refine decode_packWord h _ _ ?_ hw
  show decodeOp3C _ = _
  simp (disch := decide) only [decodeOp3C, part_hi, part_lo, part_all, part_cross, part_top, Nat.reduceSub, BitVec.reduceEq, BitVec.reduceExtractLsb', and_true, and_false, true_and, false_and, if_true, if_false, reduceIte]

theorem fopen (x : BitVec 6) (y : BitVec 6) (z : BitVec 4) : Statement (.fopen x y z) := by
  intro hw _ h _
  refine decode_packWord h _ _ ?_ hw
  show decodeOp3C _ = _
  simp (disch := decide) only [decodeOp3C, part_hi, part_lo, part_all, part_cross, part_top, Nat.reduceSub, BitVec.reduceEq, BitVec.reduceExtractLsb', and_true, and_false, true_and, false_and, if_true, if_false, reduceIte]

theorem encl (x : BitVec 6) (y : BitVec 6) (z : BitVec 4) : Statement (.encl x y z) := by
  intro hw _ h _
  refine decode_packWord h _ _ ?_ hw
  show decodeOp3C _ = _
  simp (disch := decide) only [decodeOp3C, part_hi, part_lo, part_all, part_cross, part_top, Nat.reduceSub, BitVec.reduceEq, BitVec.reduceExtractLsb', and_true, and_false, true_and, false_and, if_true, if_false, reduceIte]

theorem sreg (x : BitVec 6) (y : BitVec 6) : Statement (.sreg x y) := by
  intro hw _ h _
  refine decode_packWord h _ _ ?_ hw
  show decodeOp3D _ = _
  simp (disch := decide) only [decodeOp3D, part_hi, part_lo, part_all, part_cross, part_top, Nat.reduceSub, BitVec.reduceEq, BitVec.reduceExtractLsb', and_true, and_false, true_and, false_and, if_true, if_false, reduceIte]

theorem sunreg (x : BitVec 6) : Statement (.sunreg x) := by
  intro hw _ h _
  refine decode_packWord h _ _ ?_ hw
  show decodeOp3D _ = _
  simp (disch := decide) only [decodeOp3D, part_hi, part_lo, part_all, part_cross, part_top, Nat.reduceSub, BitVec.reduceEq, BitVec.reduceExtractLsb', and_true, and_false, true_and, false_and, if_true, if_false, reduceIte]

theorem srepack (x : BitVec 6) (y : BitVec 6) : Statement (.srepack x y) := by
  intro hw _ h _
  refine decode_packWord h _ _ ?_ hw
  show decodeOp3D _ = _
  simp (disch := decide) only [decodeOp3D, part_hi, part_lo, part_all, part_cross, part_top, Nat.reduceSub, BitVec.reduceEq, BitVec.reduceExtractLsb', and_true, and_false, true_and, false_and, if_true, if_false, reduceIte]

theorem bins (x : BitVec 6) (y : BitVec 6) (z : BitVec 4) : Statement (.bins x y z) := by
  intro hw _ h _
  refine decode_packWord h _ _ ?_ hw
  show decodeOp3D _ = _
  simp (disch := decide) only [decodeOp3D, part_hi, part_lo, part_all, part_cross, part_top, Nat.reduceSub, BitVec.reduceEq, BitVec.reduceExtractLsb', and_true, and_false, true_and, false_and, if_true, if_false, reduceIte]

theorem bdel (x : BitVec 6) (y : BitVec 6) (z : BitVec 4) : Statement (.bdel x y z) := by
  intro hw _ h _
  refine decode_packWord h _ _ ?_ hw
  show decodeOp3D _ = _
  simp (disch := decide) only [decodeOp3D, part_hi, part_lo, part_all, part_cross, part_top, Nat.reduceSub, BitVec.reduceEq, BitVec.reduceExtractLsb', and_true, and_false, true_and, false_and, if_true, if_false, reduceIte]

theorem saddr (x : BitVec 6) (y : BitVec 6) (z : BitVec 4) : Statement (.saddr x y z) := by
  intro hw _ h _
  refine decode_packWord h _ _ ?_ hw
  show decodeOp3D _ = _
  simp (disch := decide) only [decodeOp3D, part_hi, part_lo, part_all, part_cross, part_top, Nat.reduceSub, BitVec.reduceEq, BitVec.reduceExtractLsb', and_true, and_false, true_and, false_and, if_true, if_false, reduceIte]

theorem bkcmd (x : BitVec 6) : Statement (.bkcmd x) := by
  intro hw _ h _
  refine decode_packWord h _ _ ?_ hw
  show decodeOp3E _ = _
  simp (disch := decide) only [decodeOp3E, part_hi, part_lo, part_all, part_cross, part_top, Nat.reduceSub, BitVec.reduceEq, BitVec.reduceExtractLsb', and_true, and_false, true_and, false_and, if_true, if_false, reduceIte]

theorem bkstat (x : BitVec 6) (y : BitVec 6) (z : BitVec 4) : Statement (.bkstat x y z) := by
  intro hw _ h _
  refine decode_packWord h _ _ ?_ hw
  show decodeOp3E _ = _
  simp (disch := decide) only [decodeOp3E, part_hi, part_lo, part_all, part_cross, part_top, Nat.reduceSub, BitVec.reduceEq, BitVec.reduceExtractLsb', and_true, and_false, true_and, false_and, if_true, if_false, reduceIte]

theorem bkcancel (y : BitVec 6) : Statement (.bkcancel y) := by
  intro hw _ h _
  refine decode_packWord h _ _ ?_ hw
  show decodeOp3E _ = _
  simp (disch := decide) only [decodeOp3E, part_hi, part_lo, part_all, part_cross, part_top, Nat.reduceSub, BitVec.reduceEq, BitVec.reduceExtractLsb', and_true, and_false, true_and, false_and, if_true, if_false, reduceIte]

theorem wtree (x : BitVec 6) (y : BitVec 6) : Statement (.wtree x y) := by
  intro hw _ h _
  refine decode_packWord h _ _ ?_ hw
  show decodeOp3E _ = _
  simp (disch := decide) only [decodeOp3E, part_hi, part_lo, part_all, part_cross, part_top, Nat.reduceSub, BitVec.reduceEq, BitVec.reduceExtractLsb', and_true, and_false, true_and, false_and, if_true, if_false, reduceIte]

theorem wquery (x : BitVec 6) (y : BitVec 6) : Statement (.wquery x y) := by
  intro hw _ h _
  refine decode_packWord h _ _ ?_ hw
  show decodeOp3E _ = _
  simp (disch := decide) only [decodeOp3E, part_hi, part_lo, part_all, part_cross, part_top, Nat.reduceSub, BitVec.reduceEq, BitVec.reduceExtractLsb', and_true, and_false, true_and, false_and, if_true, if_false, reduceIte]

theorem wappend (x : BitVec 6) (y : BitVec 6) : Statement (.wappend x y) := by
  intro hw _ h _
  refine decode_packWord h _ _ ?_ hw
  show decodeOp3E _ = _
  simp (disch := decide) only [decodeOp3E, part_hi, part_lo, part_all, part_cross, part_top, Nat.reduceSub, BitVec.reduceEq, BitVec.reduceExtractLsb', and_true, and_false, true_and, false_and, if_true, if_false, reduceIte]

theorem wstat (x : BitVec 6) (y : BitVec 6) (z : BitVec 4) : Statement (.wstat x y z) := by
  intro hw _ h _
  refine decode_packWord h _ _ ?_ hw
  show decodeOp3E _ = _
  simp (disch := decide) only [decodeOp3E, part_hi, part_lo, part_all, part_cross, part_top, Nat.reduceSub, BitVec.reduceEq, BitVec.reduceExtractLsb', and_true, and_false, true_and, false_and, if_true, if_false, reduceIte]

theorem dreg (x : BitVec 6) (y : BitVec 6) : Statement (.dreg x y) := by
  intro hw _ h _
  refine decode_packWord h _ _ ?_ hw
  show decodeOp3F _ = _
  simp (disch := decide) only [decodeOp3F, part_hi, part_lo, part_all, part_cross, part_top, Nat.reduceSub, BitVec.reduceEq, BitVec.reduceExtractLsb', and_true, and_false, true_and, false_and, if_true, if_false, reduceIte]

theorem dunreg (x : BitVec 6) : Statement (.dunreg x) := by
  intro hw _ h _
  refine decode_packWord h _ _ ?_ hw
  show decodeOp3F _ = _
  simp (disch := decide) only [decodeOp3F, part_hi, part_lo, part_all, part_cross, part_top, Nat.reduceSub, BitVec.reduceEq, BitVec.reduceExtractLsb', and_true, and_false, true_and, false_and, if_true, if_false, reduceIte]

theorem dquery (x : BitVec 6) (y : BitVec 6) (z : BitVec 4) : Statement (.dquery x y z) := by
  intro hw _ h _
  refine decode_packWord h _ _ ?_ hw
  show decodeOp3F _ = _
  simp (disch := decide) only [decodeOp3F, part_hi, part_lo, part_all, part_cross, part_top, Nat.reduceSub, BitVec.reduceEq, BitVec.reduceExtractLsb', and_true, and_false, true_and, false_and, if_true, if_false, reduceIte]

theorem imx : Statement .imx := by
  intro hw _ h _
  refine (decode_packWord h _ _ rfl hw).trans ?_
  simp [immOf, Machine.keptImm]

theorem join : Statement .join := by
  intro hw _ h _
  refine decode_packWord h _ _ ?_ hw
  show decodeOp06 _ = _
  simp (disch := decide) only [decodeOp06, part_hi, part_lo, part_all, part_cross, part_top, Nat.reduceSub, BitVec.reduceEq, BitVec.reduceExtractLsb', and_true, and_false, true_and, false_and, if_true, if_false, reduceIte]

theorem nop : Statement .nop := by
  intro hw _ h _
  refine decode_packWord h _ _ ?_ hw
  show decodeOp00 _ = _
  simp (disch := decide) only [decodeOp00, part_hi, part_lo, part_all, part_cross, part_top, Nat.reduceSub, BitVec.reduceEq, BitVec.reduceExtractLsb', and_true, and_false, true_and, false_and, if_true, if_false, reduceIte]

theorem bkpt : Statement .bkpt := by
  intro hw _ h _
  refine (decode_packWord h _ _ (i := .bkpt) ?_ hw).trans ?_
  · show decodeOp00 _ = _
    simp (disch := decide) only [decodeOp00, part_hi, part_lo, part_all, part_cross, part_top, Nat.reduceSub, BitVec.reduceEq, BitVec.reduceExtractLsb',
      and_true, and_false, true_and, false_and, if_true, if_false, reduceIte]
    rw [if_neg (part_top 64#11 (h.imm.extractLsb' 0 8) 0#19 (by decide))]
  · congr 3
    simp only [immOf, Machine.keptImm]
    rw [part_lo _ _ _ _ (by decide)]
    apply BitVec.eq_of_toNat_eq
    simp

theorem yield : Statement .yield := by
  intro hw _ h _
  refine decode_packWord h _ _ ?_ hw
  show decodeOp00 _ = _
  simp (disch := decide) only [decodeOp00, part_hi, part_lo, part_all, part_cross, part_top, Nat.reduceSub, BitVec.reduceEq, BitVec.reduceExtractLsb', and_true, and_false, true_and, false_and, if_true, if_false, reduceIte]

theorem trap : Statement .trap := by
  intro hw _ h _
  refine (decode_packWord h _ _ (i := .trap) ?_ hw).trans ?_
  · show decodeOp00 _ = _
    simp (disch := decide) only [decodeOp00, part_hi, part_lo, part_all, part_cross, part_top, Nat.reduceSub, BitVec.reduceEq, BitVec.reduceExtractLsb',
      and_true, and_false, true_and, false_and, if_true, if_false, reduceIte]
    rw [if_neg (part_top 384#11 (h.imm.extractLsb' 0 8) 0#19 (by decide)), if_neg (part_top 384#11 (h.imm.extractLsb' 0 8) 32768#19 (by decide))]
  · congr 3
    simp only [immOf, Machine.keptImm]
    rw [part_lo _ _ _ _ (by decide)]
    apply BitVec.eq_of_toNat_eq
    simp

theorem eret : Statement .eret := by
  intro hw _ h _
  refine decode_packWord h _ _ ?_ hw
  show decodeOp00 _ = _
  simp (disch := decide) only [decodeOp00, part_hi, part_lo, part_all, part_cross, part_top, Nat.reduceSub, BitVec.reduceEq, BitVec.reduceExtractLsb', and_true, and_false, true_and, false_and, if_true, if_false, reduceIte]

theorem pkey : Statement .pkey := by
  intro hw _ h _
  refine (decode_packWord h _ _ (i := .pkey) ?_ hw).trans ?_
  · show decodeOp00 _ = _
    simp (disch := decide) only [decodeOp00, part_hi, part_lo, part_all, part_cross, part_top, Nat.reduceSub, BitVec.reduceEq, BitVec.reduceExtractLsb',
      and_true, and_false, true_and, false_and, if_true, if_false, reduceIte]
    rw [if_neg (part_top 1536#12 (h.imm.extractLsb' 0 7) 0#19 (by decide)), if_neg (part_top 1536#12 (h.imm.extractLsb' 0 7) 32768#19 (by decide)), if_neg (part_top 1536#12 (h.imm.extractLsb' 0 7) 114688#19 (by decide))]
  · congr 3
    simp only [immOf, Machine.keptImm]
    rw [part_lo _ _ _ _ (by decide)]
    apply BitVec.eq_of_toNat_eq
    simp

theorem fence : Statement .fence := by
  intro hw _ h hf
  have e : (h.imm.extractLsb' 0 3).toNat < 5 := by simpa [Nat.shiftRight_zero] using hf rfl
  refine (decode_packWord h _ _ (i := .fence) ?_ hw).trans ?_
  · show decodeOp32 _ = _
    simp (disch := decide) only [decodeOp32, part_hi, part_lo, part_all, part_cross, part_top, Nat.reduceSub, BitVec.reduceEq, BitVec.reduceExtractLsb',
      e, and_true, and_false, true_and, false_and, if_true, if_false, reduceIte]
  · congr 3
    simp only [immOf, Machine.keptImm]
    rw [part_hi _ _ _ _ (by decide), part_lo _ _ _ _ (by decide)]
    apply BitVec.eq_of_toNat_eq
    simp

theorem trig : Statement .trig := by
  intro hw _ h _
  refine decode_packWord h _ _ ?_ hw
  show decodeOp32 _ = _
  simp (disch := decide) only [decodeOp32, part_hi, part_lo, part_all, part_cross, part_top, Nat.reduceSub, BitVec.reduceEq, BitVec.reduceExtractLsb', and_true, and_false, true_and, false_and, if_true, if_false, reduceIte]

theorem phase : Statement .phase := by
  intro hw _ h _
  refine decode_packWord h _ _ ?_ hw
  show decodeOp33 _ = _
  simp (disch := decide) only [decodeOp33, part_hi, part_lo, part_all, part_cross, part_top, Nat.reduceSub, BitVec.reduceEq, BitVec.reduceExtractLsb', and_true, and_false, true_and, false_and, if_true, if_false, reduceIte]

theorem swap : Statement .swap := by
  intro hw _ h _
  refine decode_packWord h _ _ ?_ hw
  show decodeOp39 _ = _
  simp (disch := decide) only [decodeOp39, part_hi, part_lo, part_all, part_cross, part_top, Nat.reduceSub, BitVec.reduceEq, BitVec.reduceExtractLsb', and_true, and_false, true_and, false_and, if_true, if_false, reduceIte]

theorem powerOn : Statement .powerOn := fun _ h => nomatch h

theorem deviceReset : Statement .deviceReset := fun _ h => nomatch h

theorem imageFetchDone : Statement .imageFetchDone := fun _ h => nomatch h

theorem bootServerFailure : Statement .bootServerFailure := fun _ h => nomatch h

theorem bootRetryWait : Statement .bootRetryWait := fun _ h => nomatch h

theorem reducedServiceEntry : Statement .reducedServiceEntry := fun _ h => nomatch h

theorem fullServiceEntry : Statement .fullServiceEntry := fun _ h => nomatch h

theorem tempSample : Statement .tempSample := fun _ h => nomatch h

theorem governorWindow : Statement .governorWindow := fun _ h => nomatch h

theorem coreFailure : Statement .coreFailure := fun _ h => nomatch h

theorem dramRowFailure : Statement .dramRowFailure := fun _ h => nomatch h

theorem channelFailure : Statement .channelFailure := fun _ h => nomatch h

theorem walkerFailure : Statement .walkerFailure := fun _ h => nomatch h

theorem copyEngineFailure : Statement .copyEngineFailure := fun _ h => nomatch h

theorem bankSpareExhausted : Statement .bankSpareExhausted := fun _ h => nomatch h

theorem hostLinkTrain : Statement .hostLinkTrain := fun _ h => nomatch h

theorem functionLevelReset : Statement .functionLevelReset := fun _ h => nomatch h

theorem pldmSensorRead : Statement .pldmSensorRead := fun _ h => nomatch h

theorem configStoreWrite : Statement .configStoreWrite := fun _ h => nomatch h

theorem configStoreRead : Statement .configStoreRead := fun _ h => nomatch h

theorem attestationRequest : Statement .attestationRequest := fun _ h => nomatch h

theorem deviceResetRequest : Statement .deviceResetRequest := fun _ h => nomatch h

theorem unsupportedCommand : Statement .unsupportedCommand := fun _ h => nomatch h

theorem write : Statement .write := fun _ h => nomatch h

theorem read : Statement .read := fun _ h => nomatch h

theorem data : Statement .data := fun _ h => nomatch h

theorem atomic : Statement .atomic := fun _ h => nomatch h

theorem old : Statement .old := fun _ h => nomatch h

theorem reduce : Statement .reduce := fun _ h => nomatch h

theorem arrive : Statement .arrive := fun _ h => nomatch h

theorem permit : Statement .permit := fun _ h => nomatch h

theorem ack : Statement .ack := fun _ h => nomatch h

theorem retry : Statement .retry := fun _ h => nomatch h

theorem fault : Statement .fault := fun _ h => nomatch h

theorem digest : Statement .digest := fun _ h => nomatch h

theorem order : Statement .order := fun _ h => nomatch h

theorem datagramDrop : Statement .datagramDrop := fun _ h => nomatch h

theorem retransmitTimer : Statement .retransmitTimer := fun _ h => nomatch h

theorem ackTimer : Statement .ackTimer := fun _ h => nomatch h

theorem peerTimeout : Statement .peerTimeout := fun _ h => nomatch h

theorem retryBackoffTimer : Statement .retryBackoffTimer := fun _ h => nomatch h

theorem lockstepPieceClose : Statement .lockstepPieceClose := fun _ h => nomatch h

theorem lockstepLinkLoss : Statement .lockstepLinkLoss := fun _ h => nomatch h

theorem bar0Unsupported : Statement .bar0Unsupported := fun _ h => nomatch h

theorem registerWrite : Statement .registerWrite := fun _ h => nomatch h

theorem xlinvPage : Statement .xlinvPage := fun _ h => nomatch h

theorem xlinvAll : Statement .xlinvAll := fun _ h => nomatch h

theorem xlinvDone : Statement .xlinvDone := fun _ h => nomatch h

theorem qtailDoorbell : Statement .qtailDoorbell := fun _ h => nomatch h

theorem qctlWrite : Statement .qctlWrite := fun _ h => nomatch h

theorem cqNop : Statement .cqNop := fun _ h => nomatch h

theorem cqLaunch : Statement .cqLaunch := fun _ h => nomatch h

theorem cqSignal : Statement .cqSignal := fun _ h => nomatch h

theorem signalApply : Statement .signalApply := fun _ h => nomatch h

theorem cqWait : Statement .cqWait := fun _ h => nomatch h

theorem waitRelease : Statement .waitRelease := fun _ h => nomatch h

theorem cqEntryRefused : Statement .cqEntryRefused := fun _ h => nomatch h

theorem eventCounterWrite : Statement .eventCounterWrite := fun _ h => nomatch h

theorem config : Statement .config := fun _ h => nomatch h

theorem readcfg : Statement .readcfg := fun _ h => nomatch h

theorem suspend : Statement .suspend := fun _ h => nomatch h

theorem resume : Statement .resume := fun _ h => nomatch h

theorem interruptLogDelivery : Statement .interruptLogDelivery := fun _ h => nomatch h

theorem reset : Statement .reset := fun _ h => nomatch h

theorem partitionResetDone : Statement .partitionResetDone := fun _ h => nomatch h

theorem setwin : Statement .setwin := fun _ h => nomatch h

theorem attest : Statement .attest := fun _ h => nomatch h

theorem tensor : Statement .tensor := fun _ h => nomatch h

theorem tidread : Statement .tidread := fun _ h => nomatch h

theorem syncnew : Statement .syncnew := fun _ h => nomatch h

theorem syncfree : Statement .syncfree := fun _ h => nomatch h

theorem mbUnknownCommand : Statement .mbUnknownCommand := fun _ h => nomatch h

theorem mailboxDone : Statement .mailboxDone := fun _ h => nomatch h

theorem ifptrWrite : Statement .ifptrWrite := fun _ h => nomatch h

theorem berrClear : Statement .berrClear := fun _ h => nomatch h

theorem preemptRequest : Statement .preemptRequest := fun _ h => nomatch h

theorem preemptResultTimeout : Statement .preemptResultTimeout := fun _ h => nomatch h

theorem preemptSaveDone : Statement .preemptSaveDone := fun _ h => nomatch h

theorem restore : Statement .restore := fun _ h => nomatch h

theorem sqdbStop : Statement .sqdbStop := fun _ h => nomatch h

theorem sqdbRead : Statement .sqdbRead := fun _ h => nomatch h

theorem sqdbWrite : Statement .sqdbWrite := fun _ h => nomatch h

theorem spanPlace : Statement .spanPlace := fun _ h => nomatch h

theorem placementWaitTimer : Statement .placementWaitTimer := fun _ h => nomatch h

theorem dependantStart : Statement .dependantStart := fun _ h => nomatch h

theorem groupRetire : Statement .groupRetire := fun _ h => nomatch h

theorem crewRetire : Statement .crewRetire := fun _ h => nomatch h

theorem taskComplete : Statement .taskComplete := fun _ h => nomatch h

theorem promotion : Statement .promotion := fun _ h => nomatch h

theorem yieldExpiry : Statement .yieldExpiry := fun _ h => nomatch h

theorem joinRelease : Statement .joinRelease := fun _ h => nomatch h

theorem convergencePark : Statement .convergencePark := fun _ h => nomatch h

theorem frontierRefillStart : Statement .frontierRefillStart := fun _ h => nomatch h

theorem frontierRefillDone : Statement .frontierRefillDone := fun _ h => nomatch h

theorem deadPartyEscalation : Statement .deadPartyEscalation := fun _ h => nomatch h

theorem phaseRelease : Statement .phaseRelease := fun _ h => nomatch h

theorem asyncTrapPark : Statement .asyncTrapPark := fun _ h => nomatch h

theorem trapRecordEnqueue : Statement .trapRecordEnqueue := fun _ h => nomatch h

theorem handlerEntry : Statement .handlerEntry := fun _ h => nomatch h

theorem trapEscalation : Statement .trapEscalation := fun _ h => nomatch h

theorem resultWriteback : Statement .resultWriteback := fun _ h => nomatch h

theorem writeDrain : Statement .writeDrain := fun _ h => nomatch h

theorem readPerform : Statement .readPerform := fun _ h => nomatch h

theorem atomicPerform : Statement .atomicPerform := fun _ h => nomatch h

theorem tknextPerform : Statement .tknextPerform := fun _ h => nomatch h

theorem tkwaitPoll : Statement .tkwaitPoll := fun _ h => nomatch h

theorem pageWalkDone : Statement .pageWalkDone := fun _ h => nomatch h

theorem eddyWindowExpiry : Statement .eddyWindowExpiry := fun _ h => nomatch h

theorem barriveCount : Statement .barriveCount := fun _ h => nomatch h

theorem qpushPlace : Statement .qpushPlace := fun _ h => nomatch h

theorem triggerRecord : Statement .triggerRecord := fun _ h => nomatch h

theorem wlpushEnter : Statement .wlpushEnter := fun _ h => nomatch h

theorem slackwaterReport : Statement .slackwaterReport := fun _ h => nomatch h

theorem beagleAudit : Statement .beagleAudit := fun _ h => nomatch h

theorem fenceComplete : Statement .fenceComplete := fun _ h => nomatch h

theorem mwaitComplete : Statement .mwaitComplete := fun _ h => nomatch h

theorem copyAccept : Statement .copyAccept := fun _ h => nomatch h

theorem copyStart : Statement .copyStart := fun _ h => nomatch h

theorem copyRun : Statement .copyRun := fun _ h => nomatch h

theorem pageMigrationDone : Statement .pageMigrationDone := fun _ h => nomatch h

theorem copyResume : Statement .copyResume := fun _ h => nomatch h

theorem copyFail : Statement .copyFail := fun _ h => nomatch h

theorem copyCount : Statement .copyCount := fun _ h => nomatch h

theorem seqLdstat : Statement .seqLdstat := fun _ h => nomatch h

theorem seqSwap : Statement .seqSwap := fun _ h => nomatch h

theorem seqMmaStep : Statement .seqMmaStep := fun _ h => nomatch h

theorem seqDrain : Statement .seqDrain := fun _ h => nomatch h

theorem seqAclr : Statement .seqAclr := fun _ h => nomatch h

theorem seqEntryEnd : Statement .seqEntryEnd := fun _ h => nomatch h

theorem bankAccept : Statement .bankAccept := fun _ h => nomatch h

theorem bankStep : Statement .bankStep := fun _ h => nomatch h

theorem bankResume : Statement .bankResume := fun _ h => nomatch h

theorem bankCount : Statement .bankCount := fun _ h => nomatch h

theorem sregDone : Statement .sregDone := fun _ h => nomatch h

theorem sunregDone : Statement .sunregDone := fun _ h => nomatch h

theorem srepackAccept : Statement .srepackAccept := fun _ h => nomatch h

theorem srepackDone : Statement .srepackDone := fun _ h => nomatch h

theorem succinctQueryPerform : Statement .succinctQueryPerform := fun _ h => nomatch h

theorem saddrPerform : Statement .saddrPerform := fun _ h => nomatch h

theorem binsPerform : Statement .binsPerform := fun _ h => nomatch h

theorem bdelPerform : Statement .bdelPerform := fun _ h => nomatch h

theorem deltaFold : Statement .deltaFold := fun _ h => nomatch h

theorem dkstatSample : Statement .dkstatSample := fun _ h => nomatch h

theorem wtreeBindDone : Statement .wtreeBindDone := fun _ h => nomatch h

theorem wtreeUnbindDone : Statement .wtreeUnbindDone := fun _ h => nomatch h

theorem wqueryAccept : Statement .wqueryAccept := fun _ h => nomatch h

theorem walkerVisit : Statement .walkerVisit := fun _ h => nomatch h

theorem wquerySummary : Statement .wquerySummary := fun _ h => nomatch h

theorem wappendStep : Statement .wappendStep := fun _ h => nomatch h

theorem dregDone : Statement .dregDone := fun _ h => nomatch h

theorem dunregDone : Statement .dunregDone := fun _ h => nomatch h

theorem derivedRecompute : Statement .derivedRecompute := fun _ h => nomatch h

theorem sqdbResume : Statement .sqdbResume := fun _ h => nomatch h

theorem lockstepMateReset : Statement .lockstepMateReset := fun _ h => nomatch h

theorem hostMemoryWrite : Statement .hostMemoryWrite := fun _ h => nomatch h

theorem priorityFlowControl : Statement .priorityFlowControl := fun _ h => nomatch h

end Encoding

end Sys2Proof.Laws
end

