-- ==== Sys2Proof/Tests/Slice0.lean ====
section
/-! SUPPORT. Tests of the model: words written out from the encodings of spec/ and the spec's worked words, ill-formed terms that are
refused, single steps with results worked out from the rules, and for every statement the states that meet its hypotheses. -/

namespace Sys2Proof.Tests

open Sys2Proof Sys2Proof.Machine

/-! ### Words and the instructions they stand for (R69 to R90) -/

/-- Opcode 0x00: words from the encodings of spec/05 and the instructions they stand for. -/
theorem test_decode_op00 : [0x00000000, 0x00004022, 0x00008000, 0x0000E500, 0x00012522, 0x00016522, 0x00018022, 0x0001C000, 0x00020094, 0x00024094, 0x0002A558, 0x0002E558, 0x0003004E].map (decodeTableWord 32) =
    [some .nop, some .bkpt, some .yield, some (.clock 37#6), some (.srd 37#6 34#8), some (.swr 37#6 34#8), some .trap, some .eret, some (.gresume 37#6), some (.gkill 37#6), some (.grd 37#6 22#6), some (.gwr 37#6 22#6), some .pkey] := by decide

/-- Opcode 0x01: words from the encodings of spec/05 and the instructions they stand for. -/
theorem test_decode_op01 : [0x00080613].map (decodeTableWord 32) =
    [some .imx] := by decide

/-- Opcode 0x02: words from the encodings of spec/05 and the instructions they stand for. -/
theorem test_decode_op02 : [0x00149A5C].map (decodeTableWord 32) =
    [some (.bra 9#4 1#3 2652#12)] := by decide

/-- Opcode 0x03: words from the encodings of spec/05 and the instructions they stand for. -/
theorem test_decode_op03 : [0x001C9A5C].map (decodeTableWord 32) =
    [some (.call 9#4 1#3 2652#12)] := by decide

/-- Opcode 0x04: words from the encodings of spec/05 and the instructions they stand for. -/
theorem test_decode_op04 : [0x00249940].map (decodeTableWord 32) =
    [some (.brx 9#4 1#3 37#6)] := by decide

/-- Opcode 0x05: words from the encodings of spec/05 and the instructions they stand for. -/
theorem test_decode_op05 : [0x00281000].map (decodeTableWord 32) =
    [some (.ret 1#3)] := by decide

/-- Opcode 0x06: words from the encodings of spec/05 and the instructions they stand for. -/
theorem test_decode_op06 : [0x00300000].map (decodeTableWord 32) =
    [some .join] := by decide

/-- Opcode 0x07: words from the encodings of spec/05 and the instructions they stand for. -/
theorem test_decode_op07 : [0x00381000].map (decodeTableWord 32) =
    [some (.exit 1#3)] := by decide

/-- Opcode 0x08: words from the encodings of spec/05 and the instructions they stand for. -/
theorem test_decode_op08 : [0x0044AB17].map (decodeTableWord 32) =
    [some (.iadd 37#6 22#6 11#6 1#1)] := by decide

/-- Opcode 0x09: words from the encodings of spec/05 and the instructions they stand for. -/
theorem test_decode_op09 : [0x004CAB17].map (decodeTableWord 32) =
    [some (.isub 37#6 22#6 11#6 1#1)] := by decide

/-- Opcode 0x0A: words from the encodings of spec/05 and the instructions they stand for. -/
theorem test_decode_op0A : [0x0054AB17].map (decodeTableWord 32) =
    [some (.imul 37#6 22#6 11#6 1#1)] := by decide

/-- Opcode 0x0B: words from the encodings of spec/05 and the instructions they stand for. -/
theorem test_decode_op0B : [0x005CAB17].map (decodeTableWord 32) =
    [some (.imad 37#6 22#6 11#6 1#1)] := by decide

/-- Opcode 0x0C: words from the encodings of spec/05 and the instructions they stand for. -/
theorem test_decode_op0C : [0x0064AB17].map (decodeTableWord 32) =
    [some (.and 37#6 22#6 11#6 1#1)] := by decide

/-- Opcode 0x0D: words from the encodings of spec/05 and the instructions they stand for. -/
theorem test_decode_op0D : [0x006CAB17].map (decodeTableWord 32) =
    [some (.or 37#6 22#6 11#6 1#1)] := by decide

/-- Opcode 0x0E: words from the encodings of spec/05 and the instructions they stand for. -/
theorem test_decode_op0E : [0x0074AB17].map (decodeTableWord 32) =
    [some (.xor 37#6 22#6 11#6 1#1)] := by decide

/-- Opcode 0x0F: words from the encodings of spec/05 and the instructions they stand for. -/
theorem test_decode_op0F : [0x007CAB16].map (decodeTableWord 32) =
    [some (.csel 37#6 22#6 11#6)] := by decide

/-- Opcode 0x10: words from the encodings of spec/05 and the instructions they stand for. -/
theorem test_decode_op10 : [0x0084AB01, 0x0084AB03, 0x0084AB05, 0x0084AB07, 0x0084AB09, 0x0084AB0B, 0x0084AB0D, 0x0084AB0F, 0x0084AB11, 0x0084AB13, 0x0084AB15, 0x0084AB17, 0x0084AB19, 0x0084AB1B, 0x0084AB1D, 0x0084AB41, 0x0084AB43, 0x0084AB45, 0x0084AB47, 0x0084AB49, 0x0084AB4B, 0x0084AB4D, 0x0084AB4F, 0x0084AB51, 0x0084AB53, 0x0084AB55, 0x0084AB57, 0x0084AB59, 0x0084AB5B, 0x0084AB5D, 0x0084AB61, 0x0084AB63, 0x0084AB65, 0x0084AB69, 0x0084AB6B, 0x0084AB6D].map (decodeTableWord 32) =
    [some (.mov 37#6 22#6 1#1), some (.not 37#6 22#6 1#1), some (.iabs 37#6 22#6 1#1), some (.popc 37#6 22#6 1#1), some (.clz 37#6 22#6 1#1), some (.brev 37#6 22#6 1#1), some (.shl 37#6 22#6 1#1), some (.shr 37#6 22#6 1#1), some (.sar 37#6 22#6 1#1), some (.iminI 37#6 22#6 1#1), some (.iminN 37#6 22#6 1#1), some (.imaxI 37#6 22#6 1#1), some (.imaxN 37#6 22#6 1#1), some (.imulhI 37#6 22#6 1#1), some (.imulhN 37#6 22#6 1#1), some (.movOw 37#6 22#6 1#1), some (.notOw 37#6 22#6 1#1), some (.iabsOw 37#6 22#6 1#1), some (.popcOw 37#6 22#6 1#1), some (.clzOw 37#6 22#6 1#1), some (.brevOw 37#6 22#6 1#1), some (.shlOw 37#6 22#6 1#1), some (.shrOw 37#6 22#6 1#1), some (.sarOw 37#6 22#6 1#1), some (.iminIOw 37#6 22#6 1#1), some (.iminNOw 37#6 22#6 1#1), some (.imaxIOw 37#6 22#6 1#1), some (.imaxNOw 37#6 22#6 1#1), some (.imulhIOw 37#6 22#6 1#1), some (.imulhNOw 37#6 22#6 1#1), some (.iaddOw 37#6 22#6 1#1), some (.isubOw 37#6 22#6 1#1), some (.imulOw 37#6 22#6 1#1), some (.andOw 37#6 22#6 1#1), some (.orOw 37#6 22#6 1#1), some (.xorOw 37#6 22#6 1#1)] := by decide

/-- Opcode 0x11: words from the encodings of spec/05 and the instructions they stand for. -/
theorem test_decode_op11 : [0x008CA02D, 0x008CA0AD, 0x008CA12D, 0x008CA1AD, 0x008CA22D, 0x008CA2AD, 0x008CA32D, 0x008CA3AD, 0x008CA42D, 0x008CA4AD, 0x008CA52D, 0x008CA5AD, 0x008CA62D, 0x008CB02D, 0x008CB0AD, 0x008CB12D, 0x008CB1AD, 0x008CB22D, 0x008CB2AD, 0x008CB32D, 0x008CB3AD, 0x008CB42D, 0x008CB4AD, 0x008CB52D, 0x008CB5AD, 0x008CB62D].map (decodeTableWord 32) =
    [some (.movi 37#6 22#6 1#1), some (.iaddImm 37#6 22#6 1#1), some (.imulImm 37#6 22#6 1#1), some (.andImm 37#6 22#6 1#1), some (.orImm 37#6 22#6 1#1), some (.xorImm 37#6 22#6 1#1), some (.shlImm 37#6 22#6 1#1), some (.shrImm 37#6 22#6 1#1), some (.sarImm 37#6 22#6 1#1), some (.iminIImm 37#6 22#6 1#1), some (.imaxIImm 37#6 22#6 1#1), some (.iminNImm 37#6 22#6 1#1), some (.imaxNImm 37#6 22#6 1#1), some (.moviOw 37#6 22#6 1#1), some (.iaddImmOw 37#6 22#6 1#1), some (.imulImmOw 37#6 22#6 1#1), some (.andImmOw 37#6 22#6 1#1), some (.orImmOw 37#6 22#6 1#1), some (.xorImmOw 37#6 22#6 1#1), some (.shlImmOw 37#6 22#6 1#1), some (.shrImmOw 37#6 22#6 1#1), some (.sarImmOw 37#6 22#6 1#1), some (.iminIImmOw 37#6 22#6 1#1), some (.imaxIImmOw 37#6 22#6 1#1), some (.iminNImmOw 37#6 22#6 1#1), some (.imaxNImmOw 37#6 22#6 1#1)] := by decide

/-- Opcode 0x12: words from the encodings of spec/05 and the instructions they stand for. -/
theorem test_decode_op12 : [0x0094AB17].map (decodeTableWord 32) =
    [some (.bfe 37#6 22#6 11#6 1#1)] := by decide

/-- Opcode 0x13: words from the encodings of spec/05 and the instructions they stand for. -/
theorem test_decode_op13 : [0x009CAB17].map (decodeTableWord 32) =
    [some (.bfi 37#6 22#6 11#6 1#1)] := by decide

/-- Opcode 0x14: words from the encodings of spec/05 and the instructions they stand for. -/
theorem test_decode_op14 : [0x00A4AB17].map (decodeTableWord 32) =
    [some (.faddF32 37#6 22#6 11#6 1#1)] := by decide

/-- Opcode 0x15: words from the encodings of spec/05 and the instructions they stand for. -/
theorem test_decode_op15 : [0x00ACAB17].map (decodeTableWord 32) =
    [some (.fmulF32 37#6 22#6 11#6 1#1)] := by decide

/-- Opcode 0x16: words from the encodings of spec/05 and the instructions they stand for. -/
theorem test_decode_op16 : [0x00B4AB17].map (decodeTableWord 32) =
    [some (.fmaF32 37#6 22#6 11#6 1#1)] := by decide

/-- Opcode 0x17: words from the encodings of spec/05 and the instructions they stand for. -/
theorem test_decode_op17 : [0x00BCAB17].map (decodeTableWord 32) =
    [some (.faddF32Imm 37#6 22#6 11#6 1#1)] := by decide

/-- Opcode 0x18: words from the encodings of spec/05 and the instructions they stand for. -/
theorem test_decode_op18 : [0x00C4AB17].map (decodeTableWord 32) =
    [some (.fmulF32Imm 37#6 22#6 11#6 1#1)] := by decide

/-- Opcode 0x19: words from the encodings of spec/05 and the instructions they stand for. -/
theorem test_decode_op19 : [0x00CCAB17].map (decodeTableWord 32) =
    [some (.fmaF16 37#6 22#6 11#6 1#1)] := by decide

/-- Opcode 0x1A: words from the encodings of spec/05 and the instructions they stand for. -/
theorem test_decode_op1A : [0x00D4AB17].map (decodeTableWord 32) =
    [some (.fmaBf16 37#6 22#6 11#6 1#1)] := by decide

/-- Opcode 0x1B: words from the encodings of spec/05 and the instructions they stand for. -/
theorem test_decode_op1B : [0x00DCAB17].map (decodeTableWord 32) =
    [some (.faddF16 37#6 22#6 11#6 1#1)] := by decide

/-- Opcode 0x1C: words from the encodings of spec/05 and the instructions they stand for. -/
theorem test_decode_op1C : [0x00E152AD].map (decodeTableWord 32) =
    [some (.fcmp 1#3 2#3 37#6 22#6 1#1)] := by decide

/-- Opcode 0x1D: words from the encodings of spec/05 and the instructions they stand for. -/
theorem test_decode_op1D : [0x00ECAB01, 0x00ECAB03, 0x00ECAB05, 0x00ECAB07, 0x00ECAB09, 0x00ECAB0B, 0x00ECAB0D, 0x00ECAB11, 0x00ECAB13, 0x00ECAB15, 0x00ECAB17, 0x00ECAB19, 0x00ECAB1B, 0x00ECAB1D, 0x00ECAB21, 0x00ECAB23, 0x00ECAB25, 0x00ECAB27, 0x00ECAB29, 0x00ECAB2B].map (decodeTableWord 32) =
    [some (.fminF32 37#6 22#6 1#1), some (.fmaxF32 37#6 22#6 1#1), some (.frcp 37#6 22#6 1#1), some (.frsq 37#6 22#6 1#1), some (.fsqrt 37#6 22#6 1#1), some (.fex2 37#6 22#6 1#1), some (.flg2 37#6 22#6 1#1), some (.faddBf16 37#6 22#6 1#1), some (.fmulBf16 37#6 22#6 1#1), some (.fmulF16 37#6 22#6 1#1), some (.fminF16 37#6 22#6 1#1), some (.fmaxF16 37#6 22#6 1#1), some (.fminBf16 37#6 22#6 1#1), some (.fmaxBf16 37#6 22#6 1#1), some (.faddF32Rz 37#6 22#6 1#1), some (.faddF32Ru 37#6 22#6 1#1), some (.faddF32Rd 37#6 22#6 1#1), some (.fmulF32Rz 37#6 22#6 1#1), some (.fmulF32Ru 37#6 22#6 1#1), some (.fmulF32Rd 37#6 22#6 1#1)] := by decide

/-- Opcode 0x1E: words from the encodings of spec/05 and the instructions they stand for. -/
theorem test_decode_op1E : [0x00F4AB53].map (decodeTableWord 32) =
    [some (.cvtFromF32 37#6 22#6 2#2 9#4 1#1)] := by decide

/-- Opcode 0x1F: words from the encodings of spec/05 and the instructions they stand for. -/
theorem test_decode_op1F : [0x00FCAB53].map (decodeTableWord 32) =
    [some (.cvtToF32 37#6 22#6 2#2 9#4 1#1)] := by decide

/-- Opcode 0x20: words from the encodings of spec/05 and the instructions they stand for. -/
theorem test_decode_op20 : [0x010152AD].map (decodeTableWord 32) =
    [some (.icmp 1#3 2#3 37#6 22#6 1#1)] := by decide

/-- Opcode 0x21: words from the encodings of spec/05 and the instructions they stand for. -/
theorem test_decode_op21 : [0x010952AD].map (decodeTableWord 32) =
    [some (.icmpN 1#3 2#3 37#6 22#6 1#1)] := by decide

/-- Opcode 0x22: words from the encodings of spec/05 and the instructions they stand for. -/
theorem test_decode_op22 : [0x01101561, 0x01109561, 0x01111561, 0x01119500, 0x01121500, 0x01129500, 0x01131500, 0x01139500, 0x01144A60, 0x0114CAB1].map (decodeTableWord 32) =
    [some (.pand 1#3 2#3 1#1 3#3 0#1 1#1), some (.por 1#3 2#3 1#1 3#3 0#1 1#1), some (.pxor 1#3 2#3 1#1 3#3 0#1 1#1), some (.pnot 1#3 2#3 1#1 0#1), some (.pmov 1#3 2#3 1#1 0#1), some (.voteAll 1#3 2#3 1#1 0#1), some (.voteAny 1#3 2#3 1#1 0#1), some (.voteEq 1#3 2#3 1#1 0#1), some (.ballot 37#6 1#3 1#1 0#1), some (.matchLanes 37#6 22#6 1#1)] := by decide

/-- Opcode 0x23: words from the encodings of spec/05 and the instructions they stand for. -/
theorem test_decode_op23 : [0x011CAB53].map (decodeTableWord 32) =
    [some (.shfl 37#6 22#6 2#2 19#5)] := by decide

/-- Opcode 0x24: words from the encodings of spec/05 and the instructions they stand for. -/
theorem test_decode_op24 : [0x0124AB49, 0x0124AB4B, 0x0124AB4D, 0x0124AB4F].map (decodeTableWord 32) =
    [some (.ldG8 37#6 22#6 9#4 1#1), some (.ldG16 37#6 22#6 9#4 1#1), some (.ldG32 37#6 22#6 9#4 1#1), some (.ldG64 37#6 22#6 9#4 1#1)] := by decide

/-- Opcode 0x25: words from the encodings of spec/05 and the instructions they stand for. -/
theorem test_decode_op25 : [0x012CAB49, 0x012CAB4B, 0x012CAB4D, 0x012CAB4F].map (decodeTableWord 32) =
    [some (.ldG4 37#6 22#6 9#4 1#1), some (.ldG128 37#6 22#6 9#4 1#1), some (.ldS4 37#6 22#6 9#4 1#1), some (.ldS128 37#6 22#6 9#4 1#1)] := by decide

/-- Opcode 0x26: words from the encodings of spec/05 and the instructions they stand for. -/
theorem test_decode_op26 : [0x0134AB49, 0x0134AB4B, 0x0134AB4D, 0x0134AB4F].map (decodeTableWord 32) =
    [some (.ldS8 37#6 22#6 9#4 1#1), some (.ldS16 37#6 22#6 9#4 1#1), some (.ldS32 37#6 22#6 9#4 1#1), some (.ldS64 37#6 22#6 9#4 1#1)] := by decide

/-- Opcode 0x27: words from the encodings of spec/05 and the instructions they stand for. -/
theorem test_decode_op27 : [0x013CAB49, 0x013CAB4B, 0x013CAB4D, 0x013CAB4F].map (decodeTableWord 32) =
    [some (.ldpf 37#6 22#6 9#4 1#1), some (.ldG4Signed 37#6 22#6 9#4 1#1), some (.ldS4Signed 37#6 22#6 9#4 1#1), some (.ldG32Signed 37#6 22#6 9#4 1#1)] := by decide

/-- Opcode 0x28: words from the encodings of spec/05 and the instructions they stand for. -/
theorem test_decode_op28 : [0x0144AB49, 0x0144AB4B, 0x0144AB4D, 0x0144AB4F].map (decodeTableWord 32) =
    [some (.stG8 37#6 22#6 9#4 1#1), some (.stG16 37#6 22#6 9#4 1#1), some (.stG32 37#6 22#6 9#4 1#1), some (.stG64 37#6 22#6 9#4 1#1)] := by decide

/-- Opcode 0x29: words from the encodings of spec/05 and the instructions they stand for. -/
theorem test_decode_op29 : [0x014CAB49, 0x014CAB4B, 0x014CAB4D, 0x014CAB4F].map (decodeTableWord 32) =
    [some (.stG4 37#6 22#6 9#4 1#1), some (.stG128 37#6 22#6 9#4 1#1), some (.stS4 37#6 22#6 9#4 1#1), some (.stS128 37#6 22#6 9#4 1#1)] := by decide

/-- Opcode 0x2A: words from the encodings of spec/05 and the instructions they stand for. -/
theorem test_decode_op2A : [0x0154AB49, 0x0154AB4B, 0x0154AB4D, 0x0154AB4F].map (decodeTableWord 32) =
    [some (.stS8 37#6 22#6 9#4 1#1), some (.stS16 37#6 22#6 9#4 1#1), some (.stS32 37#6 22#6 9#4 1#1), some (.stS64 37#6 22#6 9#4 1#1)] := by decide

/-- Opcode 0x2B: words from the encodings of spec/05 and the instructions they stand for. -/
theorem test_decode_op2B : [0x015CAB49, 0x015CAB4B, 0x015CA04D, 0x015CAB4F].map (decodeTableWord 32) =
    [some (.tlook 37#6 22#6 9#4 1#1), some (.tins 37#6 22#6 9#4 1#1), some (.tevict 37#6 9#4 1#1), some (.tinv 37#6 22#6 9#4 1#1)] := by decide

/-- Opcode 0x2C: words from the encodings of spec/05 and the instructions they stand for. -/
theorem test_decode_op2C : [0x0164AB49, 0x0164AB4B, 0x0164AB4D, 0x0164AB4F].map (decodeTableWord 32) =
    [some (.atomAdd 37#6 22#6 9#4 1#1), some (.atomMin 37#6 22#6 9#4 1#1), some (.atomMax 37#6 22#6 9#4 1#1), some (.atomExch 37#6 22#6 9#4 1#1)] := by decide

/-- Opcode 0x2D: words from the encodings of spec/05 and the instructions they stand for. -/
theorem test_decode_op2D : [0x016CAB49, 0x016CAB4B, 0x016CAB4D, 0x016CAB4F].map (decodeTableWord 32) =
    [some (.atomAnd 37#6 22#6 9#4 1#1), some (.atomOr 37#6 22#6 9#4 1#1), some (.atomXor 37#6 22#6 9#4 1#1), some (.cas 37#6 22#6 9#4 1#1)] := by decide

/-- Opcode 0x2E: words from the encodings of spec/05 and the instructions they stand for. -/
theorem test_decode_op2E : [0x0174AB49, 0x0174AB4B, 0x0174AB4D, 0x0174AB4F].map (decodeTableWord 32) =
    [some (.redAdd 37#6 22#6 9#4 1#1), some (.redMin 37#6 22#6 9#4 1#1), some (.redMax 37#6 22#6 9#4 1#1), some (.redAddF32 37#6 22#6 9#4 1#1)] := by decide

/-- Opcode 0x2F: words from the encodings of spec/05 and the instructions they stand for. -/
theorem test_decode_op2F : [0x017CAB49, 0x017CAB4D, 0x017CAB4F, 0x017CAB7B].map (decodeTableWord 32) =
    [some (.tkget 37#6 22#6 9#4 1#1), some (.tknext 37#6 22#6 9#4 1#1), some (.ldS32Signed 37#6 22#6 9#4 1#1), some (.tkwait 37#6 22#6 1#1)] := by decide

/-- Opcode 0x30: words from the encodings of spec/05 and the instructions they stand for. -/
theorem test_decode_op30 : [0x0184AB00, 0x0184AB01, 0x0184A002, 0x0184A00B, 0x0184A00C].map (decodeTableWord 32) =
    [some (.binit 37#6 22#6), some (.bexpect 37#6 22#6), some (.barrive 37#6), some (.bwait 37#6 1#3), some (.btest 37#6 1#3)] := by decide

/-- Opcode 0x31: words from the encodings of spec/05 and the instructions they stand for. -/
theorem test_decode_op31 : [0x01892B00, 0x01892B01, 0x01892B0A, 0x01892B0B, 0x01886B04, 0x01886B05, 0x0188A006, 0x0188A007].map (decodeTableWord 32) =
    [some (.qpush 9#6 22#6), some (.qpop 9#6 22#6), some (.qtryPush 9#6 22#6 1#3), some (.qtryPop 9#6 22#6 1#3), some (.lqsend 3#6 22#6), some (.lqrecv 3#6 22#6), some (.xfset 5#6), some (.xfwait 5#6)] := by decide

/-- Opcode 0x32: words from the encodings of spec/05 and the instructions they stand for. -/
theorem test_decode_op32 : [0x0194AB00, 0x01901281, 0x0194A00A, 0x0194A003, 0x01900024, 0x01900005].map (decodeTableWord 32) =
    [some (.bind 37#6 22#6), some (.unbind 37#6), some (.acq 37#6 1#3), some (.rel 37#6), some .fence, some .trig] := by decide

/-- Opcode 0x33: words from the encodings of spec/05 and the instructions they stand for. -/
theorem test_decode_op33 : [0x019CA000, 0x01980001].map (decodeTableWord 32) =
    [some (.launch 37#6), some .phase] := by decide

/-- Opcode 0x34: words from the encodings of spec/05 and the instructions they stand for. -/
theorem test_decode_op34 : [0x01A4AB00, 0x01A4AB09, 0x01A4AB02, 0x01A4AB03].map (decodeTableWord 32) =
    [some (.tidset 37#6 22#6), some (.tidget 37#6 22#6 1#3), some (.tlset 37#6 22#6), some (.tlstate 37#6 22#6)] := by decide

/-- Opcode 0x35: words from the encodings of spec/05 and the instructions they stand for. -/
theorem test_decode_op35 : [0x01ACAB00, 0x01ACAB01].map (decodeTableWord 32) =
    [some (.copy 37#6 22#6), some (.xform 37#6 22#6)] := by decide

/-- Opcode 0x36: words from the encodings of spec/05 and the instructions they stand for. -/
theorem test_decode_op36 : [0x01B4AB49, 0x01B4AB4B, 0x01B4AB4D, 0x01B4AB4F].map (decodeTableWord 32) =
    [some (.gath32 37#6 22#6 9#4 1#1), some (.gath64 37#6 22#6 9#4 1#1), some (.scat32 37#6 22#6 9#4 1#1), some (.scat64 37#6 22#6 9#4 1#1)] := by decide

/-- Opcode 0x37: words from the encodings of spec/05 and the instructions they stand for. -/
theorem test_decode_op37 : [0x01B8AB00, 0x01B8AB49].map (decodeTableWord 32) =
    [some (.wlpush 5#6 22#6), some (.wlpop 5#6 22#6 9#4)] := by decide

/-- Opcode 0x38: words from the encodings of spec/05 and the instructions they stand for. -/
theorem test_decode_op38 : [0x01C4CDA5].map (decodeTableWord 32) =
    [some (.mma 9#4 19#5 6#4 37#6)] := by decide

/-- Opcode 0x39: words from the encodings of spec/05 and the instructions they stand for. -/
theorem test_decode_op39 : [0x01CCA048, 0x01C80001, 0x01C92002, 0x01CCA003, 0x01CCA004].map (decodeTableWord 32) =
    [some (.ldstat 37#6 9#4), some .swap, some (.aclr 9#6), some (.commit 37#6), some (.mwait 37#6)] := by decide

/-- Opcode 0x3A: words from the encodings of spec/05 and the instructions they stand for. -/
theorem test_decode_op3A : [0x01D12B48, 0x01D12B49, 0x01D12B4A, 0x01D12B4B, 0x01D12B4C].map (decodeTableWord 32) =
    [some (.drainPlain 9#6 22#6 9#4), some (.drainConvert 9#6 22#6 9#4), some (.drainQuantise 9#6 22#6 9#4), some (.drainPack 9#6 22#6 9#4), some (.drainElide 9#6 22#6 9#4)] := by decide

/-- Opcode 0x3B: words from the encodings of spec/05 and the instructions they stand for. -/
theorem test_decode_op3B : [0x01DCAB49, 0x01DCAB4B, 0x01DCAB4D, 0x01DCAB4F].map (decodeTableWord 32) =
    [some (.ldG8Signed 37#6 22#6 9#4 1#1), some (.ldG16Signed 37#6 22#6 9#4 1#1), some (.ldS8Signed 37#6 22#6 9#4 1#1), some (.ldS16Signed 37#6 22#6 9#4 1#1)] := by decide

/-- Opcode 0x3C: words from the encodings of spec/05 and the instructions they stand for. -/
theorem test_decode_op3C : [0x01E4AB48, 0x01E4AB49, 0x01E4AB4A, 0x01E4AB4B, 0x01E4AB4C, 0x01E4AB4D, 0x01E4AB4E, 0x01E4AB4F].map (decodeTableWord 32) =
    [some (.rank0 37#6 22#6 9#4), some (.rank1 37#6 22#6 9#4), some (.selb0 37#6 22#6 9#4), some (.selb1 37#6 22#6 9#4), some (.exc 37#6 22#6 9#4), some (.fclose 37#6 22#6 9#4), some (.fopen 37#6 22#6 9#4), some (.encl 37#6 22#6 9#4)] := by decide

/-- Opcode 0x3D: words from the encodings of spec/05 and the instructions they stand for. -/
theorem test_decode_op3D : [0x01ECAB00, 0x01ECA001, 0x01ECAB02, 0x01ECAB4B, 0x01ECAB4C, 0x01ECAB4D].map (decodeTableWord 32) =
    [some (.sreg 37#6 22#6), some (.sunreg 37#6), some (.srepack 37#6 22#6), some (.bins 37#6 22#6 9#4), some (.bdel 37#6 22#6 9#4), some (.saddr 37#6 22#6 9#4)] := by decide

/-- Opcode 0x3E: words from the encodings of spec/05 and the instructions they stand for. -/
theorem test_decode_op3E : [0x01F4A000, 0x01F4AB49, 0x01F01282, 0x01F4AB03, 0x01F4AB04, 0x01F4AB05, 0x01F4AB4E].map (decodeTableWord 32) =
    [some (.bkcmd 37#6), some (.bkstat 37#6 22#6 9#4), some (.bkcancel 37#6), some (.wtree 37#6 22#6), some (.wquery 37#6 22#6), some (.wappend 37#6 22#6), some (.wstat 37#6 22#6 9#4)] := by decide

/-- Opcode 0x3F: words from the encodings of spec/05 and the instructions they stand for. -/
theorem test_decode_op3F : [0x01FCAB00, 0x01FCA001, 0x01FCAB4A].map (decodeTableWord 32) =
    [some (.dreg 37#6 22#6), some (.dunreg 37#6), some (.dquery 37#6 22#6 9#4)] := by decide

/-! ### The words that spec/ works out itself -/

/-- spec/05: a chain of `LD.G`, `FMA.F32` and an immediate `IADD`, with their headers. -/
theorem test_words_05 : [0x01208502, 0x92B0C20A, 0x12894084].map (fun w => decodeWord (BitVec.ofNat 32 w)) =
    [some (⟨false, false, 0#2, 0#3, 0#19⟩, .ldG16 4#6 10#6 0#4 0#1), some (⟨true, false, 1#2, 1#3, 0#19⟩, .fmaF32 6#6 4#6 5#6 0#1),
      some (⟨false, false, 1#2, 1#3, 0#19⟩, .iaddImm 10#6 2#6 0#1)] := by decide

/-- spec/13, "Words of this chapter in hex"; the numbers of `PKEY` and `IMX` stand in the header. -/
theorem test_words_13 : [0x01014106, 0x0118A2F0, 0x01132700, 0x001A801C, 0x00F06124, 0x00010822, 0x00020010, 0x00890040].map
    (decodeTableWord 32) =
    [some (.icmp 1#3 2#3 2#6 3#6 0#1), some (.shfl 5#6 5#6 3#2 16#5), some (.voteAny 2#3 3#3 1#1 0#1), some (.call 5#4 0#3 28#12),
      some (.cvtFromF32 3#6 2#6 1#2 2#4 0#1), some (.srd 8#6 34#8), some (.gresume 4#6), some (.movi 8#6 32#6 0#1)] := by decide
theorem test_words_13_numbers : [0x00030016, 0x8008061A].map (fun w => decodeWord (BitVec.ofNat 32 w)) =
    [some (⟨false, false, 0#2, 0#3, 0x16#19⟩, .pkey), some (⟨true, false, 0#2, 0#3, 0x61A#19⟩, .imx)] := by decide

/-- spec/15, "Words worked from the formats". -/
theorem test_words_15 : [0x0148C17C, 0x01608510, 0x0168C40E, 0x0138C518, 0x0180A00B, 0x0190001C, 0x01B86509].map (decodeTableWord 32) =
    [some (.stS4 6#6 2#6 15#4 0#1), some (.atomAdd 4#6 10#6 2#4 0#1), some (.cas 6#6 8#6 1#4 0#1), some (.ldpf 6#6 10#6 3#4 0#1),
      some (.bwait 5#6 1#3), some .fence, some (.wlpop 3#6 10#6 1#4)] := by decide

/-- spec/17: words of the engines. -/
theorem test_words_17 : [0x01C048CC, 0x01CA0000, 0x01C90003, 0x01C90004, 0x01D00708, 0x01A88100].map (decodeTableWord 32) =
    [some (.mma 0#4 18#5 3#4 12#6), some (.ldstat 16#6 0#4), some (.commit 8#6), some (.mwait 8#6), some (.drainPlain 0#6 14#6 1#4),
      some (.copy 4#6 2#6)] := by decide

/-- spec/21 and spec/23: words of the bank units and of the succinct units. -/
theorem test_words_21_23 : [0x01F08000, 0x01F0C281, 0x01F0C2F9, 0x01F00282, 0x01F10509, 0x01E0C281, 0x01E1050D, 0x01E88280, 0x01E88182,
    0x01E94613, 0x01E8C2FD].map (decodeTableWord 32) =
    [some (.bkcmd 4#6), some (.bkstat 6#6 5#6 0#4), some (.bkstat 6#6 5#6 15#4), some (.bkcancel 5#6), some (.bkstat 8#6 10#6 1#4),
      some (.rank1 6#6 5#6 0#4), some (.fclose 8#6 10#6 1#4), some (.sreg 4#6 5#6), some (.srepack 4#6 3#6), some (.bins 10#6 12#6 2#4),
      some (.saddr 6#6 5#6 15#4)] := by decide

/-- spec/27: words of the derived tensors. -/
theorem test_words_27 : [0x01F88280, 0x01F8C001, 0x01F8C2FA, 0x01F90502].map (decodeTableWord 32) =
    [some (.dreg 4#6 5#6), some (.dunreg 6#6), some (.dquery 6#6 5#6 15#4), some (.dquery 8#6 10#6 0#4)] := by decide

/-! ### What is refused (R71, R73, R81 to R91) -/

/-- Unassigned opcodes, unassigned functions, reserved bits that are set, and fields out of range read as no instruction. -/
theorem test_refused_words : [0x0003C000, 0x00300001, 0x00280001, 0x00105000, 0x00780001, 0x01208562, 0x0101C106, 0x00008022].map (decodeTableWord 32) =
    [none, none, none, none, none, none, none, none] := by decide

/-- An ill-formed term for each check of `Instr.wf`, which the check refuses. -/
theorem test_ill_formed_control : ([.bra 0#4 5#3 0#12, .call 0#4 5#3 0#12, .brx 0#4 3#3 0#6, .ret 3#3, .exit 3#3, .cvtToF32 0#6 0#6 0#2 15#4 0#1,
    .icmp 0#3 6#3 0#6 0#6 0#1, .icmpN 0#3 6#3 0#6 0#6 0#1] : List Instr).map Instr.wf = List.replicate 8 false := by decide

/-- Completion flags 0xC to 0xE name no flag (R71). -/
theorem test_ill_formed_flags : ((([.ldG8 0#6 0#6, .ldG16 0#6 0#6, .ldG32 0#6 0#6, .ldG64 0#6 0#6, .ldG4 0#6 0#6, .ldG128 0#6 0#6,
    .ldS4 0#6 0#6, .ldS128 0#6 0#6, .ldS8 0#6 0#6, .ldS16 0#6 0#6, .ldS32 0#6 0#6, .ldS64 0#6 0#6, .ldpf 0#6 0#6, .ldG4Signed 0#6 0#6,
    .ldS4Signed 0#6 0#6, .ldG32Signed 0#6 0#6, .stG8 0#6 0#6, .stG16 0#6 0#6, .stG32 0#6 0#6, .stG64 0#6 0#6, .stG4 0#6 0#6,
    .stG128 0#6 0#6, .stS4 0#6 0#6, .stS128 0#6 0#6, .stS8 0#6 0#6, .stS16 0#6 0#6, .stS32 0#6 0#6, .stS64 0#6 0#6, .tlook 0#6 0#6,
    .tins 0#6 0#6, .tinv 0#6 0#6, .atomAdd 0#6 0#6, .atomMin 0#6 0#6, .atomMax 0#6 0#6, .atomExch 0#6 0#6, .atomAnd 0#6 0#6,
    .atomOr 0#6 0#6, .atomXor 0#6 0#6, .cas 0#6 0#6, .redAdd 0#6 0#6, .redMin 0#6 0#6, .redMax 0#6 0#6, .redAddF32 0#6 0#6,
    .tkget 0#6 0#6, .tknext 0#6 0#6, .ldS32Signed 0#6 0#6, .gath32 0#6 0#6, .gath64 0#6 0#6, .scat32 0#6 0#6, .scat64 0#6 0#6,
    .ldG8Signed 0#6 0#6, .ldG16Signed 0#6 0#6, .ldS8Signed 0#6 0#6, .ldS16Signed 0#6 0#6] : List (BitVec 4 → BitVec 1 → Instr)).flatMap
      (fun f => [f 12#4 0#1, f 13#4 0#1, f 14#4 0#1])).map Instr.wf) = List.replicate 162 false := by decide
theorem test_ill_formed_flags_engines : ((([(.tevict 0#6 · 0#1), .wlpop 0#6 0#6, .ldstat 0#6, .drainPlain 0#6 0#6, .drainConvert 0#6 0#6,
    .drainQuantise 0#6 0#6, .drainPack 0#6 0#6, .drainElide 0#6 0#6, .rank0 0#6 0#6, .rank1 0#6 0#6, .selb0 0#6 0#6, .selb1 0#6 0#6,
    .exc 0#6 0#6, .fclose 0#6 0#6, .fopen 0#6 0#6, .encl 0#6 0#6, .bins 0#6 0#6, .bdel 0#6 0#6, .saddr 0#6 0#6, .bkstat 0#6 0#6,
    .wstat 0#6 0#6, .dquery 0#6 0#6] : List (BitVec 4 → Instr)).flatMap (fun f => [f 12#4, f 13#4, f 14#4])).map Instr.wf) =
    List.replicate 66 false := by decide

/-- Numbers out of range: queues, channels, crew flags, work lists, accumulators, matrix types, modes of `ACQ` (R73, R81, R90). -/
theorem test_ill_formed_numbers : ([.qpush 16#6 0#6, .qpop 16#6 0#6, .qtryPush 16#6 0#6 0#3, .qtryPop 16#6 0#6 0#3, .lqsend 4#6 0#6,
    .lqrecv 4#6 0#6, .xfset 16#6, .xfwait 16#6, .acq 0#6 2#3, .wlpush 16#6 0#6, .wlpop 16#6 0#6 0#4, .mma 0#4 0#5 12#4 0#6, .aclr 16#6,
    .drainPlain 16#6 0#6 0#4, .drainConvert 16#6 0#6 0#4, .drainQuantise 16#6 0#6 0#4, .drainPack 16#6 0#6 0#4,
    .drainElide 16#6 0#6 0#4] : List Instr).map Instr.wf = List.replicate 18 false := by decide

/-! ### States for the tests -/

/-- A kernel of 4 packets for each kind of stream. -/
def kern : Kernel := { Kernel.blank with spkts := 4, gpkts := 4, stages := [0x08000000#32] }
/-- A crew with a share of 4096 bytes and one filled tile, in partition 2 on core 0. -/
def crew1 : Crew := { Crew.blank with id := 1, task := 7, taskId := 3, part := 2, ngroup := 2, ncrew := 1, nspan := 1, shareHome := scratchHome 0, shareSize := 4096, tiles := [⟨0, false, 2, false, 8, 512, 0, 0⟩] }
/-- A state with that crew, whose issuing stream is to be given. -/
def base : State := { State.reset with
  clock := 100
  crew := crew1
  tasks := [mkTask 7 3 2 kern ⟨1, 1, 2, 4096, [1, 1]⟩ [] 0#64 none none false none]
  parts := [(2, { Part.blank with configured := true })]
  dev := { Dev.reset with level := 2, trained := List.range 12 } }
/-- Lanes 0 to 3 of group 0 at the head, lanes 4 to 7 waiting at a `JOIN`. -/
def gs : State := { base with me := { Stream.blank 1 with
  v := [(64, 5#32), (65, 0xFFFFFFFF#32), (96, 7#32), (97, 2#32)]
  p := [(0, true), (2, true)]
  frontier := [⟨⟨1, 0⟩, 3, 0xF#32, .ready, false⟩, ⟨⟨2, 0⟩, 1, 0xF0#32, .joinWait, false⟩] } }
/-- The steward. -/
def ss : State := { base with me := { Stream.blank 0 with
  k := [(2, 5#64), (3, 0xFFFFFFFFFFFFFFFF#64)]
  frontier := [⟨⟨1, 0⟩, 3, 1#32, .ready, false⟩] } }
/-- A state whose step in progress has operands. -/
def asks (s : State) (a : EvArg) : State := { s with ctx := { s.ctx with ev := a } }

/-! ### States that meet the hypotheses: words that compute -/

/-- Lanes 0 to 3 are the head of the group; lane 0 of the steward. -/
theorem wit_heads : gs.me.sid ≠ 0 ∧ ss.me.sid = 0 ∧ gs.headLanes = [0, 1, 2, 3] ∧ ss.headLanes = [0] ∧ gs.headMask ≠ 0#32 ∧ ss.headMask ≠ 0#32 ∧
    gs.natW = 32 ∧ gs.otherW = 64 ∧ ss.natW = 64 ∧ ss.otherW = 32 := by decide

/-- `IntegerUnary`, `IntegerTwoAddress`, `IntegerImmediate`, `Shifts`, `Convert`: even pairs and an odd register. -/
theorem wit_pairs : gs.pairOk gs.otherW 2 ∧ gs.pairOk gs.otherW 62 ∧ ¬gs.pairOk gs.otherW 3 ∧ ss.pairOk ss.otherW 3 ∧ ss.pairOk 64 63 ∧
    gs.pairOk 32 63 ∧ ¬gs.pairOk 64 63 := by
  unfold State.pairOk; decide

/-- `Shifts`: counts that an immediate can hold, at both ends, and one that it cannot. -/
theorem wit_Shifts : (gs.immInt 0 = 0) ∧ (gs.immInt 31 = 31) ∧ (gs.immInt 63 < 0) ∧
    ({ gs with ctx := { gs.ctx with lit := some 1#19 } } : State).immInt 0 = 64 := by decide

/-- `IntegerCompare`, `Branches`: codes at both sides of each limit. -/
theorem wit_codes : (5#3).toNat < 6 ∧ 6 ≤ (6#3).toNat ∧ (4#3).toNat < 5 ∧ 5 ≤ (5#3).toNat ∧ (2#3).toNat < 3 ∧ 3 ≤ (3#3).toNat := by decide

/-- `LaneExchange`: a source lane among the head lanes, and one that is not. -/
theorem wit_LaneExchange : (3 ∈ gs.headLanes ∧ (3 ^^^ 1) ∈ gs.headLanes) ∧ (3 + 1) ∉ gs.headLanes := by decide

/-- `SpecialFunctions`: a NaN, a negative finite number, and 2, which is positive, whole and a power of two. -/
theorem wit_SpecialFunctions : fF32.decode 0x7F800001 = .nan ∧ fF32.decode 0xBF800000 = .num true 0x800000 (-23) ∧
    fF32.decode 0x40000000 = .num false 0x800000 (-22) ∧ expOf 0x800000 1 (-22) < 7 := by decide
theorem wit_SpecialFunctions_real : f32Real 0x40000000 = some ((2 : ℤ) : ℝ) ∧ f32Real 0x40000000 = some ((2 : ℝ) ^ (1 : ℤ)) ∧ (0 : ℝ) < 2 := by
  have e : f32Real 0x40000000 = some 2 := by
    unfold f32Real
    rw [wit_SpecialFunctions.2.2.1]
    norm_num
  exact ⟨by rw [e]; norm_num, by rw [e]; norm_num, by norm_num⟩

/-- `Convert`: the last code of each list, and one beyond. -/
theorem wit_Convert : 8 ≤ (15#4).toNat ∧ 5 ≤ (14#4).toNat ∧ (15#4).toNat = 15 := by decide

/-- A state reached by one step of the word computes what the rule says: 5 + 7 in lane 0 and 2^32 - 1 + 2 in lane 1. -/
theorem test_iadd : (match exec (.iadd 4 2 3 0) gs with
    | .next t => t.me.pend.map (fun p => (p.due, p.writes.take 2)) | _ => []) = [(some 102, [.v 128 12#32, .v 129 1#32])] := by decide

/-! ### Control and system words -/

/-- `Branches`, `Calls`, `Exits`, `Joins`, `SoftwareTraps`, `IllegalOpTrap`: a head, lanes apart, and destinations inside and outside. -/
theorem wit_control : gs.me.head = some ⟨⟨1, 0⟩, 3, 0xF#32, .ready, false⟩ ∧ ss.me.head = some ⟨⟨1, 0⟩, 3, 1#32, .ready, false⟩ ∧
    Apart gs.me.frontier ∧ Apart ss.me.frontier ∧ ((gs.pc.packet : Int) + gs.branchOff 0xFFF#12 = 0) ∧
    ((gs.pc.packet : Int) + gs.branchOff 0xFFE#12 < 0) ∧ gs.packets = 4 ∧ (gs.pc.packet : Int) + gs.branchOff 3#12 = 4 := by
  unfold Apart; decide

/-- `Joins`: lanes that already wait at the word, one entry of them, and a head that is expected. -/
theorem wit_Joins : ((gs.me.frontier.filter (fun x => x.st == .joinWait && x.pc == gs.pc)).length ≤ 1) ∧
    (let s : State := { gs with me := { gs.me with expected := 0xF3#32, frontier := [⟨⟨1, 0⟩, 3, 0xF#32, .ready, false⟩, ⟨⟨1, 0⟩, 5, 0xF0#32, .joinWait, false⟩] } }
     s.me.place 4 = some (s.pc, 5, .joinWait) ∧ (s.me.frontier.filter (fun x => x.st == .joinWait && x.pc == s.pc)).length = 1 ∧
      s.me.expected.getLsbD 0 = true ∧ s.me.expected.getLsbD 2 = false) := by decide

/-- `ReturnFromHandler`: a steward in its handler. -/
theorem wit_ReturnFromHandler : ({ ss with me := { ss.me with handler := some ⟨⟨2, 1⟩, 3, 1#32, .ready, false⟩ } } : State).me.handler ≠ none ∧
    ss.me.handler = none := by decide

/-- `SystemRead`: each register has its row once; a number outside R83. -/
theorem wit_SystemRead : (ss.sysRegs.map Prod.fst).Nodup ∧ (gs.sysRegs.map Prod.fst).Nodup ∧
    (0x0B ∈ ss.sysRegs.map Prod.fst) ∧ (0x0B ∉ gs.sysRegs.map Prod.fst) ∧ (0x15 ∉ ss.sysRegs.map Prod.fst) ∧
    (0x2F ∈ gs.sysRegs.map Prod.fst) ∧ (0x30 ∉ gs.sysRegs.map Prod.fst) := by decide

/-- `GroupControl`: selectors at the limits of each field. -/
theorem wit_GroupControl : SelectorOk 2 false 0x7FF10#64 ∧ SelectorOk 2 false 6#64 ∧ ¬SelectorOk 2 false 7#64 ∧ ¬SelectorOk 2 false 0x20#64 ∧
    SelectorOk 2 true 5#64 ∧ ¬SelectorOk 2 true 4#64 ∧ (bits (0x10#64) 31 8 = 0 ∧ bits (0x10#64) 3 0 = 0 ∧ bits (0x10#64) 7 4 < 2) := by
  refine ⟨?_, ?_, ?_, ?_, ?_, ?_, ?_⟩ <;> (try unfold SelectorOk) <;> decide

/-- `GroupReads`, `GroupWrites`: a lane that stands ready, one that waits, one that is parked, one that has exited. -/
theorem wit_Groups : let t : Stream := { gs.me with frontier := gs.me.frontier ++ [⟨⟨1, 0⟩, 3, 0xF00#32, .parked 3, false⟩] }
    Apart t.frontier ∧ t.place 0 = some (⟨1, 0⟩, 3, .ready) ∧ t.place 4 = some (⟨2, 0⟩, 1, .joinWait) ∧
      t.place 8 = some (⟨1, 0⟩, 3, .parked 3) ∧ t.place 12 = none := by
  unfold Apart; decide

/-- A steward that waits for the result 9, beside a group with a parked lane 8 and a group that has retired. -/
def lts : State := { ss with
  me := { ss.me with pend := [⟨9, none, false, [], none, 0#32, true, [], 94⟩] }
  crew := { crew1 with streams := [{ gs.me with frontier := gs.me.frontier ++ [⟨⟨1, 0⟩, 3, 0x100#32, .parked 3, false⟩] }, { Stream.blank 2 with retired := true }] } }
/-- `LateReadsAndWrites`, `LateResumesAndKills`: the stream that a selector names, and the result that waits. -/
theorem wit_Lates : (⟨100, 0, .gwr, 0x800#64, 5#64, 4, 9⟩ : Late).sid = 0 ∧ lts.streamOf ⟨1, 0⟩ = some lts.me ∧ (lts.me.pend.find? (fun p => p.id == 9)).isSome = true ∧
    bits (0x800#64) 7 4 + 1 = 1 ∧ (∃ w ∈ lts.crew.streams, lts.streamOf ⟨1, 1⟩ = some w ∧ w.retired = false ∧ Apart w.frontier ∧ w.place 8 = some (⟨1, 0⟩, 3, .parked 3)) ∧
    (lts.streamOf ⟨1, bits (0x10#64) 7 4 + 1⟩).map Stream.retired = some true ∧ lts.crewOf 1 = some lts.crew ∧ (lts.taskOf lts.crew.task).isSome = true := by
  unfold Apart; decide
/-- A late `GWR` of KIND 0 writes register 0 of the parked lane 8. -/
theorem test_lateGwr : ((lts.runLate 1 ⟨100, 0, .gwr, 0x800#64, 5#64, 4, 9⟩).streamOf ⟨1, 1⟩).map (fun t => t.rdV 0 8) = some 5#32 := by decide

/-- A branch back by one packet stands the head at packet 0 with the word's priority. -/
theorem test_bra : (match exec (.bra 5 0 0xFFF) gs with | .next t => t.me.place 0 | _ => none) = some (⟨0, 0⟩, 5, .ready) := by decide

/-! ### Memory words -/

/-- A leaf of package memory with every right, and a state whose core caches it for the page at 0x10000. -/
def leafRw : Quad := 0xC7000000_00200000#64
def gm : State := { gs with tlb1 := [⟨0, 2, 0x10000, 0x10000, leafRw⟩] }

/-- `Addressing`: addresses of every space at the limits of their fields, a leaf that allows and one that does not. -/
theorem wit_Addressing : (gm.leafFor gm.crew.core gm.crew.part 0x1FFFC = some (leafRw, 16)) ∧ gm.LeafAllows leafRw 16 0x1FFFC .readWrite ∧
    ¬gm.LeafAllows 0xC3000000_00200000#64 16 0x1FFFC .write ∧ gm.leafFor gm.crew.core gm.crew.part 0x20000 = none ∧
    gm.RankNames 15 gm.crew ∧ (∀ c, ¬gm.RankNames 12 c) ∧
    (let a := 0xAF00000000000FFC; a / 2 ^ 60 = 0xA ∧ a / 2 ^ 21 % 2 ^ 35 = 0 ∧ a % 2 ^ 21 < 2 ^ 20 ∧ a % 2 ^ 20 + 4 ≤ gm.crew.shareSize ∧
      a % 2 ^ 20 % 4 = 0 ∧ a / 2 ^ 56 % 16 = 15) ∧
    (let a := 0xB00000000000FFFE; a / 2 ^ 60 = 0xB ∧ a / 2 ^ 17 % 2 ^ 43 = 0 ∧ a % 2 ^ 17 < 2 ^ 16 ∧ a % 2 ^ 16 % 4 ≠ 0) := by
  refine ⟨by decide, ?_, ?_, by decide, rfl, ?_, by decide, by decide⟩
  · unfold State.LeafAllows; decide
  · unfold State.LeafAllows; decide
  · intro c; unfold State.RankNames; simp

/-- `EffectiveAddresses`: offsets inside and outside. -/
theorem wit_EffectiveAddresses : (let o : Int := (gs.opN 32 2 0 : Int); 0 ≤ o ∧ o < 2 ^ 20) ∧
    (let o : Int := (gs.opN 32 2 1 : Int); ¬(0 ≤ o ∧ o < 2 ^ 20)) := by decide

/-- `Loads`, `LineFill`, `Stores`, `GatherScatter`, `Atomics`: register fields that a form allows and that it refuses; heads that fail whole
and that do not. -/
theorem wit_Loads : gs.MemRegs false 16 4 2 ∧ ¬gs.MemRegs false 16 2 2 ∧ ¬gs.MemRegs false 4 0 3 ∧ gs.MemRegs true 4 1 3 ∧ ss.MemRegs false 16 2 3 ∧
    ¬ss.MemRegs false 16 3 3 ∧ gs.AllFail ((gs.lanes 0).map (gs.access false 2 4 4 false .read)) ∧
    ¬gs.AllFail ((gs.lanes 0).map (gs.access true 4 4 4 false .read)) := by
  refine ⟨?_, ?_, ?_, ?_, ?_, ?_, ?_, ?_⟩ <;> (try unfold State.MemRegs) <;> (try unfold State.AllFail) <;> decide

/-- `FailedChecks`: two lanes of the head that failed for two causes. -/
theorem wit_FailedChecks : let bad : List (Nat × Nat × Nat × Quad) := [(1, 4, 0, 6#64), (3, 3, 0, 8#64)]
    gs.me.head ≠ none ∧ Apart gs.me.frontier ∧ bad ≠ [] ∧ (∀ f ∈ bad, f.1 ∈ gs.headLanes ∧ f.2.1 < 16) ∧ (bad.map Prod.fst).Nodup := by
  unfold Apart; decide

/-- `TagTable`: a line that is held, a slot that is free and one outside the share. -/
theorem wit_TagTable : let s : State := { gs with crew := { crew1 with tags := [(3, some ⟨512, ⟨1, 1⟩, 0, 0⟩)] } }
    tget none s.crew.tags 3 ≠ none ∧ tget none s.crew.tags 7 = none ∧ s.crew.shareSize / 512 = 8 ∧
      s.tagVisible 3 ⟨512, ⟨1, 1⟩, 0, 0⟩ = true ∧ (s.me.sid ≠ 0 ∧ (2#6).toNat % 2 = 0) := by decide

/-- A load at offset 0 by four lanes asks for four lanes and counts a use of flag 1. -/
theorem test_ldS : (match exec (.ldS32 6 4 1 0) gs with
    | .next t => (t.me.reqs.map (fun q => (q.kind, q.d, q.lanes.length)), t.me.cfGet 1) | _ => ([], 0)) =
      ([(.load 4 false false, 6, 4)], 1) := by decide

/-! ### The steps at the homes -/

/-- A group with a load of four lanes under way, and a buffered write of its lane 2 to one of the four homes. -/
def hs : State := { gs with me := { gs.me with
  pend := [⟨9, none, false, [], some 1, 0#32, true, [], 99⟩, ⟨5, none, false, [], none, 0#32, false, [], 90⟩, ⟨4, none, true, [], some 2, 0#32, true, [], 90⟩]
  reqs := [⟨9, .load 4 false false, 6, [⟨0, scratchHome 0, false, 0, 0, none, 0, false⟩, ⟨1, scratchHome 0 + 4, false, 0, 0, none, 0, false⟩], [], none⟩]
  wb := [⟨6, 5, ⟨1, 1⟩, 2, scratchHome 0 + 8, [(1#8, 0xFF#8), (2#8, 0xFF#8)], 0, .scratch, 2, none⟩] } }

/-- `OwnWritesSeen`: a byte that an older write of the lane covers, one that none does. -/
theorem wit_OwnWritesSeen : (∃ w ∈ hs.heldWrites ⟨1, 1⟩ 2, w.lane = 2 ∧ w.id < 9 ∧ w.home ≤ scratchHome 0 + 9 ∧ scratchHome 0 + 9 < w.home + w.data.length ∧
      w.data[scratchHome 0 + 9 - w.home]? = some (2#8, 0xFF#8)) ∧
    ¬∃ w ∈ hs.heldWrites ⟨1, 1⟩ 2, w.home ≤ scratchHome 0 + 10 ∧ scratchHome 0 + 10 < w.home + w.data.length := by decide

/-- `ReadsPerformed`: the load may be performed at the home of lane 0, and lane 1 remains. -/
theorem wit_ReadsPerformed : let s := asks hs { r := ⟨1, 1⟩, a := 9, b := scratchHome 0 }
    s.streamOf ⟨1, 1⟩ = some hs.me ∧ (∃ q, hs.me.reqs.find? (fun x => x.id == 9) = some q ∧ q.kind = .load 4 false false ∧
      s.loadFree ⟨1, 1⟩ 2 hs.me 9 4 (q.lanes.filter (fun l => l.home == s.ctx.ev.b && !l.done)) = true ∧
      (∀ l ∈ q.lanes.filter (fun l => l.home == s.ctx.ev.b && !l.done), s.ueIn l.home 4 = none) ∧ q.poison = none ∧
      ¬∀ l ∈ q.lanes, l.done = true ∨ l.home = s.ctx.ev.b) ∧ s.staleAt s.ctx.ev.b = [] ∧ s.readHold s.ctx.ev.b = none := by
  refine ⟨by decide, ⟨_, rfl, by decide, by decide, by decide, by decide, by decide⟩, by decide, by decide⟩

/-- The first lane alone, so that the home of lane 0 is the last one. -/
theorem wit_ReadsPerformed_last : ∀ l ∈ [(⟨0, scratchHome 0, false, 0, 0, none, 0, false⟩ : LaneReq)], l.done = true ∨ l.home = scratchHome 0 := by decide

/-- `PoisonedReads`: the same load, whose last lane meets an uncorrectable granule. -/
theorem wit_PoisonedReads : let q : Req := ⟨9, .load 4 false false, 6, [⟨0, scratchHome 0, false, 0, 0, none, 0, false⟩], [], none⟩
    let s := asks { hs with me := { hs.me with reqs := [q] }, dev := { hs.dev with ue := [scratchHome 0] } } { r := ⟨1, 1⟩, a := 9, b := scratchHome 0 }
    s.me.retired = false ∧ s.me.gone = false ∧ s.streamOf ⟨1, 1⟩ = some s.me ∧ s.me.reqs.find? (fun x => x.id == 9) = some q ∧
      s.loadFree ⟨1, 1⟩ (s.partOf 1) s.me 9 4 q.lanes = true ∧ s.readHold (scratchHome 0) = none ∧ s.staleAt (scratchHome 0) = [] ∧
      q.lanes.filter (fun l => s.ueIn l.home 4 != none) ≠ [] := by decide

/-- `FillsPerformed`: the one run of an `LDPF` from package memory to the slot at offset 512, which nothing holds. -/
def lf : State := asks { hs with me := { hs.me with
  wb := []
  direct := [⟨9, 9, ⟨1, 1⟩, 0, scratchHome 0 + 512, List.replicate 64 (0, 0xFF), 512, .scratch, 2, none⟩]
  reqs := [⟨9, .ldpf, 0, [⟨0, 0x20000, false, 0, 0, some (scratchHome 0 + 512), 0, false⟩], [], none⟩] } } { r := ⟨1, 1⟩, a := 9, b := 0x20000 }
theorem wit_FillsPerformed : lf.streamOf ⟨1, 1⟩ = some lf.me ∧ (∀ q ∈ lf.me.reqs, ∀ l ∈ q.lanes, lf.ldpfFree ⟨1, 1⟩ (lf.partOf 1) lf.me q.id l = true ∧
    lf.ueIn l.home 64 = none ∧ (l.done = true ∨ l.home = 0x20000) ∧ ∀ h, l.dst = some h → 2 ^ 56 ≤ h ∧ h % 64 = 0) ∧ lf.readHold 0x20000 = none ∧
    lf.staleAt 0x20000 = [] ∧ 0x20000 + 64 ≤ 2 ^ 56 := by
  refine ⟨by decide, ?_, by decide, by decide, by decide⟩
  intro q hq l hl
  cases List.mem_singleton.mp hq; cases List.mem_singleton.mp hl
  exact ⟨by decide, by decide, by decide, fun h e => by cases e; decide⟩

/-- `WritebacksAndWalks`: an arrived result; a page that is cached, and one that is not and that the L2 TLB or the walk finds. -/
theorem wit_WritebacksAndWalks : (∃ p, hs.me.pend.find? (fun x => x.id == 4 && x.arrived) = some p ∧ p.bracket = []) ∧
    (⟨0, 2, 0x10000, 0x10000, leafRw⟩ : TlbEnt) ∈ gm.tlb1 ∧
    (∀ x ∈ gm.tlb1, ¬(x.holder = 1 ∧ x.part = 2 ∧ x.base ≤ 2 ^ 16 ∧ 2 ^ 16 < x.base + x.size)) ∧ gm.tlb2 = [] ∧
    [(⟨0, 2, 0x10000, 0x10000, leafRw⟩ : TlbEnt)].find? (fun x => x.holder == 1 / 12 && x.part == 2 && x.base ≤ 2 ^ 16 && 2 ^ 16 < x.base + x.size) =
      some ⟨0, 2, 0x10000, 0x10000, leafRw⟩ := by decide

/-- `WritebacksAndWalks`, `Addressing`: a table of three levels with a leaf of 1 GiB. -/
def wm : State := { gs with mem := [(1, 0x10), (7, 0x80), (0x1001, 0x20), (0x1007, 0x80), (0x2007, 0xC7)] }
theorem wit_walk : wm.walk 2 0x10000 = some (0xC700000000000000#64, 30) ∧ wm.Inv := by unfold State.Inv; decide

/-- A write of four bytes to home `h`. -/
def wr4 (h : Nat) : PWrite := ⟨6, 5, ⟨1, 1⟩, 2, h, [(1, 0xFF), (2, 0xFF), (3, 0xFF), (4, 0xFF)], 0, .global, 2, none⟩
/-- A state that drains that write from the buffer of group 0, and one that drains it from the release set of object 5. -/
def wd (s : State) (h : Nat) : State := asks { s with me := { s.me with wb := [wr4 h] } } { r := ⟨1, 1⟩, src := .wb ⟨1, 1⟩, a := 6 }
def wrel (s : State) (h : Nat) : State := asks { s with parts := s.parts.map (fun p => (p.1, { p.2 with syncs := [⟨5, none, [], [], [wr4 h]⟩] })) } { src := .rs 2 5, a := 6 }
/-- `BufferedDrains`, `CapturedDrains`, `HostDrains`: writes that nothing holds. -/
theorem wit_Drains : (wd hs 0x20000).MayDrain (wr4 0x20000) ∧ (wd hs 0x20000).streamOf (wr4 0x20000).agent = some (wd hs 0x20000).me ∧
    isRegPage 0x20000 = false ∧ (wd hs 0x20000).Plain 0x20000 ∧ (∀ p ∈ (wd hs 0x20000).me.pend, p.id = 5 → p.writes = []) ∧
    (wrel gs 0x20000).MayDrain (wr4 0x20000) ∧ (wrel gs 0x20000).Plain 0x20000 ∧ (wd hs (2 ^ 58)).MayDrain (wr4 (2 ^ 58)) ∧
    (wd hs (2 ^ 58)).isLockstep 2 = false := by
  unfold State.MayDrain State.Plain; decide

/-- The bytes of the drained write stand at their homes. -/
theorem test_drain : (match exec .writeDrain (asks hs { src := .wb ⟨1, 1⟩, a := 6 }) with
    | .next t => (t.mem.bytes (scratchHome 0 + 7) 4, t.me.wb.length) | _ => ([], 9)) = ([0, 1, 2, 0], 0) := by decide

/-- `HomeSteps`: an atomic, a `TKGET` and a `TKNEXT` of two lanes at one home. -/
theorem wit_HomeSteps : ∀ k ∈ [ReqKind.atomic .add 4 true, .tkget, .tknext],
    let ls : List LaneReq := [⟨0, scratchHome 0, false, 3, 0, none, 0, false⟩, ⟨1, scratchHome 0, false, 5, 0, none, 0, false⟩]
    let q : Req := ⟨9, k, 6, ls, [], none⟩
    let s := asks { gs with me := { gs.me with reqs := [q] } } { r := ⟨1, 1⟩, a := 9, b := scratchHome 0 }
    s.streamOf ⟨1, 1⟩ = some s.me ∧ s.atomFree ⟨1, 1⟩ 2 s.me q 8 ls = true ∧ s.partOf 1 = 2 ∧ s.isLockstep 2 = false ∧
      s.homeHold s.ctx.ev.b = none ∧ isRegPage s.ctx.ev.b = false ∧ s.Plain s.ctx.ev.b ∧ s.ctx.ev.b < 2 ^ 58 ∧ s.ctx.ev.b % 8 = 0 ∧
      s.allDrained ⟨1, 1⟩ 2 9 [0, 1] = true ∧ (∀ l ∈ ls, s.ueIn l.home 8 = none) := by
  unfold State.Plain; decide

/-- A state with a line of reads or of writes whose window is over. -/
def eds (wr : Bool) : State := asks { hs with eddy := [⟨0, 2, 0x800, wr, 99, [(⟨1, 1⟩, if wr then 6 else 9, 0)]⟩], me := { hs.me with
  wb := [{ wr4 0x20000 with eddy := some 99 }]
  reqs := [⟨9, .load 4 false false, 6, [⟨0, 0x20000, false, 0, 0, none, 0, false⟩], [], none⟩] } } { a := 0, b := 0x800, c := if wr then 1 else 0 }
/-- `EddyLines`: those lines, before and after the end of their windows; a merged write that may drain and one that waits for an older one. -/
theorem wit_EddyLines : ∀ wr : Bool, let s := eds wr
    let x : EddyLine := ⟨0, 2, 0x800, wr, 99, [(⟨1, 1⟩, if wr then 6 else 9, 0)]⟩
    s.eddy.find? (fun x => x.core == s.ctx.ev.a && x.line == s.ctx.ev.b && (x.wr == (s.ctx.ev.c == 1))) = some x ∧ x.closes ≤ s.clock ∧
      s.eddyReadFree x = true ∧ s.readHold (64 * x.line) = none ∧ s.staleAt (64 * x.line) = [] ∧ s.dev.ue = [] ∧ 98 < x.closes := by decide
theorem wit_EddyLines_writes : let s := eds true
    let x : EddyLine := ⟨0, 2, 0x800, true, 99, [(⟨1, 1⟩, 6, 0)]⟩
    s.eddyWriteFree (s.eddyWrites x) = true ∧ (({ s with eddy := s.eddy.erase x } : State).putRuns x.part ((s.eddyWrites x).map
      (fun w => (w.home, w.data)))).toOption.isSome = true ∧ (∀ p ∈ s.parts, ∀ o ∈ p.2.syncs, o.rs = []) ∧
    (let u : State := { s with me := { s.me with wb := ⟨3, 3, ⟨1, 1⟩, 2, 0x20000, [(7, 0xFF)], 0, .global, 2, none⟩ :: s.me.wb } }
     u.eddyWriteFree (u.eddyWrites x) = false) := by decide

/-! ### Barriers, queues, channels, sync objects, fences, tickets, work lists -/

/-- `BarrierRules`: counts at both sides of each limit. -/
theorem wit_BarrierRules : let x : Barrier := ⟨2, 1, 8, 7, 8, true, false⟩
    ((0xFFF#64).toNat % 2 ^ 12 ≠ 0 ∧ (0xFFF#64).toNat / 2 ^ 12 % 2 ^ 20 = 0) ∧ ¬((0x1000#64).toNat % 2 ^ 12 ≠ 0) ∧
      x.expBytes + (2 ^ 32 - 9) < 2 ^ 32 ∧ 2 ^ 32 ≤ x.expBytes + (2 ^ 32 - 8) ∧ ¬(x.expArr = 0 ∨ (0 < 1 ∧ x.expArr < x.arr + 1)) ∧
      (x.arr + 1 = x.expArr ∧ x.expBytes ≤ min (2 ^ 32 - 1) (x.bytes + 1)) ∧ ¬(x.expBytes ≤ min (2 ^ 32 - 1) (x.bytes + 0)) ∧
      (0 < 2 ∧ x.expArr < x.arr + 2) := by decide

/-- `Barriers`: a phase that differs from the parity and one that does not, and a crew whose scratchpad writes have drained. -/
theorem wit_Barriers : let s : State := { gs with crew := { crew1 with barriers := [(3, ⟨2, 1, 8, 7, 8, true, false⟩)] } }
    (s.crew.bar 3).phase ≠ s.me.parity.getLsbD 3 ∧ (s.crew.bar 4).phase = s.me.parity.getLsbD 4 ∧ s.crewOf 1 = some s.crew ∧
      s.crew.retired = false ∧ s.scratchWrites ⟨1, 1⟩ 9 = [] := by decide

/-- A `BWAIT` on the phase that differs toggles the parity. -/
theorem test_bwait : (match exec (.bwait 3 2) { gs with crew := { crew1 with barriers := [(3, ⟨2, 1, 8, 7, 8, true, true⟩)] } } with
    | .next t => (t.me.parity, t.me.rdP 2 1) | _ => (0, false)) = (8#64, true) := by decide

/-- `TileQueues`, `HandlesPlaced`: queues with and without allowance and handles, a stage that owns neither end, a handle of no tile; a push
that must wait for its time, for a write of its tile, and one that need not. -/
theorem wit_TileQueues : let c : Crew := { crew1 with queues := [(1, ⟨true, 0, 0, 4, 0, [0], 3⟩), (2, ⟨true, 1, 1, 4, 4, [], 0⟩)] }
    (c.queue 1).allow = 0 ∧ (c.queue 1).handles = [0] ∧ (c.queue 0).allow ≠ 0 ∧ (c.queue 0).handles = [] ∧
      (gs.me.stage = (c.queue 1).prod) ∧ (c.queue 2).decl = true ∧ gs.me.stage ≠ (c.queue 2).cons ∧ c.tiles.length ≤ gs.opN 32 2 0 ∧
      gs.opN 32 4 0 < c.tiles.length := by decide

/-- `Channels`: channels that are full and that are not, entries 3 and 4 cycles old, and a flag set 1 and 2 cycles ago. -/
theorem wit_Channels : let q : Lq := ⟨List.replicate 8 (7#64, 96), 0, [(5#64, 97, 1)]⟩
    let s : State := { gs with crew := { crew1 with lqs := [(1, q)], flags := [(2, some (98, 99)), (3, some (99, 100))] } }
    let f := (s.crew.lq 1).free 1 s.liveGroups
    8 ≤ f.down.length ∧ f.up.length < 8 ∧ s.crew.lq 1 = q ∧ (∃ w c, q.down[s.me.lqAt 1 - q.base]? = some (w, c) ∧ c + 4 ≤ s.clock) ∧
      s.clock < 97 + 4 ∧ q.up = (5#64, 97, 1) :: [] ∧ tget none s.crew.flags 2 = some (98, 99) ∧ 98 + 2 ≤ s.clock ∧
      tget none s.crew.flags 3 = some (99, 100) ∧ s.clock < 99 + 2 ∧ tget none s.crew.flags 4 = none := by
  refine ⟨by decide, by decide, by decide, ⟨_, _, rfl, by decide⟩, by decide, by decide, by decide, by decide, by decide, by decide, by decide⟩

/-- A partition with a sync object that lane 0 of a steward names, and a bound region of one page. -/
def bs : State := { ss with
  parts := [(2, { Part.blank with configured := true, syncs := [⟨5, none, [], [], []⟩, ⟨6, none, [⟨1, 2⟩], [(⟨1, 3⟩, false)], []⟩], bindings := [⟨5, 0x10, 1, none⟩] })]
  tlb1 := [] }

/-- `Bindings`: objects that are there and that are not; a region that is bound, one that meets a bound one, and one that is not bound. -/
theorem wit_Bindings : (bs.me.rdK 2).toNat = 5 ∧ (∃ o ∈ bs.myPart.syncs, o.id = 5) ∧ 4096 ≤ (bs.me.rdK 3).toNat ∧
    (∃ b ∈ bs.myPart.bindings, b.page = 0x10000 / 2 ^ 12 ∧ b.pages = 0x10000 % 2 ^ 12 + 1) ∧ bs.myPart.derivedCovers 0x10 1 = false ∧
    (∃ b ∈ bs.myPart.bindings, b.page < 0x0F + 2 ∧ 0x0F < b.page + b.pages) ∧ ¬∃ b ∈ bs.myPart.bindings, b.page < 0x11 + 1 ∧ 0x11 < b.page + b.pages := by
  decide

/-- `Bindings`: a region that is not refused, in a partition whose table maps it. -/
theorem wit_Bindings_ok : let s : State := { bs with mem := wm.mem }
    (∀ i < 2, s.pageCore s.crew.part (0x11 + i) = true) ∧ s.myPart.bindings.length < 4096 := by decide

/-- `Acquires`: an object that is free, one that another stream holds and waits for, one that the stream holds; the only ones of their
numbers. -/
theorem wit_Acquires : (∀ p ∈ bs.myPart.syncs, p.id = 5 → p = ⟨5, none, [], [], []⟩) ∧ (⟨6, none, [⟨1, 2⟩], [(⟨1, 3⟩, false)], []⟩ : SyncObj) ∈ bs.myPart.syncs ∧
    bs.self ∉ [(⟨1, 2⟩ : Ref)] ∧ (∀ w ∈ [((⟨1, 3⟩ : Ref), false)], w.1 ≠ bs.self) ∧ bs.myPart.conf.mate = none ∧ (1#3).toNat < 2 ∧ 2 ≤ (2#3).toNat := by decide

/-- `Fences`: a fence with a write that it waits for and one without; a trigger of lanes with and without writes. -/
theorem wit_Fences : let s := asks { hs with me := { hs.me with blocked := some (.fence 1 7 0xF#32) } } { r := ⟨1, 1⟩, a := 7, q := 4 }
    s.streamOf ⟨1, 1⟩ = some s.me ∧ s.crewOf 1 = some s.crew ∧ (∃ w ∈ s.me.wb, w.id < 7 ∧ (0xF#32).getLsbD w.lane = true ∧ w.space = .scratch ∧
      s.crew.shareHome ≤ w.home ∧ w.home < s.crew.shareHome + s.crew.shareSize) ∧ (¬∃ w ∈ s.me.wb, w.id < 6) ∧
      (∃ w ∈ s.writesOf ⟨1, 1⟩ s.crew.part, w.id < 7 ∧ w.lane < 32 ∧ (4#64).getLsbD w.lane = true) ∧
      ¬∃ w ∈ s.writesOf ⟨1, 1⟩ s.crew.part, (8#64).getLsbD w.lane = true := by decide

/-- `TicketWaits`: lanes that pass their checks and lanes that do not, and tickets served and not served at the limit. -/
theorem wit_TicketWaits : failures ((gm.lanes 0).map (fun l => gm.access false 4 8 8 false .read l)) ≠ [] ∧
    failures ((wm.lanes 0).map (fun l => wm.access false 4 8 8 false .read l)) = [] ∧ wm.me.tkServed = false ∧
    served (5 * 2 ^ 32) 5 = true ∧ served (5 * 2 ^ 32) 6 = false ∧ served (2 ^ 31 * 2 ^ 32) 0 = false := by decide

/-- `WorkLists`: a task with room and items, an item that is allowed and none that waits before it. -/
theorem wit_WorkLists : let t : Task := { mkTask 7 3 2 kern ⟨1, 1, 2, 4096, [1, 1]⟩ [] 0#64 none none false none with lists := [(1, [3#64, 4#64])], room := 4 }
    let s := asks { gs with tasks := [t] } { r := ⟨1, 1⟩, a := 1, b := 0, c := 1 }
    s.taskOf s.crew.task = some t ∧ t.quiet = false ∧ s.headLanes.length ≤ t.room ∧ (∀ l ∈ s.headLanes, s.opN 64 4 l < 2 ^ 64 - 2) ∧
      s.headLanes ≠ [] ∧ s.crewOf 1 = some s.crew ∧ s.crew.task = t.id ∧ t.list 1 ≠ [] ∧ t.list 2 = [] ∧ s.myPart.conf.mate = none ∧
      (¬∃ w ∈ s.writesOf ⟨1, 1⟩ 2, w.id < 1) ∧ ¬∃ v ∈ s.agenda, v.op = .wlpushEnter := by decide

/-- `WLPOP` gives two lanes their items and the others NONE. -/
theorem test_wlpop : (match exec (.wlpop 1 4 15) { gs with tasks := [{ mkTask 7 3 2 kern ⟨1, 1, 2, 4096, [1, 1]⟩ [] 0#64 none none false none with
      lists := [(1, [3#64, 4#64])], room := 4 }] } with
    | .next t => t.me.pend.map (fun p => (p.writes.filterMap (fun w => match w with | .v k x => if k < 160 then some (k, x) else none | _ => none)).take 4)
    | _ => []) = [[(128, 3#32), (129, 4#32), (130, 0xFFFFFFFE#32), (131, 0xFFFFFFFE#32)]] := by decide

/-- `SlackwaterAndPolls`: a participant that stands at a `WLPOP`, in code that the table of `wm` maps. -/
theorem wit_SlackwaterAndPolls : let s : State := { gs with me := { gs.me with participant := true } }
    s.crew ∈ s.allCrews ∧ s.crew.task = 7 ∧ s.me ∈ s.streamsOf s.crew ∧ s.me.gone = false ∧ s.me.participant = true ∧
      (∀ t ∈ s.tasks, t.lists = [] ∧ t.inflight = 0 ∧ t.pushed = t.popped) := by decide

/-! ### Tasks, phases, frontiers, traps, pre-emption -/

/-- The task of the tests, and its steward's crew with some fields set. -/
def task1 : Task := mkTask 7 3 2 kern ⟨1, 1, 2, 4096, [1, 1]⟩ [] 0#64 none none false none

/-- `ScheduleSelector`: schedules with a sum at every crew, and busy times. -/
theorem wit_ScheduleSelector : [3, 5].sum ≠ 0 ∧ (∀ sch ∈ [[1, 1], [1, 2]], ((List.range 2).map (fun i => sch.getD i 0)).sum ≠ 0) ∧
    selectSched [[1, 1], [1, 2]] [3, 5] 0 = 1 := by decide

/-- `Phases`: a span of one crew, released, arrived and not arrived, whose steward has not exited. -/
theorem wit_Phases : ∀ b ∈ [none, some 5], let s := asks { ss with crew := { crew1 with phaseBusy := b, phaseGo := false } } { a := 7, b := 0 }
    s.taskOf 7 = some task1 ∧ s.spanCrews 7 0 = [s.crew] ∧ s.crew.id ≠ 0 ∧ (s.part task1.part).conf.mate = none ∧ s.stewardGone s.crew = false ∧
      s.me.sid = 0 ∧ s.crewOf 1 = some s.crew := by decide

/-- `FrontierSteps`: lanes that wait at a `JOIN` and are all those expected; a spilled entry and a refill in its last cycle; a stream eligible
for 65 cycles; a `YIELD` at its end. -/
theorem wit_FrontierSteps : let t : Stream := { gs.me with expected := 0xF0#32, refill := some 100, eligFor := 65, yieldUntil := 100 }
    let s := asks { gs with me := t } { r := ⟨1, 1⟩ }
    s.streamOf ⟨1, 1⟩ = some t ∧ (⟨⟨2, 0⟩, 1, 0xF0#32, .joinWait, false⟩ : Entry) ∈ t.frontier ∧ t.expected &&& ~~~(0xF0#32) = 0#32 ∧ t.expected ≠ 0#32 ∧
      100 ≤ s.clock ∧ 64 < t.eligFor ∧ t.promoted = none ∧ t.yieldUntil ≤ s.clock := by decide

theorem wit_FrontierSteps_ok : FrontierOk gs.me.frontier := by
  constructor
  · unfold Apart; decide
  · decide
  · unfold Ordered; decide
  · unfold Merged; decide

/-- `GroupsPark`: lanes at two `JOIN`s with nothing else left; an asynchronous trap of a group with a head. -/
theorem wit_GroupsPark : let t : Stream := { gs.me with expected := 0xFF#32, asyncs := [⟨8, 0x10, 64#64, none, []⟩]
                                                        frontier := [⟨⟨1, 0⟩, 3, 0xF#32, .joinWait, false⟩, ⟨⟨2, 0⟩, 1, 0xF0#32, .joinWait, false⟩] }
    (∀ x ∈ t.frontier, x.st = .joinWait ∧ x.spilled = false ∧ t.expected &&& ~~~x.mask ≠ 0#32) ∧ 2 ≤ t.frontier.length ∧
      (∃ x ∈ t.frontier, ∀ y ∈ t.frontier, y.pc.lt x.pc = false) ∧ (∃ x ∈ t.frontier, ∃ y ∈ t.frontier, y.pc.lt x.pc = true) ∧
      t.gone = false ∧ (gs.me.head).map Entry.mask ≠ some 0#32 := by decide

/-- A steward with a handler, a record in its queue and one that waits. -/
def rs : State := asks { ss with
  me := { ss.me with tvec := 0x80000003#32 }
  crew := { crew1 with records := [⟨false, 0, 0, 3, 0#32, 1#32, 8#64, false, false⟩], recWait := [⟨true, 0, 0, 0x0D, 0#32, 0#32, 0#64, true, false⟩] } } { a := 1 }

/-- `RecordsAndHandlers`: a handler that can be entered, at the last packet; one that cannot; a record of a breakpoint under a session. -/
theorem wit_RecordsAndHandlers : rs.streamOf ⟨1, 0⟩ = some rs.me ∧ rs.crewOf 1 = some rs.crew ∧ rs.taskOf rs.crew.task = some task1 ∧
    (rs.me.tvec.getLsbD 31 = true ∧ rs.me.tvec.toNat % 2 ^ 26 < task1.kernel.spkts) ∧ ¬((4 : Nat) < task1.kernel.spkts) ∧ rs.me.handler = none ∧
    rs.me.gone = false ∧ (∀ x ∈ rs.crew.records ++ rs.crew.recWait, x.esc = false) ∧ rs.crew.saved = false ∧ rs.me.frontier ≠ [] ∧
    rs.crew.records.length ≤ 64 := by decide

theorem wit_RecordsAndHandlers_session : let s : State := { rs with parts := [(2, { Part.blank with session := true })], me := ss.me }
    (s.part s.crew.part).session = true ∧ s.me.tvec.getLsbD 31 = false := by decide

/-- The handler starts at the packet that `TVEC` names, with the record in its registers. -/
theorem test_handler : (match exec .handlerEntry rs with
    | .next t => (t.me.frontier.map (fun e => (e.pc, e.prio)), t.me.trapcause, t.me.trapaddr) | _ => ([], 0, 0)) =
      ([(⟨3, 0⟩, 0)], 3#32, 8#64) := by decide

/-- `Launches`: a descriptor that is aligned and within the share, one that is not aligned and one beyond it; the checks of R93 at the ends of
their ranges. -/
theorem wit_Launches : (let off : Nat := 4096 - 192; off % 64 = 0 ∧ off + 192 ≤ ss.crew.shareSize ∧ ss.crew.shareSize < off + 64 + 192) ∧ 5 % 64 ≠ 0 ∧
    launchDescOk (List.replicate 192 0#8) = true ∧ launchDescOk (List.replicate 192 0xFF#8) = false ∧
    launchCause kern ⟨2 ^ 20, 12, 16, 2 ^ 20, [16]⟩ = 0 ∧ launchCause kern ⟨2 ^ 20 + 1, 12, 16, 2 ^ 20, [16]⟩ = 5 ∧
    launchCause kern ⟨1, 1, 1, 4096, [2]⟩ = 1 ∧ launchCause kern ⟨1, 1, 1, 4096, [0, 1]⟩ = 2 ∧
    launchCause { kern with sched := [[1, 1]] } ⟨1, 1, 1, 4096, [1]⟩ = 3 ∧
    launchCause { kern with tiles := [0x04000FC0#64] } ⟨1, 1, 1, 4096, [1]⟩ = 0 ∧
    launchCause { kern with tiles := [0x04001000#64] } ⟨1, 1, 1, 4096, [1]⟩ = 4 := by decide

/-- `Placement`: a task whose next span fits, and one that has waited 10 µs. -/
theorem wit_Placement : let t : Task := { task1 with waitSince := some 64 }
    let s := asks { ss with tasks := [t], nextId := 9, parts := [(2, { Part.blank with configured := true, conf := { Part.blank.conf with clusters := 1#32 } })] } { a := 7 }
    s.taskOf 7 = some t ∧ (∀ x ∈ s.tasks, x.id = t.id → x = t) ∧ t.ready = true ∧ s.unplaceable t = false ∧ (s.part t.part).places = true ∧
      s.othersFirst t = false ∧ s.placeFor t = some [(0, 1, 4096)] ∧ s.crew.id < s.nextId ∧ (∀ c ∈ s.crews, c.id < s.nextId) ∧ s.nextId ≠ 0 ∧
      64 + 36000 ≤ ({ s with clock := 36064 } : State).clock ∧ s.clock < 65 + 36000 := by decide

/-- `Placement`: a task whose span fits nowhere now. -/
theorem wit_Placement_waits : let t : Task := { task1 with groups := 16, scratch := 2 ^ 20 }
    let s : State := { ss with tasks := [t], parts := [(2, { Part.blank with configured := true, conf := { Part.blank.conf with clusters := 1#32 } })],
                               dev := { ss.dev with halfSize := [(0, 1)] } }
    s.placeFor t = none ∧ s.unplaceable t = false ∧ t.waitSince = none := by decide

/-- `Retirement`: a stream that has exited, with nothing under way and with something; a crew beside another of its span; a task that is complete
and one whose producer has triggered. -/
theorem wit_Retirement : let t : Stream := { gs.me with exited := 0xFFFFFFFF#32 }
    t.gone = true ∧ t.retired = false ∧ t.pend = [] ∧ t.wb = [] ∧ t.asyncs = [] ∧ gs.me.gone = false ∧ hs.me.pend ≠ [] ∧
    (let s : State := { ss with me := { ss.me with retired := true }, crews := [{ crew1 with id := 2 }] }
     (∀ x ∈ s.streamsOf s.crew, x.retired = true) ∧ s.crewBusy s.crew = false ∧
       ∃ d ∈ s.allCrews, d.task = s.crew.task ∧ d.span = s.crew.span ∧ d.id ≠ s.crew.id ∧ d.retired = false) ∧
    (let k : Task := { task1 with placed := 1, retired := 1 }; k.launch = none ∧ k.placed = k.spans ∧ k.retired = k.spans * k.crews) ∧
    (let s : State := { ss with me := { ss.me with trig := 1#32 }, tasks := [{ task1 with placed := 1 }, { task1 with id := 8, waitsFor := some 7 }] }
     ∃ q, s.taskOf 7 = some q ∧ q.placed = q.spans ∧ ∀ d ∈ s.allCrews, d.task = q.id → ∀ x ∈ s.streamsOf d, x.retired = true ∨ x.trig &&& x.full = x.full) := by
  refine ⟨by decide, by decide, by decide, by decide, by decide, by decide, by decide, by decide, by decide, _, rfl, by decide, by decide⟩

/-- `Preemption`: a crew that runs, one that stops and is not ready, and one that is. -/
theorem wit_Preemption : let s := asks ss { a := 7, b := 0 }
    s.spanCrews 7 0 = [s.crew] ∧ s.crew.id ≠ 0 ∧ s.crewOf 1 = some s.crew ∧ s.crew.retired = false ∧ s.crew.saved = false ∧ s.crew.stopAt = none ∧
      s.saveReady { crew1 with stopAt := some 90 } = true ∧ ({ hs with crew := { crew1 with stopAt := some 90 } } : State).saveReady { crew1 with stopAt := some 90 } = false ∧
      ss.clock < 90 + 5400 ∧ 90 + 5400 ≤ ({ ss with clock := 5490 } : State).clock := by decide

/-- `Restores`: a saved crew that fits on cluster 0, and on none. -/
theorem wit_Restores : let s := asks { ss with crew := { crew1 with saved := true }, parts := [(2, { Part.blank with conf := { Part.blank.conf with clusters := 1#32 } })] } { a := 7, b := 0 }
    s.spanCrews 7 0 = [s.crew] ∧ s.crew.rank = 0 ∧ (s.part 2).places = true ∧ s.spanFits 2 0 1 2 4096 0 [false] = some [(0, 0, 0)] ∧
      s.spanFits 2 1 1 2 4096 0 [false] = none := by decide

/-- `Debugger`: a stream that is stopped in a partition that allows the debugger; one that does not. -/
theorem wit_Debugger : ({ Part.blank with conf := { Part.blank.conf with debug := true } } : Part).conf.debug = true ∧ Part.blank.conf.debug = false ∧
    bits (0x7FF00#64) 3 0 = 0 ∧ bits (0x7FF00#64) 18 13 = 63 ∧ bits (0x7FF00#64) 12 8 = 31 := by decide

/-- `Beagle`: a queue whose parts make up its total, and one that lost a right. -/
theorem wit_Beagle : ss.allCrews = [ss.crew] ∧ ss.crew.id ≠ 0 ∧ ss.dev.conns = [] ∧
    (let q : TileQueue := ⟨true, 0, 1, 4, 2, [0], 1⟩; q.allow + q.handles.length + q.inflight = q.cap) ∧
    (let q : TileQueue := ⟨true, 0, 1, 4, 1, [0], 1⟩; q.allow + q.handles.length + q.inflight ≠ q.cap ∧ q.handles.length + q.inflight ≤ q.cap) := by decide

/-- The stream that a word was placed for, as the issuing stream. -/
def placed (i : Instr) : State := let s := State.reset.loaded (encode ⟨false, false, 0, 0, 0⟩ i)
  s.focus ⟨s.nextId - 1, if stewardWord i then 0 else 1⟩

/-- `DeadParties`: a group that waits for a flag that every other stream has left unset, and one that waits for nobody. -/
theorem wit_DeadParties : (let s : State := { placed (.xfwait 3) with crew := { (placed (.xfwait 3)).crew with flags := [] } }
      s.deadWait = true ∧ (s.taskOf s.crew.task).isSome = true) ∧ (placed .nop).deadWait = false := by decide

/-- `SlackwaterAndPolls`: a stream that stands at a `WLPOP`, and one at a `TKWAIT`. -/
theorem wit_Slackwater : (placed (.wlpop 1 4 15)).headInstrs (placed (.wlpop 1 4 15)).crew (placed (.wlpop 1 4 15)).me = [.wlpop 1 4 15] ∧
    (placed (.tkwait 1 4 0)).headInstrs (placed (.tkwait 1 4 0)).crew (placed (.tkwait 1 4 0)).me = [.tkwait 1 4 0] := by decide

/-! ### Tensors, tiles, copies -/

/-- A descriptor of a dense copy of 8 bytes within a share, from offset 0 to offset 64, with `xop` and flags to be given. -/
def cdesc (xop ctl : Byte) (src dst : Nat) : List Byte :=
  [xop, ctl, 10, 0] ++ leBytes 4 1 ++ leBytes 4 8 ++ leBytes 4 0 ++ leBytes 8 src ++ List.replicate 16 0 ++ leBytes 8 dst ++ List.replicate 16 0
/-- A command with that descriptor. -/
def ccmd (st : CmdSt) (d : List Byte) : CopyCmd where
  id := 9
  part := 2
  crew := 1
  desc := d
  off := 128
  barrier := 3
  xform := false
  pkr := 0
  upto := 9
  st := st
  srcEnt := []
  dstEnt := []
  phase := .runs
  run := 0
  fetched := false
  moved := false
/-- The share addresses of the crew itself. -/
def cshare (o : Nat) : Nat := 0xAF * 2 ^ 56 + o
def cplain : List Byte := cdesc 0 0x18 (cshare 0) (cshare 64)
/-- A steward whose command `k` is in the state given, for a step that names it. -/
def ks (k : CopyCmd) : State := asks { ss with copies := [k], mem := [(scratchHome 0 + 1, 7#8)] } { a := 9, b := 5 }

/-- A tensor of 2 rows of 8 elements of one byte at address 64. -/
def tdesc : List Byte := [3, 1, 0, 0] ++ leBytes 4 0 ++ leBytes 8 64 ++ leBytes 4 1 ++ leBytes 4 1 ++ leBytes 4 2 ++ leBytes 4 8 ++
  leBytes 4 0 ++ leBytes 4 0 ++ leBytes 4 8 ++ leBytes 4 1 ++ List.replicate 16 0

/-- `TensorRefusals`, `TensorIds`: a descriptor that is accepted and one that is refused; IDs at both sides of the limit; an aligned descriptor
within the share. -/
theorem wit_TensorIds : tdesc.length = 64 ∧ tensorRefused tdesc = false ∧ tensorRefused (List.replicate 64 0) = true ∧ (ss.myPart.tensor 4095).derived = false ∧
      (ss.me.rdK 2).toNat < 2 ^ 12 ∧ 2 ^ 12 ≤ (ss.me.rdK 3).toNat ∧ (4032 % 64 = 0 ∧ 4032 + 64 ≤ ss.crew.shareSize) ∧
      ss.crew.shareSize < 4096 + 64 := by decide

/-- `TileTable`: a tile that may be set, and one that is filling; words at the ends of BYTES; an index that names no tile. -/
theorem wit_TileTable : ss.crew.tiles[0]? = some ⟨0, false, 2, false, 8, 512, 0, 0⟩ ∧ ss.tileUsed ss.crew 0 = false ∧
    ss.tlsetRefuses 0 ⟨0, false, 2, false, 8, 512, 0, 0⟩ 0x20000E00#64 = false ∧ ss.tlsetRefuses 0 ⟨0, false, 1, false, 8, 512, 0, 0⟩ 0x20000E00#64 = true ∧
    ss.tlsetRefuses 0 ⟨0, false, 2, false, 8, 512, 0, 0⟩ 0x20000E40#64 = true ∧ ss.crew.tiles.length ≤ 1 := by decide

/-- `CopyWords`: register values that trap and one that does not. -/
theorem wit_CopyWords : (128 % 2 ^ 32 % 64 = 0 ∧ 128 + 64 ≤ ss.crew.shareSize) ∧ 5 % 64 ≠ 0 ∧ ss.crew.shareSize < 4096 + 64 ∧
    (2 ^ 32 + 128) % 2 ^ 32 % 64 = 0 ∧ 2 ^ 32 ≤ 2 ^ 32 + 128 := by decide

/-- `CopyEndings`: commands at every stage of a crew whose share lies in a scratchpad; one that is accepted and one that is refused. -/
theorem wit_CopyEndings : let s := ks (ccmd .issued cplain)
    s.copyOf 9 = some (ccmd .issued cplain) ∧ s.crewOf 1 = some s.crew ∧ s.crew.retired = false ∧ (s.crew.shareHome + 128) % 64 = 0 ∧
      2 ^ 56 ≤ s.crew.shareHome ∧ s.crew.shareHome + 128 + 64 < 2 ^ 58 ∧ (∀ z ∈ s.copies, ¬(z.crew = 1 ∧ z.id < 9 ∧ z.st = .issued)) ∧
      (∀ m ∈ s.dev.msgs, m.cmd ≠ some 9) ∧ (ccmd .issued cplain).started = false ∧ (ccmd .running cplain).started = true := by decide

/-- `CopyChecks`: commands that each check refuses first, and one that passes them all. -/
theorem wit_CopyChecks : (List.map (fun d => ss.copyRefusal ss.crew (ccmd .issued d))
    [cplain, cdesc 0 0x98 (cshare 0) (cshare 64), cdesc 0 0x18 (cshare 0) (cshare 4096), cdesc 0 0x58 5 (cshare 64)]) = [0, 6, 3, 7] ∧
    ss.copyRefusal ss.crew { ccmd .issued (cdesc 1 0x18 (cshare 0) (cshare 4)) with xform := true } = 1 ∧
    ss.copyRefusal ss.crew { ccmd .issued (cdesc 4 0x18 (cshare 0) (cshare 64)) with xform := true } = 2 := by decide

/-- `CompressedSlots`: elements of one byte, none beyond its size. -/
theorem wit_CompressedSlots : (List.replicate 64 255).length = 64 ∧ (∀ v ∈ List.replicate 64 255, v < 2 ^ (8 * 1)) ∧
    slotElem (slotElided 1 (List.replicate 64 255)) 1 63 = 255 := by decide

/-- `CopyProgress`: a command whose tiles and drains let it start, one that they do not, and a parked one. -/
theorem wit_CopyProgress : let k := ccmd .waiting cplain
    let s := ks k
    copyTilesFree s.crew k = true ∧ s.srcDrained k (s.srcSide s.crew k).scr ((s.srcSide s.crew k).runs (copyDesc k.desc).rows (copyDesc k.desc).cols) = true ∧
      s.srcDrained k none k.scaleSpans = true ∧
      copyTilesFree s.crew (ccmd .waiting (cdesc 0 0x58 5 (cshare 64))) = false ∧ (0x8000000000000000#64).getLsbD 63 = true := by decide

/-- `CopyProgress`: a command that is parked at the page of address 0x20000, which the table does not map. -/
theorem wit_CopyProgress_lost : let k := ccmd .parked (cdesc 0 0x18 0x20000 (cshare 64))
    (ks k).parkedAt k = some 0x20000 ∧ k.st = .parked ∧ k.part = 2 := by decide

/-- `CopyRuns`: the one run of the plain copy, with the byte that it holds once it has been read. -/
theorem wit_CopyRuns : let k := ccmd .running cplain
    let s := ks k
    let held : State := { s with mem := s.mem.put (fetchHome 9 1) [7] }
    let a := s.srcSide s.crew k
    let b := s.dstSide s.crew k
    let w := (held.runWrites k a b 0).1
    w ≠ [] ∧ (∀ x ∈ w, s.crew.shareHome + x.1 < 2 ^ 58) ∧ (w.map Prod.fst).Pairwise (· < ·) ∧ holdsRuns k a b = false ∧
      a.scr = some 1 ∧ b.scr = some 1 ∧ s.crewOf 1 = some s.crew ∧ 2 ^ 56 ≤ s.crew.shareHome ∧ s.dev.ue = [] ∧ copySrcTile k.desc = none ∧
      copyDstTile k.desc = none ∧ nextPiece 0 (s.phaseSpans k a b) = some 0 ∧ nextPiece 64 (held.phaseSpans k a b) = none ∧ held.badSlot k a 0 = false := by
  decide
/-- `CopyRuns`: pages that are missing and that are lost. -/
theorem wit_CopyRuns_places : firstMissing [.home 0, .missing 0x20000] = some 0x20000 ∧ anyLost [.home 0, .missing 0x20000] = false ∧ anyLost [.lost] = true := by
  decide

/-- The copy moves its byte. -/
theorem test_copy : (match exec .copyRun (ks (ccmd .running cplain)) with
    | .next t => (t.mem.get (scratchHome 0 + 65), t.copies.map CopyCmd.st) | _ => (0, [])) = (7, [.ending]) := by decide

/-- A group whose 32 lanes are at the head, with a tile in the state `st` and pair 2 of lane 0 at `v`. -/
def mg (st : Nat) (v : Quad) : State := { base with
  crew := { crew1 with tiles := [⟨0, false, st, false, 0, 512, 0, 0⟩] }
  me := { Stream.blank 1 with
    v := [(64, lo32 v), (96, hi32 v)].filter (fun x => x.2 != 0#32)
    frontier := [⟨⟨1, 0⟩, 3, 0xFFFFFFFF#32, .ready, false⟩] } }
/-- The same crew with an engine whose queue is given; the engine is the one at the grant otherwise. -/
def me1 (s : State) (m : Matrix) : State := { s with crew := { s.crew with matrix := some m } }
/-- An entry of the sequencer. -/
def seqE (k : SeqKind) (x : Quad) : SeqEntry := ⟨1, k, 0, 8, x, 0, 0, 0, false, false, 0, []⟩
/-- A state whose sequencer has the entry `q` at its front. -/
def qs (q : SeqEntry) (st : Nat) : State := asks (me1 (mg st 0#64) { Matrix.grant with queue := [q] }) { a := 1 }

/-- `MatrixLoads`: free and taken engines; a steward, a short head; operands that each check refuses first, and one that passes. -/
theorem wit_MatrixLoads : let s := mg 2 0x00082000#64
    s.EngineFree ∧ s.me.sid ≠ 0 ∧ (2#6).toNat % 2 = 0 ∧ s.notAll = false ∧ s.dev.reduced = false ∧ (s.uni64 2#6).toNat = 0x00082000 ∧
      s.crew.tiles[0x00082000 % 256]? = some ⟨0, false, 2, false, 0, 512, 0, 0⟩ ∧ weightEnd 0 0 0 32 8 false = 256 ∧ 512 < weightEnd 0 0 0 32 32 false ∧
      s.myPart.tileComp ⟨0, false, 2, false, 0, 512, 0, 0⟩ = false ∧ (mg 2 0x00080001#64).crew.tiles.length ≤ 0x00080001 % 256 ∧
      gs.notAll = true ∧ ss.me.sid = 0 ∧ ss.EngineFree ∧ gs.EngineFree ∧
      ({ s with crews := [{ crew1 with id := 2, matrix := some Matrix.grant }] } : State).grantTaken = true := by
  unfold State.EngineFree; decide

/-- `LDSTAT` is entered, pins its tile and starts. -/
theorem test_ldstat : (match exec (.ldstat 2 0) (mg 2 0x00082000#64) with
    | .next t => (t.mx.queue.map SeqEntry.kind, t.crew.tiles.map Tile.pin, t.agenda.map Event.op, t.me.cfGet 0)
    | _ => ([], [], [], 0)) = ([.ldstat], [true], [.seqLdstat], 1) := by decide

/-- `MatrixSteps`: a plane shape that a step of N 32 and K 32 fits, an open batch, a type that is reserved. -/
theorem wit_MatrixSteps : let s := me1 (mg 2 0#64) { Matrix.grant with predA := some ⟨0, 0, 32, 32, 32⟩ }
    s.EngineFree ∧ s.notAll = false ∧ shapeTable 0 0 (0 % 8) = (32, 32) ∧ activationEnd 0 0 16 32 false false = 512 ∧
      s.mx.batches = [] ++ [⟨0, false, 0, 0, [], false⟩] ∧ 12 ≤ (12#4).toNat ∧ 64 < (shapeTable 0 0 (7 % 8)).1 ∧
      512 < activationEnd 0 0 32 32 false false ∧ (mg 2 0#64).mx.predA = none := by
  unfold State.EngineFree; decide

/-- `MMA` is entered and joins the open batch. -/
theorem test_mma : (match exec (.mma 3 0 0 2) (me1 (mg 2 0#64) { Matrix.grant with predA := some ⟨0, 0, 32, 32, 32⟩ }) with
    | .next t => (t.mx.queue.map SeqEntry.kind, t.mx.batches.map Batch.accs, t.mx.pins.map Pin.batch) | _ => ([], [], [])) =
    ([.mma 0 0 0 3], [[3]], [some 0]) := by decide

/-- `MatrixDrains`: an operand for 2 rows of 8 columns fits its tile, one with more rows than 64 does not; an accumulator in flight. -/
theorem wit_MatrixDrains : let s := mg 2 0x00080200#64
    s.EngineFree ∧ s.notAll = false ∧ (3#6).toNat < 16 ∧ 16 ≤ (16#6).toNat ∧ (s.uni32 2#6).toNat = 0x00080200 ∧ 32 * (2 - 1) + 32 ≤ 512 ∧
      ¬(∃ b ∈ s.mx.batches, (3#6).toNat ∈ b.accs) ∧ (∃ b ∈ [(⟨0, false, 1, 1, [3], false⟩ : Batch)], (3#6).toNat ∈ b.accs) := by
  unfold State.EngineFree; decide

/-- `DRAIN.PLAIN` and `ACLR` are entered. -/
theorem test_drainWord : (match exec (.drainPlain 3 2 0) (mg 2 0x00080200#64), exec (.aclr 3) (mg 2 0#64) with
    | .next t, .next u => t.mx.queue.map SeqEntry.kind ++ u.mx.queue.map SeqEntry.kind | _, _ => []) = [.drain 0 3, .aclr 3] := by decide

/-- `MatrixBatches`: an open batch after none; a number that was committed and one that was not; a group that waits for batch 1. -/
theorem wit_MatrixBatches : let s := mg 2 1#64
    s.grantTaken = false ∧ (s.mx.batches.filter (fun b => b.committed && !b.finished)).length < 4 ∧ s.mx.batches = [] ++ [⟨0, false, 0, 0, [], false⟩] ∧
      (∀ n < s.mx.serial, n % (2 ^ 32 - 1) + 1 ≠ (s.uni32 2#6).toNat) ∧
      (∃ n < (me1 s { Matrix.grant with serial := 1 }).mx.serial, n % (2 ^ 32 - 1) + 1 = (s.uni32 2#6).toNat) := by decide

/-- `MatrixBatches`: the wait of a group for the one batch committed. -/
theorem wit_MatrixBatches_wait : let m : Matrix := { Matrix.grant with serial := 1, batches := [⟨0, true, 0, 0, [], true⟩, ⟨1, false, 0, 0, [], false⟩] }
    let s0 := me1 (mg 2 1#64) m
    let s := asks { s0 with me := { s0.me with blocked := some (.mwait 1#32) } } { r := ⟨1, 1⟩ }
    s.streamOf ⟨1, 1⟩ = some s.me ∧ s.crewOf 1 = some s.crew ∧ s.crew.matrix = some m ∧ 0 % (2 ^ 32 - 1) + 1 = (1#32).toNat ∧ 0 < m.serial ∧
      (∀ k < m.serial, k % (2 ^ 32 - 1) + 1 = (1#32).toNat → k ≤ 0) ∧ (∀ y ∈ m.batches, y.serial ≤ 0 → y.finished = true) := by decide

/-- `COMMIT` closes the open batch, which has no steps, and it finishes. -/
theorem test_commit : (match exec (.commit 4) (mg 2 0#64) with
    | .next t => (t.mx.serial, t.mx.batches.map Batch.finished) | _ => (0, [])) = (1, [true, false]) := by decide

/-- `SequencerSteps`: front entries of each kind. -/
theorem wit_SequencerSteps : let s := qs (seqE .ldstat 0x00082000#64) 2
    s.crewOf 1 = some s.crew ∧ s.crew.matrix = some { Matrix.grant with queue := [seqE .ldstat 0x00082000#64] } ∧ s.crew.saved = false ∧
      s.crew.tiles[0x00082000 % 256]? = some ⟨0, false, 2, false, 0, 512, 0, 0⟩ ∧ (qs (seqE .swap 0#64) 2).crewOf 1 ≠ none ∧
      s.streamOf ⟨1, 1⟩ = some s.me ∧ s.me.retired = false ∧ s.me.gone = false ∧ (seqE (.aclr 3) 0#64).kind = .aclr 3 ∧
      ({ seqE .swap 0#64 with done := true, endAt := 100 } : SeqEntry).endAt ≤ s.clock ∧ s.clock < ({ seqE .swap 0#64 with endAt := 101 } : SeqEntry).endAt := by
  decide

/-- The weight tile goes to the shadow plane. -/
theorem test_seqLdstat : (match exec .seqLdstat (qs (seqE .ldstat 0x00020400#64) 2) with
    | .next t => (t.mx.shadow.map (fun p => (p.shape, p.data.length)), t.mx.queue.map SeqEntry.endAt) | _ => (none, [])) =
    (some (⟨0, 0, 4, 4, 2⟩, 20), [133]) := by decide

/-- `MatrixPasses`: a step at its fetch and at its one pass. -/
theorem wit_MatrixPasses : let q := seqE (.mma 0 0 0 3) 0#64
    let s := qs q 2
    s.crewOf 1 = some s.crew ∧ s.crew.tiles[q.x.toNat % 256]? = some ⟨0, false, 2, false, 0, 512, 0, 0⟩ ∧ q.done = false ∧ s.crew.saved = false ∧
      q.endAt ≤ s.clock ∧ q.pass = 0 ∧ ({ q with pass := 1 } : SeqEntry).pass ≠ 0 ∧ 16 ≤ 16 * 1 ∧ 16 * 1 < 32 ∧
      s.mmaBadSlot s.crew ⟨0, false, 2, false, 0, 512, 0, 0⟩ 0 0 0 = none := by decide

/-- `DrainSteps`: a drain that may start, one that waits for its tile, and one whose time is over. -/
theorem wit_DrainSteps : let q := seqE (.drain 0 3) 0x00080200#64
    let s := qs q 2
    s.crewOf 1 = some s.crew ∧ s.crew.tiles[0x00080200 % 256]? = some ⟨0, false, 2, false, 0, 512, 0, 0⟩ ∧ drFmtOk 0 q.x = true ∧
      2 ^ 56 ≤ s.crew.shareHome + 0 ∧ s.crew.shareHome + 0 + 2 ^ 21 < 2 ^ 58 ∧ s.crew.retired = false ∧ s.crew.saved = false ∧
      (qs q 1).crew.tiles[0]? = some ⟨0, false, 1, false, 0, 512, 0, 0⟩ ∧ ({ q with pass := 1, endAt := 100 } : SeqEntry).endAt ≤ s.clock ∧
      s.clock < ({ q with pass := 1, endAt := 101 } : SeqEntry).endAt := by decide

/-- Element (1, 0) of an accumulator goes to its place in row 1. -/
theorem test_seqDrain : (match exec .seqDrain (asks (me1 (mg 1 0#64) { Matrix.grant with
      acc := [(4096 * 3 + 64, 0x3F800000#32)], queue := [{ seqE (.drain 0 3) 0x00010200#64 with pass := 1 }] }) { a := 1 }) with
    | .next t => (t.mem.get (scratchHome 0 + 16 + 3), t.crew.tiles.map Tile.st) | _ => (0, [])) = (0x3F#8, [2]) := by decide

/-- The entry of a weight tensor of 2 rows of 8 integers at address 0x4000, in the channels. -/
def went : List Quad := entWords ([10, 0x0B, 0, 1] ++ leBytes 4 0 ++ leBytes 8 0x4000 ++ leBytes 4 1 ++ leBytes 4 1 ++ leBytes 4 2 ++ leBytes 4 8 ++
  leBytes 4 0 ++ leBytes 4 0 ++ leBytes 4 8 ++ leBytes 4 1 ++ List.replicate 16 0)
/-- A row-dot command on its rows: slot 3, barrier 5, results at 2^30. -/
def wcmd (notify rows : Byte) : List Byte := [0, 3, 5, notify, 0, 0, 0, 0] ++ leBytes 4 0 ++ [rows, 0] ++ leBytes 2 8 ++ leBytes 4 1 ++ leBytes 4 0 ++ leBytes 8 (2 ^ 30)
/-- Package memory with page tables for 2 GiB, the second of them at the result windows, and the command in the share. -/
def wmem : Memory := [(1, 0x10), (7, 0x80), (0x1001, 0x20), (0x1007, 0x80), (0x2007, 0xC7), (0x200D, 0x40), (0x200F, 0xC7), (0x4000, 2), (0x4009, 3),
  (scratchHome 0 + 33, 3), (scratchHome 0 + 34, 5), (scratchHome 0 + 35, 0xFF), (scratchHome 0 + 44, 2), (scratchHome 0 + 46, 8), (scratchHome 0 + 48, 1),
  (scratchHome 0 + 59, 0x40)]
/-- A steward whose k2 names the command. -/
def ws : State := { ss with
  me := { ss.me with k := [(2, 32#64), (3, 0xFFFFFFFFFFFFFFFF#64)] }
  mem := wmem
  parts := [(2, { Part.blank with configured := true, tensors := [(0, went)] })] }
/-- A command that its slice has accepted. -/
def bcmd (d : List Byte) : BankCmd where
  id := 9
  part := 2
  crew := 1
  slot := 3
  desc := d
  pkr := 0#64
  upto := 9
  pc := 8#32
  slice := 0
  ent := went
  accepted := true
  sending := false
  ready := true
  running := false
  suspended := false
  cancelled := false
  ended := false
  step := 0
  lease := none
  handover := 0
  served := 0
  x := List.replicate 8 1
  read := []
  bad := []
  code := 0
  cause := 0
  first := 2 ^ 32 - 1
  npois := 0
/-- A state with the command `k` in it, for a step that names it. -/
def bks (k : BankCmd) (d : Nat) : State := asks { ws with banks := [k] } { a := 9, d := d }

/-- `BankWords`: the command in the share, whose row and result window are where they must be; slots of both kinds. -/
theorem wit_BankWords : ws.me.sid = 0 ∧ ws.dev.reduced = false ∧ (ws.me.rdK 2).toNat % 2 ^ 32 % 32 = 0 ∧ (ws.me.rdK 2).toNat < 2 ^ 32 ∧
    32 + 32 ≤ ws.crew.shareSize ∧ ws.descBytes (ws.me.rdK 2) 32 = wcmd 255 2 ∧ ws.rwinOk (bcmd (wcmd 255 2)) = true ∧
    ws.rowHome 2 ((bcmd (wcmd 255 2)).rowAt 0) 0#64 false ≠ none ∧ (tensorOfBytes (entBytes went)).valid = true ∧
    (tensorOfBytes (entBytes went)).rows = 2 ∧ ws.rwinOk (bcmd (wcmd 255 2 |>.take 24)) = false ∧ 16 ≤ ws.opN ws.natW 3 0 ∧ gs.me.sid ≠ 0 := by
  decide

/-- `BKCMD` takes its slot, and `BKCANCEL` of that slot ends the command. -/
theorem test_bkcmd : (match exec (.bkcmd 2) ws with
    | .next t => t.banks.map BankCmd.slot ++ t.crew.bankSlots.map Prod.fst | _ => []) = [3, 3] ∧
    (match exec (.bkcancel 2) { bks (bcmd (wcmd 255 2)) 0 with me := { ss.me with k := [(2, 3#64)] } } with
    | .next t => t.banks.map BankCmd.ended | _ => []) = [true] := by decide

/-- `BankChecks`: a command that passes all checks; one with BARRIER out of range fails the first. -/
theorem wit_BankChecks : (wcmd 255 2).length = 32 ∧ ws.bankRefusal ws.crew (bcmd (wcmd 255 2)) = 0 ∧ ws.bankRefusal ws.crew (bcmd (wcmd 255 0)) = 1 ∧
    ws.bankRefusal ws.crew { bcmd (wcmd 255 2) with ent := went.set 0 0x010003#64 } = 1 ∧
    ws.bankRefusal ws.crew { bcmd (wcmd 255 2) with slice := 1 } = 3 := by decide

/-- `BankAcceptance`: a command on its way to a slice with room, and one accepted whose tile is ready. -/
theorem wit_BankAcceptance : let k := bcmd (wcmd 255 2)
    let s := bks { k with accepted := false } 0
    s.bankOf 9 = some { k with accepted := false } ∧ s.crewOf 1 = some s.crew ∧ (s.part 2).resetting = false ∧ k.sending = false ∧
      (s.banks.filter (fun x => x.slice == 0 && x.accepted)).length < 32 ∧ s.Lies 2 (2 ^ 30) 8 (2 ^ 46) ∧
      s.crew.tiles[k.btile]? = some ⟨0, false, 2, false, 8, 512, 0, 0⟩ ∧
      s.rangeDrained ⟨1, 0⟩ 2 9 none ((List.range k.rows).flatMap k.rowRanges) = true ∧ s.rangeDrained ⟨1, 0⟩ 2 9 (some 1) [(0, k.xBytes)] = true := by
  refine ⟨by decide, by decide, by decide, by decide, by decide, ⟨by decide, by decide, by decide, by decide, by decide, by decide, ?_⟩, by decide, by decide, by decide⟩
  intro p r v h; exact nomatch (show (none : Option (Nat × Region)) = some (p, r) from h)

/-- `BankSteps`, `BankBoundaries`, `BankEndings`: the first step reads one row of bank 8; a step in progress; a command that has ended. -/
theorem wit_BankSteps : let k := bcmd (wcmd 255 1)
    let s := bks k 0
    s.bankOf 9 = some k ∧ k.ended = false ∧ s.bankTurn k = true ∧ s.stepRows k = [(8, 0)] ∧ s.dev.govCols = 0 ∧ k.mode = 0 ∧
      (s.part 2).resetting = false ∧ s.rowsRepack k [0] = false ∧ s.bankHits k 0 (s.bankRead k 0) s.dev.ue = [] ∧
      s.bankHits k 0 (s.bankRead k 0) s.dev.ce = [] ∧ k.slotsBad 0 (s.bankRead k 0) = false ∧ k.poisoned 0 0 = false ∧
      tget [] s.dev.deferred k.slice = [] ∧ s.bankSteps k ≤ 0 + 1 := by decide
/-- `BankSteps`: a row whose first granule has a corrected error, and one whose first granule has an uncorrectable one. -/
theorem wit_BankSteps_errors : let k := bcmd (wcmd 255 1)
    let s : State := { bks k 0 with dev := { ws.dev with ce := [0x4000], ue := [0x4000] } }
    ((s.bankHits k 0 (s.bankRead k 0) s.dev.ce).map Prod.snd).eraseDups = [0x4000] ∧ s.bankHits k 0 (s.bankRead k 0) s.dev.ue ≠ [] := by decide
/-- `BankBoundaries`: requests of which the oldest would have waited past the window, and one that would not; a suspension that is over and one that
is not. -/
theorem wit_BankBoundaries : let k := bcmd (wcmd 255 2)
    let late : Event := { op := .readPerform, arg := {}, due := 100, wait := .slice 0 }
    let s : State := { bks k 0 with clock := 1300, agenda := [late, { late with due := 1290 }], dev := { ws.dev with arbW := 336 } }
    let w := (s.agenda.filter (fun x => x.wait == .slice k.slice)).map Event.due
    w = [100, 1290] ∧ 360 * s.dev.arbW < 100 * (s.clock - 100) + 36 * (192 + 16 * k.columns) ∧
      ¬360 * s.dev.arbW < 100 * (s.clock - 1290) + 36 * (192 + 16 * k.columns) ∧ 0 + 1 < s.bankSteps k ∧
      1069 + 231 ≤ s.clock ∧ ¬1070 + 231 ≤ s.clock ∧ (∀ x ∈ (bks k 0).agenda, x.wait ≠ .slice k.slice) := by decide
/-- A slice whose bank command is in a step keeps a home of its own, and a repack keeps its region's (R346, R379). -/
theorem wit_Holds : (bks { bcmd (wcmd 255 1) with running := true, lease := some 130 } 0).homeHold 0x4000 = some (.slice 0) ∧
    (bks (bcmd (wcmd 255 1)) 0).homeHold 0x4000 = none := by decide
theorem wit_BankSteps_lies : (bks (bcmd (wcmd 255 1)) 0).Lies 2 (2 ^ 30 + 64 + 4 * 0) 4 (2 ^ 46 + 64) ∧
    (bks { bcmd (wcmd 0 1) with ended := true, npois := 1, first := 0 } 0).Lies 2 (2 ^ 30) 64 (2 ^ 46) := by
  constructor <;> refine ⟨by decide, by decide, by decide, by decide, by decide, by decide, ?_⟩ <;> intro p r v h <;> exact nomatch (show (none : Option (Nat × Region)) = some (p, r) from h)

/-- The row's result, 2, is written and its step closes with code 1. -/
theorem test_bankStep : (match exec .bankStep (bks (bcmd (wcmd 255 1)) 0) with
    | .next t => (t.mem.bytes (2 ^ 46 + 64) 2, t.agenda.map (fun e => e.arg.d)) | _ => ([], [])) = ([2, 0], [1]) ∧
    (match exec .bankStep (bks { bcmd (wcmd 255 1) with running := true, lease := some 100 } 1) with
    | .next t => t.banks.map (fun k => (k.ended, k.code)) | _ => []) = [(true, 1)] := by decide

/-- `BankSums`: products without NaN, in one block and in more. -/
theorem wit_BankSums : let ps := List.replicate 32 (FVal.num false 1 0)
    (∀ p ∈ ps ++ [FVal.num true 3 2], ∃ n m e, p = .num n m e) ∧ ps.length % 32 = 0 ∧ ps ≠ [] ∧ bankResult true ps = 32 := by
  refine ⟨?_, by decide, by decide, by decide⟩
  intro p h
  simp only [List.mem_append, List.mem_replicate, List.mem_singleton] at h
  rcases h with ⟨_, rfl⟩ | rfl
  · exact ⟨_, _, _, rfl⟩
  · exact ⟨_, _, _, rfl⟩

/-- `GovernorAndBerr`: operands of both kinds. -/
theorem wit_GovernorAndBerr : (0x8000000000000000#64).getLsbD 63 = true ∧ (0x7FFFFFFFFFFFFFFF#64).getLsbD 63 = false ∧ 15 < 16 := by decide

-- one proof after another from here on: the values of the longer ones take memory
set_option Elab.async false

/-- `SuccinctAnswers`: a 1 with its match and one without, a 0 with its match and one without, positions past the end. -/
theorem wit_SuccinctAnswers : [true, false][0]? = some true ∧ succinctAnswer [true, false] 5 0 = .ok 1 ∧ succinctAnswer [true] 5 0 = .noMatch ∧
    succinctAnswer [true, false] 6 1 = .ok 0 ∧ succinctAnswer [false] 6 0 = .noMatch ∧ succinctAnswer [true, true] 7 1 = .ok 0 ∧
    succinctAnswer [true] 1 1 = .ok 1 ∧ succinctAnswer [true] 1 2 = .refused ∧ succinctAnswer [false, true] 3 1 = .ok 1 ∧
    succinctAnswer [false, true] 2 2 = .refused := by decide

/-- A registered region of one block, and memory with its two live bits 1 and 0. -/
def rgn : Region := ⟨3, 0x10000, 1, 0, true, 0x11000, 0x12000, 0x13000, 0x14000, 0, [(0x10000, 0x10000)], 0, 0, [], [(0, 0, 0)], [], false⟩
def rmem : Memory := [(1, 0x10), (7, 0x80), (0x1001, 0x20), (0x1007, 0x80), (0x2007, 0xC7), (0x11000, 1), (0x12000, 1), (0x12001, 8)]
/-- `RegionDrains`: writes to its block, to its directory and to another byte of its page. -/
theorem wit_RegionDrains : ∀ h ∈ [0x11000, 0x12000, 0x15000], let s := wd { hs with mem := rmem, parts := [(2, { Part.blank with regions := [rgn] })] } h
    s.MayDrain (wr4 h) ∧ s.regionAt h = some (2, rgn) ∧ rgn.vaOf h = some h ∧ (rgn.blockAt h = some 0 ↔ h = 0x11000) ∧ (rgn.isDir h = true ↔ h = 0x12000) ∧
      (∀ q ∈ s.parts, q.2.deriveds = []) := by
  unfold State.MayDrain; decide +kernel
/-- The region while a repack runs. -/
def busyRgn : Region := { rgn with repacks := [⟨1, 1, 5, 0#64⟩] }
/-- The lane of a query word. -/
def rlane (x : Quad) : LaneReq := ⟨0, queryHome 0, false, x, 1#64, none, x, false⟩
/-- A group with a request of one lane under way in a partition with that region. -/
def rgs (k : ReqKind) (x : Quad) (g : Region) : State := asks { gs with
  mem := rmem
  parts := [(2, { Part.blank with configured := true, regions := [g] })]
  me := { gs.me with
    pend := [⟨9, none, false, [], none, 0#32, true, [], 94⟩]
    reqs := [⟨9, k, 4, [rlane x], [], none⟩] } } { r := ⟨1, 1⟩, a := 9, b := 0 }

/-- `SuccinctWords`: a query word that is in order, and one of no region; a short register. -/
theorem wit_SuccinctWords : let s := { rgs .saddr 0 rgn with me := { gs.me with v := [(96, 0x00300000#32), (97, 0x00400000#32)] } }
    (2#6).toNat % 2 = 0 ∧ (3#6).toNat % 2 = 1 ∧ s.headLanes = [0, 1, 2, 3] ∧ s.qwTrap (s.me.rd 64 2 0) false false false = false ∧
      s.qwTrap (s.me.rd 64 2 1) false false false = true ∧ s.qwTrap 0#64 true true true = true := by decide

/-- `SuccinctSteps`, `SuccinctUpdates`: lanes whose step may be performed, and one that waits for a repack. -/
theorem wit_SuccinctSteps (k : ReqKind) (h : k ∈ [ReqKind.succinct 5, .saddr, .bins, .bdel]) : let x := 0x0030000000000000#64
    let s := rgs k x rgn
    s.streamOf ⟨1, 1⟩ = some s.me ∧ s.queryAt = some (2, s.me, ⟨9, k, 4, [rlane x], [], none⟩, rlane x, rgn) ∧
      s.queryFree ⟨1, 1⟩ 2 s.me ⟨9, k, 4, [rlane x], [], none⟩ (rlane x) rgn = true ∧ s.dev.ue = [] ∧ s.regionHold rgn = none ∧
      (rgs k x busyRgn).regionHold busyRgn = some .repack ∧
      (let t := { s.me with wb := [⟨6, 5, ⟨1, 1⟩, 0, 0x11000, [(3, 0xFF)], 0, .global, 2, none⟩] }
       ({ s with me := t } : State).queryFree ⟨1, 1⟩ 2 t ⟨9, k, 4, [rlane x], [], none⟩ (rlane x) rgn = false) := by
  simp only [List.mem_cons, List.not_mem_nil, or_false] at h
  rcases h with rfl | rfl | rfl | rfl <;> exact ⟨rfl, rfl, by decide, rfl, by decide, by decide, by decide⟩

/-- The region with 64-byte records, and the items of an update of its block: its 1, an inserted 0 and an inserted 1. -/
def rgn64 : Region := { rgn with recsz := 64, recs := 0x18000 }
def items3 : List Item := [⟨true, some (0, 0)⟩, ⟨false, none⟩, ⟨true, none⟩]
theorem wit_Sound : rgn.Sound ∧ rgn64.Sound :=
  ⟨⟨by decide, by decide, by decide, by decide, by decide⟩, ⟨by decide, by decide, by decide, by decide, by decide⟩⟩
/-- `BlocksWritten`, `DeltaFolds`, `DirectoryBuilt`: that update is within the limits, and a record of the log names the block. -/
theorem wit_BlocksWritten : ∀ g ∈ [rgn, rgn64], let s := rgs .bins 0 g
    s.BlocksOk g ∧ items3.length ≤ 512 ∧ rankOne (items3.map Item.bit) 512 ≤ g.maxOnes ∧ 0 < g.nblk ∧ (∀ r ∈ (s.part 2).regions, r.handle = g.handle → r = g) ∧
      (s.part 2).deriveds = [] ∧ (s.parts.map Prod.fst).Nodup ∧ tget [] ({ g with logs := [(0, [⟨0, 0, 1, 1⟩])] } : Region).logs 0 = ⟨0, 0, 1, 1⟩ :: [] := by
  unfold State.BlocksOk; decide +kernel
/-- `DirectoryKeeper`: a region with a record in the log of its first sector, and one without; one that only waits for its folds. -/
theorem wit_DirectoryKeeper : let g := { rgn with logs := [(0, [⟨0, 0, 1, 1⟩])] }
    let s := asks (rgs .saddr 0 g) { a := 2, b := 3, c := 0 }
    (s.part 2).region 3 = some g ∧ (∀ r ∈ (s.part 2).regions, r.handle = 3 → r = g) ∧ tget [] g.logs 0 = ⟨0, 0, 1, 1⟩ :: [] ∧ g.dying = false ∧
      tget [] rgn.logs 0 = [] ∧ s.channelHolds (g.home g.sdir) = false ∧ (∀ r ∈ (s.part 2).regions, r.dying = false) ∧
      ({ g with dying := true } : Region).logs = [(0, [⟨0, 0, 1, 1⟩])] := by decide

/-- `RegistrationWords`: addresses that each check refuses first, one that passes, and one that the rights refuse. -/
theorem wit_RegistrationWords : let s := { ws with me := { ws.me with pkr := 1#64 } }
    2 ^ 57 ≤ (0x0200000000000000#64).toNat ∧ (32#64).toNat % 64 ≠ 0 ∧ (64#64).toNat % 64 = 0 ∧
    (∃ leaf sh, s.walk s.crew.part 64 = some (leaf, sh) ∧ s.me.pkr.getLsbD (2 * bits leaf 55 51) = true) ∧
    ws.walk ws.crew.part 64 = some (0xC700000000000000#64, 30) ∧ ws.me.pkr.getLsbD (2 * bits 0xC700000000000000#64 55 51) = false ∧
    ws.myPart.region 1 = none := by
  refine ⟨by decide, by decide, by decide, ⟨_, _, rfl, by decide⟩, by decide, by decide, by decide⟩

/-- Memory with the descriptor of a region of one block at 0x10000. -/
def dmem : Memory := [(1, 0x10), (7, 0x80), (0x1001, 0x20), (0x1007, 0x80), (0x2007, 0xC7), (0x10000, 1), (0x10009, 0x10), (0x1000A, 1),
  (0x10011, 0x20), (0x10012, 1), (0x10019, 0x30), (0x1001A, 1), (0x10021, 0x40), (0x10022, 1), (0x11000, 1), (0x12000, 1), (0x12001, 8)]
/-- A steward whose registration the keeper decides; the descriptor at `va`. -/
def dks (va : Quad) : State := asks { ss with
  mem := dmem
  parts := [(2, { Part.blank with configured := true, regions := [{ rgn with handle := 5, pages := [(0x20000, 0x20000)] }] })]
  me := { ss.me with pend := [⟨9, none, false, [], none, 0#32, true, [], 94⟩] } } { r := ⟨1, 0⟩, a := 9, b := 4, q := va }
theorem wit_Registration_lies : (dks 0x10000#64).Lies 2 (0x10000 + 0x30) 4 0x10030 ∧ (dks 0x8000#64).Lies 2 (0x8000 + 0x30) 4 0x8030 := by
  constructor <;> refine ⟨by decide, by decide, by decide, by decide, by decide, by decide, ?_⟩ <;> intro p r v h <;>
    exact nomatch (show (none : Option (Nat × Region)) = some (p, r) from h)
/-- `Registration`: a region that may go, one that a tree uses, one that a request asks. -/
theorem wit_Registration_gone : let s := dks 0x0050000000000000#64
    s.ctx.ev.q.toNat / 2 ^ 52 % 1024 = 5 ∧ ((s.part 2).region 5).isSome = true ∧ (s.part 2).trees = [] ∧ s.regionAsked 2 5 = false ∧ rgn.repacks = [] ∧ rgn.logs = [] ∧
      (s.part 2).region 4 = none ∧ (rgs .bins 0x0030000000000000#64 rgn).regionAsked 2 3 = true := by decide

theorem wit_Repacks_lies : (rgs .saddr 0 rgn).Lies 2 (rgn.desc + 0x30) 4 0x10030 := by
  refine ⟨by decide, by decide, by decide, by decide, by decide, by decide, ?_⟩
  intro p r v h h'
  have e : (some (2, rgn) : Option (Nat × Region)) = some (p, r) := h
  cases e
  have e' : (some 0x10030 : Option Nat) = some v := h'
  cases e'
  decide

/-- The region of a tree of dimension 64, and the tree's handle record. -/
def trgn : Region := { rgn with recsz := 384, recs := 0x18000 }
def tree7 : Tree := ⟨7, 3, 5, 6, 64, 0, 2⟩
/-- A key tensor of 4 rows of 64 BF16 elements. -/
def kent : List Quad := entWords ([2, 1, 0, 1] ++ leBytes 4 0 ++ leBytes 8 0x40000 ++ leBytes 4 1 ++ leBytes 4 1 ++ leBytes 4 4 ++ leBytes 4 64 ++
  leBytes 4 0 ++ leBytes 4 0 ++ leBytes 4 64 ++ leBytes 4 1 ++ List.replicate 16 0)
/-- A query on that tree: list 2, tile 0, barrier 5, room for 4 entries, from 0x20000. -/
def wqd : List Byte := [2, 0, 5, 7] ++ leBytes 4 4 ++ leBytes 8 0x20000 ++ List.replicate 16 0
def wqy (acc : Bool) : WQuery := ⟨9, 2, 1, 7, 0x11#32, wqd, 0#64, 0#32, 0#32, 0#32, 9, acc, false, 7, if acc then some 0 else none, List.replicate 64 0#32, 0#32, 0#32,
  0, 0, true, [], none, 0, 0⟩
/-- A steward in a partition with the tree, `k` among the walkers' queries. -/
def tqs (k : WQuery) (g : Region) (v : Quad) : State := asks { ss with
  mem := rmem
  queries := [k]
  parts := [(2, { Part.blank with configured := true, regions := [g], trees := [tree7], tensors := [(5, kent), (6, kent)] })]
  me := { ss.me with pend := [⟨9, none, false, [], none, 0#32, true, [], 94⟩] } } { r := ⟨1, 0⟩, a := 9, b := 4, q := v }

/-- `WalkerWords`: an aligned descriptor in the share; a tree that is bound and one whose walker has failed. -/
theorem wit_WalkerWords : let s := tqs (wqy true) trgn 0#64
    s.dev.reduced = false ∧ s.me.sid = 0 ∧ 64 % 2 ^ 32 % 32 = 0 ∧ 64 + 32 ≤ s.crew.shareSize ∧ s.myPart.tree 7 = some tree7 ∧ tree7.walker ∉ s.dev.failedWalkers ∧
      s.myPart.region tree7.region = some trgn ∧ s.myPart.tree 8 = none ∧ s.opN s.natW 2 0 < 256 ∧ 256 ≤ s.opN s.natW 3 0 := by decide

/-- `WalkerQueries`: a query whose turn it is and which passes its checks; an accepted one whose tile is ready. -/
theorem wit_WalkerQueries : let s := tqs (wqy false) trgn 0#64
    let k := wqy false
    s.crewOf 1 = some s.crew ∧ 0 < tget 64 s.dev.walkFree tree7.walker ∧ (s.part 2).conf.det = false ∧
      k.wl < 16 ∧ k.barrier < 64 ∧ 1 ≤ k.cap ∧ k.cap ≤ 2 ^ 20 ∧ k.entry % 32 = 0 ∧ s.entriesOk k = true ∧
      s.crew.tiles[k.tile]? = some ⟨0, false, 2, false, 8, 512, 0, 0⟩ ∧ 2 * tree7.d ≤ 512 ∧ k.desc.length = 32 ∧
      s.rangeDrained ⟨1, 0⟩ 2 9 (some 1) [(0, 2 * tree7.d)] = true ∧ (∃ x, s.taskOf 7 = some x ∧ x.quiet = false) ∧
      (∃ n m e, fBF16.decode 0 = .num n m e) ∧ fBF16.decode 0x7F80 = .inf false := by
  refine ⟨by decide, by decide, by decide, by decide, by decide, by decide, by decide, by decide, by decide, by decide, by decide, by decide, by decide,
    ⟨_, rfl, by decide⟩, ⟨_, _, _, rfl⟩, by decide⟩

/-- `WalkOrder`: a node after which the walk goes to its sibling, one after which it goes up, and one without a match. -/
theorem wit_WalkOrder : let l := [true, true, false, true, false, false]
    l[1]? = some true ∧ excessAt l (2 + 1) = excessAt l 1 ∧ l[2 + 1]? = some true ∧ excessAt l (4 + 1) = excessAt l 3 ∧ l[4 + 1]? = some false ∧
      (∀ n, n < [true].length → 0 < n → excessAt [true] (n + 1) ≠ excessAt [true] 0) := by decide

theorem wit_WalkerVisits_lies : (tqs (wqy true) trgn 0#64).Lies 2 (0x20000 + 32 * (0 + 1)) 32 0x20020 ∧
    (tqs (wqy true) trgn 0#64).Lies 2 0x20000 32 0x20000 := by
  constructor <;> refine ⟨by decide, by decide, by decide, by decide, by decide, by decide, ?_⟩ <;> intro p r v h <;>
    exact nomatch (show (none : Option (Nat × Region)) = some (p, r) from h)

/-- `WalkerSummaries`: an ended query of a live crew, one that may write its summary and one that may not. -/
theorem wit_WalkerSummaries : let s := tqs (wqy true) trgn 0#64
    s.crewOf 1 = some s.crew ∧ s.crew.retired = false ∧ s.entryPage (wqy true) 0x20000 = true ∧
      s.entryPage { wqy true with pkr := 2#64 } 0x20000 = false ∧ s.homeHold 0x20000 = none ∧ s.regionHold trgn = none ∧
      (s.serveAt (trgn.home trgn.blk)).homeHold 0x20020 = none := by decide

/-- A tile-major base of one tile of 64 by 64 integers, and the descriptor of its transpose, tensor 9. -/
def aent : List Quad := entWords ([10, 7, 0, 1] ++ leBytes 4 0 ++ leBytes 8 0x40000 ++ leBytes 4 1 ++ leBytes 4 1 ++ leBytes 4 64 ++ leBytes 4 64 ++
  leBytes 4 4096 ++ leBytes 4 4096 ++ leBytes 4 64 ++ leBytes 4 1 ++ List.replicate 16 0)
def ddesc (id : Byte) : List Byte := [0, 0, 0, 0, id, 0, 5, 0] ++ List.replicate 24 0
/-- The registration of that transpose, its one tile stale. -/
def der9 : Derived := ⟨9, 0, 0, false, 5, 0, 1, 0, derRange, derRange + 65536, 1, 1, 0, [0], [poolHome 2 0 0]⟩
/-- A steward in a partition with the base bound to object 0, and `l` registered. -/
def dgs (l : List Derived) (a : EvArg) : State := asks { ss with
  mem := dmem
  parts := [(2, { Part.blank with configured := true, tensors := [(5, aent)], bindings := [⟨0, 0x40, 1, none⟩], deriveds := l })]
  me := { ss.me with pend := [⟨9, none, false, [], none, 0#32, true, [], 94⟩] } } a

/-- `MarkingDrains`: a write to the tile of that base. -/
theorem wit_MarkingDrains : let s := wd { hs with parts := (dgs [der9] { }).parts } 0x40000
    s.MayDrain (wr4 0x40000) ∧ s.regionAt 0x40000 = none ∧ (s.parts.map Prod.fst).Nodup ∧ (∀ q ∈ s.parts, q.1 ≠ 2 → q.2.deriveds = []) ∧
      (∃ x ∈ (wr4 0x40000).data, x.2 ≠ 0#8) := by
  unfold State.MayDrain; decide

/-- `DerivedWords`: operands that each check refuses first; a registered tensor with a stale tile, and one that is not registered. -/
theorem wit_DerivedWords : let s := dgs [der9] { }
    let w := 9 + 2 ^ 12
    s.me.sid = 0 ∧ s.dev.reduced = false ∧ 64 % 2 ^ 32 % 32 = 0 ∧ 64 + 32 ≤ s.crew.shareSize ∧ w / 2 ^ 13 % 2 ^ 19 = 0 ∧ (2 ^ 13 / 2 ^ 13) % 2 ^ 19 ≠ 0 ∧
      s.myPart.derived (w % 4096) = some der9 ∧ s.myPart.derived 8 = none ∧ w / 2 ^ 32 ∈ der9.stale ∧ w / 2 ^ 32 < der9.tr * der9.tc ∧
      w / 2 ^ 12 % 2 = 1 ∧ s.dev.ue = [] ∧ 4096 ≤ (s.me.rdK 3).toNat ∧ (s.me.rdK 2).toNat < 4096 := by decide

/-- `DQUERY` with FRESH: the sample, and the recompute as the very next step. -/
theorem test_dquery : (match exec (.dquery 4 2 15) { dgs [der9] { } with me := { ss.me with k := [(2, BitVec.ofNat 64 (9 + 2 ^ 12))] } } with
    | .next t => (t.agenda.map Event.op, t.me.pend.map Pend.writes) | _ => ([], [])) =
    ([.derivedRecompute, .resultWriteback], [[.k 4 (BitVec.ofNat 64 (2 ^ 32 + 2 ^ 28 + 2 ^ 27 + 1))]]) := by decide

/-- `DerivedRegistration`: a descriptor that passes its checks, one whose ID is taken, one whose base is itself. -/
theorem wit_DerivedRegistration : let s := dgs [] { r := ⟨1, 0⟩, a := 9, b := 4, bytes := ddesc 9 }
    let x := derDesc (ddesc 9)
    let a := (s.part 2).tensor 5
    (ddesc 9).length = 32 ∧ x.ok = true ∧ s.streamOf ⟨1, 0⟩ = some s.me ∧ s.crewOf 1 = some s.crew ∧ s.partOf 1 = 2 ∧ a.valid = true ∧ baseAOk 0 a = true ∧
      s.derPlace 2 x a ((s.part 2).tensor 0) = some ([0], []) ∧ (s.derHomes 2 x a [0]).isSome = true ∧ s.derRoom 2 [0] [] = true ∧
      (s.part 2).derSync x a ((s.part 2).tensor 0) = some 0 ∧ (s.part 2).closes x = false ∧ (s.part 2).newDepths x = [(9, 1)] ∧ (s.part 2).derived 9 = none ∧
      (s.part 2).closes (derDesc (ddesc 5)) = true ∧ baseAOk 0 ((s.part 2).tensor 6) = false ∧ s.me.pend.find? (fun p => p.id == 9) = some ⟨9, none, false, [], none, 0#32, true, [], 94⟩ := by
  refine ⟨by decide, by decide, by decide, by decide, by decide, by decide, by decide, by decide +kernel, ?_, by decide, by decide, by decide, by decide, by decide,
    by decide, by decide, by decide⟩
  exact rfl

/-- `DerivedRemoval`: a registration that nothing uses, and one that another has as its base. -/
theorem wit_DerivedRemoval : let s := dgs [der9] { r := ⟨1, 0⟩, a := 9, q := 9 }
    s.streamOf ⟨1, 0⟩ = some s.me ∧ s.partOf 1 = 2 ∧ s.ctx.ev.q.toNat % 4096 = 9 ∧ (s.part 2).derived 9 = some der9 ∧
      (∀ x ∈ (s.part 2).deriveds, ¬(x.a = 9 ∨ (x.rule = 2 ∧ x.b = 9))) ∧ s.derUsed 2 der9 = false ∧ (s.part 2).derived 8 = none ∧
      ({ der9 with id := 10, a := 9 } : Derived).a = 9 := by decide

/-- `DerivedRules`: the bytes of a tile of one byte an element. -/
theorem wit_DerivedRules : (List.replicate 4096 (1 : Byte)).length = 4096 * (fmtBits 10 / 8) ∧ 8 ≤ fmtBits 10 :=
  ⟨List.length_replicate, by decide⟩

/-- `DerivedRecomputes`: a stale tile whose base can be read, and one that is not stale. -/
theorem wit_DerivedRecomputes : let s := dgs [der9] { a := 2, b := 9, c := 0 }
    (s.part 2).derived 9 = some der9 ∧ 0 ∈ der9.stale ∧ (s.part 2).innerTile der9 0 = none ∧ s.tileUe 2 der9 0 = none ∧
      (∀ x ∈ (s.part 2).deriveds, x.id = der9.id → x = der9) ∧ der9.rule ≠ 2 ∧ 1 ∉ der9.stale ∧ s.tileHold 2 der9 0 = none := by decide
/-- `DerivedRecomputes`: a tile of tensor 10 whose base tile, of tensor 9, is stale, and the recompute of that tile still to come. -/
theorem wit_DerivedRecomputes_chain : let s : State := { dgs [{ der9 with id := 10, a := 9 }, der9] { a := 2, b := 10, c := 0 } with
      agenda := [{ op := .derivedRecompute, arg := { a := 2, b := 9, c := 0 }, due := 100 }] }
    (s.part 2).innerTile { der9 with id := 10, a := 9 } 0 = some (der9, 0) ∧ 0 ∈ der9.stale ∧
      ∃ v ∈ s.agenda, v.op = .derivedRecompute ∧ v.arg.a = 2 ∧ v.arg.b = der9.id ∧ v.arg.c = 0 := by decide

/-- A device whose boot fetches from server `k` of two. -/
def bts (k : Nat) : State := { State.reset with dev := { Dev.reset with storeLive := [0, 0, 2], fetching := true, server := k, bootst := 1 } }
/-- `BootFetches`: a server after which one is left, the last one, and a device that waits for 30 s. -/
theorem wit_BootFetches : (bts 0).dev.fetching = true ∧ (bts 0).dev.bootst = 1 ∧ (bts 0).ctx.ev.d = 0 ∧ (bts 0).dev.server + 1 < min 8 (field (bts 0).dev.storeLive 2 1) ∧
    ¬(bts 1).dev.server + 1 < min 8 (field (bts 1).dev.storeLive 2 1) ∧
    (let s := { bts 1 with clock := 108000000001, dev := { (bts 1).dev with bootWait := true } }
     s.dev.bootWait = true ∧ min 8 (field s.dev.storeLive 2 1) ≠ 0 ∧ 0 + 30 * 3600000000 ≤ s.clock ∧ s.clock < 2 + 30 * 3600000000) ∧
    State.reset.dev.bootWait = false := by decide

/-- An image that has arrived is looked at in a step of its own, while `BOOTST` shows 2. -/
theorem test_imageFetchDone : (match exec .imageFetchDone (bts 0) with
    | .next t => (t.dev.bootst, t.agenda.map (fun x => (x.op, x.arg.d))) | _ => (0, [])) = (2, [(.imageFetchDone, 1)]) := by decide
/-- After the last server has failed the device waits. -/
theorem test_bootServerFailure : (match exec .bootServerFailure (bts 0), exec .bootServerFailure (bts 1) with
    | .next t, .next u => (t.dev.server, t.dev.bootst, u.dev.bootst, u.agenda.map Event.op) | _, _ => (0, 0, 0, [])) =
    (1, 1, 4, [.bootRetryWait]) := by decide

/-- `ServiceLevels`: a device whose image runs; one in reduced service with a crew that is not saved, and with one that is. -/
theorem wit_ServiceLevels : let s : State := { State.reset with dev := { Dev.reset with bootst := 3 } }
    let u : State := asks { ss with dev := { Dev.reset with level := 1, reduced := true } } { d := 1, bytes := (List.range 12).map (BitVec.ofNat 8) }
    let w : State := asks { u with crew := { u.crew with saved := true } } { d := 1, bytes := [3] }
    s.dev.level = 0 ∧ s.dev.bootst = 3 ∧ s.dev.failedChans = [] ∧ s.dev.failedWalkers = [] ∧ s.dev.halfSize = [] ∧ u.dev.level = 1 ∧ u.dev.reduced = true ∧ s.dev.serviceReq = false ∧
      (∃ c ∈ u.allCrews, c.retired = false ∧ c.saved = false) ∧ (∀ c ∈ w.allCrews, c.retired = false → c.saved = true) ∧
      (∃ x < 12, ¬(x < 12 ∧ (x = 0 ∨ x = 6 ∨ ∃ b ∈ w.ctx.ev.bytes, b.toNat = x))) ∧
      (∀ x < 12, (x < 12 ∧ (x = 0 ∨ x = 6 ∨ ∃ b ∈ u.ctx.ev.bytes, b.toNat = x))) ∧ (∃ c ∈ w.allCrews, c.retired = false ∧ (w.part c.part).suspended = false) := by
  decide

/-- Full service with all stacks restores the crews; with a stack missing it is degraded. -/
theorem test_fullServiceEntry : ((([(List.range 12).map (BitVec.ofNat 8), [3]] : List (List Byte)).map (fun b =>
      match exec .fullServiceEntry (asks { ss with dev := { Dev.reset with level := 1, reduced := true }, crew := { ss.crew with saved := true } } { d := 1, bytes := b }) with
      | .next t => (t.dev.level, t.dev.stacked, t.dev.chan, t.agenda.map Event.op) | _ => (0, 0, 0, [])))) =
    [(2, 12, 384, [.restore]), (3, 3, 96, [.restore])] := by decide

/-- `Temperature`: samples on both sides of the alarm and of the halt, and a configured partition. -/
theorem wit_Temperature : 94 < 110 ∧ (95 ≤ 95 ∧ ss.dev.tempc < 95) ∧ 110 ≤ 110 ∧ ss.dev.level ≠ 4 ∧ (ss.part 2).configured = true ∧ 2 < 32 ∧
    (ss.part 2).resetting = false := by decide

/-- A device without spare cores; partition 2 owns the first cluster of die 0. -/
def nospare : State := { ss with
  dev := { ss.dev with spare0 := 0, spare1 := 0 }
  parts := [(2, { ss.part 2 with conf := { Conf.default with clusters := 3 } })] }
/-- `Failures`: cores of both dies with and without a spare, and the partition that owns one. -/
theorem wit_Failures : ss.dev.spare0 ≠ 0 ∧ ss.dev.spare1 ≠ 0 ∧ nospare.dev.spare0 = 0 ∧ nospare.dev.spare1 = 0 ∧ nospare.ownerOf (11 / 6) = some 2 ∧
    95 < 96 ∧ 96 ≤ 191 ∧ 191 < 192 ∧ 383 ∉ nospare.dev.failedChans ∧ 23 ∉ nospare.dev.failedWalkers ∧ 31 ∉ nospare.dev.failedCpe ∧
    (nospare.part 2).configured = true := by decide

/-- A core that has no spare leaves the device in degraded operation with one core less, and resets its owner. -/
theorem test_coreFailure : (match exec .coreFailure (asks nospare { a := 11 }) with
    | .next t => (t.dev.level, t.dev.cores, t.dev.irqs, (t.part 2).resetting) | _ => (0, 0, [], false)) = (3, 191, [(2, 0), (255, 3)], true) := by decide

/-- `Management`: operands on both sides of every limit. -/
theorem wit_Management : ([0, 1, 2, 3, 4, 5, 6, 7, 8, 9, 10] : List Nat)[10]? = some 10 ∧ 14 < 15 ∧ 65536 < 65535 + 2 ∧ 65535 + 1 ≤ 65536 ∧
    (List.replicate 64 (0 : Byte)).length ≤ 64 ∧ 64 < (List.replicate 65 (0 : Byte)).length := by decide

/-- A datagram for partition 2 of this package from partition 1 of package 5, the first of its connection, whole. -/
def mkdg (typ : Byte) (flags : Byte) (payload : List Byte) : Datagram :=
  let g : Datagram := { Datagram.zero with ver := 1, typ := typ, flags := flags, srcPkg := 5, srcPart := 1, dstPart := 2, payload := payload }
  { g with crc := dgCrc g }
/-- A state that receives the datagram `g`; partition 2 has the page tables of `rmem` and is one of a lockstep pair with `mate`. -/
def fs (mate : Option (Nat × Nat)) (g : Datagram) : State := asks { ss with
  mem := rmem
  nextId := 40
  parts := [(2, { Part.blank with
    configured := true
    conf := { Conf.default with mate := mate }
    pieces := [⟨0, 0, [7], [.host 64 [7]], true, some 9, none, 0⟩] })] } { dg := g, a := 2 }

/-- The datagrams of the statements about each type of message: each fits and is the next of its connection. -/
def dgList : List (Nat × Datagram) :=
  [(1, mkdg 1 0 (leBytes 8 0x20000 ++ [1, 2])), (2, mkdg 2 0 (leBytes 8 0x20000 ++ leBytes 4 2)), (3, mkdg 3 2 [1, 2]),
   (4, mkdg 4 0 (leBytes 8 0x20000 ++ [0, 8] ++ List.replicate 22 0)), (5, mkdg 5 2 (leBytes 8 0)),
   (6, mkdg 6 0 (leBytes 8 0x20000 ++ [0, 4, 1, 0] ++ List.replicate 8 0)), (7, mkdg 7 0 ([3, 0, 0, 0] ++ List.replicate 4 0 ++ [0, 5, 1, 0] ++ leBytes 4 8)),
   (8, mkdg 8 0 (leBytes 4 3)), (9, mkdg 9 0 []), (10, mkdg 10 0 (leBytes 8 0)), (11, mkdg 11 0 (leBytes 12 0)),
   (12, mkdg 12 4 (leBytes 8 0 ++ leBytes 8 0 ++ leBytes 48 9)), (13, mkdg 13 4 (leBytes 16 0))]

/-- `Datagrams`, `PeerAccess`, `PeerAtomics`, `PeerReductions`, `ArrivalsAndPermits`, `PeerAnswers`, `Lockstep`: a datagram of each type in turn. -/
theorem wit_Turn : ∀ x ∈ dgList, ∃ s1 c, (fs none x.2).connOf x.2 = some (s1, c) ∧ s1.dev.conns.find? (fun y => y.id == c.id) = some c ∧
    x.2.seq = c.recvSeq + 1 ∧ c.queue = [] ∧ c.unacked = [] ∧ c.permits + 3 ≠ 0 := by
  intro x h
  simp only [dgList, List.mem_cons, List.not_mem_nil, or_false] at h
  rcases h with rfl | rfl | rfl | rfl | rfl | rfl | rfl | rfl | rfl | rfl | rfl | rfl | rfl <;>
    exact ⟨_, _, rfl, rfl, by decide, rfl, rfl, by decide⟩
theorem wit_crc (typ flags : Byte) (payload : List Byte) : (mkdg typ flags payload).crc = dgCrc (mkdg typ flags payload) := rfl
theorem wit_Fits : ∀ x ∈ dgList, x.2.ver.toNat = 1 ∧ x.2.dstPkg.toNat = (fs none x.2).pkgNum ∧ x.2.typ.toNat = x.1 ∧
    x.2.dstPart.toNat < 32 ∧ (x.1 ≠ 8 → x.1 ≠ 9 → (x.2.flags.getLsbD 2 = true ↔ x.1 = 12 ∨ x.1 = 13)) := by
  intro x h
  simp only [dgList, List.mem_cons, List.not_mem_nil, or_false] at h
  rcases h with rfl | rfl | rfl | rfl | rfl | rfl | rfl | rfl | rfl | rfl | rfl | rfl | rfl <;>
    exact ⟨rfl, rfl, rfl, by decide, by decide⟩

/-- `Datagrams`: a datagram whose CRC is wrong is counted. -/
theorem test_datagramDrop : (match exec .datagramDrop (fs none { mkdg 1 0 [] with crc := 0 }) with | .next t => t.dev.portErr | _ => []) = [(2, 1)] := by
  decide +kernel

/-- `PeerChecks`: each reason, in order; a range that is not refused where the peer has every right. -/
theorem wit_PeerChecks : let s := fs none (mkdg 1 0 [])
    let g := mkdg 1 0 []
    ({ s with parts := [(2, { Part.blank with resetting := true })] } : State).ingressWhy g 0x20000 2 false true = 5 ∧ s.ingressWhy g (2 ^ 57) 2 false true = 1 ∧
      s.ingressWhy g (2 ^ 40) 2 false true = 1 ∧ s.walk 2 0x20000 = some (0xC700000000000000#64, 30) := by decide +kernel
theorem wit_PeerChecks_home : (fs none (mkdg 1 0 [])).placeOf 2 none 0x20000 = .home 0x20000 := by rfl
theorem wit_PeerChecks_ok (h : Config.peerRights 2 5 1 = 0#64) (rd wr : Bool) : (fs none (mkdg 1 0 [])).ingressWhy (mkdg 1 0 []) 0x20000 2 rd wr = 0 := by
  have e : ∀ r, r = 0#64 → (((List.range (divUp (0x20000 % 65536 + max 1 2) 65536)).map (fun i =>
      (fs none (mkdg 1 0 [])).pageWhy 2 r (if i = 0 then 0x20000 else (0x20000 / 65536 + i) * 65536) rd wr)).find? (· != 0)).getD 0 = 0 := by
    intro r hr; subst hr; cases rd <;> cases wr <;> decide +kernel
  exact e _ h

/-- `PeerAccess`, `PeerAtomics`, `PeerReductions`: nothing holds the targets, which are plain, and nothing stale or poisoned is met. -/
theorem wit_PeerAccess : let s := fs none (mkdg 1 0 [])
    (s.targetPut 2 0x20000 [1, 2]).toOption.isSome = true ∧ s.targetHold 2 0x20000 2 = none ∧ s.targetStale 2 0x20000 2 = [] ∧
      (∀ i < 2, s.targetHome 2 (0x20000 + i) = 0x20000 + i ∧ s.regionAt (0x20000 + i) = none ∧ isRegPage (0x20000 + i) = false ∧
      s.homeHold (0x20000 + i) = none) ∧ (∀ p ∈ s.parts, p.2.deriveds = []) ∧ s.targetUes 2 0x20000 8 = [] ∧
      (∀ x ∈ s.targetRuns 2 0x20000 2, s.uesIn x.1 x.2 = []) ∧
      s.leasedSlice 2 4 0x20000 [0] = none ∧ (∀ x ∈ dgList, x.1 = 4 → field x.2.payload 8 1 < 8 ∧ field x.2.payload 9 1 = 8) ∧
      (∀ x ∈ dgList, x.1 = 6 → reduceOf x.2 = some (.add, 4, 0x20000, [0])) ∧ reduceOf (mkdg 6 0 (leBytes 8 0x20002 ++ [0, 4, 1, 0] ++ List.replicate 8 0)) = none := by
  decide +kernel

/-- `PeerAccess`, `PeerAtomics`, `PeerReductions`: a bank command in a step holds the channel of its row; the reduction that its close applies waits for
nothing there. -/
theorem wit_PeerReductions : let s := bks { bcmd (wcmd 255 1) with running := true, lease := some 130 } 0
    s.leasedSlice 2 4 0x4000 [0] = some 0 ∧ (s.targetPut 2 0x4000 [1]).toOption.isSome = false ∧ (s.targetHold 2 0x4000 1).isSome = true ∧
      (s.applyReduce 2 .add 4 0x4000 [1]).toOption.isSome = false ∧ (s.closeReduce 2 .add 4 0x4000 [1]).toOption.isSome = true ∧
      (s.putRuns 2 [(0x4000, [(7, 0xFF)])]).toOption.isSome = false ∧ s.homeHold 0x4000 = some (.slice 0) := by decide +kernel

/-- `Datagrams`: a datagram of no package of this one, and one with DSTPART 32. -/
theorem wit_Datagrams : (fs none { mkdg 1 0 [] with dstPkg := 9 }).Bad ∧
    (let g : Datagram := { mkdg 1 0 [] with dstPart := 32 }
     let g : Datagram := { g with crc := dgCrc g }
     ¬(fs none g).Bad ∧ ¬(fs none g).Fits 1) := by
  unfold State.Bad State.Fits; decide +kernel

/-- `ArrivalsAndPermits`: the barrier of the crew in hand; a crew that is not there. -/
theorem wit_ArrivalsAndPermits : let s := fs none (mkdg 7 0 [])
    s.allCrews.find? (fun x => x.part == 2 && x.taskId == 3 && x.span == 0 && x.rank == 0) = some s.crew ∧ s.crew.id ≠ 0 ∧ s.crewOf s.crew.id = some s.crew ∧
      s.crew.retired = false ∧ s.allCrews.find? (fun x => x.taskId == 4) = none ∧ s.isLockstep 2 = false ∧ s.paused 0 0 = false := by decide

/-- `PeerAnswers`, `Timers`: a connection with a message under way. -/
def mconn : Conn := ⟨7, 5, 2, 1, 0, 1, 0xFFFFFFFF, 64, 0, [], [(mkdg 2 0 [], 0, 90)], true⟩
def mmsg : Msg := ⟨0, 7, some 9, some 0x30000, 2, 50, mkdg 2 0 [], 40, false⟩
def ms (g : Datagram) : State := let s := fs none g
  { s with copies := [ccmd .running cplain], dev := { s.dev with conns := [mconn], msgs := [mmsg] } }
theorem wit_PeerAnswers : (ms (mkdg 3 2 [1, 2])).connOf (mkdg 3 2 [1, 2]) = some (ms (mkdg 3 2 [1, 2]), mconn) ∧
    (ms (mkdg 3 2 [1, 2])).dev.msgs.find? (fun x => x.conn == 7 && x.id == 0) = some mmsg ∧ mmsg.dst = some 0x30000 ∧
    mmsg.cmd.bind (ms (mkdg 11 0 [])).copyOf = some (ccmd .running cplain) ∧ (ccmd .running cplain).st ≠ .failing ∧
    (mkdg 3 2 [1, 2]).flags.getLsbD 1 = true := by
  refine ⟨rfl, rfl, rfl, rfl, by decide, by decide⟩
theorem wit_Timers : let s := asks (ms (mkdg 3 2 [])) { a := 7 }
    mconn ∈ s.dev.conns ∧ (∀ x ∈ s.dev.conns, x.id = mconn.id → x = mconn) ∧ mconn.ackDue = true ∧ mconn.unacked ≠ [] ∧ 0 + 90 ≤ s.clock ∧
      (∀ m ∈ s.dev.msgs, ¬m.sentAt + 3600 * (s.part 2).conf.peerTo ≤ s.clock) ∧
      50 + 3600 * (s.part 2).conf.peerTo ≤ 400000 ∧ 50 + 40 ≤ s.clock ∧ s.clock < 70 + 40 := by decide +kernel

/-- The data of a read arrives, and its message is over. -/
theorem test_data : (match exec .data (ms (mkdg 3 2 [1, 2])) with
    | .next t => (t.mem.bytes 0x30000 2, t.dev.msgs.length, t.copies.map CopyCmd.fetched) | _ => ([], 9, [])) = ([1, 2], 0, [true]) := by decide +kernel

/-- `FlowControl`: a port and a priority within range and out of it. -/
theorem wit_FlowControl : 17 < 18 ∧ 18 ≤ 18 ∧ 1 < 2 ∧ 2 ≤ 2 ∧ (ms (mkdg 3 2 [])).sendPort mconn 9 1#32 = 0 ∧ min 1 mconn.cls = 0 ∧ (ms (mkdg 3 2 [])).paused 0 0 = false ∧
    ({ ms (mkdg 3 2 []) with dev := { (ms (mkdg 3 2 [])).dev with pause := [(0, true)] } } : State).paused 0 0 = true ∧
    (ms (mkdg 3 2 [])).dev.conns.Pairwise (fun x y => x.id ≠ y.id) := by decide

/-- `Lockstep`: a piece whose digest is here and agrees, a pair, a follower; a piece that is still open. -/
theorem wit_Lockstep : let s := fs (some (5, 1)) (mkdg 12 4 (leBytes 8 0 ++ leBytes 8 0 ++ leBytes 48 9))
    s.isLockstep 2 = true ∧ (s.part 2).pieces.find? (fun x => x.cls == 0 && x.num == 0) = some ⟨0, 0, [7], [.host 64 [7]], true, some 9, none, 0⟩ ∧
      BitVec.ofNat 384 (field s.ctx.ev.dg.payload 16 48) = 9 ∧ s.isFollower 2 = false ∧ (s.part 2).halted = false ∧ (fs none (mkdg 9 0 [])).isLockstep 2 = false ∧
      ({ s with dev := { s.dev with storeLive := [6, 0] } } : State).isFollower 2 = true ∧ [(7 : Byte)].length < 4096 ∧ s.clock < 0 + 2 * 3600 := by
  decide +kernel

/-- `HostMemoryWrites`: an address that is mapped in package memory, and one that is not. -/
theorem wit_HostMemoryWrites : let s := fs none (mkdg 9 0 [])
    s.walk 2 0x20000 = some (0xC700000000000000#64, 30) ∧ leafHome 0xC700000000000000#64 30 0x20000 = 0x20000 ∧
      0xC700000000000000 / 2 ^ 60 % 4 = 0 ∧ s.homeHold 0x20000 = none ∧ (s.putRuns 2 [(0x20000, [(7, 0xFF)])]).toOption.isSome = true ∧
      s.regionAt 0x20000 = none ∧ isRegPage 0x20000 = false ∧ isRegPage (regPageHome 0) = true ∧
      s.walk 2 (2 ^ 40) = none := by decide +kernel

/-- The bytes that are not 0 of entries of a command queue at 0x20000, by the step that takes them: an empty one; launches of the kernel at
0x20200 with a geometry, and of what is none; a signal and a wait of event 5 and value 9; one of no kind, with a report at 0x20800. -/
def qents : List (Instr × List (Nat × Byte)) :=
  [(.cqNop, []),
   (.cqLaunch, [(0x20000, 1), (0x20001, 1), (0x20011, 2), (0x20012, 2), (0x20020, 1), (0x20021, 1), (0x20022, 1), (0x20024, 1), (0x20029, 16), (0x20030, 1)]),
   (.cqLaunch, [(0x20000, 1), (0x20001, 3), (0x20011, 2), (0x20012, 3)]),
   (.cqSignal, [(0x20000, 2), (0x20001, 1), (0x20002, 5), (0x20008, 9)]), (.cqWait, [(0x20000, 3), (0x20002, 5), (0x20008, 9)]),
   (.cqEntryRefused, [(0x20000, 4), (0x20001, 1), (0x20019, 8), (0x2001A, 2)])]
/-- Memory with such an entry, and the kernel image at 0x20200. -/
def qmem (l : List (Nat × Byte)) : Memory := rmem ++ l ++ [(0x20200, 1), (0x20204, 1), (0x20223, 8), (0x202EE, 1)]
/-- Queue 3 of partition 2, whose next entry lies at 0x20000. -/
def hq (l : List (Nat × Byte)) (f : CmdQueue → CmdQueue) : State := asks { ss with
  nextId := 40
  mem := qmem l
  parts := [(2, { Part.blank with
    configured := true
    queues := [(3, f { CmdQueue.blank with en := true, log2n := 4, qbase := 0x20000#64, tail := 1#32 })] })] } { a := 2, b := 3 }

theorem wit_QueueLive (l : List (Nat × Byte)) : (hq l id).QueueLive 2 3 :=
  ⟨rfl, rfl, rfl, show (0#32 : Word) ≠ 1#32 by decide, show 2 ≠ 0 by decide, show 2 ≠ 4 by decide, rfl, rfl, rfl⟩
theorem wit_NoKernel : (hq [] id).readKernel 2 0x30200 = none := by decide +kernel
theorem wit_Reported (l : List (Nat × Byte)) : (hq l id).regionAt 0x20800 = none ∧ (∀ p ∈ (hq l id).parts, p.2.deriveds = []) ∧
    ((hq l id).part 2).suspended = false ∧ ((hq l id).part 2).conf.mate = none := ⟨rfl, fun p hp => by cases List.mem_singleton.mp hp; rfl, rfl, rfl⟩
theorem wit_ReportHome : (hq [] id).homeOf 2 0x20800 = some 0x20800 := by decide +kernel

/-- `QueueEntries`, `SignalsAndEvents`: a report that can be written, and one at a home that a bank command's step keeps. -/
theorem wit_ReportHold : (hq [] id).reportHold 2 0x20800 = none ∧
    (({ hq [] id with banks := [{ bcmd (wcmd 255 1) with running := true, lease := some 130, slice := sliceOf 0x20800 }] } : State).reportHold 2 0x20800).isSome = true := by
  decide +kernel

/-- A signal entry is taken: `QHEAD` advances, and the signal is looked at. -/
theorem test_cqSignal : (match exec .cqSignal (hq [(0x20000, 2), (0x20001, 1), (0x20002, 5), (0x20008, 9)] id) with
    | .next t => (t.agenda.map Event.op, ((t.part 2).cq 3).head) | _ => ([], 0)) = ([.signalApply], 1#32) := by decide +kernel

/-- `QueueRegisters`: doorbells that are good and too far ahead; `EN` set while it was 0 and while it was 1. -/
theorem wit_QueueRegisters : let q := ((hq [] id).part 2).cq 3
    ¬2 ^ q.log2n < (16#32 - q.head).toNat ∧ 2 ^ q.log2n < (17#32 - q.head).toNat ∧ q.en = true ∧ (0x80000004#64).getLsbD 31 = true ∧
      (((hq [] (fun q => { q with en := false })).part 2).cq 3).en = false ∧ 2 < 32 ∧ 15 < 16 := by decide
/-- A doorbell too far ahead is ignored. -/
theorem test_registerWrite : (match exec .registerWrite (asks (hq [] id) { a := 3, b := 0x10D0, c := 4, q := 17 }) with
    | .next t => (((t.part 2).cq 3).tail, ((t.part 2).cq 3).cause) | _ => (0, 0)) = (1#32, 1) := by decide +kernel

/-- `OtherRegisters`: a function, requests that are good and not, a mailbox that is free and one that is busy. -/
theorem wit_OtherRegisters : (1 ≤ 3 ∧ 3 ≤ 32) ∧ 32 < 33 ∧ ¬((4 = 4 ∨ 4 = 8) ∧ 0x102 % 4 = 0) ∧ 0x100000 + 4096 * 383 + 8 * 15 + 4 = 0x27F07C ∧
    (tget Mailbox.blank (hq [] id).dev.mboxes 3).busy = false ∧ (tget Mailbox.blank (hq [] id).dev.mboxes 3).buf.length = 256 ∧
    (tget Mailbox.blank [(3, { Mailbox.blank with busy := true })] 3).busy = true ∧ (0x80000000#64).getLsbD 31 = true := by decide +kernel

/-- `EntryChecks`: entries of 256 bytes that are good and that are not. -/
theorem wit_EntryChecks : (List.replicate 256 (0 : Byte)).length = 256 ∧ entryOk (List.replicate 256 0) = true ∧ entryOk (List.replicate 256 4) = false := by
  decide +kernel

/-- A queue with a signal, that waits for event 5 to reach 9, which stands at `n`. -/
def hev (n : Nat) (ts : List Nat) : State :=
  let s := hq [] (fun q => { q with signals := [⟨8, 5, 9, 0, true, ts⟩], wait := some (5, 9#64, 0#64, true) })
  asks { s with parts := [(2, { s.part 2 with events := [(5, BitVec.ofNat 64 n)] })] } { a := 2, b := 3, c := 8 }
/-- `SignalsAndEvents`: a signal whose launches have ended, one with a live one; an event below, at and above the value. -/
theorem wit_SignalsAndEvents : (((hev 8 []).part 2).cq 3).signals.find? (fun x => x.id == 8) = some ⟨8, 5, 9, 0, true, []⟩ ∧ (hev 8 [7]).taskOf 7 ≠ none ∧
    (((hq [] id).part 2).cq 3).signals.find? (fun x => x.id == 8) = none ∧ (((hev 8 []).part 2).cq 3).wait = some (5, 9#64, 0#64, true) ∧
    (tget 0 ((hev 8 []).part 2).events 5 : Quad).toNat < (9#64).toNat ∧ (9#64).toNat ≤ (tget 0 ((hev 9 []).part 2).events 5 : Quad).toNat ∧
    (((hq [] id).part 2).cq 3).wait = none ∧ 4095 < 4096 := by decide
/-- A signal raises its event, and the waiting queue is asked to look. -/
theorem test_signalApply : (match exec .signalApply (hev 8 []) with
    | .next t => (tget 0 (t.part 2).events 5, t.agenda.map Event.op, t.dev.irqs) | _ => (0, [], [])) = (9#64, [.waitRelease], [(2, 4)]) := by decide +kernel

/-- `Invalidations`: a function that is free and one that is busy; words of each kind; a cached translation that goes and one that stays. -/
theorem wit_Invalidations : ((hq [] id).part 2).xlBusy = false ∧ ((hq [] id).part 2).xlPend = none ∧ (0x20000#64).toNat % 4 ≠ 3 ∧ (0x20003#64).toNat % 4 = 3 ∧
    (0x200000000000000#64).getLsbD 57 = true ∧ (0x20000#64).getLsbD 57 = false ∧ (1 ≤ 3 ∧ 3 ≤ 32) ∧ ¬(1 ≤ 0 ∧ 0 ≤ 32) ∧
    (⟨0, 2, 0x20000, 0x10000, 0⟩ : TlbEnt).hit 2 0x20000#64 = true ∧ (⟨0, 2, 0x30000, 0x10000, 0⟩ : TlbEnt).hit 2 0x20000#64 = false := by decide
/-- A state whose partition 2 invalidates the page at 0x20000. -/
def xls : State := let s := hq [] id
  { s with tlb1 := [⟨0, 2, 0x20000, 0x10000, 0⟩, ⟨0, 2, 0x30000, 0x10000, 0⟩], parts := [(2, { s.part 2 with xlBusy := true, xlPend := some 0x20000#64 })] }
theorem wit_Invalidating : (xls.part 2).xlBusy = true ∧ (xls.part xls.ctx.ev.a).xlPend = some 0x20000#64 := by decide
theorem test_xlinvDone : (match exec .xlinvDone xls with
    | .next t => (t.tlb1.map TlbEnt.base, (t.part 2).xlBusy) | _ => ([], true)) = ([0x30000], false) := by decide

/-- Mailbox `fn` with the bytes `b` in its buffer; partition 2 has a crew. -/
def mbs (fn : Nat) (b : List Byte) (p : Part) : State := asks { ss with
  mem := rmem
  nextId := 40
  parts := [(2, { p with configured := true })]
  dev := { ss.dev with mboxes := [(fn, { Mailbox.blank with busy := true, buf := b ++ List.replicate (256 - b.length) 0 })] } } { a := fn }
/-- `MailboxRules`: functions that may and may not use a command; each kind of wait that holds, and one that does not. -/
theorem wit_MailboxRules : (mbs 3 [] Part.blank).ctx.ev.a ≠ 0 ∧ (mbs 0 [] Part.blank).ctx.ev.a = 0 ∧
    (mbs 0 [] { Part.blank with suspended := true }).mbWaits 2 1 = true ∧ (mbs 0 [] { Part.blank with ilogCount := 1 }).mbWaits 2 2 = true ∧
    (mbs 0 [] { Part.blank with resetting := true }).mbWaits 2 3 = true ∧ (mbs 0 [] Part.blank).mbWaits 2 1 = false := by decide
/-- A result is shown once the command's wait is over. -/
theorem test_mailboxDone : (match exec .mailboxDone (asks (mbs 0 [] Part.blank) { a := 0, b := 3 }) with
    | .next t => ((t.mbox 0).busy, (t.mbox 0).result) | _ => (true, 0)) = (false, 3) := by decide

/-- A good configuration record of partition 5: whole cluster 1 and weight 10; a reserved byte `x`. -/
def crec (x : Byte) : List Byte :=
  [5, 4, 0, 64] ++ leBytes 2 10 ++ leBytes 2 0 ++ leBytes 4 12 ++ leBytes 4 10 ++ leBytes 8 4096 ++ leBytes 8 0x40000000 ++ leBytes 8 0x4800000 ++
    leBytes 2 6 ++ [1, 0, 1, 1, x, 0] ++ List.replicate 208 0
/-- `ConfigurationLimits`, `MailboxCommands`: a record that is allowed and one that is not. -/
theorem wit_ConfigurationLimits : (crec 0).length = 256 ∧ field (crec 0) 0 1 = 5 ∧ ss.confOk 5 (crec 0) = true ∧ ss.confOk 5 (crec 1) = false ∧
    (field (crec 0) 1 1 / 4 % 2 = 1 ∨ field (crec 0) 0x28 4 = 0) ∧ (field (crec 0) 1 1 / 8 % 2 = 1 ∨ field (crec 0) 2 1 = 0) := by decide +kernel
/-- A configuration waits for its partition's reset. -/
theorem test_config : (match exec .config (mbs 0 (crec 0) Part.blank) with
    | .next t => ((t.part 5).pending.map Conf.weight, t.agenda.map Event.op, t.agenda.map (fun x => x.arg.b)) | _ => (none, [], [])) =
    (some 10, [.mailboxDone], [0]) := by decide +kernel

/-- `MailboxCommands`: buffers of each kind; sync objects that are absent, free, in use and draining; a state without regions. -/
def sobj (n : Nat) : SyncObj := ⟨n, if n = 2 then some ⟨1, 0⟩ else none, [], [], if n = 3 then [⟨1, 0, ⟨1, 0⟩, 0, 64, [(7, 0xFF)], 0, .global, 2, none⟩] else []⟩
theorem wit_MailboxCommands : let s := mbs 3 [1] { Part.blank with syncs := [sobj 1, sobj 2, sobj 3] }
    (s.mbox 3).buf.length = 256 ∧ (1 ≤ 3 ∧ 3 ≤ 32) ∧ field (s.mbox 3).buf 0 2 < 4096 ∧ (s.part 2).tensorRefuses 1 ((((s.mbox 3).buf).drop 64).take 64) = true ∧
      (s.part 2).syncs.length < 4096 ∧ (∃ o ∈ (s.part 2).syncs, o.id = 1) ∧ (∀ o ∈ (s.part 2).syncs, o.id ≠ 7) ∧ (s.part 2).bindings = [] ∧
      (sobj 1).rs = [] ∧ (sobj 1).excl = none ∧ (sobj 2).excl ≠ none ∧ (sobj 3).rs ≠ [] ∧ field (s.mbox 3).buf 64 1 ≤ 64 ∧
      (s.part 2).conf.fabric.length = 18 ∧ 64 < 65 ∧ 336 < 337 ∧ (∀ p ∈ s.parts, p.2.regions = [] ∧ p.2.deriveds = []) := by decide +kernel
theorem wit_MailboxPlain (h : Nat) : (mbs 0 [] Part.blank).Plain h := ⟨.inr rfl, fun p hp => by cases List.mem_singleton.mp hp; rfl⟩
theorem wit_MailboxFree (h : Nat) : (mbs 0 [] Part.blank).homeHold h = none := by
  have e : (mbs 0 [] Part.blank).banks = [] := rfl
  have f : (mbs 0 [] Part.blank).repackHolds h = false := by
    unfold State.repackHolds
    have g : (mbs 0 [] Part.blank).regionAt h = none := rfl
    simp [g]
  simp [State.homeHold, State.channelHolds, e, f]
theorem test_setwin : (match exec .setwin (mbs 0 [80, 1] Part.blank) with | .next t => t.dev.arbW | _ => 0) = 336 := by decide
theorem test_syncfree : (match exec .syncfree (mbs 3 [1] { Part.blank with syncs := [sobj 1, sobj 2] }) with
    | .next t => (t.part 2).syncs.map SyncObj.id | _ => []) = [2] := by decide +kernel

/-- `Suspension`: a partition with a crew that is not saved and with one that is; logged interrupts; a partition that is not known. -/
def sus (n : Nat) : State := asks (mbs 0 [2] { Part.blank with suspended := true, ilogCount := n, ilog := [(0, leBytes 8 7 ++ [4] ++ List.replicate 7 0)] }) { a := 2 }
theorem wit_Suspension : (mbs 0 [2] Part.blank).ctx.ev.a = 0 ∧ field ((mbs 0 [2] Part.blank).mbox 0).buf 0 1 = 2 ∧ ((mbs 0 [2] Part.blank).part 2).configured = true ∧
    (∃ c ∈ (mbs 0 [2] Part.blank).allCrews, c.part = 2 ∧ c.retired = false ∧ c.saved = false) ∧ ((mbs 0 [3] Part.blank).part 3).configured = false ∧
    ((mbs 0 [3] Part.blank).part 3).pending = none ∧ ((sus 255).part 2).suspended = true ∧ ((sus 255).part 2).ilogCount < 256 ∧ 256 ≤ ((sus 256).part 2).ilogCount ∧
    ((mbs 2 [] { Part.blank with ilogCount := 1 }).part 2).suspended = false := by decide
/-- A suspension asks for the pre-emption of the partition's span; a resumed partition's log is sent. -/
theorem test_suspend : (match exec .suspend (mbs 0 [2] Part.blank) with | .next t => ((t.part 2).suspended, t.agenda.map Event.op) | _ => (false, [])) =
    (true, [.preemptRequest, .mailboxDone]) := by decide
theorem test_interruptLogDelivery : (match exec .interruptLogDelivery (mbs 2 [] { Part.blank with ilogCount := 1, ilog := [(0, leBytes 8 7 ++ [4])] }) with
    | .next t => (t.dev.irqs, (t.part 2).ilogCount) | _ => ([], 9)) = ([(2, 4)], 0) := by decide +kernel

/-- `PartitionResets`: a partition under reset, whose task reports nothing and whose crew is in hand. -/
def rst : State := asks (mbs 0 [2] { Part.blank with resetting := true, pending := some { Conf.default with weight := 10 } }) { a := 2 }
theorem wit_PartitionResets : (rst.part 2).resetting = true ∧ (∀ t ∈ rst.tasks, t.part = 2 → t.report = 0) ∧ ((rst.part 2).pending.getD (rst.part 2).conf).mate = none ∧
    (∃ c ∈ rst.allCrews, c.part = 2) ∧ ((mbs 0 [2] Part.blank).part 2).resetting = false ∧ 31 < 32 ∧ 32 ≤ 32 := by decide
/-- `PartitionResets`: a bank command whose step is in progress, and one that has begun and stands between steps. -/
theorem wit_PartitionResets_bank : let k := { bcmd (wcmd 255 1) with running := true }
    let s : State := { rst with banks := [k] }
    s.banks.filter (fun k => k.part == 2 && !k.ended && (k.running || k.suspended)) = [k] ∧ (¬∃ k ∈ s.banks, k.part = 2 ∧ k.lease ≠ none) ∧
      s.resetHold 2 = none ∧ (∃ x ∈ [{ k with lease := some 130 }], x.part = 2 ∧ x.lease ≠ none) := by decide +kernel
theorem wit_PartitionResets_lies : ({ rst with mem := wmem, banks := [{ bcmd (wcmd 255 1) with running := true }] } : State).Lies 2 (2 ^ 30) 8 (2 ^ 46) := by
  refine ⟨by decide, by decide, by decide, by decide, by decide, by decide, ?_⟩
  intro p r v h; exact nomatch (show (none : Option (Nat × Region)) = some (p, r) from h)
theorem test_partitionResetDone : (match exec .partitionResetDone rst with
    | .next t => (t.tasks.length, t.allCrews.length, (t.part 2).conf.weight, t.dev.irqs) | _ => (9, 9, 0, [])) = (0, 0, 10, [(2, 0)]) := by decide +kernel

/-- `RegisterReads`: every field is within its width. -/
theorem wit_RegisterReads : let d := ss.dev
    d.level < 8 ∧ d.bootst < 16 ∧ d.chan < 512 ∧ d.walk < 32 ∧ d.cpe < 64 ∧ d.cores < 256 ∧ d.spare0 < 16 ∧ d.spare1 < 16 ∧ d.stacked < 16 ∧ d.tempc < 256 ∧
      (((hq [] id).part 2).cq 3).log2n < 32 ∧ (((hq [] id).part 2).cq 3).cause < 256 ∧ ((sus 256).part 2).ilogCount ≤ 256 ∧ ((sus 1).part 2).ilogHead < 256 ∧
      ((sus 1).mbox 0).cmd < 256 ∧ 4095 < 4096 := by decide

/-! ### The machine as a whole -/

/-- `EncodeDecode`, `DecodeEncode`: instructions of several families, `FENCE` with its greatest number; a word that is read. -/
theorem wit_EncodeDecode : ∀ x ∈ ([(⟨true, true, 3#2, 7#3, 4#19⟩, .fence), (⟨false, true, 1#2, 2#3, 0#19⟩, .stS4 63#6 0#6 15#4 1#1),
    (⟨false, false, 0#2, 0#3, 0#19⟩, .bins 10#6 12#6 11#4), (⟨true, false, 0#2, 0#3, 0x7FFFF#19⟩, .imx)] : List (Hdr × Instr)),
    x.2.isWord = true ∧ x.2.wf = true ∧ (x.2 = .fence → x.1.imm.toNat % 8 < 5) ∧ (decodeWord (encode x.1 x.2)).isSome = true := by decide

/-- A state whose next issue is the integer addition 0x12894084, by the group of the loaded crew. -/
def ran : State := State.reset.withFetchWord 32 0x12894084
/-- `StepRunsDecoded`: the stream issues, its word and the next of the packet are mapped, the word decodes, and nothing holds it. -/
theorem wit_StepRunsDecoded : ran.turn = none ∧ ran.nextIssue.map Ref.sid = some 1 ∧ ran.nextIssue.all (fun r => ran.refs.contains r) = true ∧
    (decodeWord 0x12894084#32).map Prod.snd = some (.iaddImm 10#6 2#6 0#1) ∧ (0x12894084#32).getLsbD 31 = false := by decide +kernel
theorem wit_Fetches : ran.nextIssue.map (fun r => let f := ran.focus r
    (List.range 3).map (fun j => f.gread f.crew.part (f.codeBase f.crew f.me.sid + 4 * j) 4)) =
      some [some [0x84, 0x40, 0x89, 0x12], some [0, 0, 0, 0], some [0, 0, 0, 0]] := by decide +kernel
theorem wit_Waits : ran.nextIssue.map (fun r => let f := ran.focus r
    (f.me.head.map Entry.pc, decide (0 < f.packets), f.me.asyncs.length, f.waits (.iaddImm 10#6 2#6 0#1))) = some (some ⟨0, 0⟩, true, 0, false) := by
  decide +kernel
/-- `StepRunsDecoded`: a device step whose turn it is, and a state where no stream can issue. -/
theorem wit_StepRunsEvent : let s : State := { State.reset with agenda := [{ op := .bar0Unsupported, arg := {}, due := 0 }], tries := 1 }
    s.turn = some 0 ∧ s.agenda[0]?.map Event.op = some .bar0Unsupported ∧ State.reset.turn = none ∧ State.reset.nextIssue = none := by decide

/-- `IssueAdvances`: words that move their lanes and that do not, on a frontier in order; lanes that are not all parked, and all parked. -/
theorem wit_IssueAdvances : movesPc .join = true ∧ movesPc .nop = false ∧ Instr.nop ≠ .trap ∧ Instr.nop ≠ .bkpt := by decide
theorem wit_IssueAdvances_ok : FrontierOk gs.me.frontier := wit_FrontierSteps_ok

/-- `Eligibility`: a state whose plan is to run a chain of one word. -/
theorem wit_Eligibility : ran.nextIssue.map (fun r => match (ran.focus r).plan with
    | .run cs => cs.map (fun c => c.2.1) | _ => []) = some [0x12894084#32] := by decide +kernel

/-- `PickOrder`: candidates of each kind; a port without any. -/
def cands : List Cand := [⟨⟨1, 1⟩, 0, none, 3, 5, 1, 1⟩, ⟨⟨2, 1⟩, 0, none, 7, 9, 1, 17⟩, ⟨⟨3, 1⟩, 0, some 4, 0, 9, 1, 33⟩, ⟨⟨4, 1⟩, 0, some 4, 0, 9, 2, 34⟩]
theorem wit_PickOrder : (pickOf false 0 cands).map Cand.place = some 33 ∧ (pickOf false 0 (cands.take 2)).map Cand.place = some 17 ∧
    (pickOf true 17 cands).map Cand.place = some 33 ∧ (pickOf true 34 cands).map Cand.place = some 1 ∧ pickOf true 0 [] = none := by decide

/-- `WriteOrder`: register 2 of lane 0, which slot 1 of the chain issued in cycle 99 wrote: a write of slot 0 of that chain is barred, one of an
earlier word only in the same cycle, and that of a later word is not. -/
theorem wit_WriteOrder : let t : Stream := { gs.me with wrote := [⟨101, 99, 1, .v 64 7#32⟩] }
    (∃ e ∈ t.wrote, e.w.same (.v 64 9#32) = true ∧ ((e.cyc = 102 ∧ 99 < e.issue) ∨ (e.issue = 99 ∧ 0 < e.slot))) ∧
    (∃ e ∈ t.wrote, e.w.same (.v 64 9#32) = true ∧ ((e.cyc = 101 ∧ 97 < e.issue) ∨ (e.issue = 97 ∧ 0 < e.slot))) ∧
    (¬∃ e ∈ t.wrote, e.w.same (.v 64 9#32) = true ∧ ((e.cyc = 102 ∧ 100 < e.issue) ∨ (e.issue = 100 ∧ 0 < e.slot))) := by decide
/-- A barred write changes nothing. -/
theorem test_land : ({ gs.me with wrote := [⟨101, 99, 1, .v 64 7#32⟩] } : Stream).land 102 99 0 [.v 64 9#32] = { gs.me with wrote := [⟨101, 99, 1, .v 64 7#32⟩] } := by
  decide
/-- `CycleEnds`: a stream of a crew without delayed effects, one of whose results is due at the end of the cycle and one is not. -/
def due : State := { gs with me := { gs.me with pend := [⟨1, some 101, false, [.v 64 9#32], none, 0#32, true, [], 99⟩, ⟨2, none, false, [], none, 0#32, true, [], 99⟩] } }
theorem wit_CycleEnds : due.unfocus.streamOf ⟨1, 1⟩ = some due.me ∧ due.unfocus.crews.Pairwise (fun a b => a.id ≠ b.id) ∧
    (∀ c ∈ due.unfocus.crews, c.late = []) ∧ due.me.pend.Pairwise (fun a b => a.id ≠ b.id) ∧
    due.me.wrote = [] ∧ (∀ e ∈ due.me.frontier, e.st ≠ .resuming) ∧ (∃ p ∈ due.me.pend, p.due = some 101 ∧ 101 ≤ due.clock + 1) ∧ (∃ p ∈ due.me.pend, p.due = none) := by decide
/-- The result that is due is written. -/
theorem test_tick : (due.tick.streamOf ⟨1, 1⟩).map (fun t => (t.rdV 2 0, t.pend.map Pend.id)) = some (9#32, [2]) := by decide

/-- `StepKeepsMemory`: the reset state has the canonical form, and its step goes on. -/
theorem wit_StepKeepsMemory : State.reset.Inv ∧ (match step State.reset with | .next _ => true | _ => false) = true :=
  ⟨show State.reset.mem.wf = true by decide, by decide +kernel⟩
/-- `WordsLeaveMemory`: a word that is not `LAUNCH` answers. -/
theorem wit_WordsLeaveMemory : Instr.nop.isWord = true ∧ (∀ x, Instr.nop ≠ .launch x) ∧ ∃ t, exec .nop gs = .next t := ⟨rfl, nofun, _, rfl⟩

/-! ### States whose values take longer to compute -/

/-- `SuccinctInsertions`, `SuccinctDeletions`, `SuccinctUpdates`: updates that succeed and ones that are refused; room in the log. -/
theorem wit_SuccinctUpdates : let s := rgs .bins 0 rgn
    s.blockLens rgn = [2] ∧ rgn.nblk ≠ 0 ∧ (s.insertBits rgn 2 64 1#64).1 = 0 ∧ (s.insertBits rgn 3 1 1#64).1 = 2 ∧ (s.deleteBits rgn 0 2).1 = 0 ∧
      (s.deleteBits rgn 1 2).1 = 2 ∧ rgn.room (s.deltasOf rgn (s.insertBits rgn 2 64 1#64).2) = true ∧
      ({ rgn with logs := [(0, List.replicate 16 ⟨0, 0, 0, 0⟩)] } : Region).room [⟨0, 0, 1, 1⟩] = false := by decide +kernel

/-- `Registration`: a descriptor that passes all checks, and one of no blocks. -/
theorem wit_Registration : let s := dks 0x10000#64
    let g := regionOf (s.gbytes 2 0x10000 64) 0x10000
    s.partOf 1 = 2 ∧ s.streamOf ⟨1, 0⟩ = some s.me ∧ regionDescOk (s.gbytes 2 0x10000 64) g = true ∧ s.regionLayoutOk 2 g = true ∧
      (s.withPages 2 g).isSome = true ∧ s.sregCause 2 (s.gbytes 2 0x10000 64) g (s.withPages 2 g) = 0 ∧
      regionDescOk (s.gbytes 2 0x8000 64) (regionOf (s.gbytes 2 0x8000 64) 0x8000) = false := by decide +kernel

/-- `Repacks`: a repack that passes its check, one that is refused for its slack; a region with one under way. -/
theorem wit_Repacks : let s := asks (rgs .saddr 0 rgn) { r := ⟨1, 0⟩, a := 5, b := 2, q := 0x0030000000000000#64 }
    (s.part 2).region (0x0030000000000000 / 2 ^ 52 % 1024) = some rgn ∧ (∀ r ∈ (s.part 2).regions, r.handle = rgn.handle → r = rgn) ∧
      s.repackCause rgn 0x0030000000000000#64 = 0 ∧ s.repackCause rgn 0x00300000000001C1#64 = 1 ∧ (s.relaid rgn 0).length ≤ rgn.nblk ∧
      s.crewOf 1 = some s.crew ∧ s.crew.retired = false ∧ busyRgn.repacks = ⟨1, 1, 5, 0#64⟩ :: [] := by decide +kernel

/-- `WalkerAppends`: an append whose turn it is and which succeeds, one of a token that is not there; keys of a split. -/
theorem wit_WalkerAppends : let s := tqs (wqy false) trgn 0x0000000300000007#64
    s.allDrained ⟨1, 0⟩ 2 9 [0] = true ∧ s.agenda = [] ∧ (s.part 2).tree (7 % 256) = some tree7 ∧ trgn.repacks = [] ∧ trgn.logs = [] ∧
      ((s.part 2).tensor 5).rows = 4 ∧ (s.appendTo 2 trgn tree7 3).code = 0 ∧ (s.appendTo 2 trgn tree7 4).code = 3 := by decide +kernel

/-- The match of position 0 is answered. -/
theorem test_fclose : (match exec .succinctQueryPerform (rgs (.succinct 5) 0x0030000000000000#64 rgn) with
    | .next t => t.me.pend.map (fun p => (p.writes, p.arrived)) | _ => []) = [([.v (32 * 4) 1#32, .v (32 * 5) 0#32, .p 224 true], true)] := by decide +kernel

/-- `WQUERY` sends a query; `WSTAT` of a bound tree shows depth 1, one query and EPOCH 2. -/
theorem test_wquery : (match exec (.wquery 2 3) { ws with crew := { ws.crew with wseed := 5 } } with
    | .next t => t.queries.map (fun k => (k.seed, k.qid)) | _ => []) = [(5#32, 0xFFFFFFFF#32)] ∧
    (match exec (.wstat 4 2 15) { tqs (wqy true) trgn 0#64 with me := { ss.me with k := [(2, 7#64)] } } with
    | .next t => t.me.pend.map Pend.writes | _ => []) = [[.k 4 0x0000000204010001#64]] := by decide +kernel

theorem wit_HandlesPlaced : let s := asks hs { r := ⟨1, 1⟩, a := 0, b := 0, c := 6, d := 96 }
    s.crewOf 1 = some s.crew ∧ 0 < s.crew.tiles.length ∧ ¬s.clock < 96 + 4 ∧ s.clock < 97 + 4 ∧
      (∀ x ∈ s.agenda, x.op ≠ .qpushPlace) ∧ s.scratchWrites ⟨1, 1⟩ 6 = [] ∧
      s.crew.tiles.length = 1 ∧ s.crew.tiles.all (fun t => (s.scratchWrites ⟨1, 1⟩ 7).any (fun w =>
        decide (w.home < s.crew.shareHome + t.offset + t.bytes) && decide (s.crew.shareHome + t.offset < w.home + w.data.length))) = true := by
  decide +kernel

/-- `TreeBinding`: a word that passes its checks but for the tree already there; an unbinding. -/
theorem wit_TreeBinding : let s := tqs (wqy false) trgn (BitVec.ofNat 64 (3 * 2 ^ 52 + 5 * 2 ^ 40 + 6 * 2 ^ 28))
    s.streamOf ⟨1, 0⟩ = some s.me ∧ s.partOf 1 = 2 ∧ (s.part 2).region (s.ctx.ev.q.toNat / 2 ^ 52 % 1024) = some trgn ∧ s.treeShapeOk trgn 64 = true ∧
      s.tensorOnStack 2 ((s.part 2).tensor 5) 0 = true ∧ s.bindCause 2 s.ctx.ev.q = 5 ∧ s.bindCause 2 1#64 = 1 ∧
      ({ s with parts := [(2, { s.part 2 with trees := [] })] } : State).bindCause 2 s.ctx.ev.q = 0 ∧
      (s.part 2).tree (7 % 256) = some tree7 ∧ s.queryRuns 2 7 = false ∧ s.appendWaits 2 7 = false ∧ (tqs (wqy true) trgn 0).queryRuns 2 7 = true ∧
      s.wqueryOf 9 = some (wqy false) := by decide +kernel

/-- `WalkerVisits`: the first visit of the tree's root, which the bound accepts. -/
theorem wit_WalkerVisits : let s := tqs (wqy true) trgn 0#64
    s.wqueryOf 9 = some (wqy true) ∧ (s.part 2).tree (wqy true).tree = some tree7 ∧ (wqy true).goes (s.liveBits trgn) = .visit 0 [] ∧
      (wqy true).count ≠ (wqy true).cap := by decide +kernel

/-- `QueueEntries`, `QueueRegisters`: each entry is next in a queue that the launch unit takes from, and its step is the one named. -/
theorem wit_QueueEntries : ∀ x ∈ qents, ((hq x.2 id).cqEntry 2 (((hq x.2 id).part 2).cq 3)).map entryStep = some x.1 := by decide +kernel

/-- `QueueEntries`: a launch that starts. -/
theorem wit_QueueLaunch : ((hq [] id).readKernel 2 0x20200).map (fun k => launchCause k ⟨1, 1, 1, 4096, [1, 0, 0, 0, 0, 0, 0, 0]⟩) = some 0 := by
  decide +kernel

end Sys2Proof.Tests
end

section
/-! SUPPORT. Accesses of peers and of the host to this package (R20, R327): a state in which O44 fails. -/

namespace Sys2Proof.Machine

/-- A derived tensor of one stale tile whose BASE lies 32 bytes behind the start of a page. `DREG` gives no such BASE
(`Part.derFree`), but O44 speaks of every state. -/
def offPageDerived : Derived where
  id := 1
  rule := 0
  rm := 0
  sat := false
  a := 0
  b := 0
  depth := 1
  sync := 0
  base := derRange + 32
  scales := 0
  tr := 1
  tc := 1
  key := 0
  stale := [0]
  homes := [poolHome 0 0 0]

/-- A `READ` of 33 bytes from the start of that page, its CRC left out. -/
def offPageReadBare : Datagram :=
  { Datagram.zero with ver := 1#8, typ := 2#8, payload := leBytes 8 derRange ++ leBytes 4 33 }

/-- The `READ`, with its CRC. -/
def offPageRead : Datagram := { offPageReadBare with crc := dgCrc offPageReadBare }

/-- The machine with that tensor in partition 0, its stack in service, and the `READ` in hand. -/
def offPageState : State :=
  { State.reset with
    dev := { Dev.reset with trained := [0] }
    parts := [(0, { Part.blank with deriveds := [offPageDerived] })]
    ctx := { Ctx.blank with ev := { dg := offPageRead } } }

/-- The connection that the `READ` opens. -/
def offPageConn : Conn where
  id := 1
  peerPkg := 0
  myPart := 0
  peerPart := 0
  cls := 0
  nextSeq := 0#32
  recvSeq := 0xFFFFFFFF#32
  permits := 64
  held := 0
  queue := []
  unacked := []
  ackDue := false

/-- The CRC is computed over the datagram with its CRC field 0 (R19). -/
theorem dgCrc_withCrc (g : Datagram) (c : Word) : dgCrc { g with crc := c } = dgCrc g := rfl

/-- The `READ` is whole, for this package, and the next of its connection. -/
theorem offPageState_turn : offPageState.Turn 2 (offPageState.openConn 0 0 0 0) offPageConn := by
  have fits : offPageState.Fits 2 := ⟨(dgCrc_withCrc offPageReadBare _).symm, rfl, rfl, rfl, by decide, by decide⟩
  exact ⟨fits, rfl, rfl, by decide⟩

/-- The byte at offset 32 of the range is the first of the stale tile. -/
theorem offPageState_stale : offPageState.staleAt (offPageState.targetHome 0 (derRange + 32)) = [(0, 1, 0)] := by decide +kernel

/-- The range is one aligned piece, which is looked up at its first byte; that byte is not mapped, so no stale tile is met. -/
theorem offPageState_targetStale : offPageState.targetStale 0 derRange 33 = [] := by decide +kernel

theorem field_offPageRead : field offPageRead.payload 0 8 = derRange ∧ field offPageRead.payload 8 4 = 33 := by decide +kernel

/-- Refutes O44, in `Claims.PeerAccess`: a range that reaches a stale tile need not have one in `State.targetStale`. That list
looks each aligned 64-byte piece up at its first byte, while the statement goes byte by byte; where a derived tensor's BASE
is not at the start of a page the two differ. The state is `offPageState`: the first byte of its one piece is not mapped,
the byte at offset 32 is stale. -/
theorem not_peerRequests : ¬ Obligations.PeerRequests := by
  unfold Obligations.PeerRequests
  rintro ⟨-, access, -⟩
  obtain ⟨-, reads⟩ := access offPageState (offPageState.openConn 0 0 0 0) offPageConn
  obtain ⟨-, -, -, met, -⟩ := reads offPageState_turn
  obtain ⟨hva, hn⟩ := field_offPageRead
  refine met ⟨32, ?_, ?_⟩ ?_
  · show 32 < field offPageRead.payload 8 4
    rw [hn]; decide
  · show offPageState.staleAt (offPageState.targetHome 0 (field offPageRead.payload 0 8 + 32)) ≠ []
    rw [hva, offPageState_stale]
    exact List.cons_ne_nil _ _
  · show offPageState.targetStale 0 (field offPageRead.payload 0 8) (field offPageRead.payload 8 4) = []
    rw [hva, hn]
    exact offPageState_targetStale

end Sys2Proof.Machine
end

section
/-! SUPPORT. The registers of BAR0 (R7, R8, R319, R329, R330, R334, R335, R352): what a read and a write of each does, and O47, which these laws
make up. -/

namespace Sys2Proof.Machine

/-! ### Bit fields of registers -/

theorem bits_low (x : Quad) (k : Nat) : bits x k 0 = x.toNat % 2 ^ (k + 1) := by simp [bits]

theorem bits_high (x : Quad) : bits x 63 32 = x.toNat / 2 ^ 32 := by
  have hx : x.toNat / 2 ^ 32 < 2 ^ 32 := by omega
  simpa [bits] using hx

/-- The halves of a 64-bit register make up its value. -/
theorem halfOf_add (x : Quad) {lo hi : Nat} (hl : lo % 8 = 0) (hh : hi % 8 = 4) : halfOf x lo + 2 ^ 32 * halfOf x hi = x.toNat := by
  unfold halfOf
  rw [if_pos hl, if_neg (by omega), bits_low, bits_high]
  omega

theorem lo32_eq (x : Quad) : lo32 x = BitVec.ofNat 32 x.toNat := by
  apply BitVec.eq_of_toNat_eq; simp [lo32]

theorem lo32_ofNat (x : Nat) : lo32 (BitVec.ofNat 64 (x % 2 ^ 32)) = BitVec.ofNat 32 x := by
  apply BitVec.eq_of_toNat_eq
  simp only [lo32, BitVec.toNat_setWidth, BitVec.toNat_ofNat]
  omega

theorem qbit_ofNat (x : Quad) {i : Nat} (hi : i < 32) : qbit (BitVec.ofNat 64 (x.toNat % 2 ^ 32)) i = x.getLsbD i := by
  unfold qbit
  rw [BitVec.getLsbD_ofNat, Nat.testBit_mod_two_pow, BitVec.testBit_toNat]
  simp [hi, Nat.lt_trans hi (by decide : 32 < 64)]

theorem bits_ofNat (x : Nat) {k : Nat} (hk : k < 32) : bits (BitVec.ofNat 64 (x % 2 ^ 32)) k 0 = x % 2 ^ (k + 1) := by
  have hd : 2 ^ (k + 1) ∣ 2 ^ 32 := Nat.pow_dvd_pow 2 hk
  have hx : x % 2 ^ 32 < 2 ^ 64 := by omega
  rw [bits_low, BitVec.toNat_ofNat, Nat.mod_eq_of_lt hx, Nat.mod_mod_of_dvd x hd]

/-! ### Command queues (R330, R331) -/

theorem State.updCq_eq (s : State) (p n : Nat) (f : CmdQueue → CmdQueue) : s.updCq p n f = s.withCq p n (f ((s.part p).cq n)) := rfl

theorem State.cqLive_iff (s : State) (p n : Nat) : s.cqLive p ((s.part p).cq n) = true ↔ s.QueueLive p n := by
  simp [State.cqLive, State.QueueLive, and_assoc]

theorem State.cqAsked_iff (s : State) (p n : Nat) : s.cqAsked p n = true ↔
    ∃ x ∈ s.agenda, x.arg.a = p ∧ x.arg.b = n ∧ x.op ∈ [Instr.cqNop, .cqLaunch, .cqSignal, .cqWait, .cqEntryRefused] := by
  simp [State.cqAsked, and_assoc, or_assoc]

/-- `State.cqNext` is the launch unit's look at the next entry. -/
theorem State.cqNext_nextEntry (s : State) (p n : Nat) : s.NextEntry (s.cqNext p n) p n := by
  unfold State.NextEntry State.cqNext
  simp only [← State.cqLive_iff, ← State.cqAsked_iff]
  refine ⟨fun h => ?_, fun live free none => ?_, fun d live free some => ?_⟩
  · rw [if_pos (by simpa using h)]
  · rw [if_neg (by simp [live, free]), none]
    rfl
  · rw [if_neg (by simp [live, free]), some]
    exact ⟨_, rfl, rfl, rfl, rfl⟩

/-- A doorbell behind `QHEAD`, or too far ahead of it, is ignored with CAUSE 1 (R330). -/
theorem State.doorbell_bad {s : State} {p n : Nat} {v : Word} (h : 2 ^ ((s.part p).cq n).log2n < (v - ((s.part p).cq n).head).toNat) :
    s.doorbell p n v = s.withCq p n { (s.part p).cq n with err := true, cause := 1 } := if_pos h

/-- A good doorbell sets the tail, and the launch unit looks at the queue (R330). -/
theorem State.doorbell_good {s : State} {p n : Nat} {v : Word} (h : (v - ((s.part p).cq n).head).toNat ≤ 2 ^ ((s.part p).cq n).log2n) :
    (s.withCq p n { (s.part p).cq n with tail := v }).NextEntry (s.doorbell p n v) p n := by
  unfold State.doorbell
  rw [if_neg (Nat.not_lt.mpr h)]
  exact State.cqNext_nextEntry _ p n

/-- `EN` from 0 to 1 restarts the queue at `QTAIL` (R330). -/
theorem State.qctl_start {s : State} {p n : Nat} {v : Quad} (hv : qbit v 31 = true) (hq : ((s.part p).cq n).en = false) :
    let q := (s.part p).cq n
    (s.withCq p n { q with en := qbit v 31, log2n := bits v 4 0, head := q.tail, halted := false, wait := none }).NextEntry (s.qctl p n v) p n := by
  unfold State.qctl
  simp only [hv, hq]
  exact State.cqNext_nextEntry _ p n

/-- Any other write to `QCTL` sets its fields, `LOG2N` only where `EN` was 0 (R330). -/
theorem State.qctl_keep {s : State} {p n : Nat} {v : Quad} (h : ¬(qbit v 31 = true ∧ ((s.part p).cq n).en = false)) :
    let q := (s.part p).cq n
    s.qctl p n v = s.withCq p n { q with en := qbit v 31, log2n := if q.en then q.log2n else bits v 4 0 } := by
  unfold State.qctl
  rw [if_neg (by simpa using h)]
  rfl

/-! ### Writing BAR0 (R7, R329) -/

theorem requestOk_iff (off len : Nat) : requestOk off len = true ↔ (len = 4 ∨ len = 8) ∧ off % len = 0 := by simp [requestOk]

/-- A request that is not an aligned one of 4 or 8 bytes, or of a function that is not there, changes nothing. -/
theorem exec_registerWrite_refused {s : State}
    (h : 32 < s.ctx.ev.a ∨ ¬((s.ctx.ev.c = 4 ∨ s.ctx.ev.c = 8) ∧ s.ctx.ev.b % s.ctx.ev.c = 0)) : exec .registerWrite s = .next s := by
  have hr : ¬(requestOk s.ctx.ev.b s.ctx.ev.c && decide (s.ctx.ev.a ≤ 32)) = true := by
    rw [Bool.and_eq_true, requestOk_iff, decide_eq_true_eq]
    exact fun ⟨ok, ha⟩ => h.elim (Nat.not_lt.mpr ha) (fun hn => hn ok)
  exact congrArg _ (if_neg hr)

/-- An aligned 4-byte write of a function is a write of the low half of the data. -/
theorem exec_registerWrite_word {s : State} (ha : s.ctx.ev.a ≤ 32) (hb : s.ctx.ev.b % 4 = 0) (hc : s.ctx.ev.c = 4) :
    exec .registerWrite s = .next (s.write32 s.ctx.ev.a s.ctx.ev.b (s.ctx.ev.q.toNat % 2 ^ 32)) := by
  have hr : (requestOk s.ctx.ev.b s.ctx.ev.c && decide (s.ctx.ev.a ≤ 32)) = true := by
    rw [Bool.and_eq_true, requestOk_iff, decide_eq_true_eq]
    exact ⟨⟨.inl hc, hc ▸ hb⟩, ha⟩
  refine congrArg _ ((if_pos hr).trans ?_)
  rw [hc, State.barWrite, if_pos rfl, bits_low]

theorem vfPart_succ {p : Nat} (hp : p < 32) : vfPart (p + 1) = some p := by
  simp [vfPart, Nat.succ_le_of_lt hp]

theorem vfPart_zero : vfPart 0 = none := rfl

/-- The offsets at which every function has a register of its own that is written. -/
def isCommonOff (off : Nat) : Prop := off = 0x200 ∨ off = 0x204 ∨ off = 0x3000 ∨ (0x3100 ≤ off ∧ off < 0x3200)

/-- A write to a virtual function's own areas. -/
theorem State.write32_vf (s : State) (v : Nat) {p off : Nat} (hp : p < 32) (h : ¬isCommonOff off) :
    s.write32 (p + 1) off v = s.vfWrite p off v := by
  unfold isCommonOff at h
  unfold State.write32
  rw [if_neg (by omega), if_neg (by omega), if_neg (by omega), if_neg (by simp; omega), vfPart_succ hp]

/-- A write to a register of the physical function alone: `XLPART`, or the high half of a `BERR`. -/
theorem State.write32_pf (s : State) (v : Nat) {off : Nat} (h : ¬isCommonOff off) :
    s.write32 0 off v = if off = 0x208 then s.updDev (fun d => { d with xlpart := v % 32 })
      else if 0x100000 ≤ off && off < 0x100000 + 4096 * 384 && off % 4096 < 128 && off % 8 = 4 then
        s.berrWrite ((off - 0x100000) / 4096) (off % 4096 / 8) (BitVec.ofNat 64 (v * 2 ^ 32))
      else s := by
  unfold isCommonOff at h
  unfold State.write32
  rw [if_neg (by omega), if_neg (by omega), if_neg (by omega), if_neg (by simp; omega), vfPart_zero]

/-- An aligned 4-byte write of a virtual function to its own areas. -/
theorem exec_registerWrite_vf {s : State} {p : Nat} (hp : p < 32) (ha : s.ctx.ev.a = p + 1) (hb : s.ctx.ev.b % 4 = 0) (hc : s.ctx.ev.c = 4)
    (h : ¬isCommonOff s.ctx.ev.b) : exec .registerWrite s = .next (s.vfWrite p s.ctx.ev.b (s.ctx.ev.q.toNat % 2 ^ 32)) := by
  rw [exec_registerWrite_word (by omega) hb hc, ha, State.write32_vf s _ hp h]

/-- Where an offset lies in the queue registers (R330). -/
theorem queueOff {n r : Nat} (hn : n < 16) (hr : r < 64) : (decide (0x1000 ≤ 0x1000 + 64 * n + r) && decide (0x1000 + 64 * n + r < 0x1400)) = true ∧
    (0x1000 + 64 * n + r - 0x1000) / 64 = n ∧ (0x1000 + 64 * n + r) % 64 = r := by
  refine ⟨?_, by omega, by omega⟩
  rw [Bool.and_eq_true, decide_eq_true_eq, decide_eq_true_eq]
  omega

/-- Which half an offset names is a matter of the offset modulo 8. -/
theorem setHalf_congr (x : Quad) (v : Nat) {off r : Nat} (h : off % 8 = r % 8) : setHalf x off v = setHalf x r v := by
  unfold setHalf
  rw [h]

/-- A write to the register at offset `r` of a queue's own (R330). -/
def State.cqWrite (s : State) (p n r v : Nat) : State :=
  match r with
  | 0 | 4 => s.updCq p n (fun q => if q.en then q else { q with qbase := setHalf q.qbase r v })
  | 0x08 => s.qctl p n (BitVec.ofNat 64 v)
  | 0x10 => s.doorbell p n (lo32 (BitVec.ofNat 64 v))
  | 0x14 => s.updCq p n (fun q => { q with err := q.err && !qbit (BitVec.ofNat 64 v) 31 })
  | _ => s

theorem State.vfWrite_queue (s : State) (p v : Nat) {n r : Nat} (hn : n < 16) (hr : r < 64) :
    s.vfWrite p (0x1000 + 64 * n + r) v = s.cqWrite p n r v := by
  obtain ⟨h, hd, hm⟩ := queueOff hn hr
  have half (x : Quad) : setHalf x (0x1000 + 64 * n + r) v = setHalf x r v := setHalf_congr x v (by omega)
  simp only [State.vfWrite, h, if_true, hd, hm, half]
  rfl

/-- An aligned 4-byte write of a virtual function to a register of one of its queues. -/
theorem exec_registerWrite_queue {s : State} {p n r : Nat} (hp : p < 32) (hn : n < 16) (hr : r < 64) (hr4 : r % 4 = 0) (ha : s.ctx.ev.a = p + 1)
    (hb : s.ctx.ev.b = 0x1000 + 64 * n + r) (hc : s.ctx.ev.c = 4) :
    exec .registerWrite s = .next (s.cqWrite p n r (s.ctx.ev.q.toNat % 2 ^ 32)) := by
  rw [exec_registerWrite_vf hp ha (by omega) hc (by unfold isCommonOff; omega), hb, State.vfWrite_queue s p _ hn hr]

/-- What a doorbell does (R177, R330). -/
theorem State.doorbell_cases (s : State) (p n : Nat) (v : Word) :
    let q := (s.part p).cq n
    (2 ^ q.log2n < (v - q.head).toNat → s.doorbell p n v = s.withCq p n { q with err := true, cause := 1 }) ∧
    ((v - q.head).toNat ≤ 2 ^ q.log2n → (s.withCq p n { q with tail := v }).NextEntry (s.doorbell p n v) p n) :=
  ⟨State.doorbell_bad, State.doorbell_good⟩

/-- What a write of `w` to `QCTL` does (R330), by the bits of `v` that `w` has. -/
theorem State.qctl_cases (s : State) (p n : Nat) {v w : Quad} (h31 : qbit w 31 = v.getLsbD 31) (h5 : bits w 4 0 = v.toNat % 32) :
    let q := (s.part p).cq n
    let q1 : CmdQueue := { q with en := v.getLsbD 31, log2n := if q.en then q.log2n else v.toNat % 32 }
    (v.getLsbD 31 = true → q.en = false → (s.withCq p n { q1 with head := q.tail, halted := false, wait := none }).NextEntry (s.qctl p n w) p n) ∧
    (¬(v.getLsbD 31 = true ∧ q.en = false) → s.qctl p n w = s.withCq p n q1) := by
  rw [← h31, ← h5]
  refine ⟨fun hv hq => ?_, State.qctl_keep⟩
  simp only [hq]
  exact State.qctl_start hv hq

/-- What a write to half `b` of `QBASE` does (R330). -/
theorem State.cqWrite_qbase (s : State) (p n v : Nat) {b : Nat} (hb : b < 2) :
    let q := (s.part p).cq n
    s.cqWrite p n (4 * b) v = s.withCq p n (if q.en then q else { q with
      qbase := BitVec.ofNat 64 (if b = 0 then q.qbase.toNat / 2 ^ 32 * 2 ^ 32 + v else v * 2 ^ 32 + q.qbase.toNat % 2 ^ 32) }) := by
  intro q
  rw [← bits_high, ← bits_low q.qbase 31]
  rcases (by omega : b = 0 ∨ b = 1) with rfl | rfl <;> rfl

/-- The registers of a command queue: each write goes to the law of its register. -/
theorem queueRegisters : Claims.QueueRegisters := by
  intro s p n v e q lo at32 bell ctl hp hn
  have hlo : lo32 v = lo := lo32_eq v
  have bell_lo : bell (s.doorbell p n lo) := State.doorbell_cases s p n lo
  have ctl_of {w : Quad} (h31 : qbit w 31 = v.getLsbD 31) (h5 : bits w 4 0 = v.toNat % 32) : ctl (s.qctl p n w) := State.qctl_cases s p n h31 h5
  have write {r : Nat} (h64 : r < 64) (h4 : r % 4 = 0) (h : at32 r) : exec .registerWrite s = .next (s.cqWrite p n r (v.toNat % 2 ^ 32)) := by
    obtain ⟨ha, hb, hc, rfl⟩ := h
    exact exec_registerWrite_queue hp hn h64 h4 ha hb hc
  refine ⟨fun ha hb hq => ⟨⟨_, ?_, bell_lo⟩, ⟨_, ?_, ctl_of (w := v) rfl (bits_low v 4)⟩⟩, fun h => ⟨_, ?_, bell_lo⟩,
    fun h => ⟨_, write (by decide) (by decide) h, ctl_of (qbit_ofNat v (by decide)) (bits_ofNat v.toNat (by decide))⟩, fun h => ?_,
    write (by decide) (by decide), fun b hb h => ?_⟩
  · subst ha hb hq
    rw [← hlo]
    exact congrArg _ (if_pos hn)
  · subst ha hb hq
    exact congrArg _ (if_pos hn)
  · rw [write (by decide) (by decide) h]
    show Host.Outcome.next (s.doorbell p n (lo32 (BitVec.ofNat 64 (v.toNat % 2 ^ 32)))) = _
    rw [lo32_ofNat]
  · rw [write (by decide) (by decide) h, ← qbit_ofNat v (by decide)]
    rfl
  · rw [write (by omega) (by omega) h, State.cqWrite_qbase s p n _ hb]

/-! ### The other registers of BAR0 (R7, R329, R334, R335, R352) -/

/-- An offset at which a virtual function has no register of its own that is written. -/
theorem State.vfWrite_none (s : State) (p v : Nat) {off : Nat} (hq : off < 0x1000 ∨ 0x1400 ≤ off) (hl : off < 0x7000 ∨ 0x7008 < off)
    (he : off < 0x8000 ∨ 0x10000 ≤ off) : s.vfWrite p off v = s := by
  unfold State.vfWrite
  rw [if_neg (by simp; omega), if_neg (by omega), if_neg (by omega), if_neg (by simp; omega)]

/-- An offset below 0x200 has no register that is written. -/
theorem State.write32_low (s : State) (v : Nat) {fn off : Nat} (hf : fn ≤ 32) (h : off < 0x200) : s.write32 fn off v = s := by
  have own : ¬isCommonOff off := by unfold isCommonOff; omega
  cases fn with
  | zero => rw [State.write32_pf s v own, if_neg (by omega), if_neg (by simp; omega)]
  | succ p =>
    rw [State.write32_vf s v hf own]
    exact State.vfWrite_none s p v (.inl (by omega)) (.inl (by omega)) (.inl (by omega))

theorem State.ifptr_eq (s : State) (p : Nat) {w q : Quad} (h7 : bits w 7 0 = q.toNat % 256) (h31 : qbit w 31 = q.getLsbD 31) :
    s.ifptr p w = s.updPart p (fun x => { x with
      ifRd := q.toNat % 256, ifUnread := x.ifUnread - (q.toNat % 256 + 256 - x.ifRd) % 256, ifOvf := x.ifOvf && !q.getLsbD 31 }) := by
  unfold State.ifptr
  rw [h7, h31]

theorem State.vfWrite_ilogPtr (s : State) (p v : Nat) :
    s.vfWrite p 0x7000 v = s.updPart p (fun y => { y with ilogOvf := y.ilogOvf && !qbit (BitVec.ofNat 64 v) 31 }) := rfl

theorem State.vfWrite_ifPtr (s : State) (p v : Nat) : s.vfWrite p 0x7008 v = s.ifptr p (BitVec.ofNat 64 v) := rfl

theorem State.write32_xlpart (s : State) (v : Nat) : s.write32 0 0x208 v = s.updDev (fun d => { d with xlpart := v % 32 }) := rfl

/-- A write to the high half of `BERR` of a bank (R352). -/
theorem State.write32_berr (s : State) (v : Nat) {slice bank : Nat} (hs : slice < 384) (hb : bank < 16) :
    s.write32 0 (0x100000 + 4096 * slice + 8 * bank + 4) v = s.berrWrite slice bank (BitVec.ofNat 64 (v * 2 ^ 32)) := by
  rw [State.write32_pf s v (by unfold isCommonOff; omega), if_neg (by omega), if_pos (by simp; omega)]
  congr 1 <;> omega

/-- `UEV` stands at bit 63 of `BERR`, which is bit 31 of its high half. -/
theorem qbit_high (x : Quad) : qbit (BitVec.ofNat 64 (x.toNat % 2 ^ 32 * 2 ^ 32)) 63 = x.getLsbD 31 := by
  unfold qbit
  rw [BitVec.getLsbD_ofNat, Nat.testBit_mul_two_pow, Nat.testBit_mod_two_pow, BitVec.testBit_toNat]
  rfl

/-- Writing 1 to `UEV` clears the event and both counts, and leaves the row (R352). -/
theorem State.berrWrite_clears (s : State) (slice bank : Nat) {v : Quad} (hv : qbit v 63 = true) :
    tget Berr.blank (s.berrWrite slice bank v).dev.berr (16 * slice + bank) =
      { tget Berr.blank s.dev.berr (16 * slice + bank) with uev := false, uecnt := 0, cecnt := 0 } := by
  unfold State.berrWrite
  rw [if_pos hv]
  exact tget_tset_same Berr.blank _ _ _

/-! ### The mailbox (R334) -/

theorem State.write32_mbcmd (s : State) (fn v : Nat) : s.write32 fn 0x3000 v = s.mbWrite fn v := rfl

/-- The step that a command of a function asks for (R334): that of a command it may use, else `MB_UNKNOWN_COMMAND`. -/
def mbStep (fn v : Nat) : Instr :=
  match mbCommand v with
  | some (op, pf, vf) => if (if fn = 0 then pf else vf) then op else .mbUnknownCommand
  | none => .mbUnknownCommand

/-- The commands of the physical function, and those of a virtual one, as lists. -/
theorem mbStep_eq_lookup (fn v : Nat) : mbStep fn v =
    ((if fn = 0 then [(1, .config), (2, .readcfg), (3, .suspend), (4, .resume), (5, .reset), (6, .setwin), (7, .attest)]
      else [(7, .attest), (0x10, .tensor), (0x11, .tidread), (0x12, .syncnew), (0x13, .syncfree)] : List (Nat × Instr)).lookup v).getD
      .mbUnknownCommand := by
  unfold mbStep
  generalize hc : mbCommand v = c
  unfold mbCommand at hc
  by_cases h : fn = 0
  · simp only [if_pos h]
    split at hc <;> subst hc
    any_goals rfl
    rw [List.lookup_eq_none_iff.mpr (by simp_all)]; rfl
  · simp only [if_neg h]
    split at hc <;> subst hc
    any_goals rfl
    rw [List.lookup_eq_none_iff.mpr (by simp_all)]; rfl

theorem mbCommand_op {v : Nat} {op : Instr} {pf vf : Bool} (h : mbCommand v = some (op, pf, vf)) : op ≠ .mbUnknownCommand := by
  unfold mbCommand at h
  split at h <;> cases h <;> nofun

/-- A write to `MBCMD` is ignored while `BUSY` is 1 (R334). -/
theorem State.mbWrite_busy {s : State} {fn : Nat} (v : Nat) (h : (s.mbox fn).busy = true) : s.mbWrite fn v = s := if_pos h

/-- The mailbox accepts a command while `BUSY` is 0 (R334). -/
theorem State.mbWrite_free {s : State} {fn : Nat} (v : Nat) (h : (s.mbox fn).busy = false) : ∃ arg : EvArg,
    s.mbWrite fn v = (s.updMbox fn (fun m => { m with busy := true, cmd := v % 256 })).push (mbStep fn v) arg ∧ arg.a = fn ∧
      (mbStep fn v = .mbUnknownCommand → arg.b = v) := by
  unfold State.mbWrite mbStep
  rw [if_neg (by simp [h])]
  cases hc : mbCommand v with
  | none => exact ⟨_, rfl, rfl, fun _ => rfl⟩
  | some c =>
    obtain ⟨op, pf, vf⟩ := c
    by_cases hu : (if fn = 0 then pf else vf) = true
    · simp only [hu, if_true]
      exact ⟨_, rfl, rfl, fun e => absurd e (mbCommand_op hc)⟩
    · simp only [hu]
      exact ⟨_, rfl, rfl, fun _ => rfl⟩

@[simp] theorem State.mbox_updMbox_same (s : State) (fn : Nat) (f : Mailbox → Mailbox) : (s.updMbox fn f).mbox fn = f (s.mbox fn) :=
  tget_tset_same Mailbox.blank _ _ _

@[simp] theorem State.mbox_push (s : State) (fn : Nat) (op : Instr) (a : EvArg) : (s.push op a).mbox fn = s.mbox fn := rfl

@[simp] theorem length_leBytes (n x : Nat) : (leBytes n x).length = n := by
  induction n generalizing x with
  | zero => rfl
  | succ n ih => simp [leBytes, ih]

/-- Byte `i` of a number's little-endian bytes (R3). -/
theorem getD_leBytes {n i : Nat} (x : Nat) (h : i < n) : (leBytes n x).getD i 0 = BitVec.ofNat 8 (x / 256 ^ i) := by
  induction n generalizing i x with
  | zero => omega
  | succ n ih =>
    cases i with
    | zero => simp [leBytes]
    | succ i =>
      rw [leBytes, List.getD_cons_succ, ih _ (by omega), Nat.div_div_eq_div_mul, Nat.pow_succ']

/-- A write of 4 bytes to the buffer of a mailbox. -/
theorem State.write32_mbbuf (s : State) (fn v : Nat) {i : Nat} (hi : i < 64) :
    s.write32 fn (0x3100 + 4 * i) v = s.mbPut fn (4 * i) (leBytes 4 v) := by
  unfold State.write32
  rw [if_neg (by omega), if_neg (by omega), if_neg (by omega), if_pos (by simp; omega), Nat.add_sub_cancel_left]

/-- Bytes put into a list at an offset within it: those of the range are the new ones. -/
theorem getD_overwrite (l bs : List Byte) {off : Nat} (h : off + bs.length ≤ l.length) (k : Nat) :
    (l.take off ++ bs ++ l.drop (off + bs.length)).getD k 0 = if off ≤ k ∧ k < off + bs.length then bs.getD (k - off) 0 else l.getD k 0 := by
  have ht : (l.take off).length = off := by rw [List.length_take]; omega
  rcases Nat.lt_or_ge k off with h1 | h1
  · rw [if_neg (by omega), List.append_assoc, List.getD_append _ _ _ _ (by omega)]
    simp [List.getD, List.getElem?_take_of_lt h1]
  · rcases Nat.lt_or_ge k (off + bs.length) with h2 | h2
    · rw [if_pos ⟨h1, h2⟩, List.getD_append _ _ _ _ (by rw [List.length_append]; omega), List.getD_append_right _ _ _ _ (by omega), ht]
    · rw [if_neg (by omega), List.getD_append_right _ _ _ _ (by rw [List.length_append]; omega), List.length_append, ht]
      simp only [List.getD, List.getElem?_drop]
      congr 2
      omega

/-- The buffer of a mailbox after bytes have been put into it. -/
theorem State.mbPut_buf (s : State) {fn off : Nat} (bs : List Byte) (hl : (s.mbox fn).buf.length = 256) (h : off + bs.length ≤ 256) {k : Nat}
    (hk : k < 256) : ((s.mbPut fn off bs).mbox fn).buf.getD k 0 =
      if off ≤ k ∧ k < off + bs.length then bs.getD (k - off) 0 else (s.mbox fn).buf.getD k 0 := by
  unfold State.mbPut
  rw [State.mbox_updMbox_same, ← getD_overwrite _ _ (by omega)]
  simp only [List.getD, List.getElem?_take_of_lt hk]

/-- The other registers of BAR0. -/
theorem otherRegisters : Claims.OtherRegisters := by
  intro s e v p vf pf box ifptr
  have fnOk (h : vf ∨ pf) : e.a ≤ 32 := h.elim (fun ⟨_, ha, _⟩ => ha) (fun ⟨ha, _⟩ => by omega)
  have word (h : vf ∨ pf) (h4 : e.b % 4 = 0) : exec .registerWrite s = .next (s.write32 e.a e.b v) := by
    have hc : e.c = 4 := h.elim (fun ⟨_, _, hc⟩ => hc) And.right
    exact exec_registerWrite_word (fnOk h) h4 hc
  have own (h : vf) (h4 : e.b % 4 = 0) (ho : ¬isCommonOff e.b) : exec .registerWrite s = .next (s.vfWrite p e.b v) := by
    obtain ⟨h1, h32, hc⟩ := h
    have hp : p < 32 := by show e.a - 1 < 32; omega
    exact exec_registerWrite_vf hp (show e.a = p + 1 from (Nat.sub_add_cancel h1).symm) h4 hc ho
  have h31 : qbit (BitVec.ofNat 64 v) 31 = e.q.getLsbD 31 := qbit_ofNat e.q (by decide)
  refine ⟨rfl, exec_registerWrite_refused, fun h hb h4 => ?_, fun h h1 h2 h4 => ?_, ?_, fun h hb => ?_, fun h hb => ?_, fun h hb => ?_,
    fun sl b h hs hb he h1 => ?_, fun h hb busy => ?_, fun h hb free => ?_, fun i h hi hb hl => ?_⟩
  · rw [word h h4, State.write32_low s _ (fnOk h) hb]
  · rw [own h h4 (by unfold isCommonOff; omega), State.vfWrite_none s p v (.inr (by omega)) (.inl h2) (.inl (by omega))]
  · exact congrArg _ (State.ifptr_eq s e.a (bits_low e.q 7) rfl)
  · rw [own h (by omega) (by unfold isCommonOff; omega), hb, State.vfWrite_ifPtr, State.ifptr_eq s p (bits_ofNat e.q.toNat (by decide)) h31]
  · rw [own h (by omega) (by unfold isCommonOff; omega), hb, State.vfWrite_ilogPtr, h31]
  · rw [word (.inr h) (by omega), h.1, hb, State.write32_xlpart]
    rfl
  · refine ⟨_, word (.inr h) (by omega), ?_⟩
    rw [h.1, he, State.write32_berr s v hs hb, State.berrWrite_clears s sl b ((qbit_high e.q).trans h1)]
    exact ⟨rfl, rfl, rfl, rfl⟩
  · rw [word h (by omega), hb, State.write32_mbcmd, State.mbWrite_busy v busy]
  · obtain ⟨arg, hw, ha, hu⟩ := State.mbWrite_free v free
    refine ⟨_, { op := mbStep e.a v, arg := arg, due := s.clock }, word h (by omega), ?_⟩
    rw [hb, State.write32_mbcmd, hw]
    exact ⟨rfl, rfl, (State.mbox_push _ e.a _ arg).trans (State.mbox_updMbox_same s e.a _), mbStep_eq_lookup e.a v, ha, hu⟩
  · refine ⟨_, word h (by omega), fun k hk => ?_⟩
    rw [hb, State.write32_mbbuf s e.a v hi, State.mbPut_buf s _ hl (by rw [length_leBytes]; omega) hk, length_leBytes]
    split
    · rw [getD_leBytes _ (by omega)]
    · rfl

/-! ### Reading BAR0 (R329, R330, R334, R335) -/

/-- The offsets that every function reads in one way. -/
def isCommonRead (off : Nat) : Prop := off = 0x100 ∨ off = 0x104 ∨ off = 0x204 ∨ (0x3000 ≤ off ∧ off < 0x3200)

/-- A read of a virtual function's own areas. -/
theorem State.reg32_vf (s : State) {p off : Nat} (hp : p < 32) (h : ¬isCommonRead off) : s.reg32 (p + 1) off = (s.part p).vfReg off := by
  unfold isCommonRead at h
  unfold State.reg32
  rw [if_neg (by simp; omega), if_neg (by omega), if_neg (by simp; omega), vfPart_succ hp]

/-- Every function reads `SVCSTAT` (R36). -/
theorem State.reg32_svcstat (s : State) (fn : Nat) {off : Nat} (h : off = 0x100 ∨ off = 0x104) : s.reg32 fn off = halfOf s.dev.svcstat off := by
  unfold State.reg32
  exact if_pos (by simpa using h)

/-- `SVCSTAT` as its fields give it (R36). -/
theorem Dev.svcstat_toNat (d : Dev) (h1 : d.level < 8) (h2 : d.bootst < 16) (h3 : d.chan < 512) (h4 : d.walk < 32) (h5 : d.cpe < 64)
    (h6 : d.cores < 256) (h7 : d.spare0 < 16) (h8 : d.spare1 < 16) (h9 : d.stacked < 16) (h10 : d.tempc < 256) :
    d.svcstat.toNat = (if d.serviceReq then 1 else 0) * 2 ^ 63 + d.level * 2 ^ 60 + d.bootst * 2 ^ 56 + d.chan * 2 ^ 47 + d.walk * 2 ^ 42 +
      d.cpe * 2 ^ 36 + d.cores * 2 ^ 28 + d.spare0 * 2 ^ 24 + d.spare1 * 2 ^ 20 + d.stacked * 2 ^ 16 + d.tempc * 2 ^ 8 := by
  unfold Dev.svcstat
  rw [BitVec.toNat_ofNat, Nat.mod_eq_of_lt h1, Nat.mod_eq_of_lt h2, Nat.mod_eq_of_lt h3, Nat.mod_eq_of_lt h4, Nat.mod_eq_of_lt h5,
    Nat.mod_eq_of_lt h6, Nat.mod_eq_of_lt h7, Nat.mod_eq_of_lt h8, Nat.mod_eq_of_lt h9, Nat.mod_eq_of_lt h10]
  cases d.serviceReq <;> simp only [if_true, if_false, Bool.false_eq_true] <;> omega

/-- The register at offset `r` of a queue's own (R330). -/
def CmdQueue.reg (q : CmdQueue) (r : Nat) : Nat :=
  match r with
  | 0 => halfOf q.qbase 0
  | 4 => halfOf q.qbase 4
  | 0x08 => q.ctl
  | 0x0C => q.head.toNat
  | 0x10 => q.tail.toNat
  | 0x14 => q.stat
  | _ => 0

theorem Part.vfReg_queue (x : Part) {n r : Nat} (hn : n < 16) (hr : r < 64) : x.vfReg (0x1000 + r + 64 * n) = (x.cq n).reg r := by
  obtain ⟨h, hd, hm⟩ := queueOff hn hr
  rw [show 0x1000 + r + 64 * n = 0x1000 + 64 * n + r by omega]
  simp only [Part.vfReg, h, if_true, hd, hm]
  rfl

/-- A read of an event counter's half (R332). -/
theorem Part.vfReg_event (x : Part) {i r : Nat} (hi : i < 4096) (hr : r < 8) :
    x.vfReg (0x8000 + r + 8 * i) = halfOf (tget 0 x.events i) (0x8000 + r + 8 * i) := by
  unfold Part.vfReg
  rw [if_neg (by simp; omega), if_neg (by simp; omega), if_neg (by simp; omega), if_neg (by omega), if_neg (by omega), if_pos (by simp; omega),
    show (0x8000 + r + 8 * i - 0x8000) / 8 = i by omega]

/-- A read of the interrupt log (R335). -/
theorem Part.vfReg_ilog (x : Part) {i k : Nat} (hi : i < 256) (hk : k < 4) :
    x.vfReg (0x4000 + 16 * i + 4 * k) = field (tget [] x.ilog i) (4 * k) 4 := by
  unfold Part.vfReg
  rw [if_neg (by simp; omega), if_pos (by simp; omega), show (0x4000 + 16 * i + 4 * k - 0x4000) / 16 = i by omega,
    show (0x4000 + 16 * i + 4 * k) % 16 = 4 * k by omega]

/-- A read of the ingress fault log (R335). -/
theorem Part.vfReg_iflog (x : Part) {i k : Nat} (hi : i < 256) (hk : k < 8) :
    x.vfReg (0x5000 + 32 * i + 4 * k) = field (tget [] x.iflog i) (4 * k) 4 := by
  unfold Part.vfReg
  rw [if_neg (by simp; omega), if_neg (by simp; omega), if_pos (by simp; omega), show (0x5000 + 32 * i + 4 * k - 0x5000) / 32 = i by omega,
    show (0x5000 + 32 * i + 4 * k) % 32 = 4 * k by omega]

/-- A read of the buffer of a mailbox (R334). -/
theorem State.reg32_mbbuf (s : State) (fn : Nat) {i : Nat} (hi : i < 64) : s.reg32 fn (0x3100 + 4 * i) = field (s.mbox fn).buf (4 * i) 4 := by
  unfold State.reg32
  rw [if_neg (by simp; omega), if_neg (by omega), if_pos (by simp; omega), if_neg (by omega), if_pos (by omega), Nat.add_sub_cancel_left]

/-- What a read of BAR0 shows. -/
theorem registerReads : Claims.RegisterReads := by
  intro s fn p n d q x r b hp hn
  have own {off : Nat} (h : ¬isCommonRead off) : r off = x.vfReg off := State.reg32_vf s hp h
  have queue {k : Nat} (hk : k < 64) : r (0x1000 + k + 64 * n) = q.reg k :=
    (own (by unfold isCommonRead; omega)).trans (Part.vfReg_queue x hn hk)
  have flag (c : Bool) (k : Nat) : (if c then k else 0) = b c * k := by cases c <;> simp [b]
  refine ⟨fun h1 h2 h3 h4 h5 h6 h7 h8 h9 h10 => ?_, ?_, fun h => ?_, ?_, ?_, fun h => ?_, fun i hi => ?_, fun h1 h2 => ?_, rfl,
    fun i hi => State.reg32_mbbuf s fn hi, fun i hi k hk => ?_, fun i hi k hk => ?_, fun h1 h2 => ?_, fun h1 h2 h3 => ?_, ?_, ?_, rfl, rfl⟩
  · rw [State.reg32_svcstat s fn (.inl rfl), State.reg32_svcstat s fn (.inr rfl), halfOf_add _ (by decide) (by decide), Dev.svcstat_toNat d h1 h2 h3 h4 h5 h6 h7 h8 h9 h10]
  · exact (congrArg₂ (fun lo hi => lo + 2 ^ 32 * hi) (queue (k := 0) (by decide)) (queue (k := 4) (by decide))).trans
      (halfOf_add q.qbase (by decide) (by decide))
  · refine (queue (k := 0x08) (by decide)).trans ?_
    show q.ctl = _
    rw [CmdQueue.ctl, flag, Nat.mod_eq_of_lt h]
  · exact queue (k := 0x0C) (by decide)
  · exact queue (k := 0x10) (by decide)
  · refine (queue (k := 0x14) (by decide)).trans ?_
    show q.stat = _
    rw [CmdQueue.stat, flag, Nat.mod_eq_of_lt h]
  · rw [own (by unfold isCommonRead; omega), own (by unfold isCommonRead; omega), Part.vfReg_event x (r := 0) hi (by decide),
      Part.vfReg_event x (r := 4) hi (by decide), halfOf_add _ (by omega) (by omega)]
  · show (s.mbox fn).stat = _
    rw [Mailbox.stat, flag, Nat.mod_eq_of_lt h1, Nat.mod_eq_of_lt h2]
  · rw [own (by unfold isCommonRead; omega), Part.vfReg_ilog x hi hk]
  · rw [own (by unfold isCommonRead; omega), Part.vfReg_iflog x hi hk]
  · rw [own (by unfold isCommonRead; omega)]
    show x.ilogPtr = _
    rw [Part.ilogPtr, flag, Nat.mod_eq_of_lt (by omega : x.ilogCount < 512), Nat.mod_eq_of_lt h2]
  · rw [own (by unfold isCommonRead; omega)]
    show x.ifPtr = _
    rw [Part.ifPtr, flag, Nat.mod_eq_of_lt (by omega : x.ifUnread < 512), Nat.mod_eq_of_lt h2, Nat.mod_eq_of_lt h3]
  · rw [own (by unfold isCommonRead; omega)]; rfl
  · rw [own (by unfold isCommonRead; omega)]; rfl

/-! ### Invalidations (R319) -/

/-- The partition that a write to `XLINV` of a function acts on. -/
theorem State.xlPart_eq (s : State) (fn : Nat) : s.xlPart fn = if 1 ≤ fn ∧ fn ≤ 32 then fn - 1 else s.dev.xlpart % 32 := by
  unfold State.xlPart vfPart
  by_cases h : 1 ≤ fn ∧ fn ≤ 32
  · rw [if_pos (by simpa using h), if_pos h]
  · rw [if_neg (by simpa using h), if_neg h]

/-- A write to `XLINV` is ignored while an invalidation of the partition runs, and for SIZE 3 of a page. -/
theorem State.xlinv_ignored {s : State} {fn : Nat} {q : Quad}
    (h : (s.part (s.xlPart fn)).xlBusy = true ∨ (q.getLsbD 57 = false ∧ q.toNat % 4 = 3)) : s.xlinv fn q = s := by
  refine if_pos ?_
  rw [bits_low]
  simpa [qbit] using h

/-- Any other write to `XLINV` begins an invalidation. -/
theorem State.xlinv_begins {s : State} {fn : Nat} {q : Quad} (hb : (s.part (s.xlPart fn)).xlBusy = false)
    (hq : q.getLsbD 57 = true ∨ q.toNat % 4 ≠ 3) : s.xlinv fn q =
      (s.updPart (s.xlPart fn) (fun x => { x with xlBusy := true, xlPend := some q })).push .xlinvDone { a := s.xlPart fn } := by
  refine if_neg ?_
  rw [bits_low, hb]
  simpa [qbit, ← imp_iff_or_not, or_iff_not_imp_left] using hq

/-- The word of `XLINV_PAGE` is the one written with bit 57 clear. -/
theorem getLsbD_pageWord (q : Quad) {i : Nat} (hi : i ≠ 57) : (q &&& ~~~(1#64 <<< 57)).getLsbD i = q.getLsbD i := by
  rcases Nat.lt_or_ge i 64 with h | h
  · have bit : (1#64 <<< 57).getLsbD i = false := by
      rw [BitVec.getLsbD_shiftLeft, BitVec.getLsbD_one]
      simp
      omega
    rw [BitVec.getLsbD_and, BitVec.getLsbD_not, bit]
    simp [h]
  · rw [BitVec.getLsbD_of_ge _ _ h, BitVec.getLsbD_of_ge _ _ h]

theorem getLsbD_allWord (q : Quad) : (q ||| (1#64 <<< 57)).getLsbD 57 = true := by simp

/-- SIZE of the word of `XLINV_PAGE` is the one written. -/
theorem size_pageWord (q : Quad) : (q &&& ~~~(1#64 <<< 57)).toNat % 4 = q.toNat % 4 := by
  refine Nat.eq_of_testBit_eq fun i => ?_
  rw [show 4 = 2 ^ 2 from rfl, Nat.testBit_mod_two_pow, Nat.testBit_mod_two_pow, BitVec.testBit_toNat, BitVec.testBit_toNat]
  by_cases hi : i < 2
  · rw [getLsbD_pageWord q (by omega)]
  · simp [hi]

/-- SIZE names a page size of R316: 64 KiB, 2 MiB or 1 GiB. -/
theorem lvlShift_size {k : Nat} (h : k < 3) : lvlShift k = [16, 21, 30].getD k 16 := by
  rcases (by omega : k = 0 ∨ k = 1 ∨ k = 2) with rfl | rfl | rfl <;> rfl

/-- The cached translations that an invalidation names (R319): all of the partition, or those that meet its page. -/
theorem TlbEnt.hit_iff (x : TlbEnt) (part : Nat) {q : Quad} (h : q.getLsbD 57 = true ∨ q.toNat % 4 < 3) :
    let size := 2 ^ [16, 21, 30].getD (q.toNat % 4) 16
    let va := q.toNat / 2 ^ 16 % 2 ^ 41 * 2 ^ 16 / size * size
    x.hit part q = true ↔ x.part = part ∧ (q.getLsbD 57 = true ∨ (q.toNat % 4 < 3 ∧ x.base < va + size ∧ va < x.base + x.size)) := by
  intro size va
  unfold TlbEnt.hit
  by_cases h57 : q.getLsbD 57 = true
  · simp [qbit, h57]
  · have h3 : q.toNat % 4 < 3 := h.resolve_left h57
    have hs : 2 ^ lvlShift (bits q 1 0) = size := by
      rw [bits_low]
      exact congrArg _ (lvlShift_size h3)
    have hv : bits q 56 16 * 65536 / size * size = va := rfl
    simp [qbit, h3, hs, hv]

/-- `XLINV_DONE` where no invalidation of the partition is pending. -/
theorem exec_xlinvDone_idle {s : State} (h : (s.part s.ctx.ev.a).xlPend = none) : exec .xlinvDone s = .next s := by
  show execXlinvDone s = _
  simp only [execXlinvDone, h]

/-- `XLINV_DONE` ends the pending invalidation of the partition and drops what it names from both caches. -/
theorem exec_xlinvDone_pending {s : State} {q : Quad} (h : (s.part s.ctx.ev.a).xlPend = some q) : exec .xlinvDone s =
    .next { s.updPart s.ctx.ev.a (fun x => { x with xlBusy := false, xlPend := none }) with
      tlb1 := s.tlb1.filter (fun x => !x.hit s.ctx.ev.a q)
      tlb2 := s.tlb2.filter (fun x => !x.hit s.ctx.ev.a q) } := by
  show execXlinvDone s = _
  simp only [execXlinvDone, h]

/-- The invalidations of a function. -/
theorem invalidations : Claims.Invalidations := by
  intro s e p begun shift
  have hp : s.xlPart e.a = p := State.xlPart_eq s e.a
  have begins {q : Quad} (hb : (s.part p).xlBusy = false) (hq : q.getLsbD 57 = true ∨ q.toNat % 4 ≠ 3) : begun q (s.xlinv e.a q) := by
    rw [State.xlinv_begins (by rwa [hp]) hq, hp]
    exact ⟨_, rfl, rfl, rfl⟩
  have busy {q : Quad} (hb : (s.part p).xlBusy = true) : s.xlinv e.a q = s := State.xlinv_ignored (.inl (by rwa [hp]))
  have page57 : (e.q &&& ~~~(1#64 <<< 57)).getLsbD 57 = false := by
    rw [BitVec.getLsbD_and, BitVec.getLsbD_not]
    simp
  refine ⟨fun hb => ⟨congrArg _ (busy hb), congrArg _ (busy hb)⟩, fun _ h3 => ?_, fun hb h3 => ?_, fun hb => ?_, fun hn => ?_, fun q hq => ?_⟩
  · exact congrArg _ (State.xlinv_ignored (.inr ⟨page57, by rw [size_pageWord, h3]⟩))
  · exact ⟨_, _, rfl, begins hb (.inr (by rwa [size_pageWord])), page57, fun i hi => getLsbD_pageWord e.q hi⟩
  · exact ⟨_, _, rfl, begins hb (.inl (getLsbD_allWord e.q)), getLsbD_allWord e.q⟩
  · exact exec_xlinvDone_idle hn
  · intro size va hit h
    have mem (l : List TlbEnt) (x : TlbEnt) : x ∈ l.filter (fun y => !y.hit e.a q) ↔ x ∈ l ∧ ¬hit x := by
      have hx : x.hit e.a q = true ↔ hit x := TlbEnt.hit_iff x e.a h
      rw [List.mem_filter, Bool.not_eq_true', ← Bool.not_eq_true, hx]
    exact ⟨_, exec_xlinvDone_pending hq, rfl, mem _, mem _⟩

/-- Settles O47: the four claims about BAR0, each through the laws above of the function that the step names. -/
theorem hostRegisters : Obligations.HostRegisters := by
  unfold Obligations.HostRegisters
  exact ⟨queueRegisters, otherRegisters, registerReads, invalidations⟩

end Sys2Proof.Machine
end

section
/-! SUPPORT. Control words (R78, R91, R206, R211, R212): the lanes of a head, where a trap stands them, and O8 and O9, which these laws settle. -/

namespace Sys2Proof.Machine

/-- Settles O8: each of the three words is its arm. -/
theorem smallControl : Obligations.SmallControl := by
  unfold Obligations.SmallControl
  exact fun s => ⟨rfl, ⟨_, rfl, rfl, rfl⟩, rfl⟩

/-! ### The lanes of a mask -/

@[simp] theorem mem_lanesOf {m : Word} {l : Nat} : l ∈ lanesOf m ↔ m.getLsbD l = true := by
  simp only [lanesOf, List.mem_filter, List.mem_range, and_iff_right_iff_imp]
  exact BitVec.lt_of_getLsbD

theorem State.mem_headLanes {s : State} {l : Nat} : l ∈ s.headLanes ↔ s.headMask.getLsbD l = true := mem_lanesOf

/-- The lanes that a chain acts on are lanes of its head. -/
theorem State.headMask_sub {s : State} {e : Entry} (he : s.me.head = some e) : s.headMask &&& ~~~e.mask = 0#32 := by
  simp only [State.headMask, he]
  apply BitVec.eq_of_getLsbD_eq
  intro i hi
  simp only [BitVec.getLsbD_and, BitVec.getLsbD_not, BitVec.getLsbD_zero]
  cases e.mask.getLsbD i <;> simp

/-! ### Traps at issue -/

/-- One new entry for lanes of the head: they stand where it stands, and every other lane where it stood (R107). -/
theorem moveHead_single {t : Stream} {e x : Entry} {m : Word} (ha : Apart t.frontier) (he : t.head = some e) (hm : m &&& ~~~e.mask = 0#32)
    (hx : x.mask = m) : FrontierOk (t.moveHead m [x]).frontier ∧ ∀ l, (t.moveHead m [x]).place l =
      if m.getLsbD l = true then some x.place else t.place l := by
  obtain ⟨hok, hp⟩ := moveHead_spec (es := [x]) ha he hm (List.pairwise_singleton _ _) (by simp [hx])
  refine ⟨hok, fun l => Option.ext fun p => ?_⟩
  rw [hp, holds_cons, hx]
  by_cases hl : m.getLsbD l = true
  · simp [hl, holds_nil]
  · simp [hl, holds_nil]

/-- Where a trap at issue stands the lanes it parks (R306, R308, R309). -/
theorem State.trapAt_place {s : State} {e : Entry} {m : Word} (ha : Apart s.me.frontier) (he : s.me.head = some e) (hm : m &&& ~~~e.mask = 0#32)
    (h0 : m ≠ 0#32) (cause code : Nat) (addr : Quad) (at0 at1 : Pc) :
    FrontierOk (s.trapAt cause code addr m at0 at1).me.frontier ∧ ∀ l, (s.trapAt cause code addr m at0 at1).me.place l =
      if m.getLsbD l = true then some (if s.me.sid = 0 then s.pc0.add s.ctx.len else at0, s.prio0, .parked cause) else s.me.place l := by
  rw [State.trapAt_eq s cause code addr h0]
  have h := moveHead_single (x := s.parkEntry cause m at0) ha he hm rfl
  simpa [State.parkEntry, Entry.place, State.isSteward] using h

/-- All that a trap of the whole head does. -/
theorem State.trapAt_head {s : State} {e : Entry} (ha : Apart s.me.frontier) (he : s.me.head = some e) (h0 : s.headMask ≠ 0#32)
    (cause code : Nat) (addr : Quad) (at0 at1 : Pc) :
    let t := s.trapAt cause code addr s.headMask at0 at1
    FrontierOk t.me.frontier ∧
      (∀ l ∈ s.headLanes, t.me.place l = some (if s.me.sid = 0 then s.pc0.add s.ctx.len else at0, s.prio0, .parked cause)) ∧
      (∀ l, l ∉ s.headLanes → t.me.place l = s.me.place l) ∧
      t = { s with
        me := { s.me with frontier := t.me.frontier }
        crew := { s.crew with recWait := s.crew.recWait ++ [s.trapRec cause code addr s.headMask at1] }
        agenda := s.agenda ++ [{ op := .trapRecordEnqueue, arg := { a := s.crew.id }, due := s.clock }] } := by
  intro t
  obtain ⟨hok, hp⟩ := s.trapAt_place ha he (State.headMask_sub he) h0 cause code addr at0 at1
  refine ⟨hok, fun l hl => ?_, fun l hl => ?_, ?_⟩
  · rw [hp, if_pos (State.mem_headLanes.1 hl)]
  · rw [hp, if_neg (mt State.mem_headLanes.2 hl)]
  · rw [show t = _ from s.trapAt_eq cause code addr h0 at0 at1]
    rfl

theorem State.trapRec_eq (s : State) (cause code : Nat) (addr : Quad) (m : Word) (at1 : Pc) : s.trapRec cause code addr m at1 =
    if s.me.sid = 0 then ⟨true, 0, code, cause, ptrOf at1 s.prio0, 0#32, addr, true, s.me.handler.isSome⟩
    else ⟨false, s.me.sid - 1, code, cause, ptrOf at1 s.prio0, m, addr, false, false⟩ := by
  simp [State.trapRec, State.isSteward]

theorem softwareTraps : Claims.SoftwareTraps := by
  intro s e he ha h0 x hx r
  have hr : r = s.trapRec x.2 (s.ctx.imm.toNat % 256) 0#64 s.headMask s.pc := (s.trapRec_eq _ _ _ _ _).symm
  have hexec : exec x.1 s = .next (s.softTrap x.2) := by
    simp only [List.mem_cons, List.not_mem_nil, or_false] at hx
    rcases hx with rfl | rfl <;> rfl
  rw [hr]
  exact ⟨_, hexec, s.trapAt_head ha he h0 _ _ _ _ _⟩

theorem illegalOpTrap : Claims.IllegalOpTrap := by
  intro s e he ha h0 r
  have hr : r = s.trapRec 0x01 0 0#64 s.headMask s.pc0 := (s.trapRec_eq _ _ _ _ _).symm
  rw [hr]
  exact ⟨_, rfl, s.trapAt_head ha he h0 _ _ _ _ _⟩

theorem returnFromHandler : Claims.ReturnFromHandler := by
  refine fun s => ⟨fun e h0 hh => ?_, fun h => ?_⟩
  · have hexec : exec .eret s = execEret s := rfl
    rw [hexec, execEret]
    simp only [State.isSteward, h0, hh]
    exact ⟨_, rfl, by simp [State.push, Stream.leaveHandler, h0]⟩
  · have hexec : exec .eret s = execEret s := rfl
    rw [IllegalIn, hexec, execEret]
    rcases h with h | h
    · simp [State.isSteward, h]
    · simp [h]

/-- Settles O9: what a trap of the whole head does, for the two causes of R211 and for `ILLEGAL_OP`, and the two cases of `ERET`. -/
theorem trapsAndReturn : Obligations.TrapsAndReturn := by
  unfold Obligations.TrapsAndReturn
  exact ⟨softwareTraps, illegalOpTrap, returnFromHandler⟩

end Sys2Proof.Machine
end

section
/-! SUPPORT. Group control and Eddy lines where no crew is placed: crew number 0, which stands for none (`State.allCrews`), is named by a listed crew
in these states, and O10 and O17 fail there. -/

namespace Sys2Proof.Machine

/-- No crew is placed, and the list of crews holds one with the number 0, which has group 0. -/
def zeroCrew (t : Stream) : State := { State.reset with crews := [{ Crew.blank with streams := [t] }] }

/-- A `GWR` to the expected mask of group 0 (R213): KIND 3 in the selector, 5 the mask. -/
def zeroLate : Late := ⟨0, 0, .gwr, 3#64, 5#64, 0, 9⟩

/-- The steward's result for `zeroLate`. -/
def zeroPend : Pend := ⟨9, none, false, [], none, 0#32, true, [], 0⟩

/-- The state in which `zeroLate` is due. -/
def zeroLateState : State := { zeroCrew (Stream.blank 1) with me := { Stream.blank 0 with pend := [zeroPend] } }

theorem zeroLateState_group : zeroLateState.streamOf ⟨0, 1⟩ = some (Stream.blank 1) := by decide

/-- Refutes O10, by its clause on a `GWR` that is due: `State.updStream` looks for a stream of crew 0 in the issuing crew, and `State.streamOf` among the listed
ones, so that the group's expected mask stays as it was. Claims of other families ask for a crew other than 0. -/
theorem not_systemAccess : ¬ Obligations.SystemAccess := by
  unfold Obligations.SystemAccess
  rintro ⟨-, -, -, -, -, -, hlate, -⟩
  obtain ⟨hlive, -⟩ := hlate zeroLateState 0 zeroLate zeroLateState.me zeroPend rfl (by decide) (by decide)
  obtain ⟨-, hgwr⟩ := hlive (Stream.blank 1) zeroLateState_group rfl
  obtain ⟨-, hgroup, -⟩ := hgwr rfl
  exact absurd hgroup (by decide)

/-- A scattered byte of group 0 of that crew, to the first byte of the scratchpad of core 0. -/
def zeroWrite : PWrite := ⟨5, 4, ⟨0, 1⟩, 0, scratchHome 0, [(1#8, 0xFF#8)], 0, .scratch, 0, some (scratchHome 0 / 64)⟩

/-- The line of the Eddy that carries `zeroWrite`, its window over. -/
def zeroLine : EddyLine := ⟨0, 0, scratchHome 0 / 64, true, 0, [(⟨0, 1⟩, 5, 0)]⟩

/-- The state in which that line is sent. -/
def zeroEddyState : State := { zeroCrew { Stream.blank 1 with wb := [zeroWrite] } with
  eddy := [zeroLine]
  ctx := { Ctx.blank with ev := { Ctx.blank.ev with b := scratchHome 0 / 64, c := 1 } } }

theorem zeroEddyState_writes : zeroEddyState.eddyWrites zeroLine = [zeroWrite] := by decide

/-- The write has drained and stands in its buffer still. -/
theorem zeroEddyState_sent : (match exec .eddyWindowExpiry zeroEddyState with | .next t => (t.streamOf ⟨0, 1⟩).map Stream.wb | _ => none) =
    some [zeroWrite] := by decide

/-- Refutes O17, by its clause that the writes of a sent line leave their buffers: `State.removeWrite` goes through `State.updStream`, which does not
reach a stream of a listed crew 0. -/
theorem not_homeWork : ¬ Obligations.HomeWork := by
  unfold Obligations.HomeWork
  rintro ⟨-, -, heddy⟩
  obtain ⟨-, hsent, -⟩ := heddy zeroEddyState zeroLine (by decide)
  have hput : ({ zeroEddyState with eddy := zeroEddyState.eddy.erase zeroLine } : State).putRuns zeroLine.part
      ((zeroEddyState.eddyWrites zeroLine).map (fun w => (w.home, w.data))) =
        .ok { zeroEddyState with eddy := [], mem := [(scratchHome 0, 1#8)] } := by rw [zeroEddyState_writes]; rfl
  obtain ⟨t, hexec, -, -, hgone⟩ := hsent (by decide) rfl (by decide) _ hput
  have hs := zeroEddyState_sent
  rw [hexec] at hs
  obtain ⟨u, hu, hwb⟩ := Option.map_eq_some_iff.1 hs
  exact hgone (by decide) (by decide) zeroWrite (by rw [zeroEddyState_writes]; simp) u hu zeroWrite (by rw [hwb]; simp) rfl

end Sys2Proof.Machine
end

section
/-! SUPPORT. What an issue leaves, which of two writes prevails, and the end of a cycle (R69, R77, R105, R107, R109, R112, R115, R119, R120, R207, R215),
and O55, which these laws settle. -/

namespace Sys2Proof.Machine

/-! ### What an issue leaves (R69, R105, R107, R112, R119, R120, R207) -/

theorem place_advanced {a : Pc} {b : Nat} {n : Nat} {e : Entry} : (if e.st = .ready && e.pc == a && e.prio == b then { e with pc := a.add n } else e).place =
    if e.place = (a, b, .ready) then (a.add n, b, .ready) else e.place := by
  have h : (decide (e.st = .ready) && e.pc == a && e.prio == b) = true ↔ e.place = (a, b, .ready) := by
    simp only [Entry.place, Bool.and_eq_true, decide_eq_true_eq, beq_iff_eq, Prod.mk.injEq]
    tauto
  by_cases hp : e.place = (a, b, .ready)
  · rw [if_pos (h.2 hp), if_pos hp]
    have h2 := congrArg Prod.snd hp
    simp only [Entry.place] at h2 ⊢
    rw [h2]
  · rw [if_neg (mt h.1 hp), if_neg hp]

/-- Entries that keep their lanes and change where these stand: every lane stands where its entry went. -/
theorem find_map_place {l : List Entry} {f : Entry → Entry} {g : Pc × Nat × EntrySt → Pc × Nat × EntrySt} (hm : ∀ e, (f e).mask = e.mask)
    (hp : ∀ e, (f e).place = g e.place) (lane : Nat) :
    ((l.map f).find? (fun e => e.mask.getLsbD lane)).map Entry.place = ((l.find? (fun e => e.mask.getLsbD lane)).map Entry.place).map g := by
  rw [List.find?_map, Option.map_map, Option.map_map]
  have : (fun e : Entry => e.mask.getLsbD lane) ∘ f = fun e => e.mask.getLsbD lane := funext fun e => by simp [hm]
  rw [this]
  exact congrFun (congrArg _ (funext hp)) _

theorem Apart.map_mask {l : List Entry} (h : Apart l) {f : Entry → Entry} (hm : ∀ e, (f e).mask = e.mask) : Apart (l.map f) := by
  unfold Apart
  rw [List.pairwise_map]
  simp only [hm]
  exact h

/-- The lanes that stand at a place go on from it by `n` words, and every other lane stands where it stood (R105, R107). -/
theorem Stream.advance_spec {t : Stream} (h : Apart t.frontier) (a : Pc) (b n : Nat) :
    FrontierOk (t.advance a b n).frontier ∧ ∀ lane, (t.advance a b n).place lane =
      if t.place lane = some (a, b, .ready) then some (a.add n, b, .ready) else t.place lane := by
  let f : Entry → Entry := fun e => if e.st = .ready && e.pc == a && e.prio == b then { e with pc := a.add n } else e
  have hm : ∀ e, (f e).mask = e.mask := fun e => by simp only [f]; split <;> rfl
  have ha : Apart (t.frontier.map f) := h.map_mask hm
  refine ⟨normFrontier_ok ha, fun lane => ?_⟩
  have hplace := find_map_place (l := t.frontier) (g := fun p => if p = (a, b, .ready) then (a.add n, b, .ready) else p) hm
    (fun _ => place_advanced) lane
  calc (t.advance a b n).place lane = Stream.place { t with frontier := t.frontier.map f } lane := place_normFrontier t ha lane
    _ = (t.place lane).map (fun p => if p = (a, b, .ready) then (a.add n, b, .ready) else p) := hplace
    _ = _ := by
      cases t.place lane with
      | none => rfl
      | some p => simp only [Option.map_some, Option.some_inj]; split <;> rfl

theorem issueAdvances : Claims.IssueAdvances := by
  intro f t w i u
  refine ⟨fun hi => ?_, fun hi hok => ?_, ?_⟩
  · simp [u, State.issued, hi]
  · have hu : u.me.frontier = (t.me.advance f.pc0 f.prio0 1).frontier := by simp [u, State.issued, hi, Stream.advance]
    obtain ⟨h1, h2⟩ := Stream.advance_spec hok.apart f.pc0 f.prio0 1
    refine ⟨hu ▸ h1, fun l _ => ?_⟩
    rw [← show f.pc0.add 1 = f.pc0.succ from rfl, ← h2 l]
    simp only [Stream.place, Stream.entryOf, hu]
  · have hme : u.me = { t.me with
        frontier := u.me.frontier
        lastIssue := some f.clock
        issued := t.me.issued + f.wordsCounted t [(w, i)]
        promoted := none
        eligFor := 0
        arrived := none
        ymark := w.getLsbD 30 } := by
      cases hi : movesPc i <;> simp [u, State.issued, hi, Stream.advance]
    rw [hme]
    refine ⟨rfl, rfl, rfl, rfl, rfl, rfl, rfl, rfl, rfl, rfl, rfl, rfl, rfl, fun h => ?_, fun h => ?_⟩
    · simp [State.wordsCounted, Nat.not_lt.2 h]
    · simp [State.wordsCounted, h]

/-! ### Which of two writes prevails (R77, R115) -/

theorem tdel_tput {α : Type} (t : List (Nat × α)) (k : Nat) (x : α) : tdel (tput t k x) k = tdel t k := by
  induction t with
  | nil => simp [tput, tdel]
  | cons p t ih =>
    simp only [tput]
    split
    · simp [tdel]
    · simp only [tdel, ih]

theorem tdel_tdel {α : Type} (t : List (Nat × α)) (k : Nat) : tdel (tdel t k) k = tdel t k := by
  induction t with
  | nil => rfl
  | cons p t ih =>
    simp only [tdel]
    split
    · exact ih
    · next hne => simp only [tdel, if_neg hne, ih]

/-- Of two writes of one key the first leaves nothing behind, whatever the table. -/
theorem tset_tset {α : Type} [DecidableEq α] (d : α) (t : List (Nat × α)) (k : Nat) (x y : α) : tset d (tset d t k x) k y = tset d t k y := by
  have h : tdel (tset d t k x) k = tdel t k := by
    unfold tset
    split
    · exact tdel_tdel t k
    · rw [tdel_tput, tdel_tdel]
  rw [tset, h, tset]

theorem RegWrite.same_iff {x y : RegWrite} : x.same y = true ↔ (∃ k a b, x = .v k a ∧ y = .v k b) ∨ (∃ k a b, x = .k k a ∧ y = .k k b) ∨
    ∃ k a b, x = .p k a ∧ y = .p k b := by
  constructor
  · cases x <;> cases y <;> simp [RegWrite.same] <;> exact Eq.symm
  · rintro (⟨k, a, b, rfl, rfl⟩ | ⟨k, a, b, rfl, rfl⟩ | ⟨k, a, b, rfl, rfl⟩) <;> simp [RegWrite.same]

/-- Of two writes of one register or predicate the later leaves nothing of the earlier. -/
theorem Stream.write_write_same {x y : RegWrite} (h : x.same y = true) (s : Stream) : (s.write x).write y = s.write y := by
  rcases RegWrite.same_iff.1 h with ⟨k, a, b, rfl, rfl⟩ | ⟨k, a, b, rfl, rfl⟩ | ⟨k, a, b, rfl, rfl⟩ <;> simp [Stream.write, tset_tset]

theorem Stream.overtaken_iff (t : Stream) (now issue slot : Nat) (w : RegWrite) : t.overtaken now issue slot w = true ↔
    ∃ e ∈ t.wrote, e.w.same w = true ∧ ((e.cyc = now ∧ issue < e.issue) ∨ (e.issue = issue ∧ slot < e.slot)) := by
  simp only [Stream.overtaken, List.any_eq_true, Bool.and_eq_true, Bool.or_eq_true, beq_iff_eq, decide_eq_true_eq]
  refine exists_congr fun e => and_congr_right fun _ => and_congr_right fun _ => ?_
  omega

theorem writeOrder : Claims.WriteOrder := by
  intro t now issue slot w u later
  have hlater : t.overtaken now issue slot w = true ↔ later := t.overtaken_iff now issue slot w
  have hu : u = if later then t else { t.write w with wrote := t.wrote ++ [⟨now, issue, slot, w⟩] } := by
    simp only [u, Stream.land]
    by_cases h : later
    · simp [hlater.2 h, h]
    · simp [mt hlater.1 h, h]
  have hrest : u = { t with v := u.v, k := u.k, p := u.p, wrote := u.wrote } := by
    rw [hu]
    split
    · rfl
    · cases w <;> rfl
  refine ⟨fun h => ?_, fun h => ?_, by rw [hrest], by rw [hrest], by rw [hrest], fun x y hxy s => ?_⟩
  · simp [hu, h]
  · simp [hu, h]
  · rw [Stream.write_write_same hxy]
    exact ⟨rfl, rfl, rfl⟩

/-! ### The results of a stream that are due (R115) -/

theorem Stream.cfSub_rest (t : Stream) (f : Option Nat) : ∃ c, t.cfSub f = { t with cf := c } := by
  cases f with
  | none => exact ⟨t.cf, rfl⟩
  | some i => exact ⟨_, rfl⟩

/-- A writeback ends its use; beside that it changes registers, flags and the record of the writes made. -/
theorem Stream.writeback_rest (t : Stream) (now : Nat) (p : Pend) : ∃ v k q c w, t.writeback now p =
    { t with v := v, k := k, p := q, cf := c, wrote := w, pend := t.pend.filter (fun q => q.id != p.id) } := by
  unfold Stream.writeback Stream.land
  dsimp only
  rw [Stream.writes_rest]
  obtain ⟨c, hc⟩ := Stream.cfSub_rest { t with
    v := (t.writes (p.writes.filter (fun w => !t.overtaken now p.iss (ptrPc p.pc).slot w))).v
    k := (t.writes (p.writes.filter (fun w => !t.overtaken now p.iss (ptrPc p.pc).slot w))).k
    p := (t.writes (p.writes.filter (fun w => !t.overtaken now p.iss (ptrPc p.pc).slot w))).p
    wrote := t.wrote ++ (p.writes.filter (fun w => !t.overtaken now p.iss (ptrPc p.pc).slot w)).map (⟨now, p.iss, (ptrPc p.pc).slot, ·⟩) } p.flag
  rw [hc]
  exact ⟨_, _, _, _, _, rfl⟩

/-- The same of the writebacks of several results: each of their uses ends. -/
theorem Stream.writebacks_rest (now : Nat) (l : List Pend) (t : Stream) : ∃ v k q c w, l.foldl (fun t p => t.writeback now p) t =
    { t with v := v, k := k, p := q, cf := c, wrote := w, pend := t.pend.filter (fun q => l.all (fun p => q.id != p.id)) } := by
  induction l generalizing t with
  | nil => exact ⟨t.v, t.k, t.p, t.cf, t.wrote, by simp⟩
  | cons p l ih =>
    obtain ⟨v, k, q, c, w, h⟩ := ih (t.writeback now p)
    obtain ⟨v', k', q', c', w', h'⟩ := t.writeback_rest now p
    refine ⟨v, k, q, c, w, ?_⟩
    rw [List.foldl_cons, h, h']
    simp [List.filter_filter, Bool.and_comm]

/-- Where no earlier write is on record, a result writes what it holds. -/
theorem Stream.writeback_regs {t : Stream} (h : t.wrote = []) (now : Nat) (p : Pend) : (t.writeback now p).v = (t.writes p.writes).v ∧
    (t.writeback now p).k = (t.writes p.writes).k ∧ (t.writeback now p).p = (t.writes p.writes).p := by
  have hland : p.writes.filter (fun w => !t.overtaken now p.iss (ptrPc p.pc).slot w) = p.writes :=
    List.filter_eq_self.2 fun w _ => by simp [Stream.overtaken, h]
  simp only [Stream.writeback, Stream.land, hland]
  obtain ⟨c, hc⟩ := Stream.cfSub_rest { t.writes p.writes with wrote := t.wrote ++ p.writes.map (⟨now, p.iss, (ptrPc p.pc).slot, ·⟩) } p.flag
  rw [hc]
  exact ⟨rfl, rfl, rfl⟩

/-- A result is due in a cycle. -/
def Pend.dueBy (n : Nat) (p : Pend) : Bool := match p.due with | some d => d ≤ n | none => false

theorem Pend.dueBy_iff {n : Nat} {p : Pend} : p.dueBy n = true ↔ ∃ d, p.due = some d ∧ d ≤ n := by
  unfold Pend.dueBy
  cases p.due <;> simp

/-- A stream as the cycle `n` finds it: entries resumed, the new level, and its due results written back. -/
theorem Stream.due_eq (t : Stream) (n : Nat) : t.due n = (t.pend.filter (Pend.dueBy n)).foldl (fun t p => t.writeback n p) t.forget := rfl

/-- What the results that are due leave: each is gone, every other is still under way. -/
theorem Stream.due_spec (t : Stream) (n : Nat) (hid : t.pend.Pairwise (fun a b => a.id ≠ b.id)) : let u := t.due n
    u = { t with v := u.v, k := u.k, p := u.p, cf := u.cf, pend := u.pend, wrote := u.wrote } ∧
    (∀ p, p ∈ u.pend ↔ p ∈ t.pend ∧ ¬p.dueBy n = true) ∧
    ((∀ p ∈ t.pend, ¬p.dueBy n = true) → u.v = t.v ∧ u.k = t.k ∧ u.p = t.p ∧ u.cf = t.cf) ∧
    ∀ p ∈ t.pend, p.dueBy n = true → t.wrote = [] → (∀ q ∈ t.pend, q.dueBy n = true → q = p) →
      u.v = (t.writes p.writes).v ∧ u.k = (t.writes p.writes).k ∧ u.p = (t.writes p.writes).p := by
  intro u
  obtain ⟨v, k, q, c, w, hrest⟩ := Stream.writebacks_rest n (t.pend.filter (Pend.dueBy n)) t.forget
  have hu : u = _ := (t.due_eq n).trans hrest
  have hpend : u.pend = t.pend.filter (fun q => (t.pend.filter (Pend.dueBy n)).all (fun p => q.id != p.id)) := by rw [hu]; rfl
  have hsame {p q : Pend} (hp : p ∈ t.pend) (hq : q ∈ t.pend) (h : p.id = q.id) : p = q :=
    List.inj_on_of_nodup_map (List.pairwise_map.2 hid) hp hq h
  refine ⟨by rw [hu]; rfl, fun p => ?_, fun hn => ?_, fun p hp hdue hw honly => ?_⟩
  · simp only [hpend, List.mem_filter, List.all_eq_true, bne_iff_ne]
    refine and_congr_right fun hp => ⟨fun h hd => h p ⟨hp, hd⟩ rfl, fun h q hq he => ?_⟩
    exact h (hsame hp hq.1 he ▸ hq.2)
  · have hnil : t.pend.filter (Pend.dueBy n) = [] := List.filter_eq_nil_iff.2 hn
    have hu : u = t.forget := by rw [show u = _ from t.due_eq n, hnil]; rfl
    exact ⟨by rw [hu]; rfl, by rw [hu]; rfl, by rw [hu]; rfl, by rw [hu]; rfl⟩
  · have hone : t.pend.filter (Pend.dueBy n) = [p] := by
      have hnd : (t.pend.filter (Pend.dueBy n)).Nodup := (hid.imp (fun h e => h (congrArg Pend.id e))).sublist List.filter_sublist
      exact List.perm_singleton.1 ((List.perm_ext_iff_of_nodup hnd (List.nodup_singleton p)).2 fun q => by
        rw [List.mem_filter, List.mem_singleton]
        exact ⟨fun hq => honly q hq.1 hq.2, fun hq => hq ▸ ⟨hp, hdue⟩⟩)
    have hu : u = t.forget.writeback n p := by rw [show u = _ from t.due_eq n, hone]; rfl
    have hf : t.forget = t := by unfold Stream.forget; rw [hw, List.filter_nil, ← hw]
    rw [hu, hf]
    exact Stream.writeback_regs hw n p


/-! ### What the end of a cycle leaves of a stream (R109, R115, R120, R215) -/

/-- The stream of a reference among listed crews. -/
def streamIn (l : List Crew) (r : Ref) : Option Stream := (l.find? (fun c => c.id == r.crew)).bind (fun c => c.streams.find? (fun t => t.sid == r.sid))

theorem State.streamOf_eq_streamIn {s : State} {r : Ref} (h0 : s.crew.id = 0) (hr : r.crew ≠ 0) : s.streamOf r = streamIn s.crews r := by
  simp [State.streamOf, State.crewOf, State.allCrews, h0, hr, streamIn]

@[simp] theorem State.unfocus_crew_id (s : State) : s.unfocus.crew.id = 0 := by
  unfold State.unfocus
  split
  · assumption
  · rfl

theorem State.unfocus_frame (s : State) : s.unfocus.clock = s.clock ∧ s.unfocus.mem = s.mem ∧ s.unfocus.parts = s.parts ∧ s.unfocus.dev = s.dev := by
  unfold State.unfocus
  split <;> exact ⟨rfl, rfl, rfl, rfl⟩

/-- An update of every stream of every crew, which keeps each stream's number. -/
theorem streamIn_map {l : List Crew} {f : Stream → Stream} (hf : ∀ t, (f t).sid = t.sid) (r : Ref) :
    streamIn (l.map (fun c => { c with streams := c.streams.map f })) r = (streamIn l r).map f := by
  have hsid : (fun t : Stream => t.sid == r.sid) ∘ f = fun t => t.sid == r.sid := funext fun t => by simp [hf]
  simp only [streamIn, List.find?_map]
  rw [show (fun c : Crew => c.id == r.crew) ∘ (fun c : Crew => { c with streams := c.streams.map f }) = fun c => c.id == r.crew from rfl]
  cases l.find? (fun c => c.id == r.crew) with
  | none => rfl
  | some c => simp only [Option.map_some, Option.bind_some, List.find?_map, hsid]

/-- What later parts of a cycle's end leave: no crew is taken out of the list, and clock, memory, partitions and package stay; of a listed stream the
count of eligible cycles and the promotion may change. -/
structure State.Settles (s t : State) : Prop where
  idle : t.crew.id = 0
  clock : t.clock = s.clock
  mem : t.mem = s.mem
  parts : t.parts = s.parts
  dev : t.dev = s.dev
  stream : ∀ r u, r.crew ≠ 0 → streamIn s.crews r = some u → ∃ n m, streamIn t.crews r = some { u with eligFor := n, promoted := m }

theorem State.Settles.refl {s : State} (h : s.crew.id = 0) : s.Settles s := ⟨h, rfl, rfl, rfl, rfl, fun _ u _ hu => ⟨u.eligFor, u.promoted, hu⟩⟩

theorem State.Settles.trans {s t u : State} (h : s.Settles t) (k : t.Settles u) : s.Settles u where
  idle := k.idle
  clock := k.clock.trans h.clock
  mem := k.mem.trans h.mem
  parts := k.parts.trans h.parts
  dev := k.dev.trans h.dev
  stream r x hr hx := by
    obtain ⟨n, m, ht⟩ := h.stream r x hr hx
    obtain ⟨n', m', hu⟩ := k.stream r _ hr ht
    exact ⟨n', m', hu⟩

theorem State.Settles.next {s t u : State} (h : s.Settles t) (k : t.crew.id = 0 → t.Settles u) : s.Settles u := h.trans (k h.idle)

/-- A change of the agenda alone. -/
theorem State.Settles.agenda {s : State} (h : s.crew.id = 0) (l : List Event) (n : Nat) : s.Settles { s with agenda := l, tries := n } :=
  ⟨h, rfl, rfl, rfl, rfl, fun _ u _ hu => ⟨u.eligFor, u.promoted, hu⟩⟩

theorem State.Settles.push {s : State} (h : s.crew.id = 0) (op : Instr) (a : EvArg) : s.Settles (s.push op a) := .agenda h _ s.tries

theorem State.Settles.pushAll {s : State} (h : s.crew.id = 0) (op : Instr) (l : List EvArg) : s.Settles (s.pushAll op l) := .agenda h _ s.tries

theorem State.Settles.foldl {α : Type} {f : State → α → State} {l : List α} (hf : ∀ (s : State), ∀ x ∈ l, s.crew.id = 0 → s.Settles (f s x))
    {s : State} (h : s.crew.id = 0) : s.Settles (l.foldl f s) := by
  induction l generalizing s with
  | nil => exact .refl h
  | cons x l ih => exact (hf s x (by simp) h).next fun h => ih (fun s y hy => hf s y (by simp [hy])) h

/-- An update of a crew that keeps its number and its streams, or changes counts and promotions of them alone. -/
theorem State.Settles.updCrew {s : State} (h : s.crew.id = 0) (i : Nat) {f : Crew → Crew} (hid : ∀ c, (f c).id = c.id)
    (hs : ∀ c n u, c.streams.find? (fun t => t.sid == n) = some u →
      ∃ x y, (f c).streams.find? (fun t => t.sid == n) = some { u with eligFor := x, promoted := y }) : s.Settles (s.updCrew i f) := by
  refine ⟨?_, by simp, by simp, by simp, by simp, fun r u hr hu => ?_⟩
  · unfold State.updCrew; split
    · exact (hid _).trans h
    · exact h
  · unfold State.updCrew
    split
    · exact ⟨u.eligFor, u.promoted, hu⟩
    · obtain ⟨c, hc, hu⟩ := Option.bind_eq_some_iff.1 hu
      have hfind : (updIf (fun c => c.id == i) f s.crews).find? (fun c => c.id == r.crew) = some (if c.id == i then f c else c) := by
        have : (fun c : Crew => c.id == r.crew) ∘ (fun c => if c.id == i then f c else c) = fun c => c.id == r.crew :=
          funext fun c => by simp only [Function.comp]; split <;> simp [hid]
        rw [updIf, List.find?_map, this, hc]
        rfl
      simp only [streamIn, hfind, Option.bind_some]
      split
      · exact hs c r.sid u hu
      · exact ⟨u.eligFor, u.promoted, hu⟩

/-- Where a crew has no effects under way, the step of its late words changes nothing of the streams (R213 to R215). -/
theorem State.Settles.lateOf {s : State} (h : s.crew.id = 0) {c : Crew} (hc : c.late = []) : s.Settles (s.lateOf c) := by
  unfold State.lateOf
  rw [hc]
  exact .updCrew h c.id (fun _ => rfl) (fun _ _ u hu => ⟨u.eligFor, u.promoted, hu⟩)

theorem State.Settles.ask {s : State} (h : s.crew.id = 0) (op : Instr) (r : Ref) : s.Settles (s.ask op r) := by
  unfold State.ask
  split
  · exact .refl h
  · exact .push h _ _

theorem State.Settles.askWalks {s : State} (h : s.crew.id = 0) (f : State) : s.Settles (s.askWalks f) := by
  unfold State.askWalks
  split
  · exact .refl h
  · split
    · exact .refl h
    · refine .foldl (fun s p _ hs => ?_) h
      dsimp only
      split
      · exact .refl hs
      · exact .push hs _ _

/-- The count of eligible cycles of one stream. -/
theorem State.Settles.count {s : State} (h : s.crew.id = 0) (r : Ref) (n : Nat) (m : Stream → Option Nat) :
    s.Settles (s.updStream r (fun t => { t with eligFor := n, promoted := m t })) := by
  unfold State.updStream
  split
  · exact ⟨h, rfl, rfl, rfl, rfl, fun _ u _ hu => ⟨u.eligFor, u.promoted, hu⟩⟩
  · refine .updCrew h r.crew (fun _ => rfl) fun c k u hu => ?_
    have hk : (fun t : Stream => t.sid == k) ∘ (fun t : Stream => if t.sid == r.sid then { t with eligFor := n, promoted := m t } else t) =
        fun t => t.sid == k := funext fun t => by simp only [Function.comp]; split <;> rfl
    simp only [updIf, List.find?_map, hk, hu, Option.map_some]
    split
    · exact ⟨n, m u, rfl⟩
    · exact ⟨u.eligFor, u.promoted, rfl⟩

/-- What a new cycle asks for on behalf of one stream (R108, R120, R221). -/
theorem State.Settles.newCycle {s : State} (h : s.crew.id = 0) (r : Ref) : s.Settles (s.newCycle r) := by
  have opt {a : State} {q : Prop} [Decidable q] (ha : a.crew.id = 0) (op : Instr) : a.Settles (if q then a.ask op r else a) := by
    split
    · exact .ask ha op r
    · exact .refl ha
  exact (((((State.Settles.count h r _ _).next fun h => opt h .promotion).next fun h => opt h .frontierRefillStart).next
    fun h => opt h .convergencePark).next fun h => opt h .deadPartyEscalation).next fun h => .askWalks h _

/-- The state in which a new cycle begins: its clock, and every stream as the cycle finds it (R109, R115, R120). -/
def State.begun (s : State) : State := { s.unfocus with
  clock := s.clock + 1
  port := 0
  crews := s.unfocus.crews.map (fun c => { c with streams := c.streams.map (fun t => t.turnOver.due (s.clock + 1)) }) }

/-- Where no crew has late words under way, the rest of a cycle's end counts eligible cycles, promotes and asks for device steps. -/
theorem State.tick_settles {s : State} (hl : ∀ c ∈ s.unfocus.crews, c.late = []) : s.begun.Settles s.tick := by
  have hlate : ∀ c ∈ s.begun.crews, c.late = [] := fun c hc => by
    obtain ⟨c', hc', rfl⟩ := List.mem_map.1 hc
    exact hl c' hc'
  unfold State.tick
  extract_lets s0 s1 s2 s3 s4 s5 s6
  have h3 : s2.Settles s3 := .foldl (fun _ c hc h => .lateOf h (hlate c hc)) (show s2.crew.id = 0 from s.unfocus_crew_id)
  have h4 : s3.Settles s4 := .foldl (fun _ r _ h => .newCycle h r) h3.idle
  have h5 : s4.Settles s5 := by
    unfold s5
    split
    · exact .push h4.idle _ _
    · exact .refl h4.idle
  have h6 : s5.Settles s6 := by
    unfold s6
    split
    · exact (State.Settles.push h5.idle _ _).next fun h => .pushAll h _ _
    · exact .refl h5.idle
  exact (((h3.trans h4).trans h5).trans h6).trans (.agenda h6.idle _ _)

/-- What writes leave in the registers is a function of the registers. -/
theorem Stream.writes_congr {t u : Stream} (hv : t.v = u.v) (hk : t.k = u.k) (hp : t.p = u.p) (ws : List RegWrite) :
    (t.writes ws).v = (u.writes ws).v ∧ (t.writes ws).k = (u.writes ws).k ∧ (t.writes ws).p = (u.writes ws).p := by
  induction ws generalizing t u with
  | nil => exact ⟨hv, hk, hp⟩
  | cons w ws ih =>
    rw [Stream.writes_cons, Stream.writes_cons]
    cases w <;> exact ih (by simp [Stream.write, hv]) (by simp [Stream.write, hk]) (by simp [Stream.write, hp])

theorem Stream.turnOver_due_sid (t : Stream) (n : Nat) : (t.turnOver.due n).sid = t.sid := by
  obtain ⟨v, k, q, c, w, h⟩ := Stream.writebacks_rest n (t.turnOver.pend.filter (Pend.dueBy n)) t.turnOver.forget
  rw [Stream.due_eq, h]
  rfl

theorem cycleEnds : Claims.CycleEnds := by
  intro s r t s0 n now hr _ hl ht hid
  obtain ⟨hclock, hmem, hparts, hdev⟩ := s.unfocus_frame
  have hset := s.tick_settles hl
  have hbegun : streamIn s.begun.crews r = some (t.turnOver.due n) := by
    rw [State.begun, streamIn_map (fun t => t.turnOver_due_sid n), ← State.streamOf_eq_streamIn s.unfocus_crew_id hr, ht]
    rfl
  obtain ⟨x, y, hu⟩ := hset.stream r _ hr hbegun
  obtain ⟨hrest, hpend, hnone, hone⟩ := t.turnOver.due_spec n hid
  have hnow (p : Pend) : p.dueBy n = true ↔ now p := Pend.dueBy_iff
  simp only [hnow] at hpend hnone hone
  refine ⟨hset.clock, hset.mem.trans hmem, hset.parts.trans hparts, hset.dev.trans hdev, _,
    (State.streamOf_eq_streamIn hset.idle hr).trans hu, ?_, fun hres => ?_, hpend, hnone,
    fun p hp hd hw honly => ?_⟩
  · rw [hrest]
    rfl
  · rw [hrest]
    have : t.frontier.any (fun e => e.st == .resuming) = false := by simpa using hres
    simp [Stream.turnOver, this]
  · obtain ⟨hv, hk, hq⟩ := Stream.writes_congr (t := t.turnOver) (u := t) rfl rfl rfl p.writes
    exact hv ▸ hk ▸ hq ▸ hone p hp hd hw honly

/-- Settles O55: the three claims, each through the laws above of `State.issued`, `Stream.land` and `State.tick`. -/
theorem issueAndCycle : Obligations.IssueAndCycle := by
  unfold Obligations.IssueAndCycle
  exact ⟨issueAdvances, writeOrder, cycleEnds⟩

end Sys2Proof.Machine
end

section
/-! SUPPORT. Which stream issues, and when its chain may (R69 to R71, R74, R76, R105, R112, R117 to R122, R221, R222, R269, R312, R385): what a plan to
issue says, what the pick of a port says, and O54 and O56, which these laws settle. -/

namespace Sys2Proof.Machine

/-! ### The pick of a port (R120, R122) -/

theorem sortBy_perm {α : Type} (lt : α → α → Bool) (l : List α) : (sortBy lt l).Perm l := by
  have key : ∀ l acc : List α, (l.foldl (fun acc x => insertBy lt x acc) acc).Perm (acc ++ l) := by
    intro l
    induction l with
    | nil => intro acc; simp
    | cons x l ih => exact fun acc => (ih _).trans (((insertBy_perm lt x acc).append_right l).trans List.perm_middle.symm)
  exact key l []

/-- A comparison whose failures chain: what a sort needs. -/
structure SortsBy {α : Type} (lt : α → α → Bool) : Prop where
  asymm : ∀ a b, lt a b = true → lt b a = false
  trans : ∀ a b c, lt b a = false → lt c b = false → lt c a = false

/-- A list sorted by a comparison: no element goes before an earlier one. -/
def SortedBy {α : Type} (lt : α → α → Bool) (l : List α) : Prop := l.Pairwise (fun a b => lt b a = false)

theorem SortsBy.insertBy {α : Type} {lt : α → α → Bool} (h : SortsBy lt) (x : α) {l : List α} (hl : SortedBy lt l) : SortedBy lt (insertBy lt x l) := by
  induction l with
  | nil => exact List.pairwise_singleton _ _
  | cons y t ih =>
    obtain ⟨hy, ht⟩ := List.pairwise_cons.1 hl
    unfold Machine.insertBy
    split
    · next hb =>
      refine List.pairwise_cons.2 ⟨fun z hz => ?_, hl⟩
      rcases List.mem_cons.1 hz with rfl | hz
      · exact h.asymm _ _ hb
      · exact h.trans _ _ _ (h.asymm _ _ hb) (hy z hz)
    · next hb =>
      refine List.pairwise_cons.2 ⟨fun z hz => ?_, ih ht⟩
      rcases List.mem_cons.1 ((insertBy_perm _ _ _).mem_iff.1 hz) with rfl | hz
      · simpa using hb
      · exact hy z hz

theorem SortsBy.sortBy {α : Type} {lt : α → α → Bool} (h : SortsBy lt) (l : List α) : SortedBy lt (sortBy lt l) := by
  have key : ∀ l acc : List α, SortedBy lt acc → SortedBy lt (l.foldl (fun acc x => Machine.insertBy lt x acc) acc) := by
    intro l
    induction l with
    | nil => exact fun _ h => h
    | cons x l ih => exact fun acc hacc => ih _ (h.insertBy x hacc)
  exact key l [] List.Pairwise.nil

/-- The first of a sorted list: no element goes before it. -/
theorem SortsBy.head_sortBy {α : Type} {lt : α → α → Bool} (h : SortsBy lt) {l : List α} {c : α} (hc : (Machine.sortBy lt l).head? = some c) :
    c ∈ l ∧ ∀ x ∈ l, lt x c = false := by
  have hp := sortBy_perm lt l
  have hs := h.sortBy l
  obtain ⟨t, ht⟩ := List.head?_eq_some_iff.1 hc
  rw [ht] at hp hs
  refine ⟨hp.mem_iff.1 (by simp), fun x hx => ?_⟩
  rcases List.mem_cons.1 (hp.mem_iff.2 hx) with rfl | hx
  · exact Bool.eq_false_iff.2 fun hxx => Bool.eq_false_iff.1 (h.asymm _ _ hxx) hxx
  · exact (List.pairwise_cons.1 hs).1 x hx

theorem Cand.before_sorts : SortsBy Cand.before where
  asymm a b h := by
    unfold Cand.before at *
    cases ha : a.promoted <;> cases hb : b.promoted <;>
      simp only [ha, hb, Bool.or_eq_true, Bool.and_eq_true, decide_eq_true_eq, beq_iff_eq, Bool.or_eq_false_iff, Bool.and_eq_false_iff,
        decide_eq_false_iff_not, beq_eq_false_iff_ne, reduceCtorEq] at * <;> omega
  trans a b c h1 h2 := by
    unfold Cand.before at *
    cases ha : a.promoted <;> cases hb : b.promoted <;> cases hc : c.promoted <;>
      simp only [ha, hb, hc, Bool.or_eq_false_iff, Bool.and_eq_false_iff, decide_eq_false_iff_not, beq_eq_false_iff_ne, reduceCtorEq] at * <;> omega

theorem place_sorts : SortsBy (fun a b : Cand => decide (a.place < b.place)) where
  asymm a b h := by simp only [decide_eq_true_eq, decide_eq_false_iff_not] at *; omega
  trans a b c h1 h2 := by simp only [decide_eq_false_iff_not] at *; omega

/-- The pick of R120: the first candidate in the order of R120. -/
theorem pickOf_levels {last : Nat} {l : List Cand} {c : Cand} (h : pickOf false last l = some c) : c ∈ l ∧ ∀ x ∈ l, x.before c = false :=
  Cand.before_sorts.head_sortBy h

/-- The pick of R122: the first candidate after a place in slot order, and the first of all where there is none. -/
theorem pickOf_rotation {last : Nat} {l : List Cand} {c : Cand} (h : pickOf true last l = some c) : c ∈ l ∧
    ((last < c.place ∧ ∀ x ∈ l, last < x.place → c.place ≤ x.place) ∨ (∀ x ∈ l, x.place ≤ last ∧ c.place ≤ x.place)) := by
  have hp := sortBy_perm (fun a b : Cand => decide (a.place < b.place)) l
  have hs := place_sorts.sortBy l
  simp only [pickOf, if_true] at h
  split at h
  · next d hd =>
    cases h
    obtain ⟨hlast, as, bs, hl, has⟩ := List.find?_eq_some_iff_append.1 hd
    refine ⟨hp.mem_iff.1 (List.mem_of_find?_eq_some hd), .inl ⟨by simpa using hlast, fun x hx hxl => ?_⟩⟩
    rw [hl] at hp hs
    rcases List.mem_append.1 (hp.mem_iff.2 hx) with hx | hx
    · have := has x hx
      simp at this
      omega
    · rcases List.mem_cons.1 hx with rfl | hx
      · exact le_refl _
      · have := (List.pairwise_cons.1 (List.pairwise_append.1 hs).2.1).1 x hx
        simpa using this
  · next hn =>
    obtain ⟨hc, hmin⟩ := place_sorts.head_sortBy h
    refine ⟨hc, .inr fun x hx => ⟨?_, by simpa using hmin x hx⟩⟩
    simpa using List.find?_eq_none.1 hn x (hp.mem_iff.2 hx)

theorem pickOf_mem {d : Bool} {last : Nat} {l : List Cand} {c : Cand} (h : pickOf d last l = some c) : c ∈ l := by
  cases d with
  | false => exact (pickOf_levels h).1
  | true => exact (pickOf_rotation h).1

theorem pickOf_none {d : Bool} {last : Nat} {l : List Cand} : pickOf d last l = none ↔ l = [] := by
  have nil (lt : Cand → Cand → Bool) : (sortBy lt l).head? = none ↔ l = [] := by
    rw [List.head?_eq_none_iff]
    exact ⟨fun h => by simpa [h] using sortBy_perm lt l, fun h => by rw [h]; rfl⟩
  cases d with
  | false => exact nil _
  | true =>
    simp only [pickOf, if_true]
    split
    · next c hc =>
      simp only [reduceCtorEq, false_iff]
      rintro rfl
      simp [sortBy] at hc
    · exact nil _

theorem pickOrder : Claims.PickOrder := by
  intro l last c
  refine ⟨fun h => ?_, fun h => ?_, fun d => pickOf_none⟩
  · obtain ⟨hc, hmin⟩ := pickOf_levels h
    refine ⟨hc, fun x hx => ?_⟩
    have hb := hmin x hx
    unfold Cand.before at hb
    refine ⟨fun h0 => ?_, fun n m hn hm => ?_, fun h0 => ?_⟩
    · cases hx0 : x.promoted with
      | none => rfl
      | some m => simp [h0, hx0] at hb
    · simp only [hn, hm, Bool.or_eq_false_iff, Bool.and_eq_false_iff, decide_eq_false_iff_not, beq_eq_false_iff_ne] at hb
      omega
    · cases hx0 : x.promoted with
      | none =>
        simp only [h0, hx0, Bool.or_eq_false_iff, Bool.and_eq_false_iff, decide_eq_false_iff_not, beq_eq_false_iff_ne] at hb
        omega
      | some m => simp [h0, hx0] at hb
  · obtain ⟨hc, ⟨hlt, hmin⟩ | hmin⟩ := pickOf_rotation h
    · exact ⟨hc, fun _ => hmin, fun hle => absurd hlt (by omega)⟩
    · exact ⟨hc, fun hlt => absurd (hmin c hc).1 (by omega), fun _ => hmin⟩


/-! ### What a plan to issue says (R70, R71, R112, R117 to R119, R221, R222, R269, R385) -/

/-- All that holds of a stream and its chain when the chain issues. -/
structure State.Runs (s : State) (ws : List Word) (l : List (Word × Hdr × Instr)) : Prop where
  live : s.live = true
  valid : s.pcValid s.pc0 = true
  chain : s.headChain s.crew s.me = some ws
  free : s.headFree (ws.headD 0) = true
  decoded : decodeChain ws = some l
  pipes : s.pipesFree ws = true
  room : s.flagsRoom ws = true
  lsu : ∀ c ∈ s.contexts l, c.1.lsuFree c.2.1 = true
  engine : ∀ c ∈ s.contexts l, c.1.engineHolds c.2.2 = false
  ready : ∀ c ∈ s.contexts l, c.1.waits c.2.2 = false

theorem State.runs_of_plan {s : State} {cs : List (State × Word × Instr)} (h : s.plan = .run cs) : ∃ ws l, s.Runs ws l ∧ cs = s.contexts l := by
  unfold State.plan at h
  split at h
  · cases h
  next hlive =>
  split at h
  · split at h <;> cases h
  next hvalid =>
  split at h
  · cases h
  next ws hchain =>
  split at h
  · cases h
  next hfree =>
  split at h
  · cases h
  next l hl =>
  dsimp only at h
  split at h
  · cases h
  next hhold =>
  split at h
  · split at h
    · split at h <;> cases h
    · cases h
  next hwait =>
  cases h
  simp only [Bool.or_eq_true, Bool.not_eq_true', not_or, Bool.not_eq_false, List.any_eq_true, not_exists, not_and, Bool.not_eq_true] at *
  exact ⟨ws, l, ⟨hlive, hvalid, hchain, hfree, hl, hhold.1.1, hhold.1.2, fun c hc => (hhold.2 c hc).1, fun c hc => (hhold.2 c hc).2, hwait⟩, rfl⟩


theorem decodeChain_words {ws : List Word} {l : List (Word × Hdr × Instr)} (h : decodeChain ws = some l) : chainOk ws = true ∧ l.map Prod.fst = ws := by
  unfold decodeChain at h
  split at h
  · next hok =>
    refine ⟨hok, ?_⟩
    clear hok
    induction ws generalizing l with
    | nil => simp at h; simp [h]
    | cons w ws ih =>
      simp only [List.mapM_cons, Option.bind_eq_bind, Option.bind_eq_some_iff, Option.map_eq_some_iff, Option.pure_def, Option.some_inj] at h
      obtain ⟨_, ⟨x, _, rfl⟩, l', hl', rfl⟩ := h
      simp [ih hl']
  · cases h

theorem chainOk_ne_nil {ws : List Word} (h : chainOk ws = true) : ws ≠ [] := by
  rintro rfl
  simp [chainOk] at h

theorem State.contexts_words (s : State) (l : List (Word × Hdr × Instr)) : (s.contexts l).map (fun c => c.2.1) = l.map Prod.fst := by
  refine List.ext_getElem (by simp [State.contexts]) fun i h1 h2 => ?_
  simp [State.contexts]

/-- Every word of a chain runs on the state of its stream, but for what the chain says of it. -/
theorem State.mem_contexts {s : State} {l : List (Word × Hdr × Instr)} {c : State × Word × Instr} (h : c ∈ s.contexts l) : c.2.1 ∈ l.map Prod.fst ∧
    ∃ x : Ctx, c.1 = { s with ctx := x } := by
  refine ⟨s.contexts_words l ▸ List.mem_map_of_mem h, ?_⟩
  obtain ⟨i, hi, rfl⟩ := List.mem_mapIdx.1 h
  exact ⟨_, rfl⟩

/-- What the stream itself, its crew and its partition allow (R100, R108, R112, R206, R312). -/
theorem State.live_iff (s : State) : s.live = true ↔ s.crew.id ≠ 0 ∧ s.crew.saved = false ∧ s.crew.stopAt = none ∧ s.crew.retired = false ∧
    s.me.stopped = false ∧ s.me.retired = false ∧ s.myPart.halted = false ∧ s.myPart.suspended = false ∧ s.myPart.resetting = false ∧
    s.dev.level ≠ 4 ∧ s.me.blocked = none ∧ s.me.yieldUntil ≤ s.clock ∧ ∃ e, s.me.head = some e ∧ e.spilled = false := by
  unfold State.live
  cases s.me.head <;> simp [and_assoc]

theorem State.pcValid_iff (s : State) (c : Pc) : s.pcValid c = true ↔ c.slot < 3 ∧ c.packet < s.packets := by simp [State.pcValid]

/-- The distance of a word's D field (R70). -/
theorem distOf_wbits (w : Word) : distOf (wbits w 29 28) = [1, 2, 4, 6].getD (w.toNat / 2 ^ 28 % 4) 0 := by
  have h : wbits w 29 28 = w.toNat / 2 ^ 28 % 4 := rfl
  rw [h]
  have h4 : w.toNat / 2 ^ 28 % 4 < 4 := Nat.mod_lt _ (by decide)
  generalize w.toNat / 2 ^ 28 % 4 = d at h4
  interval_cases d <;> rfl

/-- The conditions of a chain's first word and of the marker (R70, R71, R118, R119). -/
theorem State.headFree_spec {s : State} {w : Word} (h : s.headFree w = true) :
    (∀ n, s.me.lastIssue = some n → n + [1, 2, 4, 6].getD (w.toNat / 2 ^ 28 % 4) 0 ≤ s.clock) ∧
    (∀ k < 12, s.waitMask (w.toNat / 2 ^ 25 % 8) / 2 ^ k % 2 = 1 → s.me.cfGet k = 0) ∧
    ¬(s.me.ymark = true ∧ ∃ p ∈ s.me.pend, p.reg = true) := by
  unfold State.headFree at h
  simp only [Bool.and_eq_true, Bool.not_eq_true'] at h
  obtain ⟨⟨hdist, hwait⟩, hmark⟩ := h
  refine ⟨fun n hn => ?_, fun k hk hm => ?_, fun ⟨hy, p, hp, hr⟩ => ?_⟩
  · rw [hn] at hdist
    rw [← distOf_wbits]
    simpa using hdist
  · have hbit : s.waitMask (wbits w 27 25) / 2 ^ k % 2 = 1 := hm
    simpa [hbit] using List.all_eq_true.1 hwait k (List.mem_range.2 hk)
  · have hany : s.me.pend.any Pend.reg = true := List.any_eq_true.2 ⟨p, hp, hr⟩
    simp [Stream.marked, hy, hany] at hmark

/-- No counter that the chain uses would pass 63 (R117). -/
theorem State.flagsRoom_spec {s : State} {ws : List Word} (h : s.flagsRoom ws = true) {w : Word} (hw : w ∈ ws) {k : Nat} (hk : flagField w = some k) :
    s.me.cfGet k < 63 := by
  have hmem : k ∈ ws.filterMap flagField := List.mem_filterMap.2 ⟨w, hw, hk⟩
  have hle := List.all_eq_true.1 h k hmem
  have hpos : 0 < ((ws.filterMap flagField).filter (· == k)).length := List.length_pos_of_mem (List.mem_filter.2 ⟨hmem, by simp⟩)
  simp only [decide_eq_true_eq] at hle
  omega

/-- No page that a lane of the head names misses the TLB (R221). -/
theorem State.missPages_spec {c : State} {w : Word} (h : (c.missPages w).isEmpty = true) {nib : Bool} (hg : gForm w = some nib) {l : Nat}
    (hl : l ∈ c.headLanes) : let ea := (c.eaG (wordA w) l).toNat
    ea / 2 ^ 63 = 0 → ea / 2 ^ 58 % 32 = 0 → (nib = true ∨ ea / 2 ^ 57 % 2 = 0) →
      tlbFind c.tlb1 c.crew.core c.crew.part (ea / 2 ^ 16 % 2 ^ 41 * 65536) ≠ none := by
  intro ea h63 h58 h57 hnone
  have hb63 : qbit (c.eaG (wordA w) l) 63 = false := by
    rw [qbit, BitVec.getLsbD, Nat.testBit_eq_decide_div_mod_eq, decide_eq_false_iff_not]
    omega
  have hb57 : (!nib && qbit (c.eaG (wordA w) l) 57) = false := by
    rcases h57 with rfl | h57
    · rfl
    · rw [qbit, BitVec.getLsbD, Nat.testBit_eq_decide_div_mod_eq, Bool.and_eq_false_iff, decide_eq_false_iff_not]
      omega
  have hb58 : bits (c.eaG (wordA w) l) 62 58 = 0 := h58
  have hmem : ea / 2 ^ 16 % 2 ^ 41 ∈ c.missPages w := by
    simp only [State.missPages, hg, List.mem_filter, List.mem_eraseDups, List.mem_filterMap]
    refine ⟨⟨l, hl, ?_⟩, by simpa using hnone⟩
    simp only [hb63, hb57, hb58]
    rfl
  rw [List.isEmpty_iff.1 h] at hmem
  cases hmem

theorem eligibility : Claims.Eligibility := by
  intro s cs h
  obtain ⟨ws, l, hr, rfl⟩ := State.runs_of_plan h
  obtain ⟨hok, hws⟩ := decodeChain_words hr.decoded
  obtain ⟨-, hsaved, hstop, hcret, hst, hret, hhalt, hsusp, hreset, -, hblock, hyield, e, he, hspill⟩ := s.live_iff.1 hr.live
  have hpc : s.pc0 = e.pc := by simp [State.pc0, he]
  obtain ⟨hdist, hwait, hmark⟩ := State.headFree_spec hr.free
  refine ⟨ws, chainOk_ne_nil hok, (s.contexts_words l).trans hws, hsaved, hstop, hcret, hst, hret, hblock, hyield, hhalt, hsusp, hreset,
    ⟨e, he, hspill, hpc ▸ ((s.pcValid_iff _).1 hr.valid).2⟩, hdist, hwait, hmark, fun w hw hp => ?_, fun w hw k hk => State.flagsRoom_spec hr.room hw hk,
    fun c hc => ?_⟩
  · simpa [hp] using List.all_eq_true.1 hr.pipes w hw
  · have hlsu := hr.lsu c hc
    simp only [State.lsuFree, Bool.and_eq_true, decide_eq_true_eq] at hlsu
    have heng := hr.engine c hc
    unfold State.engineHolds at heng
    rw [Bool.or_eq_false_iff] at heng
    refine ⟨hlsu.2, hr.ready c hc, heng.1, fun nib hg l hl => State.missPages_spec hlsu.1 hg hl, fun x y hi => ?_, fun x y hi => ?_⟩
    · rcases hi with hi | hi <;> simpa [hi] using heng.2
    · rcases hi with hi | hi <;> simpa [hi] using heng.2

/-- Settles O56: what a plan to issue says of the chain, and what the pick of a port says. -/
theorem issueRules : Obligations.IssueRules := by
  unfold Obligations.IssueRules
  exact ⟨eligibility, pickOrder⟩

/-! ### The stream that issues and its chain of one word (R69, R105, R112) -/

theorem State.focus_of_self {s : State} {r : Ref} (h : r = s.self) : s.focus r = s := by
  subst h
  simp [State.focus, State.self]

/-- The stream taken out as the issuing stream is taken out already. -/
theorem State.focus_focus_self (s : State) (r : Ref) : s.focus (s.focus r).self = s.focus r := by
  by_cases hr : s.focus r = s
  · rw [hr]
    exact State.focus_of_self rfl
  · suffices hself : (s.focus r).self = r by rw [hself]
    revert hr
    unfold State.focus
    split
    · simp
    next =>
    dsimp only
    split
    · simp
    next c hc =>
    split
    · simp
    next t ht =>
    have hcid := List.find?_some hc
    have htid := List.find?_some ht
    simp only [beq_iff_eq] at hcid htid
    exact fun _ => by simp [State.self, hcid, htid]

/-- The stream that issues next enters an arrival or issues its chain. -/
theorem State.plan_of_nextIssue {s : State} {r : Ref} (h : s.nextIssue = some r) : (s.focus r).plan.attends = true ∨ (s.focus r).plan.issues = true := by
  unfold State.nextIssue at h
  split at h
  · next r' hr' =>
    cases h
    exact .inl (List.find?_some (p := fun r => (s.focus r).plan.attends) hr')
  next =>
  dsimp only at h
  split at h
  · cases h
  next =>
  obtain ⟨c, hc, rfl⟩ := Option.map_eq_some_iff.1 h
  obtain ⟨f, hf, rfl⟩ := List.mem_map.1 (List.mem_filter.1 (pickOf_mem hc)).1
  obtain ⟨hmem, hissues⟩ := List.mem_filter.1 hf
  obtain ⟨r', -, rfl⟩ := List.mem_map.1 hmem
  right
  show ((s.focus (s.focus r').self)).plan.issues = true
  rw [State.focus_focus_self]
  exact (Bool.and_eq_true_iff.1 hissues).2

theorem State.packets_eq (s : State) : s.packets = s.codePackets s.crew s.me.sid := by
  unfold State.packets State.codePackets State.isSteward
  cases s.taskOf s.crew.task <;> simp

/-- The word at a place is the word that its four bytes give. -/
theorem State.FetchesWord.codeWord {f : State} {c : Pc} {w : Word} (h : f.FetchesWord c w) :
    f.codeWord f.crew.part (f.codeBase f.crew f.me.sid) c = some w := by
  obtain ⟨b0, b1, b2, b3, hread, hw⟩ := h
  rw [State.codeWord, hread, Option.map_some, Option.some_inj]
  refine BitVec.eq_of_toNat_eq ?_
  have h0 := b0.isLt
  have h1 := b1.isLt
  have h2 := b2.isLt
  have h3 := b3.isLt
  simp only [leNat, BitVec.toNat_ofNat]
  omega

/-- A packet of mapped words, from a place on. -/
theorem State.packetFrom_mapped {f : State} {c : Pc} {w : Word} (hc : c.slot < 3) (hw : f.FetchesWord c w)
    (hrest : ∀ j, c.slot < j → j < 3 → ∃ w1, f.FetchesWord ⟨c.packet, j⟩ w1) :
    ∃ l, f.packetFrom f.crew.part (f.codeBase f.crew f.me.sid) c = some (w :: l) := by
  have hall : ∀ i ∈ List.range (3 - c.slot), ∃ v, f.codeWord f.crew.part (f.codeBase f.crew f.me.sid) ⟨c.packet, c.slot + i⟩ = some v := by
    intro i hi
    rcases Nat.eq_zero_or_pos i with rfl | hi0
    · exact ⟨w, hw.codeWord⟩
    · have := List.mem_range.1 hi
      obtain ⟨v, hv⟩ := hrest (c.slot + i) (by omega) (by omega)
      exact ⟨v, hv.codeWord⟩
  have hlen : 3 - c.slot = (2 - c.slot) + 1 := by omega
  have mapM_mapped : ∀ (g : Nat → Option Word) (l : List Nat), (∀ i ∈ l, ∃ v, g i = some v) → ∃ vs, l.mapM g = some vs := by
    intro g l
    induction l with
    | nil => exact fun _ => ⟨[], rfl⟩
    | cons i l ih =>
      intro h
      obtain ⟨v, hv⟩ := h i (by simp)
      obtain ⟨vs, hvs⟩ := ih fun j hj => h j (by simp [hj])
      exact ⟨v :: vs, by simp [hv, hvs]⟩
  unfold State.packetFrom
  rw [hlen, List.range_succ_eq_map] at hall ⊢
  obtain ⟨vs, hvs⟩ := mapM_mapped _ ((List.range (2 - c.slot)).map Nat.succ) fun i hi => hall i (List.mem_cons_of_mem _ hi)
  have h0 : f.codeWord f.crew.part (f.codeBase f.crew f.me.sid) ⟨c.packet, c.slot + 0⟩ = some w := hw.codeWord
  exact ⟨vs, by rw [List.mapM_cons, h0, hvs]; rfl⟩

theorem opOf_ne_one {w : Word} {h : Hdr} {i : Instr} (hd : decodeWord w = some (h, i)) (hi : i ≠ .imx) : (opOf w).toNat ≠ 1 := by
  intro hop
  have hop : opOf w = 1#6 := BitVec.eq_of_toNat_eq hop
  unfold decodeWord at hd
  rw [hop] at hd
  have himx : decodePayload 1#6 (payloadOf w) = some .imx := rfl
  rw [himx] at hd
  simp only [Option.ite_none_right_eq_some, Option.some_inj, Prod.mk.injEq] at hd
  exact hi hd.2.2.symm

/-- A word that ends its chain and is no `IMX` is a chain of its own (R76, R78). -/
theorem decodeChain_single {w : Word} {h : Hdr} {i : Instr} (hc : w.getLsbD 31 = false) (hd : decodeWord w = some (h, i)) (hi : i ≠ .imx) :
    decodeChain [w] = some [(w, h, i)] := by
  have hop := opOf_ne_one hd hi
  have hend : w[31] = false := hc
  have hok : chainOk [w] = true := by
    simp only [chainOk]
    cases hp : (pipeOf w != .none) <;> simp [hp, hend, hop, List.eraseDups_cons]
  simp [decodeChain, hok, hd]

/-- Where a stream issues, or enters an arrival, and the one word of its chain does not wait, the word runs. -/
theorem State.plan_single {f : State} {w : Word} {h : Hdr} {i : Instr} (hplan : f.plan.attends = true ∨ f.plan.issues = true)
    (hvalid : f.pcValid f.pc0 = true) (hchain : f.headChain f.crew f.me = some [w]) (hdec : decodeChain [w] = some [(w, h, i)])
    (hwait : (f.inChain 1 0 h none).waits i = false) : f.plan = .run [(f.inChain 1 0 h none, w, i)] := by
  have hcs : f.contexts [(w, h, i)] = [(f.inChain 1 0 h none, w, i)] := rfl
  have hnot : ¬((Plan.hold).attends = true ∨ (Plan.hold).issues = true) := by simp [Plan.attends, Plan.issues]
  unfold State.plan at hplan ⊢
  simp only [hvalid, hchain, hdec, hcs, List.any_cons, List.any_nil, hwait, Bool.or_false, Bool.not_true, Bool.false_eq_true, if_false] at hplan ⊢
  split at hplan
  · exact absurd hplan hnot
  next hlive =>
  split at hplan
  · exact absurd hplan hnot
  next hfree =>
  split at hplan
  · exact absurd hplan hnot
  next hhold => rw [if_neg hlive, if_neg hfree, if_neg hhold]

/-- The state of a step of the cores: no step is under way, and the turn it takes is used up. -/
abbrev State.coresTurn (s : State) : State := { s with picks := s.picks.drop 1, ctx := Ctx.blank }

/-- A step of the cores in which a chain of one word runs: the word's effect, and what an issue leaves around it. -/
theorem issueStep_single {s : State} {r : Ref} {c : State} {w : Word} {i : Instr} {ex : Instr → State → Host.Outcome State Fault Refusal}
    (hnext : s.coresTurn.nextIssue = some r) (hplan : (s.coresTurn.focus r).plan = .run [(c, w, i)])
    (hasync : (s.coresTurn.focus r).me.asyncs = []) :
    issueStep ex s = andThen (ex i c) fun t => .next ((s.coresTurn.focus r).issued [(w, i)] t) := by
  simp only [issueStep, hnext, hplan, hasync, ne_eq, not_true_eq_false, if_false]
  rfl

/-- Settles O54: the stream that issues runs the one word at its head, a device step whose turn it is runs, and else the cycle ends. -/
theorem stepRunsDecoded : Obligations.StepRunsDecoded := by
  unfold Obligations.StepRunsDecoded
  intro s s0
  refine ⟨?_, fun k x hk hx => ?_, fun hturn hnext => ?_⟩
  · intro r e w h i f c hturn hnext _ hhead hslot hpacket hw hrest hc hd hi hasync hwait
    have hpc : f.pc0 = e.pc := by simp [State.pc0, hhead]
    have hchain : f.headChain f.crew f.me = some [w] := by
      obtain ⟨l, hl⟩ := State.packetFrom_mapped hslot hw hrest
      have hin : ¬ f.codePackets f.crew f.me.sid ≤ e.pc.packet := by rw [← State.packets_eq]; omega
      have hend : w[31] = false := hc
      simp [State.headChain, hhead, hin, hl, chainFrom, hend]
    have hplan : f.plan = .run [(c, w, i)] := State.plan_single (State.plan_of_nextIssue hnext)
      ((f.pcValid_iff _).2 (hpc ▸ ⟨hslot, hpacket⟩)) hchain (decodeChain_single hc hd hi) hwait
    have hstep : step s = andThen (exec i c) fun t => .next (f.issued [(w, i)] t) := by
      rw [step, hturn, Option.bind_none]
      exact issueStep_single hnext hplan hasync
    exact ⟨fun t ht => by rw [hstep, ht]; rfl, fun x hx => by rw [hstep, hx]; rfl, fun x hx => by rw [hstep, hx]; rfl⟩
  · rw [step, hk, Option.bind_some, hx]
    rfl
  · rw [step, hturn, Option.bind_none]
    simp only [issueStep]
    rw [show s.coresTurn.nextIssue = none from hnext]

end Sys2Proof.Machine
end

section
/-! SUPPORT. Loads, line fills and stores at issue (R159, R160, R220, R224 to R227): what a word's checks, its request to the homes and its buffered
writes leave, and O12, which these laws settle. -/

namespace Sys2Proof.Machine

/-! ### The whole head fails, or the word acts (R91, R220) -/

theorem getLsbD_maskOf (l : List Nat) (i : Nat) : (maskOf l).getLsbD i = decide (i < 32 ∧ i ∈ l) := by
  have key : ∀ (l : List Nat) (m : Word), (l.foldl (fun m i => m ||| (1#32 <<< i)) m).getLsbD i = (m.getLsbD i || decide (i < 32 ∧ i ∈ l)) := by
    intro l
    induction l with
    | nil => simp
    | cons x l ih =>
      intro m
      have hx : (1#32 <<< x).getLsbD i = decide (i < 32 ∧ i = x) := by
        simp only [BitVec.getLsbD_shiftLeft, BitVec.getLsbD_one]
        by_cases h1 : i < 32 <;> by_cases h2 : i < x <;> simp [h1, h2] <;> omega
      rw [List.foldl_cons, ih, BitVec.getLsbD_or, hx, Bool.or_assoc, ← Bool.decide_or]
      congr 1
      simp only [List.mem_cons, decide_eq_decide]
      tauto
  rw [maskOf, key]
  simp

/-- A list of head lanes makes the mask of the head exactly when it holds them all. -/
theorem State.maskOf_eq_headMask {s : State} {l : List Nat} (hl : ∀ i ∈ l, i ∈ s.headLanes) : maskOf l = s.headMask ↔ ∀ i ∈ s.headLanes, i ∈ l := by
  constructor
  · intro h i hi
    have := State.mem_headLanes.1 hi
    rw [← h, getLsbD_maskOf, decide_eq_true_eq] at this
    exact this.2
  · intro h
    refine BitVec.eq_of_getLsbD_eq fun i hi => ?_
    rw [getLsbD_maskOf, Bool.eq_iff_iff, decide_eq_true_eq, ← State.mem_headLanes]
    exact ⟨fun hm => hl i hm.2, fun hm => ⟨hi, h i hm⟩⟩

theorem mem_failures {xs : List LaneAcc} {f : Nat × Nat × Nat × Quad} (h : f ∈ failures xs) : ∃ x ∈ xs, x.lane = f.1 := by
  obtain ⟨x, hx, hf⟩ := List.mem_filterMap.1 h
  refine ⟨x, hx, ?_⟩
  cases ht : x.target with
  | trap c a => simp only [ht, Option.some_inj] at hf; exact hf ▸ rfl
  | ok sp h va => simp [ht] at hf

/-- Accesses of head lanes only. -/
def State.OfHead (s : State) (xs : List LaneAcc) : Prop := ∀ x ∈ xs, x.lane ∈ s.headLanes

theorem State.allFailed_iff {s : State} {xs : List LaneAcc} (h : s.OfHead xs) : s.allFailed (failures xs) = true ↔ s.AllFail xs := by
  have hl : ∀ i ∈ (failures xs).map Prod.fst, i ∈ s.headLanes := by
    intro i hi
    obtain ⟨f, hf, rfl⟩ := List.mem_map.1 hi
    obtain ⟨x, hx, hxf⟩ := mem_failures hf
    exact hxf ▸ h x hx
  rw [State.allFailed, Bool.and_eq_true, decide_eq_true_eq, State.maskOf_eq_headMask hl, State.AllFail, and_comm]
  simp

/-- A word that acts, or traps where its whole head fails. -/
theorem actsOrTraps {i : Instr} {s u : State} {xs : List LaneAcc} {f : State → Prop} (hexec : exec i s = .next (s.orTrap xs u))
    (hxs : s.OfHead xs) (hf : f u) : ActsOrTraps i s xs f := by
  refine ⟨fun hall => ?_, fun hall => ⟨u, hf, ?_⟩⟩
  · rw [hexec, State.orTrap, if_pos ((State.allFailed_iff hxs).2 hall)]
  · rw [hexec, State.orTrap, if_neg (mt (State.allFailed_iff hxs).1 hall)]

theorem State.lanes_sub {s : State} {g : BitVec 1} {l : Nat} (h : l ∈ s.lanes g) : l ∈ s.headLanes := by
  unfold State.lanes at h
  split at h
  · exact (List.mem_filter.1 h).1
  · exact h

/-- The active lanes rise. -/
theorem State.lanes_rise (s : State) (g : BitVec 1) : (s.lanes g).Pairwise (· < ·) := by
  have hhead : s.headLanes.Pairwise (· < ·) := List.pairwise_lt_range.filter _
  unfold State.lanes
  split
  · exact hhead.filter _
  · exact hhead

@[simp] theorem State.access_lane (s : State) (sp : Bool) (a : BitVec 6) (n k : Nat) (nib : Bool) (w : Want) (l : Nat) :
    (s.access sp a n k nib w l).lane = l := by
  unfold State.access
  repeat' split
  all_goals rfl

theorem State.ofHead_map {s : State} {g : BitVec 1} {acc : Nat → LaneAcc} (h : ∀ l, (acc l).lane = l) : s.OfHead ((s.lanes g).map acc) := by
  intro x hx
  obtain ⟨l, hl, rfl⟩ := List.mem_map.1 hx
  exact (h l).symm ▸ State.lanes_sub hl

/-! ### A use under way, and its request (R74, R117, R154) -/

theorem flagOf_eq_some {f : BitVec 4} {k : Nat} : flagOf f = some k ↔ k < 12 ∧ k = f.toNat := by
  unfold flagOf
  split <;> simp <;> omega

theorem Stream.cfGet_cfAdd (t : Stream) (f : BitVec 4) (k : Nat) : (t.cfAdd (flagOf f)).cfGet k = t.cfGet k + if k < 12 ∧ k = f.toNat then 1 else 0 := by
  rw [← if_congr flagOf_eq_some rfl rfl]
  cases hf : flagOf f with
  | none => simp [Stream.cfAdd]
  | some i =>
    simp only [Stream.cfAdd, Stream.cfGet, tget_tset, Option.some_inj]
    split
    · next h => rw [h]
    · rfl

/-- The use of a word that is under way from its issue. -/
abbrev State.use (s : State) (f : BitVec 4) (reg arrived : Bool) : Pend := ⟨s.nextId, none, arrived, [], flagOf f, s.here, reg, [], s.clock⟩

theorem State.post_use (s : State) (f : BitVec 4) (reg : Bool) : s.post none (flagOf f) [] reg = { s with
    nextId := s.nextId + 1
    me := { s.me with cf := (s.me.cfAdd (flagOf f)).cf, pend := s.me.pend ++ [s.use f reg false] } } := by
  cases hf : flagOf f <;> simp [State.post, Stream.cfAdd, hf]

/-- A use whose result is there at once (R74): it has arrived, and its writeback is asked for. -/
theorem State.post_arrive (s : State) (f : BitVec 4) (reg : Bool) (rs : List Req) :
    let s1 := s.post none (flagOf f) [] reg
    ∃ p, s.use f reg true ∈ p ∧ ({ s1 with me := { s1.me with reqs := rs } } : State).arrive s.self s.nextId [] = { s with
      nextId := s.nextId + 1
      me := { s.me with cf := (s.me.cfAdd (flagOf f)).cf, pend := p, reqs := rs }
      agenda := s.agenda ++ [{ op := .resultWriteback, arg := { r := s.self, a := s.nextId }, due := s.clock }] } := by
  refine ⟨(({ s.me with pend := s.me.pend ++ [s.use f reg false] } : Stream).addWrites s.nextId [] |>.arrive s.nextId).pend, ?_, ?_⟩
  · simp [Stream.arrive, Stream.addWrites, updIf]
  · rw [State.post_use]
    simp [State.arrive, State.updStream, State.self, State.push, Stream.arrive, Stream.addWrites]

theorem eraseDups_nodup (l : List Nat) : l.eraseDups.Nodup := by
  induction h : l.length using Nat.strong_induction_on generalizing l with
  | _ n ih =>
    cases l with
    | nil => simp
    | cons x l =>
      rw [List.eraseDups_cons, List.nodup_cons]
      exact ⟨by simp, ih _ (by rw [← h]; exact Nat.lt_succ_of_le (List.length_filter_le _ _)) _ rfl⟩

/-- What a request to the homes leaves. -/
theorem State.request_asks (s : State) (f : BitVec 4) (kind : ReqKind) (d : BitVec 6) (reg : Bool) (op : Instr) (ls : List LaneReq) :
    s.Asks (s.request (flagOf f) kind d.toNat reg (some op) ls) f reg kind d op ls := by
  by_cases hls : ls = []
  · subst hls
    obtain ⟨p, hp, heq⟩ := s.post_arrive f reg (s.me.reqs ++ [⟨s.nextId, kind, d.toNat, [], [], none⟩])
    have hreq : s.request (flagOf f) kind d.toNat reg (some op) [] = _ := Eq.trans (by simp only [State.request, if_true, State.post_use]) heq
    rw [hreq]
    exact ⟨rfl, fun k => s.me.cfGet_cfAdd f k, fun h => absurd rfl h, fun _ => ⟨hp, rfl⟩⟩
  · have hreq : s.request (flagOf f) kind d.toNat reg (some op) ls = ({ s with
        nextId := s.nextId + 1
        me := { s.me with
          cf := (s.me.cfAdd (flagOf f)).cf
          pend := s.me.pend ++ [s.use f reg false]
          reqs := s.me.reqs ++ [⟨s.nextId, kind, d.toNat, ls, [], none⟩] } } : State).pushAll op
        ((ls.map LaneReq.home).eraseDups.map fun h => { r := s.self, a := s.nextId, b := h }) := by
      simp only [State.request, if_neg hls, State.post_use]
    rw [hreq]
    refine ⟨rfl, fun k => s.me.cfGet_cfAdd f k, fun _ => ⟨rfl, (ls.map LaneReq.home).eraseDups, eraseDups_nodup _, fun h => ?_, ?_⟩, fun h => absurd h hls⟩
    · simp
    · simp [State.pushAll]

theorem State.Asks.direct {s t : State} {f : BitVec 4} {reg : Bool} {kind : ReqKind} {d : BitVec 6} {op : Instr} {ls : List LaneReq}
    (h : s.Asks t f reg kind d op ls) : t.me.direct = s.me.direct := by
  rw [h.1]

/-! ### The registers that a form allows (R73, R224) -/

theorem State.memFields_iff (s : State) (sp : Bool) (n : Nat) (d a : BitVec 6) : s.memFields sp n d a = true ↔ s.MemRegs sp n d a := by
  unfold State.memFields State.MemRegs State.evenG State.isSteward
  by_cases h0 : s.me.sid = 0
  · simp only [h0, if_true]
    split <;> simp_all
  · cases sp <;> simp only [h0, if_false] <;> split <;> simp_all

/-! ### Loads (R224, R225) -/

theorem exec_load {s : State} {d a : BitVec 6} {f : BitVec 4} {g : BitVec 1} {x : Instr × Bool × Nat × Bool × Bool × Bool} (hx : x ∈ loadForms d a f g) :
    exec x.1 s = .next (if (!x.2.2.2.2.2 || s.isSteward) = true then s.load x.2.1 x.2.2.1 x.2.2.2.1 x.2.2.2.2.1 d a f g else s.illegal) := by
  simp only [loadForms, List.mem_cons, List.not_mem_nil, or_false] at hx
  rcases hx with rfl | rfl | rfl | rfl | rfl | rfl | rfl | rfl | rfl | rfl | rfl | rfl | rfl | rfl | rfl | rfl | rfl | rfl | rfl | rfl <;> rfl

theorem loads : Claims.Loads := by
  intro s d a f g x hx xs ok
  have hexec := exec_load (s := s) hx
  have hst : (!x.2.2.2.2.2 || s.isSteward) = true ↔ (x.2.2.2.2.2 = true → s.me.sid = 0) := by
    cases x.2.2.2.2.2 <;> simp [State.isSteward]
  refine ⟨fun ⟨hregs, hsteward⟩ => ?_, fun hok => ?_⟩
  · rw [if_pos (hst.2 hsteward), State.load, if_pos ((s.memFields_iff _ _ _ _).2 hregs)] at hexec
    exact actsOrTraps hexec (State.ofHead_map fun l => s.access_lane _ _ _ _ _ _ l) (s.request_asks _ _ _ _ _ _)
  · by_cases hsteward : x.2.2.2.2.2 = true → s.me.sid = 0
    · have hregs : ¬s.memFields x.2.1 x.2.2.1 d a = true := fun h => hok ⟨(s.memFields_iff _ _ _ _).1 h, hsteward⟩
      rw [if_pos (hst.2 hsteward), State.load, if_neg hregs] at hexec
      exact hexec
    · rw [if_neg (mt hst.1 hsteward)] at hexec
      exact hexec

/-! ### Line fills (R227) -/

theorem qbit_63 (x : Quad) : qbit x 63 = true ↔ 2 ^ 63 ≤ x.toNat := by
  have hx := x.isLt
  rw [qbit, BitVec.getLsbD, Nat.testBit_eq_decide_div_mod_eq, decide_eq_true_eq]
  omega

theorem State.ldpfAccess_spec (s : State) (d a : BitVec 6) (l : Nat) : s.LdpfLane d a l (s.ldpfAccess d a l) := by
  have hlane := s.access_lane false a 512 512 false .read l
  unfold State.LdpfLane State.ldpfAccess LaneAcc.globalOnly
  generalize s.access false a 512 512 false .read l = y at hlane
  dsimp only
  by_cases hg : qbit y.ea 63 = true
  · have hbig := (qbit_63 _).1 hg
    rw [if_pos hg]
    exact ⟨hlane, rfl, fun _ => rfl, fun h => absurd h (by omega)⟩
  · have hsmall : ¬2 ^ 63 ≤ y.ea.toNat := mt (qbit_63 _).2 hg
    rw [if_neg hg]
    cases ht : y.target with
    | trap c q => exact ⟨hlane, rfl, fun h => absurd h hsmall, fun _ => ⟨fun c' q' h => ht.trans h, fun _ _ _ h => by simp at h⟩⟩
    | ok sp h va =>
      have hoff : s.opN 32 d l = (s.me.rd 32 d.toNat l).toNat := rfl
      have hlt : y.ea.toNat < 9223372036854775808 := by omega
      rw [← hoff]
      by_cases h1 : s.opN 32 d l % 512 = 0
      · by_cases h2 : s.crew.shareSize < s.opN 32 d l + 512
        · simp [hlane, h1, h2, hlt, hlt.not_ge]
        · simp [hlane, h1, h2, hlt, ht]
      · simp [hlane, h1, hlt, hlt.not_ge]

/-- The accesses that passed: lane, home and address. -/
def passed (xs : List LaneAcc) : List (Nat × Nat × Quad) :=
  xs.filterMap (fun a => match a.target with | .ok _ h _ => some (a.lane, h, a.ea) | .trap _ _ => none)

theorem mem_passed {xs : List LaneAcc} {p : Nat × Nat × Quad} : p ∈ passed xs ↔ ∃ x ∈ xs, (∃ sp va, x.target = .ok sp p.2.1 va) ∧ p = (x.lane, p.2.1, x.ea) := by
  simp only [passed, List.mem_filterMap]
  refine exists_congr fun x => and_congr_right fun _ => ?_
  cases ht : x.target with
  | trap c a => simp
  | ok sp h va =>
    obtain ⟨l, h', ea⟩ := p
    simp [eq_comm, and_left_comm]

/-- A higher lane that passed names the same slot. -/
def State.outranked (s : State) (d : BitVec 6) (xs : List LaneAcc) (l : Nat) : Bool :=
  (passed xs).any (fun y => y.1 > l && (s.me.rd 32 d.toNat y.1).toNat == (s.me.rd 32 d.toNat l).toNat)

theorem State.outranked_iff {s : State} {d : BitVec 6} {xs : List LaneAcc} {l : Nat} : s.outranked d xs l = true ↔
    ∃ y ∈ xs, (∃ sp h va, y.target = .ok sp h va) ∧ l < y.lane ∧ s.opN 32 d y.lane = s.opN 32 d l := by
  simp only [State.outranked, List.any_eq_true, Bool.and_eq_true, decide_eq_true_eq, beq_iff_eq, gt_iff_lt]
  constructor
  · rintro ⟨p, hp, hlt, hoff⟩
    obtain ⟨y, hy, ⟨sp, va, ht⟩, hpy⟩ := mem_passed.1 hp
    rw [hpy] at hlt hoff
    exact ⟨y, hy, ⟨sp, _, va, ht⟩, hlt, hoff⟩
  · rintro ⟨y, hy, ⟨sp, h, va, ht⟩, hlt, hoff⟩
    exact ⟨(y.lane, h, y.ea), mem_passed.2 ⟨y, hy, ⟨sp, va, ht⟩, rfl⟩, hlt, hoff⟩

/-- Run `k` of the line of a lane that passed. -/
def State.lineRun (s : State) (d : BitVec 6) (xs : List LaneAcc) (x : Nat × Nat × Quad) (k : Nat) : LaneReq :=
  ⟨x.1, x.2.1 + 64 * k, false, 0#64, 0#64,
    if (!s.outranked d xs x.1) = true then some (s.crew.shareHome + (s.me.rd 32 d.toNat x.1).toNat + 64 * k) else none, x.2.2, false⟩

theorem State.mem_ldpfRuns {s : State} {d : BitVec 6} {xs : List LaneAcc} {r : LaneReq} : r ∈ s.ldpfRuns d xs ↔
    ∃ p ∈ passed xs, ∃ k < 8, s.lineRun d xs p k = r := by
  have hruns : s.ldpfRuns d xs = (passed xs).flatMap (fun p => (List.range 8).map (s.lineRun d xs p)) := rfl
  simp [hruns, List.mem_flatMap]

theorem lineFill : Claims.LineFill := by
  intro s d a f g
  have hexec : exec (.ldpf d a f g) s = execLdpf d a f g s := rfl
  have hreg : s.evenG a = true ↔ (s.me.sid = 0 ∨ a.toNat % 2 = 0) := by simp [State.evenG, State.isSteward]
  refine ⟨fun hok => ?_, fun hok => ?_⟩
  · rw [execLdpf, if_pos (hreg.2 hok)] at hexec
    have hlane (l : Nat) : (s.ldpfAccess d a l).lane = l := (s.ldpfAccess_spec d a l).1
    refine ⟨(s.lanes g).map (s.ldpfAccess d a), s.ldpfRuns d ((s.lanes g).map (s.ldpfAccess d a)), ?_, ?_, ?_, ?_⟩
    · exact List.forall₂_map_right_iff.2 (List.forall₂_same.2 fun l _ => s.ldpfAccess_spec d a l)
    · have hasks := s.request_asks f .ldpf d false .readPerform (s.ldpfRuns d ((s.lanes g).map (s.ldpfAccess d a)))
      refine actsOrTraps hexec (State.ofHead_map hlane)
        ⟨_, s.ldpfWrites (s.ldpfRuns d ((s.lanes g).map (s.ldpfAccess d a))), hasks, by rw [State.addDirect, hasks.direct], ?_, fun w hw => ?_⟩
      · simp [State.ldpfWrites, List.map_filterMap, State.directWrite, Function.comp_def]
      · obtain ⟨r, -, hr⟩ := List.mem_filterMap.1 hw
        obtain ⟨h, -, rfl⟩ := Option.map_eq_some_iff.1 hr
        exact ⟨rfl, rfl, rfl, by simp [State.directWrite], rfl⟩
    · intro x hx sp h va ht k hk
      refine ⟨_, State.mem_ldpfRuns.2 ⟨(x.lane, h, x.ea), mem_passed.2 ⟨x, hx, ⟨sp, va, ht⟩, rfl⟩, k, hk, rfl⟩, rfl, rfl, fun habove => ?_, fun habove => ?_⟩
      · simp [State.lineRun, State.outranked_iff.2 habove]
      · have hout : s.outranked d _ x.lane = false := Bool.eq_false_iff.2 (mt State.outranked_iff.1 habove)
        simp [State.lineRun, hout, State.opN]
    · intro r hr
      obtain ⟨p, hp, k, hk, rfl⟩ := State.mem_ldpfRuns.1 hr
      obtain ⟨x, hx, ⟨sp, va, ht⟩, hpx⟩ := mem_passed.1 hp
      exact ⟨x, hx, by rw [hpx]; rfl, sp, _, va, ht, k, hk, rfl⟩
  · rw [execLdpf, if_neg (mt hreg.1 hok)] at hexec
    exact hexec

/-! ### Stores (R159, R160, R222, R226) -/

theorem leBytes_eq_map (n x : Nat) : leBytes n x = (List.range n).map (fun i => BitVec.ofNat 8 (x / 2 ^ (8 * i))) := by
  induction n generalizing x with
  | zero => rfl
  | succ n ih =>
    rw [leBytes, ih, List.range_succ_eq_map, List.map_cons, List.map_map]
    congr 1
    · simp
    · refine List.map_congr_left fun i _ => ?_
      rw [Function.comp_apply, Nat.div_div_eq_div_mul, Nat.mul_succ, Nat.add_comm, Nat.pow_add]

/-- Two writes of one place, under one mask. -/
def PWrite.samePlace (v w : PWrite) : Prop := v.home = w.home ∧ v.data.map Prod.snd = w.data.map Prod.snd

theorem any_samePlace {w : PWrite} {l : List PWrite} :
    l.any (fun v => v.home == w.home && v.data.map Prod.snd == w.data.map Prod.snd) = true ↔ ∃ v ∈ l, v.samePlace w := by
  simp only [List.any_eq_true, Bool.and_eq_true, beq_iff_eq]
  rfl

theorem highestLane_sub {w : PWrite} {l : List PWrite} (h : w ∈ highestLane l) : w ∈ l := by
  induction l with
  | nil => exact h
  | cons v l ih =>
    unfold highestLane at h
    split at h
    · exact List.mem_cons_of_mem _ (ih h)
    · rcases List.mem_cons.1 h with rfl | h
      · exact List.mem_cons_self
      · exact List.mem_cons_of_mem _ (ih h)

theorem highestLane_once (l : List PWrite) : (highestLane l).Pairwise (fun v w => ¬w.samePlace v) := by
  induction l with
  | nil => exact List.Pairwise.nil
  | cons v l ih =>
    unfold highestLane
    split
    · exact ih
    · next h => exact List.pairwise_cons.2 ⟨fun w hw hs => h (any_samePlace.2 ⟨w, highestLane_sub hw, hs⟩), ih⟩

/-- Where the lanes rise, every write stands or gives way to that of a higher lane. -/
theorem highestLane_every {l : List PWrite} (hl : l.Pairwise (fun v w => v.lane ≤ w.lane)) {w : PWrite} (hw : w ∈ l) :
    ∃ v ∈ highestLane l, v.samePlace w ∧ w.lane ≤ v.lane := by
  induction l generalizing w with
  | nil => cases hw
  | cons x l ih =>
    obtain ⟨hx, htail⟩ := List.pairwise_cons.1 hl
    unfold highestLane
    split
    · next h =>
      rcases List.mem_cons.1 hw with rfl | hw
      · obtain ⟨u, hu, hus⟩ := any_samePlace.1 h
        obtain ⟨v, hv, hvs, hle⟩ := ih htail hu
        exact ⟨v, hv, ⟨hvs.1.trans hus.1, hvs.2.trans hus.2⟩, (hx u hu).trans hle⟩
      · exact ih htail hw
    · rcases List.mem_cons.1 hw with rfl | hw
      · exact ⟨w, List.mem_cons_self, ⟨rfl, rfl⟩, le_refl _⟩
      · obtain ⟨v, hv, h⟩ := ih htail hw
        exact ⟨v, List.mem_cons_of_mem _ hv, h⟩

/-- The write of one lane of a storing word. -/
def State.storeWrite (s : State) (n : Nat) (nib : Bool) (d : BitVec 6) (a : LaneAcc) : Option PWrite :=
  match a.target with
  | .ok sp h va => some
      { id := 0, rid := s.nextId, agent := s.self, lane := a.lane, home := h, data := storeData n nib (nibSel a.ea) (s.storeBits n d a.lane),
        va := va, space := sp, part := s.crew.part, eddy := none }
  | .trap _ _ => none

theorem State.storeWrites_eq (s : State) (xs : List LaneAcc) (n : Nat) (nib : Bool) (d : BitVec 6) :
    s.storeWrites xs n nib d = highestLane (xs.filterMap (s.storeWrite n nib d)) := rfl

theorem State.storeWrite_eq_some {s : State} {n : Nat} {nib : Bool} {d : BitVec 6} {a : LaneAcc} {w : PWrite} (h : s.storeWrite n nib d a = some w) :
    a.target = .ok w.space w.home w.va ∧ a.lane = w.lane ∧ w.data = storeData n nib (nibSel a.ea) (s.storeBits n d a.lane) ∧
      w.rid = s.nextId ∧ w.agent = s.self ∧ w.part = s.crew.part ∧ w.eddy = none := by
  unfold State.storeWrite at h
  split at h
  · next ht =>
    cases h
    exact ⟨ht, rfl, rfl, rfl, rfl, rfl, rfl⟩
  · cases h

theorem State.mem_storeWrites {s : State} {xs : List LaneAcc} {n : Nat} {nib : Bool} {d : BitVec 6} {w : PWrite} (h : w ∈ s.storeWrites xs n nib d) :
    ∃ x ∈ xs, s.storeWrite n nib d x = some w := by
  rw [s.storeWrites_eq] at h
  exact List.mem_filterMap.1 (highestLane_sub h)

/-- The bits that a store takes, where its registers are those that its form allows. -/
theorem State.storeBits_eq {s : State} {sp : Bool} {n : Nat} {d a : BitVec 6} (hregs : s.MemRegs sp n d a) (l : Nat) : s.storeBits n d l =
    if n = 16 then (if s.me.sid = 0 then s.opN 64 d l + 2 ^ 64 * s.opN 64 (d + 1) l else s.opN 64 d l + 2 ^ 64 * s.opN 64 (d + 2) l)
    else if n = 8 then s.opN 64 d l else s.opN 32 d l := by
  have hd := d.isLt
  unfold State.MemRegs at hregs
  unfold State.storeBits
  by_cases h16 : n = 16
  · by_cases h0 : s.me.sid = 0
    · have heven : d.toNat % 2 = 0 := by simpa [h0, h16] using hregs
      have hnext : (d.toNat + 1) % 64 = d.toNat + 1 := by omega
      simp [h16, h0, State.isSteward, State.opN, Stream.rd, hnext]
    · have hfour : d.toNat % 4 = 0 := by
        rw [if_neg h0] at hregs
        exact hregs.2.2 h16
      have hnext : (d.toNat + 2) % 64 = d.toNat + 2 := by omega
      simp [h16, h0, State.isSteward, State.opN, Stream.rd, hnext]
  · simp [h16, State.opN]

theorem State.storeData_eq {s : State} {sp : Bool} {n : Nat} {nib : Bool} {d a : BitVec 6} (hregs : s.MemRegs sp n d a) (hnib : nib = true → n = 1)
    (hi : Bool) (l : Nat) : storeData n nib hi (s.storeBits n d l) =
    if nib then (if hi then [(BitVec.ofNat 8 (s.opN 32 d l % 16 * 16), 0xF0)] else [(BitVec.ofNat 8 (s.opN 32 d l % 16), 0x0F)])
    else (List.range n).map (fun i => (BitVec.ofNat 8
      ((if n = 16 then (if s.me.sid = 0 then s.opN 64 d l + 2 ^ 64 * s.opN 64 (d + 1) l else s.opN 64 d l + 2 ^ 64 * s.opN 64 (d + 2) l)
        else if n = 8 then s.opN 64 d l else s.opN 32 d l) / 2 ^ (8 * i)), 0xFF)) := by
  rw [State.storeBits_eq hregs]
  cases nib with
  | true => cases hi <;> simp [storeData, hnib rfl]
  | false => simp [storeData, leBytes_eq_map, Function.comp_def]

/-- The mask of a 4-bit store tells which nibble it writes. -/
theorem nibSel_of_mask {n x y : Nat} {hi lo : Bool} (h : (storeData n true hi x).map Prod.snd = (storeData n true lo y).map Prod.snd) : hi = lo := by
  cases hi <;> cases lo <;> simp [storeData] at h ⊢

/-- The writes of a storing word as they stand in the buffer: numbered in order after its result. -/
def State.numbered (s : State) (ws : List PWrite) : List PWrite := ws.mapIdx (fun i (w : PWrite) => { w with id := s.nextId + 1 + i })

theorem State.numbered_length (s : State) (ws : List PWrite) : (s.numbered ws).length = ws.length := List.length_mapIdx

theorem State.getElem_numbered (s : State) (ws : List PWrite) (i : Nat) (h : i < (s.numbered ws).length) :
    (s.numbered ws)[i] = { ws[i]'(s.numbered_length ws ▸ h) with id := s.nextId + 1 + i } := List.getElem_mapIdx

theorem State.mem_numbered {s : State} {ws : List PWrite} {w : PWrite} (h : w ∈ s.numbered ws) : ∃ v ∈ ws, ∃ i, w = { v with id := i } := by
  obtain ⟨i, hi, rfl⟩ := List.mem_mapIdx.1 h
  exact ⟨_, List.getElem_mem hi, _, rfl⟩

theorem State.numbered_mem {s : State} {ws : List PWrite} {v : PWrite} (h : v ∈ ws) : ∃ i, { v with id := i } ∈ s.numbered ws := by
  obtain ⟨i, hi, rfl⟩ := List.mem_iff_getElem.1 h
  exact ⟨_, List.mem_mapIdx.2 ⟨i, hi, rfl⟩⟩

/-- What a storing word leaves in the buffer. -/
theorem State.postStore_buffers (s : State) (f : BitVec 4) {ws : List PWrite}
    (hws : ∀ w ∈ ws, w.rid = s.nextId ∧ w.agent = s.self ∧ w.part = s.crew.part) : s.Buffers (s.postStore f ws) f (s.numbered ws) := by
  have hnum : ∀ i (h : i < (s.numbered ws).length), ((s.numbered ws)[i]).id = s.nextId + 1 + i ∧ ((s.numbered ws)[i]).rid = s.nextId ∧
      ((s.numbered ws)[i]).agent = s.self ∧ ((s.numbered ws)[i]).part = s.crew.part := by
    intro i hi
    rw [State.getElem_numbered]
    exact ⟨rfl, hws (ws[i]'(s.numbered_length ws ▸ hi)) (List.getElem_mem _)⟩
  by_cases h0 : ws = []
  · subst h0
    obtain ⟨p, hp, heq⟩ := s.post_arrive f false s.me.reqs
    have hpost : s.postStore f [] = _ := Eq.trans (by simp only [State.postStore, if_true, State.post_use]) heq
    rw [hpost]
    exact ⟨by simp [State.numbered], fun k => s.me.cfGet_cfAdd f k, hnum, fun h => absurd rfl h, fun _ => hp⟩
  · have hpost : s.postStore f ws = ({ s with
        nextId := s.nextId + 1 + ws.length
        me := { s.me with
          cf := (s.me.cfAdd (flagOf f)).cf
          pend := s.me.pend ++ [s.use f false false]
          wb := s.me.wb ++ s.numbered ws } } : State).pushAll .writeDrain
        ((s.numbered ws).map fun w => { src := .wb s.self, a := w.id }) := by
      simp only [State.postStore, if_neg h0, State.post_use]
      rfl
    rw [hpost]
    refine ⟨by rw [s.numbered_length]; rfl, fun k => s.me.cfGet_cfAdd f k, hnum, fun _ => ⟨rfl, _, rfl, fun w hw => ?_⟩, fun h => ?_⟩
    · exact ⟨_, List.mem_map_of_mem (List.mem_map_of_mem hw), rfl, rfl, rfl⟩
    · have := s.numbered_length ws
      rw [h] at this
      exact absurd (List.length_eq_zero_iff.1 this.symm) h0

/-- The writes of a storing word whose accesses rise by lane. -/
theorem State.storeWrites_of {s : State} {sp : Bool} {n : Nat} {nib : Bool} {d a : BitVec 6} {xs : List LaneAcc} (hregs : s.MemRegs sp n d a)
    (hnib : nib = true → n = 1) (hxs : xs.Pairwise (fun x y => x.lane < y.lane)) : s.WritesOf xs n nib d (s.numbered (s.storeWrites xs n nib d)) where
  source w hw := by
    obtain ⟨v, hv, i, rfl⟩ := State.mem_numbered hw
    obtain ⟨x, hx, hxv⟩ := State.mem_storeWrites hv
    obtain ⟨ht, hl, hdata, -⟩ := State.storeWrite_eq_some hxv
    exact ⟨x, hx, hl, ht, hdata.trans (State.storeData_eq hregs hnib _ _)⟩
  every x hx sp h va ht := by
    have hlanes : (xs.filterMap (s.storeWrite n nib d)).Pairwise (fun v w => v.lane ≤ w.lane) := by
      refine List.Pairwise.filterMap _ (fun x y hxy v hv w hw => ?_) hxs
      rw [← (State.storeWrite_eq_some hv).2.1, ← (State.storeWrite_eq_some hw).2.1]
      exact hxy.le
    obtain ⟨w, hw⟩ : ∃ w, s.storeWrite n nib d x = some w := by simp [State.storeWrite, ht]
    obtain ⟨htw, hlw, hdw, -⟩ := State.storeWrite_eq_some hw
    obtain ⟨v, hv, ⟨hhome, hmask⟩, hle⟩ := highestLane_every hlanes (List.mem_filterMap.2 ⟨x, hx, hw⟩)
    obtain ⟨i, hi⟩ := State.numbered_mem (s := s) (ws := s.storeWrites xs n nib d) hv
    obtain ⟨y, hy, hyv⟩ := State.mem_storeWrites (s := s) hv
    obtain ⟨-, hlv, hdv, -⟩ := State.storeWrite_eq_some hyv
    have hwh : w.home = h := by
      rw [ht] at htw
      cases htw
      rfl
    refine ⟨_, hi, hhome.trans hwh, hlw.le.trans hle, fun hn => ⟨y, hy, hlv, ?_⟩⟩
    rw [hdv, hdw, hn] at hmask
    exact nibSel_of_mask hmask
  once := by
    rw [List.pairwise_iff_getElem]
    intro i j hi hj hij hhome hmask
    simp only [State.getElem_numbered] at hhome hmask
    exact List.pairwise_iff_getElem.1 (highestLane_once _) i j _ _ hij ⟨hhome.symm, hmask.symm⟩

theorem exec_store {s : State} {d a : BitVec 6} {f : BitVec 4} {g : BitVec 1} {x : Instr × Bool × Nat × Bool} (hx : x ∈ storeForms d a f g) :
    exec x.1 s = .next (s.store x.2.1 x.2.2.1 x.2.2.2 d a f g) ∧ (x.2.2.2 = true → x.2.2.1 = 1) := by
  simp only [storeForms, List.mem_cons, List.not_mem_nil, or_false] at hx
  rcases hx with rfl | rfl | rfl | rfl | rfl | rfl | rfl | rfl | rfl | rfl | rfl | rfl <;> exact ⟨rfl, by simp⟩

theorem stores : Claims.Stores := by
  intro s d a f g x hx xs
  obtain ⟨hexec, hnib⟩ := exec_store (s := s) hx
  refine ⟨fun hregs => ⟨s.numbered (s.storeWrites xs x.2.2.1 x.2.2.2 d), ?_, State.storeWrites_of hregs hnib ?_, fun w hw => ?_⟩, fun hregs => ?_⟩
  · rw [State.store, if_pos ((s.memFields_iff _ _ _ _).2 hregs)] at hexec
    refine actsOrTraps hexec (State.ofHead_map fun l => s.access_lane _ _ _ _ _ _ l) (s.postStore_buffers f fun w hw => ?_)
    obtain ⟨y, -, hy⟩ := State.mem_storeWrites hw
    obtain ⟨-, -, -, hrid, hagent, hpart, -⟩ := State.storeWrite_eq_some hy
    exact ⟨hrid, hagent, hpart⟩
  · exact List.pairwise_map.2 ((s.lanes_rise g).imp fun h => by simpa using h)
  · obtain ⟨v, hv, i, rfl⟩ := State.mem_numbered hw
    obtain ⟨y, -, hy⟩ := State.mem_storeWrites hv
    obtain ⟨-, -, -, -, -, -, heddy⟩ := State.storeWrite_eq_some hy
    exact heddy
  · rw [State.store, if_neg (mt (s.memFields_iff _ _ _ _).1 hregs)] at hexec
    exact hexec

/-- Settles O12: each form's checks, its request or its buffered writes, and the register fields that it refuses. -/
theorem loadsAndStores : Obligations.LoadsAndStores := by
  unfold Obligations.LoadsAndStores
  exact ⟨loads, lineFill, stores⟩

end Sys2Proof.Machine
end

section
/-! SUPPORT. One rounding to F32 as a real number (R130, R133, R134): what the binary exponent, the fraction and the rounded number of m·2^e are, and
which encoding the rounding gives. -/

namespace Sys2Proof.Machine

/-! ### Numbers m·2^e -/

theorem two_zpow_toNat {e : Int} (h : 0 ≤ e) : ((2 : ℝ) ^ e.toNat) = (2 : ℝ) ^ e := by
  rw [← zpow_natCast, Int.toNat_of_nonneg h]

theorem two_zpow_pos (e : Int) : 0 < (2 : ℝ) ^ e := zpow_pos two_pos e

theorem two_zpow_mul (a b : Int) : (2 : ℝ) ^ a * (2 : ℝ) ^ b = (2 : ℝ) ^ (a + b) := (zpow_add₀ two_ne_zero a b).symm

theorem dyReal_dyAdd (x y : Int × Int) : dyReal (dyAdd x y) = dyReal x + dyReal y := by
  have scaled (z : Int × Int) (e : Int) (h : e ≤ z.2) : ((z.1 * 2 ^ (z.2 - e).toNat : Int) : ℝ) * (2 : ℝ) ^ e = dyReal z := by
    rw [Int.cast_mul, Int.cast_pow, Int.cast_ofNat, two_zpow_toNat (by omega), dyReal, mul_assoc, two_zpow_mul, sub_add_cancel]
  rw [← scaled x (min x.2 y.2) (min_le_left _ _), ← scaled y (min x.2 y.2) (min_le_right _ _), ← add_mul, ← Int.cast_add]
  rfl

theorem dyReal_dyMul (x y : Int × Int) : dyReal (dyMul x y) = dyReal x * dyReal y := by
  simp only [dyReal, dyMul, Int.cast_mul, ← two_zpow_mul]
  ring

theorem dyReal_pos {x : Int × Int} : 0 < dyReal x ↔ 0 < x.1 := by
  rw [dyReal, mul_pos_iff_of_pos_right (two_zpow_pos _), Int.cast_pos]

theorem dyReal_nonpos {x : Int × Int} : dyReal x ≤ 0 ↔ x.1 ≤ 0 := by
  rw [← not_lt, dyReal_pos, not_lt]

theorem dyReal_nonneg {x : Int × Int} : 0 ≤ dyReal x ↔ 0 ≤ x.1 := by
  rw [dyReal, mul_nonneg_iff_of_pos_right (two_zpow_pos _), Int.cast_nonneg_iff]

/-- The number that a value stands for. -/
theorem f32Real_of_num {x : Nat} {neg : Bool} {m : Nat} {e : Int} (h : fF32.decode x = .num neg m e) :
    f32Real x = some (dyReal (FVal.num neg m e).toInt) := by
  rw [f32Real, h]
  cases neg <;> simp [dyReal, FVal.toInt]

/-! ### The binary exponent, and one unit in the last place -/

theorem expOf_one {n : Nat} (hn : 0 < n) (e : Int) : expOf n 1 e = Nat.log2 n + e := by
  have hlog : 2 ^ Nat.log2 n ≤ n := Nat.log2_self_le hn.ne'
  have hle : (frac n 1 (-(Nat.log2 n : Int))).2 ≤ (frac n 1 (-(Nat.log2 n : Int))).1 := by
    unfold frac
    split
    · simp only [Nat.one_le_iff_ne_zero]
      positivity
    · simpa using hlog
  have hd : Nat.log2 1 = 0 := rfl
  simp only [expOf, hd, Nat.cast_zero, sub_zero, if_pos hle]

/-- The binade of a number. -/
theorem expOf_binade {n : Nat} (hn : 0 < n) (e : Int) : (2 : ℝ) ^ expOf n 1 e ≤ n * (2 : ℝ) ^ e ∧ n * (2 : ℝ) ^ e < (2 : ℝ) ^ (expOf n 1 e + 1) := by
  have hlo : ((2 : ℝ) ^ Nat.log2 n) ≤ n := by exact_mod_cast Nat.log2_self_le hn.ne'
  have hhi : (n : ℝ) < (2 : ℝ) ^ (Nat.log2 n + 1) := by exact_mod_cast Nat.lt_log2_self
  rw [expOf_one hn, add_right_comm, ← two_zpow_mul, ← two_zpow_mul, zpow_natCast, ← Nat.cast_succ, zpow_natCast]
  exact ⟨mul_le_mul_of_nonneg_right hlo (two_zpow_pos e).le, mul_lt_mul_of_pos_right hhi (two_zpow_pos e)⟩

/-- A number has one binade. -/
theorem binade_unique {y : ℝ} {k j : Int} (hk : (2 : ℝ) ^ k ≤ y) (hk' : y < (2 : ℝ) ^ (k + 1)) (hj : (2 : ℝ) ^ j ≤ y) (hj' : y < (2 : ℝ) ^ (j + 1)) :
    k = j := by
  have h1 := (zpow_lt_zpow_iff_right₀ (one_lt_two (α := ℝ))).1 (hk.trans_lt hj')
  have h2 := (zpow_lt_zpow_iff_right₀ (one_lt_two (α := ℝ))).1 (hj.trans_lt hk')
  omega

theorem ulp32_eq (k : Int) : ulp32 k = max (k - 23) (-149) := by
  unfold ulp32
  split <;> omega

/-! ### The rounded number (R133) -/

theorem frac_pos (n : Nat) (e : Int) : 0 < (frac n 1 e).2 := by
  unfold frac
  split <;> simp

theorem frac_real (n : Nat) (e : Int) : ((frac n 1 e).1 : ℝ) / (frac n 1 e).2 = n * (2 : ℝ) ^ e := by
  unfold frac
  split
  · next h => simp [two_zpow_toNat h]
  · next h =>
    simp only [one_mul, Nat.cast_pow, Nat.cast_ofNat]
    rw [two_zpow_toNat (by omega), zpow_neg, div_inv_eq_mul]

/-- To the nearest: at most half a unit away. -/
theorem roundFrac_near (neg : Bool) (a : Nat) {b : Nat} (hb : 0 < b) : |(roundFrac .rne neg a b : ℝ) - a / b| ≤ 1 / 2 := by
  have hbr : (0 : ℝ) < b := by exact_mod_cast hb
  have hdiv : (a : ℝ) = b * (a / b : Nat) + (a % b : Nat) := by exact_mod_cast (Nat.div_add_mod a b).symm
  have hq : (a : ℝ) / b = (a / b : Nat) + (a % b : Nat) / b := by
    rw [hdiv]
    field_simp
  have hlt : ((a % b : Nat) : ℝ) < b := by exact_mod_cast Nat.mod_lt a hb
  rw [hq]
  unfold roundFrac
  dsimp only
  generalize a % b = r at hlt
  generalize a / b = q
  split
  · next h => simp [h]
  · split
    · next h =>
      have hbig : (b : ℝ) ≤ 2 * r := by
        simp only [Bool.or_eq_true, decide_eq_true_eq, Bool.and_eq_true, beq_iff_eq] at h
        have : b ≤ 2 * r := by omega
        exact_mod_cast this
      have h1 : 1 / 2 ≤ (r : ℝ) / b := by rw [div_le_div_iff₀ two_pos hbr]; linarith
      have h2 : (r : ℝ) / b < 1 := (div_lt_one hbr).2 hlt
      rw [Nat.cast_succ, abs_le]
      constructor <;> linarith
    · next h =>
      have hsmall : 2 * (r : ℝ) ≤ b := by
        simp only [Bool.or_eq_true, decide_eq_true_eq, Bool.and_eq_true, beq_iff_eq, not_or] at h
        have : 2 * r ≤ b := by omega
        exact_mod_cast this
      have h1 : (r : ℝ) / b ≤ 1 / 2 := by rw [div_le_div_iff₀ hbr two_pos]; linarith
      have h2 : 0 ≤ (r : ℝ) / b := by positivity
      rw [abs_le]
      constructor <;> linarith

/-! ### Encodings of F32 (R130) -/

theorem decode_f32 (x : Nat) : fF32.decode x =
    if x % 2 ^ 31 / 2 ^ 23 = 255 then (if x % 2 ^ 23 = 0 then .inf (x / 2 ^ 31 % 2 == 1) else .nan)
    else if x % 2 ^ 31 / 2 ^ 23 = 0 then .num (x / 2 ^ 31 % 2 == 1) (x % 2 ^ 23) (-149)
    else .num (x / 2 ^ 31 % 2 == 1) (2 ^ 23 + x % 2 ^ 23) (((x % 2 ^ 31 / 2 ^ 23 : Nat) : Int) - 150) := by
  have he (n : Int) : n - 127 - 23 = n - 150 := by omega
  simp [Fmt.decode, fF32, he]

/-- A number of F32 has at most 24 bits, and its exponent is in range. -/
theorem decode_f32_range {x : Nat} {neg : Bool} {m : Nat} {e : Int} (h : fF32.decode x = .num neg m e) : m < 2 ^ 24 ∧ -149 ≤ e ∧ e ≤ 104 := by
  rw [decode_f32] at h
  have hlt : x % 2 ^ 31 / 2 ^ 23 ≤ 255 := by omega
  split at h
  · split at h <;> cases h
  · split at h <;> cases h <;> omega

/-- The encoding that a rounding gives: `N` units of 2^(j - 149), of at most 24 bits, and of 24 bits above the lowest binades. -/
theorem decode_signed (neg : Bool) {j N : Nat} (hN : N ≤ 2 ^ 24) (hj : 0 < j → 2 ^ 23 ≤ N) (hmax : j * 2 ^ 23 + N ≤ 0x7F7FFFFF) :
    fF32.decode (fF32.signed neg (j * 2 ^ 23 + N)) = .num neg N ((j : Int) - 149) ∨
    N = 2 ^ 24 ∧ fF32.decode (fF32.signed neg (j * 2 ^ 23 + N)) = .num neg (2 ^ 23) ((j : Int) - 149 + 1) := by
  have hs : fF32.signed neg (j * 2 ^ 23 + N) = (if neg then 2 ^ 31 else 0) + (j * 2 ^ 23 + N) := by
    cases neg <;> simp [Fmt.signed, fF32]
  generalize fF32.signed neg (j * 2 ^ 23 + N) = x at hs
  have hneg : (x / 2 ^ 31 % 2 == 1) = neg := by
    cases neg
    · simp at hs ⊢; omega
    · simp at hs ⊢; omega
  have hmag : x % 2 ^ 31 = j * 2 ^ 23 + N := by
    cases neg
    · simp at hs; omega
    · simp at hs; omega
  have hlow : x % 2 ^ 23 = N % 2 ^ 23 := by omega
  rw [decode_f32, hneg, hmag, hlow, if_neg (by omega)]
  rcases lt_or_ge N (2 ^ 23) with h1 | h1
  · have hj0 : j = 0 := by
      by_contra h
      exact absurd (hj (Nat.pos_of_ne_zero h)) (by omega)
    rw [if_pos (by omega), Nat.mod_eq_of_lt h1, hj0]
    exact .inl rfl
  · rw [if_neg (by omega)]
    rcases lt_or_ge N (2 ^ 24) with h2 | h2
    · left
      congr 1 <;> omega
    · have hN' : N = 2 ^ 24 := by omega
      refine .inr ⟨hN', ?_⟩
      congr 1 <;> omega

/-! ### One rounding to the nearest (R133, R134) -/

/-- The greatest number of F32. -/
noncomputable def maxF32 : ℝ := (2 ^ 24 - 1) * (2 : ℝ) ^ (104 : ℤ)

/-- What `n`·2^`e` rounds to: `N` units in the last place of its binade, at most half a unit away. -/
structure RoundsTo (neg : Bool) (n : Nat) (e : Int) (N : Nat) : Prop where
  near : |(N : ℝ) - n * (2 : ℝ) ^ (e - ulp32 (expOf n 1 e))| ≤ 1 / 2
  normal : -126 ≤ expOf n 1 e → 2 ^ 23 ≤ N
  decodes : fF32.decode (fF32.round .rne false neg n 1 e) = .num neg N (ulp32 (expOf n 1 e)) ∨
    N = 2 ^ 24 ∧ fF32.decode (fF32.round .rne false neg n 1 e) = .num neg (2 ^ 23) (ulp32 (expOf n 1 e) + 1)

/-- The rounding of a number, as its units and their number. -/
theorem round_eq (neg : Bool) {n : Nat} (hn : 0 < n) (e : Int) : ∃ N : Nat, |(N : ℝ) - n * (2 : ℝ) ^ (e - ulp32 (expOf n 1 e))| ≤ 1 / 2 ∧
    fF32.round .rne false neg n 1 e = if (ulp32 (expOf n 1 e) + 149).toNat * 2 ^ 23 + N > 0x7F7FFFFF then fF32.overflow .rne neg
      else fF32.signed neg ((ulp32 (expOf n 1 e) + 149).toNat * 2 ^ 23 + N) := by
  have hnear := roundFrac_near neg (frac n 1 (e - ulp32 (expOf n 1 e))).1 (frac_pos n (e - ulp32 (expOf n 1 e)))
  rw [frac_real] at hnear
  refine ⟨_, hnear, ?_⟩
  simp only [Fmt.round, if_neg hn.ne']
  rfl

theorem roundsTo (neg : Bool) {n : Nat} (hn : 0 < n) (e : Int) (hmax : n * (2 : ℝ) ^ e ≤ maxF32) : ∃ N, RoundsTo neg n e N := by
  obtain ⟨hlo, hhi⟩ := expOf_binade hn e
  obtain ⟨N, hnear, hround⟩ := round_eq neg hn e
  have hq : -149 ≤ ulp32 (expOf n 1 e) ∧ expOf n 1 e - 23 ≤ ulp32 (expOf n 1 e) ∧ (-126 ≤ expOf n 1 e → ulp32 (expOf n 1 e) = expOf n 1 e - 23) ∧
      (expOf n 1 e < -126 → ulp32 (expOf n 1 e) = -149) := by
    rw [ulp32_eq]; omega
  have hunits : (n : ℝ) * (2 : ℝ) ^ (e - ulp32 (expOf n 1 e)) = n * (2 : ℝ) ^ e * (2 : ℝ) ^ (-ulp32 (expOf n 1 e)) := by
    rw [mul_assoc, two_zpow_mul, sub_eq_add_neg]
  suffices h : (-126 ≤ expOf n 1 e → 2 ^ 23 ≤ N) ∧ N ≤ 2 ^ 24 ∧ expOf n 1 e ≤ 127 ∧ (expOf n 1 e = 127 → N < 2 ^ 24) by
    obtain ⟨hnormal, hN, hk, htop⟩ := h
    refine ⟨N, hnear, hnormal, ?_⟩
    have hfit : (ulp32 (expOf n 1 e) + 149).toNat * 2 ^ 23 + N ≤ 0x7F7FFFFF := by omega
    have hj : (((ulp32 (expOf n 1 e) + 149).toNat : Nat) : Int) - 149 = ulp32 (expOf n 1 e) := by omega
    rw [hround, if_neg (by omega)]
    have hdec := decode_signed neg hN (fun hpos => hnormal (by omega)) hfit
    rwa [hj] at hdec
  rw [hunits] at hnear
  generalize expOf n 1 e = k at *
  generalize ulp32 k = q at *
  generalize (n : ℝ) * (2 : ℝ) ^ e = y at *
  obtain ⟨h1, h2⟩ := abs_le.1 hnear
  have hscale {a : ℝ} {j : Int} (ha : a ≤ y) (he : a = (2 : ℝ) ^ j) : (2 : ℝ) ^ (j - q) ≤ y * (2 : ℝ) ^ (-q) := by
    rw [sub_eq_add_neg, ← two_zpow_mul, ← he]
    exact mul_le_mul_of_nonneg_right ha (two_zpow_pos _).le
  have hk : k ≤ 127 := by
    have hmax' : maxF32 < (2 : ℝ) ^ (128 : ℤ) := by rw [maxF32]; norm_num
    have := (zpow_lt_zpow_iff_right₀ (one_lt_two (α := ℝ))).1 ((hlo.trans hmax).trans_lt hmax')
    omega
  refine ⟨fun hk126 => ?_, ?_, hk, fun htop => ?_⟩
  · have hlow := hscale hlo rfl
    rw [hq.2.2.1 hk126, sub_sub_cancel] at hlow
    rw [hq.2.2.1 hk126] at h1
    have : (2 : ℝ) ^ 23 - 1 < N := by
      have h23 : (2 : ℝ) ^ (23 : ℤ) = (2 : ℝ) ^ 23 := by norm_num
      linarith
    have : 2 ^ 23 < N + 1 := by
      have : (2 : ℝ) ^ 23 < N + 1 := by linarith
      exact_mod_cast this
    omega
  · have hhigh : y * (2 : ℝ) ^ (-q) < (2 : ℝ) ^ 24 := by
      calc y * (2 : ℝ) ^ (-q) < (2 : ℝ) ^ (k + 1) * (2 : ℝ) ^ (-q) := mul_lt_mul_of_pos_right hhi (two_zpow_pos _)
        _ = (2 : ℝ) ^ (k + 1 + -q) := two_zpow_mul _ _
        _ ≤ (2 : ℝ) ^ (24 : ℤ) := zpow_le_zpow_right₀ one_le_two (by omega)
        _ = (2 : ℝ) ^ 24 := by norm_num
    have : N < 2 ^ 24 + 1 := by
      have : (N : ℝ) < (2 : ℝ) ^ 24 + 1 := by linarith
      exact_mod_cast this
    omega
  · have hq104 : q = 104 := by omega
    have hhigh : y * (2 : ℝ) ^ (-q) ≤ 2 ^ 24 - 1 := by
      calc y * (2 : ℝ) ^ (-q) ≤ maxF32 * (2 : ℝ) ^ (-q) := mul_le_mul_of_nonneg_right hmax (two_zpow_pos _).le
        _ = 2 ^ 24 - 1 := by rw [maxF32, mul_assoc, two_zpow_mul, hq104]; norm_num
    have : (N : ℝ) < 2 ^ 24 := by linarith
    exact_mod_cast this

/-- The number that a rounding gives. -/
theorem RoundsTo.real {neg : Bool} {n : Nat} {e : Int} {N : Nat} (h : RoundsTo neg n e N) : f32Real (fF32.round .rne false neg n 1 e) =
    some ((if neg then -1 else 1) * ((N : ℝ) * (2 : ℝ) ^ ulp32 (expOf n 1 e))) := by
  rcases h.decodes with hd | ⟨hN, hd⟩
  · rw [f32Real, hd]
    cases neg <;> simp
  · rw [f32Real, hd, hN]
    simp only [← two_zpow_mul]
    cases neg <;> norm_num <;> ring

/-- A rounding moves a number by at most half a unit in the last place. -/
theorem RoundsTo.within {neg : Bool} {n : Nat} {e : Int} {N : Nat} (h : RoundsTo neg n e N) :
    |(N : ℝ) * (2 : ℝ) ^ ulp32 (expOf n 1 e) - n * (2 : ℝ) ^ e| ≤ (2 : ℝ) ^ (ulp32 (expOf n 1 e) - 1) := by
  have hy : (n : ℝ) * (2 : ℝ) ^ e = n * (2 : ℝ) ^ (e - ulp32 (expOf n 1 e)) * (2 : ℝ) ^ ulp32 (expOf n 1 e) := by
    rw [mul_assoc, two_zpow_mul, sub_add_cancel]
  have hhalf : (2 : ℝ) ^ (ulp32 (expOf n 1 e) - 1) = 1 / 2 * (2 : ℝ) ^ ulp32 (expOf n 1 e) := by
    rw [sub_eq_add_neg, ← two_zpow_mul, mul_comm]
    norm_num
  rw [hy, ← sub_mul, abs_mul, abs_of_pos (two_zpow_pos _), hhalf]
  exact mul_le_mul_of_nonneg_right h.near (two_zpow_pos _).le

/-- The encodings of F32 have 32 bits. -/
theorem round_lt (neg : Bool) (n d : Nat) (e : Int) : fF32.round .rne false neg n d e < 2 ^ 32 := by
  have signed {mag : Nat} (h : mag ≤ 0x7F800000) : fF32.signed neg mag < 2 ^ 32 := by
    unfold Fmt.signed
    split
    · simp only [fF32]
      omega
    · omega
  by_cases hn : n = 0
  · rw [Fmt.round, if_pos hn]
    exact signed (Nat.zero_le _)
  · obtain ⟨mag, hmag⟩ : ∃ mag, fF32.round .rne false neg n d e = if mag > fF32.maxBits then fF32.overflow .rne neg else fF32.signed neg mag :=
      ⟨_, by rw [Fmt.round, if_neg hn]; rfl⟩
    rw [hmag]
    split
    · exact signed (mag := 255 * 2 ^ 23) (by decide)
    · next h => exact signed ((not_lt.1 h).trans (by decide))

end Sys2Proof.Machine
end

section
/-! SUPPORT. The roots of the special functions (R136): the integer root, what a root with a sticky bit encloses, and that it is rounded as the root itself is. -/

namespace Sys2Proof.Machine

/-! ### The integer root -/

theorem isqrtGo_spec (n k r : Nat) (hlo : r * r ≤ n) (hhi : n < (r + 2 ^ k) * (r + 2 ^ k)) : isqrtGo n k r = Nat.sqrt n := by
  induction k generalizing r with
  | zero =>
    show r = Nat.sqrt n
    exact Nat.eq_sqrt.2 ⟨hlo, by simpa using hhi⟩
  | succ k ih =>
    unfold isqrtGo
    have hpow : 2 ^ (k + 1) = 2 ^ k + 2 ^ k := by omega
    split
    · next h => exact ih _ h (by rwa [add_assoc, ← hpow])
    · next h => exact ih _ hlo (not_le.1 h)

theorem isqrt_eq (n : Nat) : isqrt n = Nat.sqrt n := by
  refine isqrtGo_spec n _ 0 (Nat.zero_le _) ?_
  rw [zero_add, ← pow_add]
  calc n < 2 ^ (Nat.log2 n + 1) := Nat.lt_log2_self
    _ ≤ _ := Nat.pow_le_pow_right two_pos (by omega)

/-! ### A root with a sticky bit -/

/-- `v` is twice a whole number of units with a sticky bit: `y` is that number of units where the bit is 0, and lies above it and below the next one
where the bit is 1. -/
def Encloses (v : Nat × Int) (y : ℝ) : Prop :=
  ∃ r : Nat, v.1 = 2 * r ∧ y = r * (2 : ℝ) ^ (v.2 + 1) ∨ v.1 = 2 * r + 1 ∧ r * (2 : ℝ) ^ (v.2 + 1) < y ∧ y < (r + 1) * (2 : ℝ) ^ (v.2 + 1)

/-- The whole part of a number, its exactness as the sticky bit. -/
theorem encloses_floor {r : Nat} {b : Bool} {z : ℝ} (hlo : r ≤ z) (hhi : z < r + 1) (hb : b = true ↔ z = r) (j : Int) :
    Encloses (if b then 2 * r else 2 * r + 1, j - 1) (z * (2 : ℝ) ^ j) := by
  refine ⟨r, ?_⟩
  dsimp only
  rw [sub_add_cancel]
  cases b with
  | true => exact .inl ⟨rfl, by rw [hb.1 rfl]⟩
  | false =>
    have hne : z ≠ r := fun h => Bool.false_ne_true (hb.2 h)
    exact .inr ⟨rfl, mul_lt_mul_of_pos_right (lt_of_le_of_ne hlo hne.symm) (two_zpow_pos j), mul_lt_mul_of_pos_right hhi (two_zpow_pos j)⟩

/-- An exponent made even: the number is the same. -/
theorem even_split (m : Nat) (e : Int) : ∃ (m1 : Nat) (e1 : Int), e1 % 2 = 0 ∧ (m1 : ℝ) * (2 : ℝ) ^ e1 = m * (2 : ℝ) ^ e ∧ (m ≤ m1 ∧ m1 ≤ 2 * m) ∧
    m1 = (if e % 2 = 0 then m else 2 * m) ∧ e1 = if e % 2 = 0 then e else e - 1 := by
  by_cases h : e % 2 = 0
  · exact ⟨m, e, h, rfl, by omega, by simp [h], by simp [h]⟩
  · refine ⟨2 * m, e - 1, by omega, ?_, by omega, by simp [h], by simp [h]⟩
    have hstep : (2 : ℝ) ^ e = 2 * (2 : ℝ) ^ (e - 1) := by
      rw [← zpow_one_add₀ two_ne_zero]
      congr 1
      omega
    rw [hstep, Nat.cast_mul, Nat.cast_ofNat]
    ring

theorem sqrt_two_zpow {e : Int} (h : e % 2 = 0) : √((2 : ℝ) ^ e) = (2 : ℝ) ^ (e / 2) := by
  have he : e = e / 2 + e / 2 := by omega
  conv_lhs => rw [he, ← two_zpow_mul]
  exact Real.sqrt_mul_self (two_zpow_pos _).le

theorem sqrtSticky_encloses {m : Nat} (e : Int) : Encloses (sqrtSticky m e) √(m * (2 : ℝ) ^ e) := by
  obtain ⟨m1, e1, heven, hval, -, hm1, he1⟩ := even_split m e
  have hsticky : sqrtSticky m e = (if isqrt (m1 * 2 ^ 80) * isqrt (m1 * 2 ^ 80) = m1 * 2 ^ 80 then 2 * isqrt (m1 * 2 ^ 80) else
      2 * isqrt (m1 * 2 ^ 80) + 1, (e1 - 80) / 2 - 1) := by
    have hmul : (if e % 2 = 0 then m * 2 ^ 80 else m * 2 ^ 81) = m1 * 2 ^ 80 := by rw [hm1]; split <;> ring
    have hexp : (if e % 2 = 0 then e - 80 else e - 81) = e1 - 80 := by rw [he1]; split <;> omega
    simp only [sqrtSticky, hmul, hexp]
  have hroot : √(m * (2 : ℝ) ^ e) = √((m1 * 2 ^ 80 : Nat) : ℝ) * (2 : ℝ) ^ ((e1 - 80) / 2) := by
    rw [← sqrt_two_zpow (by omega), ← Real.sqrt_mul (Nat.cast_nonneg _), ← hval]
    have hscale : ((2 ^ 80 : Nat) : ℝ) = (2 : ℝ) ^ (80 : ℤ) := by norm_num
    rw [Nat.cast_mul, hscale, mul_assoc, two_zpow_mul, add_sub_cancel]
  rw [hsticky, hroot, isqrt_eq]
  generalize m1 * 2 ^ 80 = n
  have h := encloses_floor (r := Nat.sqrt n) (b := decide (Nat.sqrt n * Nat.sqrt n = n)) (z := √(n : ℝ)) (Real.nat_sqrt_le_real_sqrt)
    (Real.real_sqrt_lt_nat_sqrt_succ) ?_ ((e1 - 80) / 2)
  · simpa using h
  · rw [decide_eq_true_eq, Real.sqrt_eq_iff_mul_self_eq (Nat.cast_nonneg _) (Nat.cast_nonneg _)]
    norm_cast
    exact eq_comm

theorem rsqrtSticky_encloses {m : Nat} (hm : 0 < m) (e : Int) : Encloses (rsqrtSticky m e) (1 / √(m * (2 : ℝ) ^ e)) := by
  obtain ⟨m1, e1, heven, hval, hle, hm1, he1⟩ := even_split m e
  have hsticky : rsqrtSticky m e = (if isqrt (2 ^ 160 / m1) * isqrt (2 ^ 160 / m1) * m1 = 2 ^ 160 then 2 * isqrt (2 ^ 160 / m1) else
      2 * isqrt (2 ^ 160 / m1) + 1, -(e1 / 2) - 80 - 1) := by
    simp only [rsqrtSticky, ← hm1, ← he1]
    congr 1
    omega
  have hroot : 1 / √(m * (2 : ℝ) ^ e) = 2 ^ 80 / √(m1 : ℝ) * (2 : ℝ) ^ (-(e1 / 2) - 80) := by
    rw [← hval, Real.sqrt_mul (Nat.cast_nonneg _), sqrt_two_zpow heven, sub_eq_add_neg, ← two_zpow_mul, zpow_neg]
    norm_num
    field_simp
  have hpos : (0 : ℝ) < √(m1 : ℝ) := Real.sqrt_pos.2 (by exact_mod_cast hm.trans_le hle.1)
  have hsq : √(m1 : ℝ) * √(m1 : ℝ) = m1 := Real.mul_self_sqrt (Nat.cast_nonneg _)
  rw [hsticky, hroot, isqrt_eq]
  have hm1pos : 0 < m1 := hm.trans_le hle.1
  have hlow : Nat.sqrt (2 ^ 160 / m1) * Nat.sqrt (2 ^ 160 / m1) * m1 ≤ 2 ^ 160 := (Nat.le_div_iff_mul_le hm1pos).1 (Nat.sqrt_le _)
  have hhigh : 2 ^ 160 < (Nat.sqrt (2 ^ 160 / m1) + 1) * (Nat.sqrt (2 ^ 160 / m1) + 1) * m1 :=
    (Nat.div_lt_iff_lt_mul hm1pos).1 (Nat.sqrt_lt.1 (Nat.lt_succ_self _))
  generalize Nat.sqrt (2 ^ 160 / m1) = r at hlow hhigh
  have hsquare (a : ℝ) : (a * √(m1 : ℝ)) * (a * √(m1 : ℝ)) = a * a * m1 := by rw [mul_mul_mul_comm, hsq]
  have htop : (2 : ℝ) ^ 160 = 2 ^ 80 * 2 ^ 80 := by norm_num
  have h := encloses_floor (r := r) (b := decide (r * r * m1 = 2 ^ 160)) (z := 2 ^ 80 / √(m1 : ℝ)) ?_ ?_ ?_ (-(e1 / 2) - 80)
  · simpa using h
  · rw [le_div_iff₀ hpos]
    refine (mul_self_le_mul_self_iff (by positivity) (by positivity)).2 ?_
    rw [hsquare, ← htop]
    exact_mod_cast hlow
  · rw [div_lt_iff₀ hpos]
    refine lt_of_mul_self_lt_mul_self₀ (by positivity) ?_
    rw [hsquare, ← htop]
    exact_mod_cast hhigh
  · rw [decide_eq_true_eq, div_eq_iff hpos.ne', ← mul_self_inj (show (0 : ℝ) ≤ 2 ^ 80 by positivity) (show 0 ≤ (r : ℝ) * √m1 by positivity), hsquare, ← htop]
    norm_cast
    exact eq_comm

/-! ### A root against its sticky number -/

theorem units_le {n M : Nat} {x : Int} : (n : ℝ) * (2 : ℝ) ^ x ≤ M * (2 : ℝ) ^ (x + 1) ↔ n ≤ 2 * M := by
  rw [zpow_add_one₀ two_ne_zero, mul_comm _ (2 : ℝ), ← mul_assoc, mul_le_mul_iff_left₀ (two_zpow_pos x), mul_comm (M : ℝ)]
  exact_mod_cast Iff.rfl

theorem le_units {n M : Nat} {x : Int} : (M : ℝ) * (2 : ℝ) ^ (x + 1) ≤ n * (2 : ℝ) ^ x ↔ 2 * M ≤ n := by
  rw [zpow_add_one₀ two_ne_zero, mul_comm _ (2 : ℝ), ← mul_assoc, mul_le_mul_iff_left₀ (two_zpow_pos x), mul_comm (M : ℝ)]
  exact_mod_cast Iff.rfl

theorem units_mono {a b : Nat} (x : Int) (h : a ≤ b) : (a : ℝ) * (2 : ℝ) ^ x ≤ b * (2 : ℝ) ^ x :=
  mul_le_mul_of_nonneg_right (by exact_mod_cast h) (two_zpow_pos x).le

theorem Encloses.le_whole {v : Nat × Int} {y : ℝ} (h : Encloses v y) {M : Nat} (hM : v.1 ≤ 2 * M) : y ≤ M * (2 : ℝ) ^ (v.2 + 1) := by
  obtain ⟨r, ⟨hv, hy⟩ | ⟨hv, -, hhi⟩⟩ := h
  · exact hy.le.trans (units_mono _ (by omega))
  · exact hhi.le.trans (by exact_mod_cast units_mono _ (by omega : r + 1 ≤ M))

theorem Encloses.lt_whole {v : Nat × Int} {y : ℝ} (h : Encloses v y) {M : Nat} (hM : v.1 < 2 * M) : y < M * (2 : ℝ) ^ (v.2 + 1) := by
  obtain ⟨r, ⟨hv, hy⟩ | ⟨hv, -, hhi⟩⟩ := h
  · rw [hy]
    exact mul_lt_mul_of_pos_right (by exact_mod_cast (by omega : r < M)) (two_zpow_pos _)
  · exact hhi.trans_le (by exact_mod_cast units_mono _ (by omega : r + 1 ≤ M))

theorem Encloses.whole_le {v : Nat × Int} {y : ℝ} (h : Encloses v y) {M : Nat} (hM : 2 * M ≤ v.1) : M * (2 : ℝ) ^ (v.2 + 1) ≤ y := by
  obtain ⟨r, ⟨hv, hy⟩ | ⟨hv, hlo, -⟩⟩ := h
  · exact (units_mono _ (by omega)).trans hy.ge
  · exact (units_mono _ (by omega)).trans hlo.le

/-- A sticky number is less than two of its own units away from the root. -/
theorem Encloses.near {v : Nat × Int} {y : ℝ} (h : Encloses v y) : |(v.1 : ℝ) * (2 : ℝ) ^ v.2 - y| ≤ (2 : ℝ) ^ (v.2 + 1) := by
  have hlo : ((v.1 / 2 : Nat) : ℝ) * (2 : ℝ) ^ (v.2 + 1) ≤ y := h.whole_le (by omega)
  have hhi : y ≤ ((v.1 / 2 + 1 : Nat) : ℝ) * (2 : ℝ) ^ (v.2 + 1) := h.le_whole (by omega)
  have hlo' : ((v.1 / 2 : Nat) : ℝ) * (2 : ℝ) ^ (v.2 + 1) ≤ v.1 * (2 : ℝ) ^ v.2 := le_units.2 (by omega)
  have hhi' : (v.1 : ℝ) * (2 : ℝ) ^ v.2 ≤ ((v.1 / 2 + 1 : Nat) : ℝ) * (2 : ℝ) ^ (v.2 + 1) := units_le.2 (by omega)
  rw [Nat.cast_succ, add_one_mul] at hhi hhi'
  rw [abs_le]
  constructor <;> linarith

/-- A root lies in the binade of its sticky number. -/
theorem Encloses.binade {v : Nat × Int} {y : ℝ} (h : Encloses v y) (hv : 2 ≤ v.1) :
    (2 : ℝ) ^ expOf v.1 1 v.2 ≤ y ∧ y < (2 : ℝ) ^ (expOf v.1 1 v.2 + 1) := by
  have hlog : 1 ≤ Nat.log2 v.1 := (Nat.le_log2 (by omega)).2 (by omega)
  have hlow : 2 ^ Nat.log2 v.1 ≤ v.1 := Nat.log2_self_le (by omega)
  have hhigh : v.1 < 2 ^ (Nat.log2 v.1 + 1) := Nat.lt_log2_self
  have hsplit : 2 * 2 ^ (Nat.log2 v.1 - 1) = 2 ^ Nat.log2 v.1 := by rw [← pow_succ', Nat.sub_add_cancel hlog]
  have hexp (j : Nat) (e : Int) (he : e = j + (v.2 + 1)) : (2 : ℝ) ^ e = (2 ^ j : Nat) * (2 : ℝ) ^ (v.2 + 1) := by
    rw [he, ← two_zpow_mul, zpow_natCast]
    push_cast
    rfl
  rw [expOf_one (by omega), hexp (Nat.log2 v.1 - 1) (Nat.log2 v.1 + v.2) (by omega), hexp (Nat.log2 v.1) (Nat.log2 v.1 + v.2 + 1) (by omega)]
  exact ⟨h.whole_le (by omega), h.lt_whole (by omega)⟩

/-- A root whose sticky number has bits enough is rounded as that number is: to the nearest, half a unit away at most. -/
theorem Encloses.half_unit {v : Nat × Int} {y : ℝ} (h : Encloses v y) (hv : 2 ^ 25 ≤ v.1) {neg : Bool} {N : Nat} (hr : RoundsTo neg v.1 v.2 N) :
    (2 * (N : ℝ) - 1) * (2 : ℝ) ^ (ulp32 (expOf v.1 1 v.2) - 1) ≤ y ∧ y ≤ (2 * (N : ℝ) + 1) * (2 : ℝ) ^ (ulp32 (expOf v.1 1 v.2) - 1) := by
  have hlog : 25 ≤ Nat.log2 v.1 := (Nat.le_log2 (by omega)).2 hv
  obtain ⟨j, hj⟩ : ∃ j : Nat, ulp32 (expOf v.1 1 v.2) - 1 = j + (v.2 + 1) := by
    refine ⟨(ulp32 (expOf v.1 1 v.2) - 1 - (v.2 + 1)).toNat, ?_⟩
    rw [ulp32_eq, expOf_one (by omega)]
    omega
  have hwithin := hr.within
  have hdouble : (2 : ℝ) ^ ulp32 (expOf v.1 1 v.2) = 2 * (2 : ℝ) ^ (ulp32 (expOf v.1 1 v.2) - 1) := by
    rw [← zpow_one_add₀ two_ne_zero, add_sub_cancel]
  rw [hdouble] at hwithin
  obtain ⟨h1, h2⟩ := abs_le.1 hwithin
  have hscale (a : ℝ) : a * (2 : ℝ) ^ ((j : Int) + (v.2 + 1)) = a * 2 ^ j * (2 : ℝ) ^ (v.2 + 1) := by rw [← two_zpow_mul, zpow_natCast, mul_assoc]
  rw [hj] at h1 h2 ⊢
  constructor
  · rcases Nat.eq_zero_or_pos N with rfl | hN
    · have hy : 0 ≤ y := (by positivity : (0 : ℝ) ≤ (0 : Nat) * (2 : ℝ) ^ (v.2 + 1)).trans (h.whole_le (Nat.zero_le _))
      have := two_zpow_pos ((j : Int) + (v.2 + 1))
      simp only [Nat.cast_zero]
      linarith
    · have hM : (2 * (N : ℝ) - 1) * 2 ^ j = ((2 * N - 1) * 2 ^ j : Nat) := by
        rw [Nat.cast_mul, Nat.cast_sub (by omega)]
        push_cast
        rfl
      rw [hscale, hM]
      refine h.whole_le ((le_units (x := v.2)).1 ?_)
      rw [← hM, ← hscale]
      linarith
  · have hM : (2 * (N : ℝ) + 1) * 2 ^ j = ((2 * N + 1) * 2 ^ j : Nat) := by push_cast; rfl
    rw [hscale, hM]
    refine h.le_whole ((units_le (x := v.2)).1 ?_)
    rw [← hM, ← hscale]
    linarith

/-! ### The range of the roots of F32 numbers -/

/-- A positive number of F32. -/
theorem f32_pos_range {m : Nat} {e : Int} (hm : 0 < m) (hm24 : m < 2 ^ 24) (hlo : -149 ≤ e) (hhi : e ≤ 104) :
    (2 : ℝ) ^ (-150 : ℤ) ≤ m * (2 : ℝ) ^ e ∧ m * (2 : ℝ) ^ e < (2 : ℝ) ^ (128 : ℤ) := by
  have h1 : (1 : ℝ) ≤ m := by exact_mod_cast hm
  have h24 : (m : ℝ) < (2 : ℝ) ^ (24 : ℤ) := by
    have : (m : ℝ) < ((2 ^ 24 : Nat) : ℝ) := by exact_mod_cast hm24
    refine this.trans_eq ?_
    norm_num
  constructor
  · calc (2 : ℝ) ^ (-150 : ℤ) ≤ 1 * (2 : ℝ) ^ e := by rw [one_mul]; exact zpow_le_zpow_right₀ one_le_two (by omega)
      _ ≤ m * (2 : ℝ) ^ e := mul_le_mul_of_nonneg_right h1 (two_zpow_pos e).le
  · calc m * (2 : ℝ) ^ e < (2 : ℝ) ^ (24 : ℤ) * (2 : ℝ) ^ e := mul_lt_mul_of_pos_right h24 (two_zpow_pos e)
      _ = (2 : ℝ) ^ (24 + e) := two_zpow_mul _ _
      _ ≤ (2 : ℝ) ^ (128 : ℤ) := zpow_le_zpow_right₀ one_le_two (by omega)

theorem f32_sqrt_range {m : Nat} {e : Int} (hm : 0 < m) (hm24 : m < 2 ^ 24) (hlo : -149 ≤ e) (hhi : e ≤ 104) :
    (2 : ℝ) ^ (-75 : ℤ) ≤ √(m * (2 : ℝ) ^ e) ∧ √(m * (2 : ℝ) ^ e) < (2 : ℝ) ^ (64 : ℤ) := by
  obtain ⟨h1, h2⟩ := f32_pos_range hm hm24 hlo hhi
  have e1 : (2 : ℝ) ^ (-75 : ℤ) = √((2 : ℝ) ^ (-150 : ℤ)) := by rw [sqrt_two_zpow (by decide)]; norm_num
  have e2 : (2 : ℝ) ^ (64 : ℤ) = √((2 : ℝ) ^ (128 : ℤ)) := by rw [sqrt_two_zpow (by decide)]; norm_num
  rw [e1, e2]
  exact ⟨Real.sqrt_le_sqrt h1, Real.sqrt_lt_sqrt (two_zpow_pos _ |>.le.trans h1) h2⟩

/-- The sticky number of a root of middle size: its exponent is in range, and it rounds to a finite number. -/
theorem Encloses.in_range {v : Nat × Int} {y : ℝ} (h : Encloses v y) (hv : 2 ≤ v.1) (hlo : (2 : ℝ) ^ (-76 : ℤ) ≤ y) (hhi : y < (2 : ℝ) ^ (76 : ℤ)) :
    -77 < expOf v.1 1 v.2 ∧ expOf v.1 1 v.2 < 76 ∧ v.1 * (2 : ℝ) ^ v.2 ≤ maxF32 := by
  obtain ⟨h1, h2⟩ := h.binade hv
  have k1 := (zpow_lt_zpow_iff_right₀ (one_lt_two (α := ℝ))).1 (hlo.trans_lt h2)
  have k2 := (zpow_lt_zpow_iff_right₀ (one_lt_two (α := ℝ))).1 (h1.trans_lt hhi)
  refine ⟨by omega, k2, ((expOf_binade (by omega) v.2).2.trans_le (zpow_le_zpow_right₀ one_le_two (by omega : _ ≤ (77 : ℤ)))).le.trans ?_⟩
  rw [maxF32]
  norm_num

end Sys2Proof.Machine
end

section
/-! SUPPORT. The special functions as words (R132, R136): what each is on a number, the choice within its bound, and `FSQRT` and `FRSQ` against the real roots. -/

namespace Sys2Proof.Machine

/-! ### The special functions on numbers, and the choice of R136 -/

theorem f32Real_eq_some {x : Nat} {X : ℝ} (h : f32Real x = some X) : ∃ neg m e, fF32.decode x = .num neg m e ∧
    X = (if neg then -1 else 1) * (m * (2 : ℝ) ^ e) := by
  unfold f32Real at h
  split at h
  · next neg m e hd => exact ⟨neg, m, e, hd, by rw [← Option.some_inj.1 h, mul_assoc]⟩
  · cases h

/-- A positive number of F32. -/
theorem f32Real_pos {x : Nat} {X : ℝ} (h : f32Real x = some X) (hX : 0 < X) : ∃ m e, fF32.decode x = .num false m e ∧ 0 < m ∧ X = m * (2 : ℝ) ^ e := by
  obtain ⟨neg, m, e, hd, rfl⟩ := f32Real_eq_some h
  have hpos : 0 ≤ (m : ℝ) * (2 : ℝ) ^ e := by positivity
  cases neg with
  | true => simp only [if_true] at hX; linarith
  | false =>
    refine ⟨m, e, hd, Nat.pos_of_ne_zero fun h0 => ?_, by simp⟩
    simp [h0] at hX

theorem firstNan_single (x : Nat) : fF32.firstNan [x] = if fF32.decode x = .nan then some (x ||| 2 ^ 22) else none := by
  simp only [Fmt.firstNan, beq_iff_eq]
  rfl

theorem toNat_ofNat_lt {n : Nat} (h : n < 2 ^ 32) : (BitVec.ofNat 32 n).toNat = n := by
  rw [BitVec.toNat_ofNat, Nat.mod_eq_of_lt h]

theorem within_toNat (ok : Bool) (x : Word) (neg : Bool) (n d : Nat) (e : Int) :
    (within ok x.toNat (fF32.round .rne false neg n d e)).toNat = if ok then x.toNat else fF32.round .rne false neg n d e := by
  unfold within
  rw [toNat_ofNat_lt]
  split
  · exact x.isLt
  · exact round_lt _ _ _ _

/-- The word of a root. -/
def fsqrt (x : Word) : Word := BitVec.ofNat 32 (fF32.sqrt .rne x.toNat)

section
variable {x : Word} {neg : Bool} {m : Nat} {e : Int} (hd : fF32.decode x.toNat = .num neg m e)
include hd

theorem firstNan_num : fF32.firstNan [x.toNat] = none := by rw [firstNan_single, hd, if_neg (by simp)]

theorem frcp_num (hm : 0 < m) : (frcp x).toNat = fF32.round .rne false neg 1 m (-e) := by
  simp only [frcp, firstNan_num hd, hd, if_neg hm.ne']
  exact toNat_ofNat_lt (round_lt _ _ _ _)

theorem frsq_num (hm : 0 < m) : frsq x = if neg then BitVec.ofNat 32 fF32.nan else
    within (rsqrtNear (Config.frsq x).toNat m e (ulp32 (expOf (rsqrtSticky m e).1 1 (rsqrtSticky m e).2))) (Config.frsq x).toNat
      (fF32.round .rne false false (rsqrtSticky m e).1 1 (rsqrtSticky m e).2) := by
  simp only [frsq, firstNan_num hd, hd, if_neg hm.ne']

theorem fsqrt_num (hm : 0 < m) : (fsqrt x).toNat = if neg then fF32.nan else
    fF32.round .rne false false (sqrtSticky m e).1 1 (sqrtSticky m e).2 := by
  simp only [fsqrt, Fmt.sqrt, firstNan_num hd, hd, if_neg hm.ne']
  rw [toNat_ofNat_lt]
  split
  · decide
  · exact round_lt _ _ _ _

end

/-! ### FSQRT: the root, rounded once -/

theorem sticky_ge (p : Prop) [Decidable p] (r : Nat) : 2 * r ≤ if p then 2 * r else 2 * r + 1 := by
  split <;> omega

theorem sqrtSticky_bits {m : Nat} (hm : 0 < m) (e : Int) : 2 ^ 41 ≤ (sqrtSticky m e).1 := by
  have hn : m * 2 ^ 80 ≤ if e % 2 = 0 then m * 2 ^ 80 else m * 2 ^ 81 := by
    split
    · exact le_refl _
    · exact Nat.mul_le_mul_left m (Nat.pow_le_pow_right two_pos (by omega))
  have hroot : 2 ^ 40 ≤ isqrt (if e % 2 = 0 then m * 2 ^ 80 else m * 2 ^ 81) := by
    rw [isqrt_eq, Nat.le_sqrt, ← pow_add]
    exact (Nat.le_mul_of_pos_left _ hm).trans hn
  exact (by omega : 2 ^ 41 ≤ 2 * isqrt (if e % 2 = 0 then m * 2 ^ 80 else m * 2 ^ 81)).trans (sticky_ge _ _)

theorem fsqrt_near {x : Word} {m : Nat} {e : Int} (hd : fF32.decode x.toNat = .num false m e) (hm : 0 < m) :
    ∃ a b, fF32.decode (fsqrt x).toNat = .num false a b ∧ 0 < a ∧
      ((2 * (a : ℝ) - 1) * (2 : ℝ) ^ (b - 1)) ^ 2 ≤ (m : ℝ) * (2 : ℝ) ^ e ∧ (m : ℝ) * (2 : ℝ) ^ e ≤ ((2 * (a : ℝ) + 1) * (2 : ℝ) ^ (b - 1)) ^ 2 := by
  obtain ⟨hm24, hlo, hhi⟩ := decode_f32_range hd
  obtain ⟨hy1, hy2⟩ := f32_sqrt_range hm hm24 hlo hhi
  have hbits := sqrtSticky_bits hm e
  have henc := sqrtSticky_encloses (m := m) e
  have hsq : (m : ℝ) * (2 : ℝ) ^ e = √(m * (2 : ℝ) ^ e) ^ 2 := (Real.sq_sqrt (by positivity)).symm
  rw [fsqrt_num hd hm, if_neg Bool.false_ne_true, hsq]
  generalize √(m * (2 : ℝ) ^ e) = y at *
  generalize sqrtSticky m e = v at *
  obtain ⟨hk, -, hmax⟩ := henc.in_range (by omega) ((zpow_le_zpow_right₀ one_le_two (by decide)).trans hy1)
    (hy2.trans_le (zpow_le_zpow_right₀ one_le_two (by decide)))
  obtain ⟨N, hr⟩ := roundsTo false (by omega) v.2 hmax
  obtain ⟨h1, h2⟩ := henc.half_unit (by omega) hr
  have hN : 2 ^ 23 ≤ N := hr.normal (by omega)
  have hN1 : (1 : ℝ) ≤ N := by exact_mod_cast (by omega : 1 ≤ N)
  -- from the half unit of the rounding to that of the encoding: the same, or twice as long
  suffices h : ∃ a b, fF32.decode (fF32.round .rne false false v.1 1 v.2) = .num false a b ∧ 0 < a ∧
      (2 * (a : ℝ) - 1) * (2 : ℝ) ^ (b - 1) ≤ y ∧ y ≤ (2 * (a : ℝ) + 1) * (2 : ℝ) ^ (b - 1) by
    obtain ⟨a, b, hab, ha, hlow, hhigh⟩ := h
    have ha1 : (1 : ℝ) ≤ a := by exact_mod_cast ha
    have hnn : 0 ≤ (2 * (a : ℝ) - 1) * (2 : ℝ) ^ (b - 1) := mul_nonneg (by linarith) (two_zpow_pos _).le
    exact ⟨a, b, hab, ha, pow_le_pow_left₀ hnn hlow 2, pow_le_pow_left₀ (hnn.trans hlow) hhigh 2⟩
  rcases hr.decodes with hdec | ⟨hN24, hdec⟩
  · exact ⟨N, _, hdec, by omega, h1, h2⟩
  · refine ⟨2 ^ 23, _, hdec, by norm_num, ?_, ?_⟩
    · refine le_trans ?_ h1
      rw [hN24, add_sub_right_comm, zpow_add_one₀ two_ne_zero]
      have := two_zpow_pos (ulp32 (expOf v.1 1 v.2) - 1)
      push_cast
      linarith
    · refine le_trans h2 ?_
      rw [hN24, add_sub_right_comm, zpow_add_one₀ two_ne_zero]
      have := two_zpow_pos (ulp32 (expOf v.1 1 v.2) - 1)
      push_cast
      linarith

/-! ### FRSQ: within one unit of the reciprocal root -/

theorem rsqrtSticky_bits {m : Nat} (hm : 0 < m) (hm24 : m < 2 ^ 24) (e : Int) : 2 ^ 25 ≤ (rsqrtSticky m e).1 := by
  have hn : 0 < (if e % 2 = 0 then m else 2 * m) ∧ (if e % 2 = 0 then m else 2 * m) ≤ 2 ^ 25 := by
    split <;> omega
  have hroot : 2 ^ 24 ≤ isqrt (2 ^ 160 / (if e % 2 = 0 then m else 2 * m)) := by
    rw [isqrt_eq, Nat.le_sqrt, Nat.le_div_iff_mul_le hn.1]
    calc 2 ^ 24 * 2 ^ 24 * (if e % 2 = 0 then m else 2 * m) ≤ 2 ^ 24 * 2 ^ 24 * 2 ^ 25 := Nat.mul_le_mul_left _ hn.2
      _ ≤ 2 ^ 160 := by norm_num
  exact (by omega : 2 ^ 25 ≤ 2 * isqrt (2 ^ 160 / (if e % 2 = 0 then m else 2 * m))).trans (sticky_ge _ _)

theorem sqAtMost1_spec {c : Int × Int} {m : Nat} {e : Int} (h : sqAtMost1 c m e = true) : dyReal c ≤ 0 ∨ dyReal c * dyReal c * (m * (2 : ℝ) ^ e) ≤ 1 := by
  unfold sqAtMost1 at h
  rw [Bool.or_eq_true, decide_eq_true_eq, decide_eq_true_eq, ← dyReal_nonpos, ← dyReal_nonpos, dyReal_dyAdd, dyReal_dyMul, dyReal_dyMul] at h
  refine h.imp_right fun h => ?_
  have h1 : dyReal ((m : Int), e) = m * (2 : ℝ) ^ e := by simp [dyReal]
  have h2 : dyReal (-1, 0) = -1 := by simp [dyReal]
  rw [h1, h2] at h
  linarith

/-- A pick that passes the check of its neighbours' squares. -/
theorem rsqrtNear_spec {c m : Nat} {e u : Int} (hm : 0 < m) (h : rsqrtNear c m e u = true) :
    ∃ z, f32Real c = some z ∧ |z - 1 / √(m * (2 : ℝ) ^ e)| ≤ (2 : ℝ) ^ u := by
  unfold rsqrtNear at h
  split at h
  · next neg a b hd =>
    refine ⟨_, f32Real_of_num hd, ?_⟩
    simp only [Bool.and_eq_true, decide_eq_true_eq] at h
    obtain ⟨⟨hlow, hup⟩, hhigh⟩ := h
    have hlow := sqAtMost1_spec hlow
    rw [← dyReal_pos] at hup
    rw [← dyReal_nonneg, dyReal_dyAdd, dyReal_dyMul, dyReal_dyMul] at hhigh
    have h1 : dyReal ((m : Int), e) = m * (2 : ℝ) ^ e := by simp [dyReal]
    have h2 : dyReal (-1, 0) = -1 := by simp [dyReal]
    have h3 : dyReal (-1, u) = -(2 : ℝ) ^ u := by simp [dyReal]
    have h4 : dyReal (1, u) = (2 : ℝ) ^ u := by simp [dyReal]
    rw [h1, h2] at hhigh
    rw [dyReal_dyAdd, h3] at hlow
    rw [dyReal_dyAdd, h4] at hup hhigh
    generalize dyReal (FVal.num neg a b).toInt = z at *
    have hX : 0 < (m : ℝ) * (2 : ℝ) ^ e := mul_pos (by exact_mod_cast hm) (two_zpow_pos e)
    have hs : 0 < √((m : ℝ) * (2 : ℝ) ^ e) := Real.sqrt_pos.2 hX
    have hss := Real.mul_self_sqrt hX.le
    generalize √((m : ℝ) * (2 : ℝ) ^ e) = s at *
    have hle : (z - (2 : ℝ) ^ u) * s ≤ 1 := by
      rcases hlow with h0 | h0
      · exact (mul_nonpos_of_nonpos_of_nonneg (by linarith) hs.le).trans zero_le_one
      · refine le_of_abs_le ((sq_le_one_iff_abs_le_one _).1 ?_)
        rw [mul_pow, pow_two, pow_two, hss, sub_eq_add_neg]
        exact h0
    have hge : 1 ≤ (z + (2 : ℝ) ^ u) * s := by
      refine (one_le_sq_iff₀ (mul_pos hup hs).le).1 ?_
      rw [mul_pow, pow_two, pow_two, hss]
      linarith
    rw [abs_le]
    constructor
    · have := (div_le_iff₀ hs).2 hge
      linarith
    · have := (le_div_iff₀ hs).2 hle
      linarith
  · cases h

theorem frsq_near {x : Word} {m : Nat} {e : Int} (hd : fF32.decode x.toNat = .num false m e) (hm : 0 < m) :
    ∃ z, f32Real (frsq x).toNat = some z ∧ ∃ k : ℤ, (2 : ℝ) ^ k ≤ 1 / √(m * (2 : ℝ) ^ e) ∧ 1 / √(m * (2 : ℝ) ^ e) < (2 : ℝ) ^ (k + 1) ∧
      |z - 1 / √(m * (2 : ℝ) ^ e)| ≤ (2 : ℝ) ^ (k - 23) := by
  obtain ⟨hm24, hlo, hhi⟩ := decode_f32_range hd
  obtain ⟨hs1, hs2⟩ := f32_sqrt_range hm hm24 hlo hhi
  have hbits := rsqrtSticky_bits hm hm24 e
  have henc := rsqrtSticky_encloses hm e
  have hs0 : 0 < √(m * (2 : ℝ) ^ e) := (two_zpow_pos _).trans_le hs1
  have hy1 : (2 : ℝ) ^ (-76 : ℤ) ≤ 1 / √(m * (2 : ℝ) ^ e) := by
    rw [le_div_iff₀ hs0]
    calc (2 : ℝ) ^ (-76 : ℤ) * √(m * (2 : ℝ) ^ e) ≤ (2 : ℝ) ^ (-76 : ℤ) * (2 : ℝ) ^ (64 : ℤ) := mul_le_mul_of_nonneg_left hs2.le (two_zpow_pos _).le
      _ ≤ 1 := by rw [two_zpow_mul]; norm_num
  have hy2 : 1 / √(m * (2 : ℝ) ^ e) < (2 : ℝ) ^ (76 : ℤ) := by
    rw [div_lt_iff₀ hs0]
    calc (1 : ℝ) < (2 : ℝ) ^ (76 : ℤ) * (2 : ℝ) ^ (-75 : ℤ) := by rw [two_zpow_mul]; norm_num
      _ ≤ (2 : ℝ) ^ (76 : ℤ) * √(m * (2 : ℝ) ^ e) := mul_le_mul_of_nonneg_left hs1 (two_zpow_pos _).le
  have hnear (c : Nat) (u : Int) := rsqrtNear_spec (c := c) (e := e) (u := u) hm
  rw [frsq_num hd hm, if_neg Bool.false_ne_true, within_toNat]
  generalize 1 / √(m * (2 : ℝ) ^ e) = y at *
  generalize rsqrtSticky m e = v at *
  obtain ⟨hk, -, hmax⟩ := henc.in_range (by omega) hy1 hy2
  obtain ⟨hb1, hb2⟩ := henc.binade (by omega)
  have hulp : ulp32 (expOf v.1 1 v.2) = expOf v.1 1 v.2 - 23 := by rw [ulp32_eq]; omega
  split
  · next hpick =>
    obtain ⟨z, hz, hzy⟩ := hnear _ _ hpick
    exact ⟨z, hz, _, hb1, hb2, hulp ▸ hzy⟩
  · obtain ⟨N, hr⟩ := roundsTo false (by omega) v.2 hmax
    refine ⟨_, hr.real, _, hb1, hb2, ?_⟩
    have hlog : 25 ≤ Nat.log2 v.1 := (Nat.le_log2 (by omega)).2 hbits
    have hsticky : (2 : ℝ) ^ (v.2 + 1) ≤ (2 : ℝ) ^ (expOf v.1 1 v.2 - 23 - 1) :=
      zpow_le_zpow_right₀ one_le_two (by rw [expOf_one (by omega)]; omega)
    have hhalf : (2 : ℝ) ^ (expOf v.1 1 v.2 - 23) = 2 * (2 : ℝ) ^ (expOf v.1 1 v.2 - 23 - 1) := by
      rw [← zpow_one_add₀ two_ne_zero, add_sub_cancel]
    have hround := hr.within
    rw [hulp] at hround ⊢
    rw [if_neg Bool.false_ne_true, one_mul]
    calc |N * (2 : ℝ) ^ (expOf v.1 1 v.2 - 23) - y| ≤
        |N * (2 : ℝ) ^ (expOf v.1 1 v.2 - 23) - v.1 * (2 : ℝ) ^ v.2| + |v.1 * (2 : ℝ) ^ v.2 - y| := abs_sub_le _ _ _
      _ ≤ (2 : ℝ) ^ (expOf v.1 1 v.2 - 23 - 1) + (2 : ℝ) ^ (v.2 + 1) := add_le_add hround henc.near
      _ ≤ (2 : ℝ) ^ (expOf v.1 1 v.2 - 23) := by linarith

/-! ### A pick near a dyadic number -/

theorem nearTo_spec {c : Nat} {v bound : Int × Int} (h : nearTo c v bound = true) : ∃ z, f32Real c = some z ∧ |z - dyReal v| ≤ dyReal bound := by
  unfold nearTo at h
  split at h
  · next neg m e hd =>
    refine ⟨_, f32Real_of_num hd, ?_⟩
    unfold dyWithin at h
    have habs (d : Int × Int) : dyReal ((d.1.natAbs : Int), d.2) = |dyReal d| := by
      simp [dyReal, abs_mul, abs_of_pos (two_zpow_pos d.2)]
    have hneg : dyReal (-1, 0) = -1 := by simp [dyReal]
    rw [decide_eq_true_eq, ← dyReal_nonpos, dyReal_dyAdd, habs, dyReal_dyAdd, dyReal_dyMul, dyReal_dyMul, hneg] at h
    rw [sub_eq_add_neg, ← neg_one_mul (dyReal v)]
    linarith
  · cases h

end Sys2Proof.Machine
end

section
/-! SUPPORT. `FEX2` and `FLG2` (R136; log entry 68): the model's enclosures of a power and of a logarithm, and the functions against them. -/

namespace Sys2Proof.Machine

/-! ### FEX2: the enclosure of a power of two -/

theorem exp2Go_zero (k root acc : Nat) : exp2Go k 0 root acc = acc := by
  induction k generalizing root acc with
  | zero => rfl
  | succ k ih =>
    unfold exp2Go
    rw [Nat.zero_mod, Nat.zero_div]
    exact ih _ _

/-- A root of a number above 2^120, in units of 2^-120. -/
theorem isqrt_scaled_ge {root : Nat} (h : 2 ^ 120 ≤ root) : 2 ^ 120 ≤ isqrt (root * 2 ^ 120) := by
  rw [isqrt_eq, Nat.le_sqrt]
  exact Nat.mul_le_mul_right _ h

theorem exp2Go_ge (k f : Nat) {root : Nat} (h : 2 ^ 120 ≤ root) (acc : Nat) : acc ≤ exp2Go k f root acc := by
  induction k generalizing f root acc with
  | zero => exact le_refl _
  | succ k ih =>
    unfold exp2Go
    have hr := isqrt_scaled_ge h
    refine le_trans ?_ (ih _ hr _)
    split
    · rw [Nat.le_div_iff_mul_le (by norm_num)]
      exact Nat.mul_le_mul_left _ hr
    · exact le_refl _

/-- The enclosure from above: 2^(f/2^k) of the root that stands before the bits of `f`. -/
theorem exp2Go_le (k f : Nat) (hf : f < 2 ^ k) {root : Nat} (h : 2 ^ 120 ≤ root) (acc : Nat) :
    (exp2Go k f root acc : ℝ) ≤ acc * ((root : ℝ) / 2 ^ 120) ^ ((f : ℝ) / 2 ^ k) := by
  induction k generalizing f root acc with
  | zero =>
    have : f = 0 := by omega
    simp [this, exp2Go]
  | succ k ih =>
    have hr := isqrt_scaled_ge h
    have hroot : ((isqrt (root * 2 ^ 120) : Nat) : ℝ) / 2 ^ 120 ≤ √((root : ℝ) / 2 ^ 120) := by
      rw [div_le_iff₀ (by positivity), isqrt_eq]
      refine Real.nat_sqrt_le_real_sqrt.trans (le_of_eq ?_)
      have hscale : ((root * 2 ^ 120 : Nat) : ℝ) = root / 2 ^ 120 * (2 ^ 120) ^ 2 := by
        push_cast
        ring
      rw [hscale, Real.sqrt_mul (by positivity), Real.sqrt_sq (by positivity)]
    unfold exp2Go
    dsimp only
    refine (ih _ (Nat.mod_lt _ (by positivity)) hr _).trans ?_
    have hρ : 0 < (root : ℝ) / 2 ^ 120 := div_pos (by exact_mod_cast lt_of_lt_of_le (by norm_num) h) (by positivity)
    have hf' : f = f / 2 ^ k * 2 ^ k + f % 2 ^ k := by rw [mul_comm, Nat.div_add_mod]
    have hbit : f / 2 ^ k < 2 := (Nat.div_lt_iff_lt_mul (by positivity)).2 (by rwa [mul_comm, ← pow_succ])
    generalize isqrt (root * 2 ^ 120) = r at *
    generalize (root : ℝ) / 2 ^ 120 = ρ at *
    generalize f % 2 ^ k = f0 at *
    have hR : 0 ≤ (r : ℝ) / 2 ^ 120 := by positivity
    have hpow {t : ℝ} (ht : 0 ≤ t) : ((r : ℝ) / 2 ^ 120) ^ t ≤ ρ ^ (t / 2) := by
      refine (Real.rpow_le_rpow hR hroot ht).trans (le_of_eq ?_)
      rw [Real.sqrt_eq_rpow, ← Real.rpow_mul hρ.le]
      congr 1
      ring
    have hexp : (f : ℝ) / 2 ^ (k + 1) = (f / 2 ^ k : Nat) / 2 + (f0 : ℝ) / 2 ^ k / 2 := by
      conv_lhs => rw [hf']
      push_cast
      rw [pow_succ]
      field_simp
    have hrest := hpow (t := (f0 : ℝ) / 2 ^ k) (by positivity)
    rw [hexp, Real.rpow_add hρ]
    generalize f / 2 ^ k = b at *
    interval_cases b
    · simpa using mul_le_mul_of_nonneg_left hrest (Nat.cast_nonneg acc)
    · have hacc : ((acc * r / 2 ^ 120 : Nat) : ℝ) ≤ acc * ρ ^ ((1 : ℝ) / 2) := by
        have hone := hpow zero_le_one
        rw [Real.rpow_one] at hone
        calc ((acc * r / 2 ^ 120 : Nat) : ℝ) ≤ ((acc * r : Nat) : ℝ) / (2 ^ 120 : Nat) := Nat.cast_div_le
          _ = acc * (r / 2 ^ 120) := by push_cast; ring
          _ ≤ acc * ρ ^ ((1 : ℝ) / 2) := mul_le_mul_of_nonneg_left hone (Nat.cast_nonneg acc)
      rw [if_pos rfl, Nat.cast_one, ← mul_assoc]
      exact mul_le_mul hacc hrest (Real.rpow_nonneg hR _) (mul_nonneg (Nat.cast_nonneg acc) (Real.rpow_nonneg hρ.le _))

/-- A power just below 2: 2^(1 - 2^-17) is below the greatest number of its binade. -/
theorem two_rpow_lt {t : ℝ} (ht : t ≤ 1 - 1 / 2 ^ 17) : (2 : ℝ) ^ t ≤ 2 * (1 - 1 / 2 ^ 24) := by
  have hbern : (1 / 2 : ℝ) ≤ (1 - 1 / 2 ^ 24) ^ (2 ^ 17) := by
    have := one_add_mul_le_pow (a := -(1 / 2 ^ 24 : ℝ)) (by norm_num) (2 ^ 17)
    refine le_trans ?_ (this.trans_eq (by rw [← sub_eq_add_neg]))
    norm_num
  have hroot : (1 / 2 : ℝ) ^ ((1 : ℝ) / 2 ^ 17) ≤ 1 - 1 / 2 ^ 24 := by
    refine (Real.rpow_le_rpow (by norm_num) hbern (by positivity)).trans (le_of_eq ?_)
    rw [← Real.rpow_natCast, ← Real.rpow_mul (by norm_num)]
    norm_num
  calc (2 : ℝ) ^ t ≤ (2 : ℝ) ^ (1 - 1 / 2 ^ 17 : ℝ) := Real.rpow_le_rpow_of_exponent_le one_le_two ht
    _ = 2 * (1 / 2 : ℝ) ^ ((1 : ℝ) / 2 ^ 17) := by
      rw [Real.rpow_sub two_pos, Real.rpow_one, one_div (2 : ℝ), Real.inv_rpow two_pos.le, div_eq_mul_inv]
    _ ≤ 2 * (1 - 1 / 2 ^ 24) := by linarith

/-- The fixed-point operand of the enclosure, 60 bits below the point. -/
def exp2Arg (neg : Bool) (m : Nat) (e : Int) : Int := (FVal.num neg m e).toInt.1 * 2 ^ (e + 60).toNat

theorem exp2Dy_eq (neg : Bool) (m : Nat) (e : Int) : exp2Dy neg m e = (if expOf m 1 e < -24 then (if neg then 2 ^ 26 - 1 else 2 ^ 26 + 1, -26)
    else (((exp2Go 60 (exp2Arg neg m e % 2 ^ 60).toNat (2 ^ 121) (2 ^ 120) : Nat) : Int), exp2Arg neg m e / 2 ^ 60 - 120) : Int × Int) := rfl

theorem exp2Dy_pos (neg : Bool) (m : Nat) (e : Int) : 0 < (exp2Dy neg m e).1 := by
  rw [exp2Dy_eq]
  split
  · cases neg <;> norm_num
  · have := exp2Go_ge 60 (exp2Arg neg m e % 2 ^ 60).toNat (root := 2 ^ 121) (Nat.pow_le_pow_right two_pos (by omega)) (2 ^ 120)
    exact Int.natCast_pos.2 (lt_of_lt_of_le (by norm_num) this)

/-- What the enclosure gives is at most the power itself. -/
theorem exp2Go_rpow (f : Nat) (hf : f < 2 ^ 60) : (exp2Go 60 f (2 ^ 121) (2 ^ 120) : ℝ) ≤ 2 ^ 120 * (2 : ℝ) ^ ((f : ℝ) / 2 ^ 60) := by
  have h := exp2Go_le 60 f hf (root := 2 ^ 121) (Nat.pow_le_pow_right two_pos (by omega)) (2 ^ 120)
  have h2 : ((2 ^ 121 : Nat) : ℝ) / 2 ^ 120 = 2 := by norm_num
  rw [h2] at h
  exact_mod_cast h

/-- An operand below 128 is at most 128 - 2^-17, in fixed point. -/
theorem exp2Arg_lt {neg : Bool} {m : Nat} {e : Int} (hm : 0 < m) (hm24 : m < 2 ^ 24) (h24 : -24 ≤ expOf m 1 e) (h7 : expOf m 1 e < 7) :
    exp2Arg neg m e / 2 ^ 60 ≤ 126 ∨ exp2Arg neg m e / 2 ^ 60 = 127 ∧ exp2Arg neg m e % 2 ^ 60 ≤ 2 ^ 60 - 2 ^ 43 := by
  have hlog : Nat.log2 m < 24 := (Nat.log2_lt hm.ne').2 hm24
  rw [expOf_one hm] at h24 h7
  obtain ⟨j, hj⟩ : ∃ j : Nat, (e + 60).toNat = j ∧ (j : Int) = e + 60 := ⟨_, rfl, Int.toNat_of_nonneg (by omega)⟩
  cases neg with
  | true =>
    left
    have : exp2Arg true m e ≤ 0 := by
      simp only [exp2Arg, FVal.toInt, if_true, neg_mul]
      have : (0 : Int) ≤ m * 2 ^ (e + 60).toNat := by positivity
      omega
    omega
  | false =>
    have harg : exp2Arg false m e = (m * 2 ^ j : Nat) := by simp [exp2Arg, FVal.toInt, hj.1]
    have hlt : m < 2 ^ (Nat.log2 m + 1) := Nat.lt_log2_self
    rw [harg]
    by_cases hbig : 43 ≤ j
    · have hprod : m * 2 ^ j < 2 ^ 67 := by
        calc m * 2 ^ j < 2 ^ (Nat.log2 m + 1) * 2 ^ j := Nat.mul_lt_mul_of_pos_right hlt (by positivity)
          _ = 2 ^ (Nat.log2 m + 1 + j) := (pow_add _ _ _).symm
          _ ≤ 2 ^ 67 := Nat.pow_le_pow_right two_pos (by omega)
      have hmul : m * 2 ^ j = m * 2 ^ (j - 43) * 2 ^ 43 := by rw [mul_assoc, ← pow_add, Nat.sub_add_cancel hbig]
      rw [hmul] at hprod ⊢
      generalize m * 2 ^ (j - 43) = a at *
      omega
    · left
      have hprod : m * 2 ^ j < 2 ^ 66 := by
        calc m * 2 ^ j < 2 ^ 24 * 2 ^ j := Nat.mul_lt_mul_of_pos_right hm24 (by positivity)
          _ = 2 ^ (24 + j) := (pow_add _ _ _).symm
          _ ≤ 2 ^ 66 := Nat.pow_le_pow_right two_pos (by omega)
      generalize m * 2 ^ j = a at *
      omega

theorem exp2Dy_le {neg : Bool} {m : Nat} {e : Int} (hm : 0 < m) (hm24 : m < 2 ^ 24) (h7 : expOf m 1 e < 7) : dyReal (exp2Dy neg m e) ≤ maxF32 := by
  rw [exp2Dy_eq]
  split
  · cases neg <;> norm_num [dyReal, maxF32]
  · next h24 =>
    have hlt := Int.emod_lt_of_pos (exp2Arg neg m e) (by norm_num : (0 : Int) < 2 ^ 60)
    have hge := Int.emod_nonneg (exp2Arg neg m e) (by norm_num : (2 ^ 60 : Int) ≠ 0)
    have hcase := exp2Arg_lt (neg := neg) hm hm24 (not_lt.1 h24) h7
    have hgo := exp2Go_rpow (exp2Arg neg m e % 2 ^ 60).toNat (by omega)
    have hf : (((exp2Arg neg m e % 2 ^ 60).toNat : Nat) : ℝ) = ((exp2Arg neg m e % 2 ^ 60 : Int) : ℝ) := by
      exact_mod_cast congrArg (Int.cast (R := ℝ)) (Int.toNat_of_nonneg hge)
    rw [hf] at hgo
    generalize exp2Go 60 (exp2Arg neg m e % 2 ^ 60).toNat (2 ^ 121) (2 ^ 120) = v at *
    generalize exp2Arg neg m e / 2 ^ 60 = q at *
    generalize exp2Arg neg m e % 2 ^ 60 = f at *
    have hv {c : ℝ} {k : Int} (hc : (2 : ℝ) ^ ((f : ℝ) / 2 ^ 60) ≤ c) (hq : q ≤ k) (hk : c * (2 : ℝ) ^ k ≤ maxF32) : dyReal ((v : Int), q - 120) ≤ maxF32 := by
      refine le_trans ?_ hk
      have hc0 : 0 ≤ c := (Real.rpow_nonneg two_pos.le _).trans hc
      calc dyReal ((v : Int), q - 120) = v * (2 : ℝ) ^ (q - 120) := by simp [dyReal]
        _ ≤ 2 ^ 120 * c * (2 : ℝ) ^ (q - 120) :=
          mul_le_mul_of_nonneg_right (hgo.trans (mul_le_mul_of_nonneg_left hc (by positivity))) (two_zpow_pos _).le
        _ = c * (2 : ℝ) ^ q := by
          rw [← zpow_natCast (2 : ℝ) 120, mul_comm _ c, mul_assoc, two_zpow_mul]
          norm_num
        _ ≤ c * (2 : ℝ) ^ k := mul_le_mul_of_nonneg_left (zpow_le_zpow_right₀ one_le_two hq) hc0
    rcases hcase with h126 | ⟨h127, hf43⟩
    · refine hv (c := 2) (k := 126) ?_ h126 (by rw [maxF32]; norm_num)
      calc (2 : ℝ) ^ ((f : ℝ) / 2 ^ 60) ≤ (2 : ℝ) ^ (1 : ℝ) := by
            refine Real.rpow_le_rpow_of_exponent_le one_le_two ((div_le_one (by positivity)).2 ?_)
            exact_mod_cast hlt.le
        _ = 2 := Real.rpow_one 2
    · refine hv (c := 2 * (1 - 1 / 2 ^ 24)) (k := 127) (two_rpow_lt ?_) h127.le (by rw [maxF32]; norm_num)
      rw [div_le_iff₀ (by positivity)]
      have : (f : ℝ) ≤ 2 ^ 60 - 2 ^ 43 := by exact_mod_cast hf43
      refine this.trans (le_of_eq ?_)
      norm_num

/-- Of a whole operand the enclosure gives the power exactly. -/
theorem exp2Dy_whole {neg : Bool} {m : Nat} {e n : Int} (h24 : -24 ≤ expOf m 1 e) (harg : exp2Arg neg m e = n * 2 ^ 60) :
    exp2Dy neg m e = (2 ^ 120, n - 120) := by
  rw [exp2Dy_eq, if_neg (not_lt.2 h24), harg, Int.mul_emod_left, Int.mul_ediv_cancel _ (by norm_num), Int.toNat_zero, exp2Go_zero]
  norm_num

theorem fex2_num {x : Word} {neg : Bool} {m : Nat} {e : Int} (hd : fF32.decode x.toNat = .num neg m e) (hm : 0 < m)
    (hk : expOf m 1 e < 7 ∨ neg = true ∧ expOf m 1 e < 8) : fex2 x =
    within (nearTo (Config.fex2 x).toNat (exp2Dy neg m e) (2, ulp32 (expOf (exp2Dy neg m e).1.toNat 1 (exp2Dy neg m e).2))) (Config.fex2 x).toNat
      (fF32.round .rne false false (exp2Dy neg m e).1.toNat 1 (exp2Dy neg m e).2) := by
  have h1 : (decide (7 ≤ expOf m 1 e) && !neg) = false := by
    rcases hk with h | ⟨h, -⟩
    · simp [not_le.2 h]
    · simp [h]
  have h2 : (decide (7 ≤ expOf m 1 e) && decide (8 ≤ expOf m 1 e)) = false := by
    have : ¬8 ≤ expOf m 1 e := by omega
    simp [this]
  simp only [fex2, firstNan_num hd, hd, if_neg hm.ne', h1, h2, Bool.false_eq_true, if_false]

/-- `FEX2` is within two units of what the model encloses. -/
theorem fex2_near {x : Word} {neg : Bool} {m : Nat} {e : Int} (hd : fF32.decode x.toNat = .num neg m e) (hm : 0 < m)
    (hk : expOf m 1 e < 7 ∨ neg = true ∧ expOf m 1 e < 8) (hmax : dyReal (exp2Dy neg m e) ≤ maxF32) :
    ∃ z, f32Real (fex2 x).toNat = some z ∧
      |z - dyReal (exp2Dy neg m e)| ≤ 2 * (2 : ℝ) ^ ulp32 (expOf (exp2Dy neg m e).1.toNat 1 (exp2Dy neg m e).2) := by
  have hpos := exp2Dy_pos neg m e
  rw [fex2_num hd hm hk, within_toNat]
  generalize exp2Dy neg m e = v at *
  split
  · next hpick =>
    obtain ⟨z, hz, hzv⟩ := nearTo_spec hpick
    exact ⟨z, hz, by simpa [dyReal] using hzv⟩
  · have hval : dyReal v = v.1.toNat * (2 : ℝ) ^ v.2 := by
      have : ((v.1.toNat : Nat) : Int) = v.1 := Int.toNat_of_nonneg hpos.le
      rw [dyReal]
      congr 1
      exact_mod_cast congrArg (Int.cast (R := ℝ)) this.symm
    rw [hval] at hmax ⊢
    obtain ⟨N, hr⟩ := roundsTo false (by omega) v.2 hmax
    refine ⟨_, hr.real, ?_⟩
    rw [if_neg Bool.false_ne_true, one_mul]
    refine hr.within.trans ?_
    have hle : (2 : ℝ) ^ (ulp32 (expOf v.1.toNat 1 v.2) - 1) ≤ (2 : ℝ) ^ ulp32 (expOf v.1.toNat 1 v.2) := zpow_le_zpow_right₀ one_le_two (by omega)
    have := two_zpow_pos (ulp32 (expOf v.1.toNat 1 v.2))
    linarith

/-- `FEX2` of a whole number. -/
theorem fex2_whole {x : Word} {n : Int} (hx : f32Real x.toNat = some (n : ℝ)) (hlo : -149 ≤ n) (hhi : n < 128) :
    ∃ z, f32Real (fex2 x).toNat = some z ∧ |z - (2 : ℝ) ^ n| ≤ 2 * (2 : ℝ) ^ max (n - 23) (-149) := by
  obtain ⟨neg, m, e, hd, hval⟩ := f32Real_eq_some hx
  obtain ⟨hm24, -, -⟩ := decode_f32_range hd
  rcases Nat.eq_zero_or_pos m with rfl | hm
  · have hn : n = 0 := by simpa using hval
    have hone : fex2 x = 0x3F800000#32 := by simp [fex2, firstNan_num hd, hd]
    have hdec : fF32.decode (0x3F800000#32).toNat = .num false (2 ^ 23) (-23) := by decide
    rw [hone, hn]
    refine ⟨_, f32Real_of_num hdec, ?_⟩
    norm_num [dyReal, FVal.toInt]
  · obtain ⟨hb1, hb2⟩ := expOf_binade hm e
    have habs : (m : ℝ) * (2 : ℝ) ^ e = ((n.natAbs : Nat) : ℝ) := by
      have hpos : 0 ≤ (m : ℝ) * (2 : ℝ) ^ e := by positivity
      rw [Nat.cast_natAbs, Int.cast_abs, hval]
      cases neg <;> simp [abs_of_nonneg hpos]
    have hn0 : 1 ≤ n.natAbs := by
      have : (0 : ℝ) < (n.natAbs : Nat) := by rw [← habs]; exact mul_pos (by exact_mod_cast hm) (two_zpow_pos e)
      exact_mod_cast this
    rw [habs] at hb1 hb2
    have hk0 : 0 < expOf m 1 e + 1 := by
      refine (zpow_lt_zpow_iff_right₀ (one_lt_two (α := ℝ))).1 (lt_of_le_of_lt ?_ hb2)
      rw [zpow_zero]
      exact_mod_cast hn0
    have hk {j : Nat} (hj : n.natAbs < 2 ^ j) : expOf m 1 e < j := by
      refine (zpow_lt_zpow_iff_right₀ (one_lt_two (α := ℝ))).1 (lt_of_le_of_lt hb1 ?_)
      rw [zpow_natCast]
      exact_mod_cast hj
    have hbig : expOf m 1 e < 7 ∨ neg = true ∧ expOf m 1 e < 8 := by
      cases neg with
      | true => exact .inr ⟨rfl, hk (j := 8) (by omega)⟩
      | false =>
        have : (0 : ℝ) ≤ n := by rw [hval]; simp; positivity
        have : 0 ≤ n := by exact_mod_cast this
        exact .inl (hk (j := 7) (by omega))
    have hlog : Nat.log2 m < 24 := (Nat.log2_lt hm.ne').2 hm24
    have he := expOf_one hm e
    have harg : exp2Arg neg m e = n * 2 ^ 60 := by
      have : ((exp2Arg neg m e : Int) : ℝ) = ((n * 2 ^ 60 : Int) : ℝ) := by
        have hsplit : (2 : ℝ) ^ (e + 60).toNat = (2 : ℝ) ^ e * 2 ^ 60 := by
          rw [two_zpow_toNat (by omega), ← two_zpow_mul]
          norm_num
        push_cast [exp2Arg, FVal.toInt]
        rw [hsplit, hval]
        cases neg <;> simp <;> ring
      exact_mod_cast this
    have hv := exp2Dy_whole (by omega) harg
    have hpow : dyReal (exp2Dy neg m e) = (2 : ℝ) ^ n := by
      rw [hv]
      have hscale : ((2 ^ 120 : Int) : ℝ) = (2 : ℝ) ^ (120 : ℤ) := by norm_num
      rw [dyReal, hscale, two_zpow_mul, add_sub_cancel]
    have hexp : expOf (exp2Dy neg m e).1.toNat 1 (exp2Dy neg m e).2 = n := by
      have htop : (2 ^ 120 : Int).toNat = 2 ^ 120 := rfl
      rw [hv, htop, expOf_one (by positivity), Nat.log2_two_pow]
      omega
    obtain ⟨z, hz, hzv⟩ := fex2_near hd hm hbig (by
      rw [hpow, maxF32]
      refine (zpow_le_zpow_right₀ one_le_two (by omega : n ≤ 127)).trans ?_
      norm_num)
    rw [hpow, hexp, ulp32_eq] at hzv
    exact ⟨z, hz, hzv⟩

/-! ### FLG2 of a power of two -/

theorem log2Go_one (k : Nat) : log2Go k (2 ^ 120) 0 = 0 := by
  induction k with
  | zero => rfl
  | succ k ih =>
    have hsq : 2 ^ 120 * 2 ^ 120 / 2 ^ 120 = 2 ^ 120 := Nat.mul_div_cancel _ (by norm_num)
    unfold log2Go
    dsimp only
    rw [hsq, if_neg (by norm_num)]
    exact ih

/-- The logarithm that the model encloses, 100 bits below the point. -/
def log2Fix (m : Nat) (e : Int) : Int := ((Nat.log2 m : Int) + e) * 2 ^ 100 + (log2Go 100 (m * 2 ^ 120 / 2 ^ Nat.log2 m) 0 : Nat)

theorem flg2_num {x : Word} {m : Nat} {e : Int} (hd : fF32.decode x.toNat = .num false m e) (hm : 0 < m) : flg2 x =
    within (nearTo (Config.flg2 x).toNat (log2Fix m e, -100) (if (0x3F000000 ≤ x.toNat && x.toNat ≤ 0x40000000) = true then (1, -22) else
      (2, ulp32 (expOf (log2Fix m e).natAbs 1 (-100))))) (Config.flg2 x).toNat
      (fF32.round .rne false (decide (log2Fix m e < 0)) (log2Fix m e).natAbs 1 (-100)) := by
  simp only [flg2, firstNan_num hd, hd, if_neg hm.ne', Bool.false_eq_true, if_false]
  rfl

/-- A power of two of F32: its significand is one too, and its binary exponent is the logarithm. -/
theorem f32_power {m : Nat} {e n : Int} (hm : 0 < m) (h : m * (2 : ℝ) ^ e = (2 : ℝ) ^ n) : m = 2 ^ Nat.log2 m ∧ n = Nat.log2 m + e := by
  obtain ⟨hb1, hb2⟩ := expOf_binade hm e
  rw [h] at hb1 hb2
  have hn : n = Nat.log2 m + e := by
    rw [← expOf_one hm e]
    exact (binade_unique hb1 hb2 le_rfl (zpow_lt_zpow_right₀ one_lt_two (lt_add_one n))).symm
  refine ⟨?_, hn⟩
  rw [hn, ← two_zpow_mul, zpow_natCast] at h
  exact_mod_cast mul_right_cancel₀ (two_zpow_pos e).ne' h

/-- The powers of two in [0.5, 2] are those of the exponents -1 to 1. -/
theorem f32_near_one {x : Nat} {m : Nat} {e : Int} (hx : x < 2 ^ 32) (hd : fF32.decode x = .num false m e) (hm : 0 < m) (hpow : m = 2 ^ Nat.log2 m) :
    (0x3F000000 ≤ x && x ≤ 0x40000000) = true ↔ -1 ≤ Nat.log2 m + e ∧ Nat.log2 m + e ≤ 1 := by
  rw [Bool.and_eq_true, decide_eq_true_eq, decide_eq_true_eq]
  rw [decode_f32] at hd
  split at hd
  · split at hd <;> cases hd
  · split at hd
    · simp only [FVal.num.injEq, beq_eq_false_iff_ne, ne_eq] at hd
      obtain ⟨hs, rfl, rfl⟩ := hd
      have hlog : Nat.log2 (x % 2 ^ 23) < 23 := (Nat.log2_lt hm.ne').2 (by omega)
      omega
    · simp only [FVal.num.injEq, beq_eq_false_iff_ne, ne_eq] at hd
      obtain ⟨hs, rfl, rfl⟩ := hd
      have hlog : Nat.log2 (2 ^ 23 + x % 2 ^ 23) = 23 := by
        have h1 := (Nat.le_log2 hm.ne').2 (by omega : 2 ^ 23 ≤ 2 ^ 23 + x % 2 ^ 23)
        have h2 := (Nat.log2_lt hm.ne').2 (by omega : 2 ^ 23 + x % 2 ^ 23 < 2 ^ 24)
        omega
      rw [hlog] at hpow ⊢
      omega

theorem fixed_cancel (a : ℝ) : a * 2 ^ 100 * (2 : ℝ) ^ (-100 : ℤ) = a := by
  rw [mul_assoc]
  norm_num

theorem expOf_fixed {a : Nat} (ha : 0 < a) : expOf (a * 2 ^ 100) 1 (-100) = Nat.log2 a := by
  have hpos : 0 < a * 2 ^ 100 := Nat.mul_pos ha (by norm_num)
  have hval : ((a * 2 ^ 100 : Nat) : ℝ) * (2 : ℝ) ^ (-100 : ℤ) = a * (2 : ℝ) ^ (0 : ℤ) := by
    rw [Nat.cast_mul, Nat.cast_pow, Nat.cast_ofNat, fixed_cancel, zpow_zero, mul_one]
  have h := expOf_binade hpos (-100)
  rw [hval] at h
  obtain ⟨h1, h2⟩ := expOf_binade ha 0
  rw [binade_unique h.1 h.2 h1 h2, expOf_one ha, add_zero]

/-- `FLG2` of a power of two. -/
theorem flg2_power {x : Word} {n : Int} (hx : f32Real x.toNat = some ((2 : ℝ) ^ n)) : ∃ z, f32Real (flg2 x).toNat = some z ∧
    |z - n| ≤ if -1 ≤ n ∧ n ≤ 1 then (2 : ℝ) ^ (-22 : ℤ) else 2 * (2 : ℝ) ^ ((Nat.log2 n.natAbs : ℤ) - 23) := by
  obtain ⟨m, e, hd, hm, hval⟩ := f32Real_pos hx (two_zpow_pos n)
  obtain ⟨hm24, he1, he2⟩ := decode_f32_range hd
  obtain ⟨hpow, hn⟩ := f32_power hm hval.symm
  have hlog : Nat.log2 m < 24 := (Nat.log2_lt hm.ne').2 hm24
  have hnear : (0x3F000000 ≤ x.toNat && x.toNat ≤ 0x40000000) = true ↔ -1 ≤ n ∧ n ≤ 1 := hn ▸ f32_near_one x.isLt hd hm hpow
  have hfix : log2Fix m e = n * 2 ^ 100 := by
    have hone : m * 2 ^ 120 / 2 ^ Nat.log2 m = 2 ^ 120 := by
      conv_lhs => rw [hpow, Nat.log2_two_pow]
      exact Nat.mul_div_cancel_left _ (by positivity)
    rw [log2Fix, hone, log2Go_one, ← hn, Nat.cast_zero, add_zero]
  have hreal : dyReal (n * 2 ^ 100, -100) = n := by
    rw [dyReal, Int.cast_mul, Int.cast_pow, Int.cast_ofNat, fixed_cancel]
  have habs : (n * 2 ^ 100).natAbs = n.natAbs * 2 ^ 100 := by rw [Int.natAbs_mul]; rfl
  have hulp (h0 : n ≠ 0) : ulp32 (expOf (n * 2 ^ 100).natAbs 1 (-100)) = Nat.log2 n.natAbs - 23 := by
    rw [habs, expOf_fixed (Int.natAbs_pos.2 h0), ulp32_eq]
    omega
  have hbound : dyReal (if (0x3F000000 ≤ x.toNat && x.toNat ≤ 0x40000000) = true then (1, -22) else
      (2, ulp32 (expOf (n * 2 ^ 100).natAbs 1 (-100)))) = if -1 ≤ n ∧ n ≤ 1 then (2 : ℝ) ^ (-22 : ℤ) else 2 * (2 : ℝ) ^ ((Nat.log2 n.natAbs : ℤ) - 23) := by
    rw [if_congr hnear rfl rfl]
    split
    · simp [dyReal]
    · next h =>
      rw [hulp (by omega)]
      simp [dyReal]
  rw [flg2_num hd hm, within_toNat, hfix, ← hbound]
  generalize (if (0x3F000000 ≤ x.toNat && x.toNat ≤ 0x40000000) = true then ((1, -22) : Int × Int) else
    (2, ulp32 (expOf (n * 2 ^ 100).natAbs 1 (-100)))) = bound at *
  split
  · next hpick =>
    obtain ⟨z, hz, hzn⟩ := nearTo_spec hpick
    exact ⟨z, hz, hreal ▸ hzn⟩
  · rcases eq_or_ne n 0 with rfl | h0
    · have hzero : fF32.round .rne false (decide ((0 : Int) * 2 ^ 100 < 0)) ((0 : Int) * 2 ^ 100).natAbs 1 (-100) = 0 := by
        rw [zero_mul]
        rfl
      have hdec : fF32.decode 0 = .num false 0 (-149) := rfl
      rw [hzero, hbound]
      refine ⟨_, f32Real_of_num hdec, ?_⟩
      norm_num [dyReal, FVal.toInt]
    · have hpos : 0 < (n * 2 ^ 100).natAbs := by rw [habs]; exact Nat.mul_pos (Int.natAbs_pos.2 h0) (by norm_num)
      have hmag : ((n * 2 ^ 100).natAbs : ℝ) * (2 : ℝ) ^ (-100 : ℤ) = n.natAbs := by
        rw [habs, Nat.cast_mul, Nat.cast_pow, Nat.cast_ofNat, fixed_cancel]
      have hsmall : ((n.natAbs : Nat) : ℝ) ≤ (149 : Nat) := by exact_mod_cast (by omega : n.natAbs ≤ 149)
      obtain ⟨N, hr⟩ := roundsTo (decide (n * 2 ^ 100 < 0)) hpos (-100) (by
        rw [hmag, maxF32]
        refine hsmall.trans ?_
        norm_num)
      refine ⟨_, hr.real, ?_⟩
      have hwithin := hr.within
      rw [hmag, hulp h0] at hwithin
      rw [hulp h0]
      have hdist : |(if decide (n * 2 ^ 100 < 0) = true then -1 else 1) * ((N : ℝ) * (2 : ℝ) ^ ((Nat.log2 n.natAbs : ℤ) - 23)) - n| =
          |(N : ℝ) * (2 : ℝ) ^ ((Nat.log2 n.natAbs : ℤ) - 23) - n.natAbs| := by
        have hsign : decide (n * 2 ^ 100 < 0) = true ↔ n < 0 := by rw [decide_eq_true_eq]; omega
        rw [if_congr hsign rfl rfl, Nat.cast_natAbs, Int.cast_abs]
        split
        · next hneg =>
          rw [abs_of_neg (Int.cast_lt_zero.2 hneg : (n : ℝ) < 0), ← abs_neg]
          congr 1
          ring
        · next hnn => rw [abs_of_nonneg (Int.cast_nonneg (not_lt.1 hnn) : (0 : ℝ) ≤ n), one_mul]
      rw [hdist, hbound]
      refine hwithin.trans ?_
      split
      · have : n.natAbs = 1 := by omega
        rw [this]
        exact zpow_le_zpow_right₀ one_le_two (by decide)
      · have hle : (2 : ℝ) ^ ((Nat.log2 n.natAbs : ℤ) - 23 - 1) ≤ (2 : ℝ) ^ ((Nat.log2 n.natAbs : ℤ) - 23) := zpow_le_zpow_right₀ one_le_two (by omega)
        have := two_zpow_pos ((Nat.log2 n.natAbs : ℤ) - 23)
        linarith

end Sys2Proof.Machine
end

section
/-! SUPPORT. The special functions and the conversions as instructions (R86, R132, R136 to R138, R198, R200), and O6, which these laws settle. -/

namespace Sys2Proof.Machine

/-! ### Values in a register (R184) -/

theorem zext_ofNat (x : Nat) : zext (BitVec.ofNat 32 x) = asReg 32 x := by
  refine BitVec.eq_of_toNat_eq ?_
  simp only [zext, asReg, BitVec.toNat_setWidth, BitVec.toNat_ofNat]

theorem zext_ofInt (x : Int) : zext (BitVec.ofInt 32 x) = asRegI 32 x := by
  refine BitVec.eq_of_toNat_eq ?_
  simp only [zext, asRegI, BitVec.toNat_setWidth, BitVec.toNat_ofInt, BitVec.toNat_ofNat]
  rfl

theorem zext_toNat_lt (x : Word) : (zext x).toNat < 2 ^ 32 := by
  have := x.isLt
  simp only [zext, BitVec.toNat_setWidth]
  omega

theorem State.lo32_rd (s : State) (a : BitVec 6) (l : Nat) : (lo32 (s.me.rd 32 a.toNat l)).toNat = s.opN 32 a l := by
  have := State.rd_lt s.me a.toNat l
  simp only [lo32, BitVec.toNat_setWidth, State.opN]
  omega

theorem State.opN_lt (s : State) (a : BitVec 6) (l : Nat) : s.opN 32 a l < 2 ^ 32 := State.rd_lt s.me a.toNat l

/-- A unary form of 32 bits gives the register that its function gives. -/
theorem givesReg_op32u {i : Instr} {s : State} {lat : Nat} {f : Word → Word} {d a : BitVec 6} {g : BitVec 1} {v : Nat → Quad}
    (h : exec i s = .next (s.op32u lat f d a g)) (hv : ∀ l ∈ s.lanes g, zext (f (lo32 (s.me.rd 32 a.toNat l))) = v l) :
    GivesReg i s lat 32 d (s.lanes g) v :=
  (givesReg_aluWrite h (.inl rfl) fun _ _ _ => zext_toNat_lt _).congr hv

/-! ### Conversions (R86, R137, R138, R200) -/

theorem convert_fromFloat (s : State) (d a : BitVec 6) (m : BitVec 2) (c : BitVec 4) (g : BitVec 1) {x : Fmt × Bool}
    (h : x ∈ [(fF16, false), (fBF16, false), (fE4M3, false), (fE5M2, false), (fE2M1, false), (fF16, true), (fBF16, true), (fE5M2, true)][c.toNat]?) :
    GivesReg (.cvtFromF32 d a m c g) s 4 32 d (s.lanes g) (fun l => asReg 32 (x.1.ofVal (rmode m.toNat) x.2 (fF32.decode (s.opN 32 a l)))) := by
  refine givesReg_op32u rfl fun l _ => ?_
  rw [← zext_ofNat, ← State.lo32_rd]
  congr 1
  have hc : c.toNat < 8 := (List.getElem?_eq_some_iff.1 h).1
  generalize c.toNat = k at h hc
  interval_cases k <;> cases h <;> rfl

theorem convert_fromInt (s : State) (d a : BitVec 6) (m : BitVec 2) (c : BitVec 4) (g : BitVec 1) {x : Nat × Bool}
    (h : x ∈ [(32, true), (32, false), (16, true), (16, false), (8, true), (8, false), (4, true), (4, false)][c.toNat - 8]?) (hc : 8 ≤ c.toNat) :
    GivesReg (.cvtFromF32 d a m c g) s 4 32 d (s.lanes g) (fun l => asRegI 32 ((fF32.decode (s.opN 32 a l)).toRange (rmode m.toNat)
      (if x.2 then -2 ^ (x.1 - 1) else 0) (if x.2 then 2 ^ (x.1 - 1) - 1 else 2 ^ x.1 - 1))) := by
  refine givesReg_op32u rfl fun l _ => ?_
  rw [← zext_ofInt, ← State.lo32_rd]
  congr 1
  have hlt := c.isLt
  generalize c.toNat = k at h hc hlt
  interval_cases k <;> cases h <;> rfl

theorem convert_toFloat (s : State) (d a : BitVec 6) (m : BitVec 2) (c : BitVec 4) (g : BitVec 1) {x : Fmt × Bool}
    (h : x ∈ [(fF16, false), (fBF16, false), (fE4M3, false), (fE5M2, false), (fE2M1, false)][c.toNat]?) :
    GivesReg (.cvtToF32 d a m c g) s 4 32 d (s.lanes g)
      (fun l => asReg 32 (fF32.ofVal .rne false (x.1.decode (s.opN 32 a l % 2 ^ x.1.width)))) := by
  have hc : c.toNat < 5 := (List.getElem?_eq_some_iff.1 h).1
  have hexec : exec (.cvtToF32 d a m c g) s = execCvtToF32 d a m c g s := rfl
  rw [execCvtToF32, if_neg (by omega), if_neg (by omega)] at hexec
  refine (givesReg_aluWrite hexec (.inl rfl) fun _ _ _ => zext_toNat_lt _).congr fun l _ => ?_
  rw [← zext_ofNat]
  congr 1
  generalize c.toNat = k at h hc
  interval_cases k <;> cases h <;> rfl

/-- The source of an integer code: its 64 bits are a pair in a group. -/
theorem convert_toInt (s : State) (d a : BitVec 6) (m : BitVec 2) (c : BitVec 4) (g : BitVec 1) {x : Nat × Bool}
    (h : x ∈ [(32, true), (32, false), (16, true), (16, false), (8, true), (8, false), (4, true), (4, false), (64, true), (64, false)][c.toNat - 5]?)
    (hc : 5 ≤ c.toNat) (w : Nat) (hw : w = if x.1 = 64 then 64 else 32) :
    (s.pairOk w a → GivesReg (.cvtToF32 d a m c g) s 4 32 d (s.lanes g) (fun l => asReg 32 (fF32.round (rmode m.toNat) false
      (decide (lowInt x.1 x.2 (s.opN w a l) < 0)) (lowInt x.1 x.2 (s.opN w a l)).natAbs 1 0))) ∧
    (¬s.pairOk w a → IllegalIn (.cvtToF32 d a m c g) s) := by
  have hexec : exec (.cvtToF32 d a m c g) s = execCvtToF32 d a m c g s := rfl
  have hlast : c.toNat < 15 := by
    have hin : c.toNat - 5 < 10 := (List.getElem?_eq_some_iff.1 h).1
    omega
  have hval (y : Quad) : cvtTo (rmode m.toNat) c.toNat y = intToF32 (rmode m.toNat) (lowInt x.1 x.2 y.toNat) := by
    generalize c.toNat = k at h hc hlast
    interval_cases k <;> cases h <;> rfl
  have hwide : x.1 = 64 ↔ 13 ≤ c.toNat := by
    generalize c.toNat = k at h hc hlast
    interval_cases k <;> cases h <;> decide
  have heven : s.evenG a = true ↔ s.pairOk 64 a := by simp [State.evenG, State.isSteward, State.pairOk]
  rw [execCvtToF32, if_neg (by omega)] at hexec
  by_cases h64 : x.1 = 64
  · rw [if_pos (hwide.1 h64)] at hexec
    rw [hw, if_pos h64, ← heven]
    refine ⟨fun hok => ?_, fun hok => ?_⟩
    · rw [if_pos hok] at hexec
      refine (givesReg_aluWrite hexec (.inl rfl) fun _ _ _ => zext_toNat_lt _).congr fun l _ => ?_
      rw [hval, intToF32, zext_ofNat]
      rfl
    · rw [if_neg hok] at hexec
      exact hexec
  · rw [if_neg (mt hwide.2 h64)] at hexec
    rw [hw, if_neg h64]
    refine ⟨fun _ => ?_, fun hok => absurd (.inr (.inl rfl)) hok⟩
    refine (givesReg_aluWrite hexec (.inl rfl) fun _ _ _ => zext_toNat_lt _).congr fun l _ => ?_
    rw [hval, intToF32, zext_ofNat]
    rfl

theorem convert : Claims.Convert := by
  intro s d a m c g md v floats ints srcs
  refine ⟨fun q hq => convert_fromFloat s d a m c g hq, fun q hq hc => convert_fromInt s d a m c g hq hc,
    fun q hq => convert_toFloat s d a m c g hq, fun q hq hc => convert_toInt s d a m c g hq hc _ rfl, fun hc => ?_⟩
  have hexec : exec (.cvtToF32 d a m c g) s = execCvtToF32 d a m c g s := rfl
  rw [execCvtToF32, if_pos hc] at hexec
  exact hexec

/-! ### The five functions (R136, R198) -/

/-- The functions of R136, in the order of its table. -/
def sfuWords : List (Word → Word) := [frcp, frsq, fsqrt, fex2, flg2]

/-- The same on patterns as numbers. -/
def sfuFns : List (Nat → Nat) := sfuWords.map (fun h x => (h (BitVec.ofNat 32 x)).toNat)

theorem sfu_value (s : State) (a : BitVec 6) (l : Nat) (h : Word → Word) :
    zext (h (lo32 (s.me.rd 32 a.toNat l))) = asReg 32 (h (BitVec.ofNat 32 (s.opN 32 a l))).toNat := by
  rw [← zext_ofNat, BitVec.ofNat_toNat, BitVec.setWidth_eq, ← State.lo32_rd, BitVec.ofNat_toNat, BitVec.setWidth_eq]

theorem sfu_gives (s : State) (d a : BitVec 6) (g : BitVec 1) {i : Nat} (hi : i < 5) :
    GivesReg ([Instr.frcp d a g, .frsq d a g, .fsqrt d a g, .fex2 d a g, .flg2 d a g].getD i .nop) s 6 32 d (s.lanes g)
      (fun l => asReg 32 (sfuFns.getD i id (s.opN 32 a l))) := by
  have hval (h : Word → Word) : ∀ l ∈ s.lanes g, zext (h (lo32 (s.me.rd 32 a.toNat l))) = asReg 32 (h (BitVec.ofNat 32 (s.opN 32 a l))).toNat :=
    fun l _ => sfu_value s a l h
  interval_cases i
  · exact givesReg_op32u rfl (hval frcp)
  · exact givesReg_op32u rfl (hval frsq)
  · exact givesReg_op32u rfl (hval fsqrt)
  · exact givesReg_op32u rfl (hval fex2)
  · exact givesReg_op32u rfl (hval flg2)

/-- A NaN comes back quiet (R132). -/
theorem sfu_nan {x : Word} (hd : fF32.decode x.toNat = .nan) {h : Word → Word} (hh : h ∈ sfuWords) : (h x).toNat = x.toNat ||| 2 ^ 22 := by
  have hnan : fF32.firstNan [x.toNat] = some (x.toNat ||| 2 ^ 22) := by rw [firstNan_single, if_pos hd]
  have hlt : x.toNat ||| 2 ^ 22 < 2 ^ 32 := Nat.or_lt_two_pow x.isLt (by norm_num)
  simp only [sfuWords, List.mem_cons, List.not_mem_nil, or_false] at hh
  rcases hh with rfl | rfl | rfl | rfl | rfl
  · simp only [frcp, hnan, toNat_ofNat_lt hlt]
  · simp only [frsq, hnan, toNat_ofNat_lt hlt]
  · simp only [fsqrt, Fmt.sqrt, hnan, toNat_ofNat_lt hlt]
  · simp only [fex2, hnan, toNat_ofNat_lt hlt]
  · simp only [flg2, hnan, toNat_ofNat_lt hlt]

theorem sfu_negative {x : Word} {m : Nat} {e : Int} (hd : fF32.decode x.toNat = .num true m e) (hm : 0 < m) :
    (frsq x).toNat = 0x7FC00000 ∧ (fsqrt x).toNat = 0x7FC00000 ∧ (flg2 x).toNat = 0x7FC00000 := by
  refine ⟨?_, ?_, ?_⟩
  · rw [frsq_num hd hm, if_pos rfl]
    rfl
  · rw [fsqrt_num hd hm, if_pos rfl]
    rfl
  · simp only [flg2, firstNan_num hd, hd, if_neg hm.ne', if_true]
    rfl

theorem sfu_table : ∀ r ∈ sfuTable, sfuFns.map (fun h => h r.1) = r.2 := by
  intro r hr
  simp only [sfuTable, List.mem_cons, List.not_mem_nil, or_false] at hr
  rcases hr with rfl | rfl | rfl | rfl <;> rfl

theorem specialFunctions : Claims.SpecialFunctions := by
  have word {x : Nat} (hx : x < 2 ^ 32) : (BitVec.ofNat 32 x).toNat = x := toNat_ofNat_lt hx
  refine ⟨sfuFns, rfl, fun s d a g i hi => sfu_gives s d a g hi, sfu_table, fun x hx hd h hh => ?_, fun x hx m e hd hm i hi => ?_,
    fun x hx n m e hd hm => ?_, fun x hx m e hd hm => ?_, fun x hx X hX hpos => ?_, fun x hx n hn hlo hhi => ?_, fun x hx n m e hd hm hk => ?_,
    fun x hx n hn => ?_⟩
  · obtain ⟨h', hh', rfl⟩ := List.mem_map.1 hh
    have h := sfu_nan ((word hx).symm ▸ hd) hh'
    rwa [word hx] at h
  · obtain ⟨h1, h2, h4⟩ := sfu_negative ((word hx).symm ▸ hd) hm
    simp only [List.mem_cons, List.not_mem_nil, or_false] at hi
    rcases hi with rfl | rfl | rfl
    · exact h1
    · exact h2
    · exact h4
  · exact frcp_num ((word hx).symm ▸ hd) hm
  · exact fsqrt_near ((word hx).symm ▸ hd) hm
  · obtain ⟨m, e, hd, hm, rfl⟩ := f32Real_pos hX hpos
    exact frsq_near ((word hx).symm ▸ hd) hm
  · exact fex2_whole ((word hx).symm ▸ hn) hlo hhi
  · obtain ⟨hm24, -, -⟩ := decode_f32_range hd
    exact fex2_near ((word hx).symm ▸ hd) hm (.inl hk) (exp2Dy_le hm hm24 hk)
  · exact flg2_power ((word hx).symm ▸ hn)

/-- Settles O6: the functions of R136 by the enclosures of their values, and each code of the conversions. -/
theorem functionsAndConversions : Obligations.FunctionsAndConversions := by
  unfold Obligations.FunctionsAndConversions
  exact ⟨specialFunctions, convert⟩

end Sys2Proof.Machine
end
